-- ==== Sys2Proof/Word.lean ====
section
/-! DEFINITION. The word types of the QL48 and the small enumerations shared by the commands and the state
(R249, R1, R446). -/
namespace Sys2Proof

/-- A byte, 8 bits (R249). -/
abbrev Byte := BitVec 8
/-- A half, 16 bits (R249). -/
abbrev Half := BitVec 16
/-- A long, 32 bits: instructions, set-up registers (R249, R68). -/
abbrev Long := BitVec 32
/-- A word, 48 bits: general registers, CSW, virtual addresses (R249). -/
abbrev Word := BitVec 48
/-- 64 bits: F registers, page table entries, the timebase. -/
abbrev Quad := BitVec 64
/-- A decimal accumulator, 128 bits (R262). -/
abbrev Acc128 := BitVec 128

/-- A core number, 0 to 3 (R1). -/
abbrev CoreId := Fin 4
/-- A register field of an instruction: W0 to W31, F0 to F31 (R268). -/
abbrev RegNo := Fin 32

/-- The two halls (R446): Hall L (ledger) is 0, Hall P (public) is 1 in CSW.HALL. -/
inductive Hall
  | L | P
deriving DecidableEq, Repr

/-- The three variants (R1). -/
inductive Variant
  | f4 | d2 | b2
deriving DecidableEq, Repr

/-- A source of set-up accesses, doorbells and lease-lock operations: the host, or a core in one of its halls
(R76 to R78, R806). -/
inductive Src
  | host
  | core (c : CoreId) (h : Hall)
deriving DecidableEq, Repr

end Sys2Proof
end

