-- ==== Sys2Proof/Syntax.lean ====
section
/-! DEFINITION. The commands of the block: one constructor per row of spec/opcode_table.json, with its operands. What arrives from
outside the block with an event (a sensed voltage, a host's bytes, a result on a wire) is an operand of it. -/
namespace Sys2Proof

/-! ### What operands are made of -/

/-- What EXCEPTION_ENTRY enters when no event of R481 items 1 to 6 is due: nothing more; the fault of the fetch at PC, or of the extension
word after it; the Illegal Instruction of an encoding that no row of the table has, of a class. -/
inductive HeadEvent
  | due
  | fetch (ext : Bool)
  | unassigned (op : BitVec 6)
deriving DecidableEq, Repr

/-- The wake sources of R147; a Gallery wake names its hall. -/
inductive WakeSource
  | gallery (h : Hall)
  | window
  | gpio
  | rtc
  | host
  | ksync
deriving DecidableEq, Repr

/-- A doorbell as written (R580, R581): the 32-bit form, the 64-bit form, or any other write. -/
inductive DoorbellForm
  | long (v : Long)
  | quad (v : Quad)
  | other
deriving DecidableEq, Repr

/-- What a latch channel sensed since its pulse's last command: the highest current and the present current, in codes, and the duty in %
(R704, R710). -/
structure Sense where
  peak : BitVec 12
  current : BitVec 12
  duty : BitVec 7
deriving DecidableEq, Repr

/-- What the charger measured: VBAT in mV, the NTC code, the current in mA (R738). -/
structure Meas where
  vbat : BitVec 13
  ntc : BitVec 10
  current : BitVec 10
deriving DecidableEq, Repr

/-- How a host request ended without data (R745). -/
inductive HostFail
  | timeout | completerAbort | unsupported | ep
deriving DecidableEq, Repr

/-- Who made a host request. -/
inductive Requester
  | core (c : CoreId)
  | journal
  | lane (i : Fin 4)
  | pump (w : BitVec 14)
deriving DecidableEq, Repr

/-- The fields of configuration space that the block acts on (R739, R745 to R751, R625). -/
inductive CfgWrite
  | command (bme : Bool)
  | timeout (v : BitVec 4)
  | msi (on : Bool) (log : Fin 6) (addr : Quad) (data : Half)
  | msiMask (m : Long)
  | msix (on mask : Bool)
  | pme (en clear : Bool)
  | power (d : Bool)
  | aspm (l1 : Bool)
  | l1ss (sel : BitVec 2)
  | payload (mps mrrs : Fin 6)
deriving DecidableEq, Repr

/-! ### The commands -/

/-- The commands, one constructor per row of the opcode table, in its order. -/
inductive Instr
  -- Set-up space, power and resets
  /-- REGISTER_WRITE: A write to a set-up register field that has no row of its own is range-checked, clamped, applied and logged (R80). -/
  | registerWrite (src : Src) (off : BitVec 22) (v : Long)
  /-- HOST_BAR0_READ: The host reads one or more dwords of set-up space through BAR0, in ascending order (R73). -/
  | hostBar0Read (dw : BitVec 20) (n : BitVec 10)
  /-- HOST_BAR0_WRITE: The host writes set-up space through BAR0; the write is dropped unless it is one full dword (R73). -/
  | hostBar0Write (off : BitVec 22) (l : List Byte)
  /-- PAIRED_STAGE: A write to the opening member of a paired field stages its value and sets STAGED (R89). -/
  | pairedStage (src : Src) (off : BitVec 22) (v : Long)
  /-- PAIRED_COMMIT: A write to the closing member clamps both members, checks their relation and applies the pair at one instant (R91). -/
  | pairedCommit (src : Src) (off : BitVec 22) (v : Long)
  /-- ACCESS_LOCK: A write of 1 to CFG_ACCLOCK.LOCK freezes the host and Hall P grant masks until warm reset (R79). -/
  | accessLock (src : Src)
  /-- CLAMP_LOG_CLEAR: CFG_CLAMPCTL.CLEAR zeroes every clamp-log entry, NEXT and TOTAL (R86). -/
  | clampLogClear (src : Src)
  /-- EPOCH_GO: PMP_EPOCH.GO reads and checks the change list and publishes a new epoch with its affected wells (R103). -/
  | epochGo (src : Src)
  /-- WELL_CROSS: An affected well crosses into the new epoch at its next descriptor boundary and adopts the new settings (R105). -/
  | wellCross (w : BitVec 14)
  /-- COLD_RESET: VAON rising through, or falling below, its threshold holds the whole device in cold reset (R113). -/
  | coldReset
  /-- AON_RELEASE: The AON island is released once VAON is stable and the 24 MHz oscillator runs; the calibration store is loaded and the SETUP records are applied (R121). -/
  | aonRelease (klead : Bool)
  /-- FABRIC_RELEASE: After the power-up table completes, BOOTSEL is sampled and core 0 starts the boot ROM (R121). -/
  | fabricRelease (sel : BitVec 2) (dramOk : Bool) (temp : BitVec 16) (profile : Bool)
  /-- HOST_BOOT_MAILBOX: The host writes the start mailbox word at BAR4, and the boot ROM accepts or rejects the host image (R125). -/
  | hostBootMailbox (v : Long)
  /-- RESET_N_ASSERT: A low on RESET_N of 100 µs or longer causes a warm reset with cause RESETN (R841). -/
  | resetNAssert
  /-- SOFT_RESET: A write of PWR_RSTCTL.WARM causes a warm reset with cause SOFT, after DRAM self-refresh and L2 write-back (R114). -/
  | softReset (src : Src)
  /-- HALL_P_RESET: PWR_RSTCTL.HALLP stops and scrubs Hall P cores, quiesces Hall P wells and revokes their leases and locks (R117). -/
  | hallPReset (src : Src)
  /-- HALLPDONE: After the last engine job on a Hall P well ends, BUSY clears and HALLPDONE is set (R117). -/
  | hallpdone
  /-- CORE_RESET_HOLD: Setting a PWR_CORERST.HOLD bit resets the core, writes back its L1 and revokes its job tokens (R119). -/
  | coreResetHold (src : Src) (k : CoreId)
  /-- CORE_RELEASE: Clearing a PWR_CORERST.HOLD bit releases the core at Hall L stair 0 at PWR_COREENT (R119). -/
  | coreRelease (src : Src) (k : CoreId)
  /-- LINK_RESET: PERST# or a hot reset resets the H island and HLK and pauses host-resident wells (R120). -/
  | linkReset (hot : Bool)
  /-- LINK_UP: The link trains up; with Bus Master Enable set, the held completions and paused fetches resume (R120). -/
  | linkUp (rate : BitVec 3) (width : BitVec 4)
  /-- OTP_PROGRAM: A write of ID_OTPPROG with GO programs the bits of ID_OTPDATA into one OTP word, or sets ERR when refused (R133). -/
  | otpProgram (src : Src) (n : BitVec 9)
  /-- OTP_PROGRAM_DONE: An OTP program operation ends, clearing BUSY and setting ERR if it did not verify (R133). -/
  | otpProgramDone (stuck : Long)
  /-- CAL_STORE: CAL_CTL.STORE erases and programs the inactive calibration bank from the CAL buffer (R141). -/
  | calStore (src : Src)
  /-- CAL_STORE_DONE: A calibration store ends, switching the active bank and setting STORED, or setting FAILED (R142). -/
  | calStoreDone (ok : Bool)
  /-- CISTERN_ENTRY: When all the entry conditions hold, the device writes back L2, puts DRAM in self-refresh, stops M, changes T source and runs the release run (R145). -/
  | cisternEntry
  /-- WAKE_EVENT: An enabled wake source fires: a Gallery wake, a window event, a GPIO edge, the RTC alarm, the host or KSYNC (R147). -/
  | wakeEvent (w : WakeSource)
  /-- CISTERN_WAKE: At the next 32.768 kHz edge, the wake sources and the time are recorded and the released rails are driven up-step by up-step (R148). -/
  | cisternWake
  /-- WAKE_FABRIC_RELEASE: When every power-good is high, the fabric is released and core 0 starts at the woken hall's wake vector (R148). -/
  | wakeFabricRelease
  /-- T_SOURCE_RETURN: After 4,096 uninterrupted 24 MHz cycles, the T island changes back to 24 MHz at a 32.768 kHz edge (R51). -/
  | tSourceReturn
  /-- STALL_DECLARED: A segment monitor count reaches STALL_LIMIT + 1; the segment is fenced, drained with poison and recorded, and a STALL machine check is requested (R60). -/
  | stallDeclared (seg : Fin 13) (drained : BitVec 16)
  -- The rail sequencer
  /-- POWER_UP_RUN_GO: SEQ_STEPCTL.GO checks the table and starts a power-up run, or a Kraluny wait (R161). -/
  | powerUpRunGo (src : Src)
  /-- UP_STEP_START: An up-step begins after STEPDLY and drives the enables of its slots (R160). -/
  | upStepStart
  /-- SLOT_UP: A driven slot's power-good and window report it up, and the step may end (R157). -/
  | slotUp (n : Fin 16)
  /-- RAMP_TIMEOUT: A slot not up by RAMPTO fails with cause TIMEOUT, and its fault action is applied (R168). -/
  | rampTimeout (n : Fin 16)
  /-- PGLOSS: The power-good input of an up slot with DROPCHK goes low, and the slot fails (R169). -/
  | pgloss (n : Fin 16)
  /-- SEQ_RESTART: RESTARTDLY after a RESTART fault action, a warm reset with cause SEQ occurs (R172). -/
  | seqRestart
  /-- SHUTDOWN_RUN: SEQ_STEPCTL.DOWN ends any power-up run and starts the shutdown table run (R176). -/
  | shutdownRun (src : Src)
  /-- SHUTDOWN_ENTRY_RELEASE: After an entry's DELAY, its slot is released and, with WAITLOW, its discharge is awaited (R176). -/
  | shutdownEntryRelease
  /-- DISCHARGE_TIMEOUT: DISCHTO elapses on a shutdown entry, and the run continues and sets DISCHTO (R177). -/
  | dischargeTimeout
  /-- MAINS_QUALIFIED: In COLLAPSED, WIN15 INSIDE for MAINSQUAL causes a warm reset with cause MAINS (R184). -/
  | mainsQualified
  /-- MARGIN_REQUEST: A write of MARGIN is refused or applied by PMBus VOUT_COMMAND or MDAC current (R185). -/
  | marginRequest (src : Src) (n : Fin 16) (m : BitVec 6)
  /-- TEMPO_SAMPLE: At the end of each tempo PERIOD, the backlog is sampled and LEVEL may rise or fall, commanding VID or PMBus (R190). -/
  | tempoSample
  /-- TEMPO_SETTLE_END: SETTLE after a level change ends, and the new level's window thresholds alone apply (R192). -/
  | tempoSettleEnd
  /-- KRALUNY_STROBE_START: The leader drives a 20 µs strobe GAP after a step completes (R203). -/
  | kralunyStrobeStart
  /-- KSYNC_STROBE: A qualifying low on KSYNC counts a strobe and starts the matching up-step on the device (R199). -/
  | ksyncStrobe
  /-- KSYNC_BREATH: A device busy for 400 µs after the last falling edge releases KSYNC for 5 µs (R202). -/
  | ksyncBreath
  /-- KRALUNY_STEP_COMPLETE: KSYNC high for 50 µs completes the current step (R203). -/
  | kralunyStepComplete
  /-- KSYNC_COUNT_RESET: KSYNC high for 2 ms restarts the strobe count (R200). -/
  | ksyncCountReset
  /-- KRALUNY_ABORT: A KSYNC low of 1 ms or longer ends runs, records KABORT and starts the shutdown run (R204). -/
  | kralunyAbort
  /-- ABORT: SEQ_STEPCTL.ABORT drives a 1.2 ms abort on KSYNC, or starts only the local shutdown run (R205). -/
  | abort (src : Src)
  -- Sense windows and the ADC
  /-- WINDOW_TICK: A tick group samples its windows, filters the samples and changes outputs and events (R217). -/
  | windowTick (g : Fin 4) (v0 v1 v2 v3 : Nat)
  /-- WINDOW_CONFIG_WRITE: A write of WIN_CFGn refills the filter on a FILT change or starts or stops sampling (R220). -/
  | windowConfigWrite (src : Src) (n : Fin 16) (v : Long)
  /-- ADC_START: ADC_CTL.START starts or restarts the scan list at entry 0 (R231). -/
  | adcStart (src : Src)
  /-- ADC_STOP: ADC_CTL.STOP ends the scan at the next conversion boundary (R232). -/
  | adcStop (src : Src)
  /-- ADC_SAMPLE: A sample of D conversions completes, is trimmed and written to the buffer, ending a pass when last (R227). -/
  | adcSample (raw : Vector (BitVec 12) 8)
  /-- ADC_PASS_START: In MODE 1, a new pass starts PERIOD µs after the previous one (R231). -/
  | adcPassStart
  /-- ADC_READ_INDEX_WRITE: A write of ADC_RDIDX frees the buffer words read (R234). -/
  | adcReadIndexWrite (src : Src) (i : BitVec 6)
  /-- SNAP: A snapshot request allocates a free slot and queues the snapshot, or sets SNAPNOSLOT (R236). -/
  | snap (src : Src)
  /-- SNAPSHOT_COMPLETE: A snapshot finishes its conversions and writes its slot header last, setting SNAPDONE (R242). -/
  | snapshotComplete (codes : Vector (BitVec 12) 120)
  /-- SNAPSHOT_SLOT_FREE: Writing 1 to an ADC_SNAPSTAT.VALID bit frees the snapshot slot (R243). -/
  | snapshotSlotFree (src : Src) (m : BitVec 8)
  -- Instructions of a core
  /-- CAPS: CAPS returns CAPn, zero-extended, from the core's copy (R280). -/
  | caps (c : CoreId) (rd ra : RegNo) (n : Fin 32)
  /-- ADD: Wd := Wa + Wb, with optional flags (R286). -/
  | add (c : CoreId) (rd ra rb : RegNo) (st : Bool)
  /-- ADC: Wd := Wa + Wb + C (R286). -/
  | adc (c : CoreId) (rd ra rb : RegNo) (st : Bool)
  /-- SUB: Wd := Wa − Wb; with S and RD W0 it is the compare (R286). -/
  | sub (c : CoreId) (rd ra rb : RegNo) (st : Bool)
  /-- SBC: Wd := Wa − Wb − (1 − C) (R286). -/
  | sbc (c : CoreId) (rd ra rb : RegNo) (st : Bool)
  /-- AND: Wd := Wa AND Wb (R286). -/
  | and (c : CoreId) (rd ra rb : RegNo) (st : Bool)
  /-- OR: Wd := Wa OR Wb (R286). -/
  | or (c : CoreId) (rd ra rb : RegNo) (st : Bool)
  /-- XOR: Wd := Wa XOR Wb (R286). -/
  | xor (c : CoreId) (rd ra rb : RegNo) (st : Bool)
  /-- ANDN: Wd := Wa AND NOT Wb (R286). -/
  | andn (c : CoreId) (rd ra rb : RegNo) (st : Bool)
  /-- SHL: Logical shift left by Wb[5:0] (R288). -/
  | shl (c : CoreId) (rd ra rb : RegNo) (st : Bool)
  /-- SHR: Logical shift right by Wb[5:0] (R288). -/
  | shr (c : CoreId) (rd ra rb : RegNo) (st : Bool)
  /-- SAR: Arithmetic shift right by Wb[5:0] (R288). -/
  | sar (c : CoreId) (rd ra rb : RegNo) (st : Bool)
  /-- ROR: Rotate right by Wb[5:0] (R288). -/
  | ror (c : CoreId) (rd ra rb : RegNo) (st : Bool)
  /-- SLT: Wd := 1 when Wa < Wb signed (R286). -/
  | slt (c : CoreId) (rd ra rb : RegNo) (st : Bool)
  /-- SLTU: Wd := 1 when Wa < Wb unsigned (R286). -/
  | sltu (c : CoreId) (rd ra rb : RegNo) (st : Bool)
  /-- SXB: Sign-extends Wa[7:0] (R286). -/
  | sxb (c : CoreId) (rd ra rb : RegNo) (st : Bool)
  /-- SXH: Sign-extends Wa[15:0] (R286). -/
  | sxh (c : CoreId) (rd ra rb : RegNo) (st : Bool)
  /-- SXL: Sign-extends Wa[31:0] (R286). -/
  | sxl (c : CoreId) (rd ra rb : RegNo) (st : Bool)
  /-- CLZ: Counts the leading zero bits of Wa (R286). -/
  | clz (c : CoreId) (rd ra rb : RegNo) (st : Bool)
  /-- POPC: Counts the bits set in Wa (R286). -/
  | popc (c : CoreId) (rd ra rb : RegNo) (st : Bool)
  /-- MUL: Low 48 bits of Wa × Wb (R286). -/
  | mul (c : CoreId) (rd ra rb : RegNo) (st : Bool)
  /-- MULH: High 48 bits of the signed product (R286). -/
  | mulh (c : CoreId) (rd ra rb : RegNo) (st : Bool)
  /-- MULHU: High 48 bits of the unsigned product (R286). -/
  | mulhu (c : CoreId) (rd ra rb : RegNo) (st : Bool)
  /-- MULP: Signed 96-bit product into a pair (R287). -/
  | mulp (c : CoreId) (rd ra rb : RegNo) (st : Bool)
  /-- MULPU: Unsigned 96-bit product into a pair (R287). -/
  | mulpu (c : CoreId) (rd ra rb : RegNo) (st : Bool)
  /-- DIV: Signed quotient, truncated, with V for overflow (R291). -/
  | div (c : CoreId) (rd ra rb : RegNo) (st : Bool)
  /-- DIVU: Unsigned quotient (R291). -/
  | divu (c : CoreId) (rd ra rb : RegNo) (st : Bool)
  /-- REM: Signed remainder with the sign of the dividend (R289). -/
  | rem (c : CoreId) (rd ra rb : RegNo) (st : Bool)
  /-- REMU: Unsigned remainder (R291). -/
  | remu (c : CoreId) (rd ra rb : RegNo) (st : Bool)
  /-- LDI: Wd := imm (R293). -/
  | ldi (c : CoreId) (rd : RegNo) (i : BitVec 16)
  /-- ADDI: Wd := Wd + imm, without flags (R293). -/
  | addi (c : CoreId) (rd : RegNo) (i : BitVec 16)
  /-- ADDI_S: Wd := Wd + imm, with flags (R293). -/
  | addiS (c : CoreId) (rd : RegNo) (i : BitVec 16)
  /-- CMPI: Sets the flags of Wd − imm (R293). -/
  | cmpi (c : CoreId) (rd : RegNo) (i : BitVec 16)
  /-- ANDI: Wd := Wd AND imm (R293). -/
  | andi (c : CoreId) (rd : RegNo) (i : BitVec 16)
  /-- ORI: Wd := Wd OR imm (R293). -/
  | ori (c : CoreId) (rd : RegNo) (i : BitVec 16)
  /-- XORI: Wd := Wd XOR imm (R293). -/
  | xori (c : CoreId) (rd : RegNo) (i : BitVec 16)
  /-- SHLI: Shift left by an immediate count (R294). -/
  | shli (c : CoreId) (rd : RegNo) (i : BitVec 16)
  /-- SHRI: Logical shift right by an immediate count (R294). -/
  | shri (c : CoreId) (rd : RegNo) (i : BitVec 16)
  /-- SARI: Arithmetic shift right by an immediate count (R294). -/
  | sari (c : CoreId) (rd : RegNo) (i : BitVec 16)
  /-- RORI: Rotate right by an immediate count (R294). -/
  | rori (c : CoreId) (rd : RegNo) (i : BitVec 16)
  /-- MULI: Wd := low 48 bits of Wd × imm (R293). -/
  | muli (c : CoreId) (rd : RegNo) (i : BitVec 16)
  /-- ADPC: Wd := PC + imm × 4 (R293). -/
  | adpc (c : CoreId) (rd : RegNo) (i : BitVec 16)
  /-- ADDX: Wd := Wa + a 48-bit immediate from the extension word (R295). -/
  | addx (c : CoreId) (rd ra : RegNo) (i : BitVec 16) (ext : BitVec 32)
  /-- LD: Loads a byte, half, long or word at Wa + displacement (R296). -/
  | ld (c : CoreId) (rd ra : RegNo) (i : BitVec 16)
  /-- ST: Stores a byte, half, long or word at Wa + displacement (R296). -/
  | st (c : CoreId) (rd ra : RegNo) (i : BitVec 16)
  /-- LOAD_INDEXED: An LDST.R load from Wa + Wb × 2^S (R297). -/
  | loadIndexed (c : CoreId) (rd ra rb : RegNo) (size scale : BitVec 2) (sx : Bool) (mbz : BitVec 5)
  /-- STORE_INDEXED: An LDST.R store to Wa + Wb × 2^S (R297). -/
  | storeIndexed (c : CoreId) (rd ra rb : RegNo) (size scale : BitVec 2) (sx : Bool) (mbz : BitVec 5)
  /-- STORE_DRAIN: A retired store leaves the store buffer and becomes globally visible (R427). -/
  | storeDrain (c : CoreId) (k : Fin 32)
  /-- CAS: An atomic compare-and-swap on a word (R301). -/
  | cas (c : CoreId) (rd ra rb : RegNo)
  /-- FETCH_ADD: An atomic fetch-add on a word (R301). -/
  | fetchAdd (c : CoreId) (rd ra rb : RegNo)
  /-- FENCE_SL: Orders later loads after earlier stores become visible (R305). -/
  | fenceSl (c : CoreId) (mbz : BitVec 15)
  /-- FENCE_ALL: Orders every later access after every earlier one completes (R305). -/
  | fenceAll (c : CoreId) (mbz : BitVec 15)
  /-- FENCE_IO: Orders device-weak and link-window accesses (R305). -/
  | fenceIo (c : CoreId) (mbz : BitVec 15)
  /-- BR: A conditional branch on one of 16 conditions (R306). -/
  | br (c : CoreId) (cond : BitVec 4) (disp : BitVec 22)
  /-- BL: Branch and link to W30 (R307). -/
  | bl (c : CoreId) (disp : BitVec 26)
  /-- JR: Register jump (R308). -/
  | jr (c : CoreId) (ra : RegNo) (mbz : BitVec 10)
  /-- CALLR: Register call, linking to W30 (R308). -/
  | callr (c : CoreId) (ra : RegNo) (mbz : BitVec 10)
  /-- RET: Return to W30 (R308). -/
  | ret (c : CoreId) (mbz : BitVec 15)
  /-- NOP: Does nothing (R309). -/
  | nop (c : CoreId) (mbz : BitVec 15)
  /-- RDCSW: Reads the whole CSW into Wd (R310). -/
  | rdcsw (c : CoreId) (rd : RegNo) (mbz : BitVec 10)
  /-- WRCSW: Writes the CSW fields that the stair may write (R310). -/
  | wrcsw (c : CoreId) (ra : RegNo) (mbz : BitVec 10)
  /-- IFLUSH: Drains stores and invalidates the local L1 instruction cache (R313). -/
  | iflush (c : CoreId) (mbz : BitVec 15)
  /-- BELL: Requests a cross-core bell on the cores in the mask (R315). -/
  | bell (c : CoreId) (ra : RegNo) (b : Fin 32) (mbz : BitVec 5)
  /-- BELLW_L: Rings a well's doorbell with the 32-bit form (R316). -/
  | bellwL (c : CoreId) (ra rb : RegNo) (mbz : BitVec 5)
  /-- BELLW_Q: Rings a well's doorbell with the 64-bit form (R316). -/
  | bellwQ (c : CoreId) (ra rb : RegNo) (mbz : BitVec 5)
  /-- JOBGET: Takes the oldest job token from the inlet, waiting while it is empty (R320). -/
  | jobget (c : CoreId) (rd : RegNo) (mbz : BitVec 10)
  /-- JOBPOLL: Takes a job token if one is present, never waiting (R321). -/
  | jobpoll (c : CoreId) (rd : RegNo) (mbz : BitVec 10)
  /-- JOBDONE: Completes the job of a live token with a status and RESULT (R324). -/
  | jobdone (c : CoreId) (ra rb : RegNo) (mbz : BitVec 5)
  /-- SLEEP: Stops the core until an unmasked or never-held source, or a reset (R327). -/
  | sleep (c : CoreId) (mbz : BitVec 15)
  /-- HOLD: Opens a held window with a count limit, or records NEST or DENIED (R499). -/
  | hold (c : CoreId) (n : BitVec 10) (mbz : BitVec 5)
  /-- RELEASE: Ends an open held window (R501). -/
  | release (c : CoreId) (mbz : BitVec 15)
  /-- HOLD_COUNT_LIMIT: A held window reaches its count limit or HOLDMAX and ends, setting OVR (R501). -/
  | holdCountLimit (c : CoreId)
  /-- HOLD_TIME_LIMIT: HOLDT elapses in a held window, which then ends with END TIME (R501). -/
  | holdTimeLimit (c : CoreId)
  /-- DESCEND: Enters a lower stair through a fast or table gate (R451). -/
  | descend (c : CoreId) (t : Fin 32) (g : BitVec 10)
  /-- PASSAGE: Enters Hall L from Hall P through a passage entry, scrubbing registers (R459). -/
  | passage (c : CoreId) (p : BitVec 10) (mbz : BitVec 5)
  /-- BRK: Raises Breakpoint (R311). -/
  | brk (c : CoreId) (n : BitVec 10) (mbz : BitVec 5)
  /-- ASCEND: Returns from an entry into the current stair, popping a spill record when nested (R456). -/
  | ascend (c : CoreId) (mbz : BitVec 15)
  /-- RDCR: Reads a control register (R464). -/
  | rdcr (c : CoreId) (rd : RegNo) (n : BitVec 10)
  /-- WRCR: Writes a control register, WDKICK included (R468). -/
  | wrcr (c : CoreId) (rd : RegNo) (n : BitVec 10)
  /-- ERET: Returns from an exception using the frame at W31 (R489). -/
  | eret (c : CoreId) (mbz : BitVec 15)
  /-- OPENU: Sets CSW.UOPEN (R517). -/
  | openu (c : CoreId) (mbz : BitVec 15)
  /-- CLOSEU: Clears CSW.UOPEN (R517). -/
  | closeu (c : CoreId) (mbz : BitVec 15)
  /-- TLBI_VA: Removes leaves covering an address with a tag (R526). -/
  | tlbiVa (c : CoreId) (rd : Fin 32) (ra rb : RegNo)
  /-- TLBI_VAW: Removes leaves and walk-cache entries covering an address with a tag (R526). -/
  | tlbiVaw (c : CoreId) (rd : Fin 32) (ra rb : RegNo)
  /-- TLBI_TAG: Removes non-global leaves and walk-cache entries of a tag (R526). -/
  | tlbiTag (c : CoreId) (rd : Fin 32) (ra rb : RegNo)
  /-- TLBI_ALL: Removes every buffered leaf and walk-cache entry of the hall (R526). -/
  | tlbiAll (c : CoreId) (rd : Fin 32) (ra rb : RegNo)
  /-- SKEY: Writes a frame key byte, purges key caches and waits for old checks to drain (R541). -/
  | skey (c : CoreId) (ra rb : RegNo) (mbz : BitVec 5)
  /-- DADD: Decimal storage-to-storage add (R341). -/
  | dadd (c : CoreId) (ra rb : RegNo) (l1 l2 : Fin 32)
  /-- DSUB: Decimal storage-to-storage subtract (R341). -/
  | dsub (c : CoreId) (ra rb : RegNo) (l1 l2 : Fin 32)
  /-- DMUL: Decimal multiply into operand 1 (R343). -/
  | dmul (c : CoreId) (ra rb : RegNo) (l1 l2 : Fin 32)
  /-- DDIV: Decimal quotient into operand 1 (R344). -/
  | ddiv (c : CoreId) (ra rb : RegNo) (l1 l2 : Fin 32)
  /-- DREM: Decimal remainder into operand 1 (R344). -/
  | drem (c : CoreId) (ra rb : RegNo) (l1 l2 : Fin 32)
  /-- DCMP: Decimal compare, setting the flags (R341). -/
  | dcmp (c : CoreId) (ra rb : RegNo) (l1 l2 : Fin 32)
  /-- DSCALE: Scales by a power of ten with a rounding mode (R346). -/
  | dscale (c : CoreId) (ra rb : RegNo) (l1 l2 : Fin 32)
  /-- DTOB: Packed to 48-bit binary (R347). -/
  | dtob (c : CoreId) (ra rb : RegNo) (l1 l2 : Fin 32)
  /-- DTOB_P: Packed to 96-bit binary pair (R347). -/
  | dtobP (c : CoreId) (ra rb : RegNo) (l1 l2 : Fin 32)
  /-- BTOD: 48-bit binary to packed (R347). -/
  | btod (c : CoreId) (ra rb : RegNo) (l1 l2 : Fin 32)
  /-- BTOD_P: 96-bit pair to packed (R347). -/
  | btodP (c : CoreId) (ra rb : RegNo) (l1 l2 : Fin 32)
  /-- ZTOP: Zoned to packed (R349). -/
  | ztop (c : CoreId) (ra rb : RegNo) (l1 l2 : Fin 32)
  /-- PTOZ: Packed to unsigned zoned (R349). -/
  | ptoz (c : CoreId) (ra rb : RegNo) (l1 l2 : Fin 32)
  /-- PTOZS: Packed to signed zoned (R347). -/
  | ptozs (c : CoreId) (ra rb : RegNo) (l1 l2 : Fin 32)
  /-- DAADD: Accumulator add (R350). -/
  | daadd (c : CoreId) (rd ra rb : RegNo)
  /-- DASUB: Accumulator subtract (R350). -/
  | dasub (c : CoreId) (rd ra rb : RegNo)
  /-- DACMP: Accumulator compare (R350). -/
  | dacmp (c : CoreId) (rd ra rb : RegNo)
  /-- DAMOV: Accumulator move (R350). -/
  | damov (c : CoreId) (rd ra rb : RegNo)
  /-- DANEG: Accumulator negate (R350). -/
  | daneg (c : CoreId) (rd ra rb : RegNo)
  /-- DAMUL: Accumulator multiply, low 31 digits (R350). -/
  | damul (c : CoreId) (rd ra rb : RegNo)
  /-- DASHL: Accumulator shift left by k digits (R350). -/
  | dashl (c : CoreId) (rd ra : RegNo) (k : Fin 32)
  /-- DASHR: Accumulator shift right, rounding HALF_AWAY (R350). -/
  | dashr (c : CoreId) (rd ra : RegNo) (k : Fin 32)
  /-- DASHT: Accumulator shift right, truncating (R350). -/
  | dasht (c : CoreId) (rd ra : RegNo) (k : Fin 32)
  /-- DAFROMW: Accumulator from a signed W register (R350). -/
  | dafromw (c : CoreId) (rd ra rb : RegNo)
  /-- DATOW: Accumulator to a 48-bit W register (R350). -/
  | datow (c : CoreId) (rd ra rb : RegNo)
  /-- DATOWP: Accumulator to a 96-bit pair (R350). -/
  | datowp (c : CoreId) (rd ra rb : RegNo)
  /-- DALD: Loads a packed field into an accumulator (R352). -/
  | dald (c : CoreId) (rd ra : RegNo) (k : Fin 32)
  /-- DAST: Stores an accumulator as a packed field (R352). -/
  | dast (c : CoreId) (rd ra : RegNo) (k : Fin 32)
  /-- EDIT: Edits packed fields into text under a pattern (R364). -/
  | edit (c : CoreId) (rd ra rb rx : RegNo)
  /-- EDITM: Edits and marks the first significant byte (R378). -/
  | editm (c : CoreId) (rd ra rb rx : RegNo)
  /-- MOVS: Moves bytes in ascending order, unit by unit (R382). -/
  | movs (c : CoreId) (rd ra rb rx : RegNo) (lim : Nat)
  /-- MOVB: Moves bytes in descending order (R382). -/
  | movb (c : CoreId) (rd ra rb rx : RegNo) (lim : Nat)
  /-- MOVT: Moves bytes through a translate table (R382). -/
  | movt (c : CoreId) (rd ra rb rx : RegNo) (lim : Nat)
  /-- FILLS: Fills bytes with a value (R382). -/
  | fills (c : CoreId) (rd ra rb rx : RegNo) (lim : Nat)
  /-- CMPS: Compares two strings with padding (R384). -/
  | cmps (c : CoreId) (rd ra rb rx : RegNo) (lim : Nat)
  /-- SCNS: Scans for a byte in a bitmap (R385). -/
  | scns (c : CoreId) (rd ra rb rx : RegNo) (lim : Nat)
  /-- TRTS: Scans for a byte with a non-zero table entry (R385). -/
  | trts (c : CoreId) (rd ra rb rx : RegNo) (lim : Nat)
  /-- FADD: Floating-point add (R396). -/
  | fadd (c : CoreId) (fd fa fb : RegNo) (p : Bool) (mbz : BitVec 4) (rm : BitVec 3)
  /-- FSUB: Floating-point subtract (R396). -/
  | fsub (c : CoreId) (fd fa fb : RegNo) (p : Bool) (mbz : BitVec 4) (rm : BitVec 3)
  /-- FMUL: Floating-point multiply (R396). -/
  | fmul (c : CoreId) (fd fa fb : RegNo) (p : Bool) (mbz : BitVec 4) (rm : BitVec 3)
  /-- FDIV: Floating-point divide (R396). -/
  | fdiv (c : CoreId) (fd fa fb : RegNo) (p : Bool) (mbz : BitVec 4) (rm : BitVec 3)
  /-- FSQRT: Floating-point square root (R396). -/
  | fsqrt (c : CoreId) (fd fa fb : RegNo) (p : Bool) (mbz : BitVec 4) (rm : BitVec 3)
  /-- FMADD: Fused multiply-add (R395). -/
  | fmadd (c : CoreId) (fd fa fb fc : RegNo) (p : Bool) (rm : BitVec 3)
  /-- FMSUB: Fused multiply-subtract (R395). -/
  | fmsub (c : CoreId) (fd fa fb fc : RegNo) (p : Bool) (rm : BitVec 3)
  /-- FNMADD: Negated fused multiply-add (R395). -/
  | fnmadd (c : CoreId) (fd fa fb fc : RegNo) (p : Bool) (rm : BitVec 3)
  /-- FNMSUB: Negated fused multiply-subtract (R395). -/
  | fnmsub (c : CoreId) (fd fa fb fc : RegNo) (p : Bool) (rm : BitVec 3)
  /-- FCVT: Converts between binary32 and binary64 (R395). -/
  | fcvt (c : CoreId) (fd fa fb : RegNo) (p : Bool) (mbz : BitVec 4) (rm : BitVec 3)
  /-- FCVT_FW: Converts a W integer to floating point (R395). -/
  | fcvtFw (c : CoreId) (fd ra fb : RegNo) (p u : Bool) (mbz : BitVec 3) (rm : BitVec 3)
  /-- FCVT_WF: Converts floating point to a W integer (R398). -/
  | fcvtWf (c : CoreId) (rd fa fb : RegNo) (p u : Bool) (mbz : BitVec 3) (rm : BitVec 3)
  /-- FCMP: Floating-point compare, setting the CSW flags (R399). -/
  | fcmp (c : CoreId) (fd fa fb : RegNo) (p sg : Bool) (mbz : BitVec 3) (rm : BitVec 3)
  /-- FCLASS: Writes the class mask of an operand (R400). -/
  | fclass (c : CoreId) (rd fa fb : RegNo) (p : Bool) (mbz : BitVec 4) (rm : BitVec 3)
  /-- FMOV: FSGN moving the value (R397). -/
  | fmov (c : CoreId) (fd fa : RegNo) (p : Bool) (mbz : BitVec 2) (rm : BitVec 3)
  /-- FNEG: FSGN negating the sign (R397). -/
  | fneg (c : CoreId) (fd fa : RegNo) (p : Bool) (mbz : BitVec 2) (rm : BitVec 3)
  /-- FABS: FSGN clearing the sign (R397). -/
  | fabs (c : CoreId) (fd fa : RegNo) (p : Bool) (mbz : BitVec 2) (rm : BitVec 3)
  /-- FCPYS: FSGN copying the sign from FB (R397). -/
  | fcpys (c : CoreId) (fd fa fb : RegNo) (p : Bool) (mbz : BitVec 2) (rm : BitVec 3)
  /-- FLD_S: Loads a binary32 (R401). -/
  | fldS (c : CoreId) (fd ra : RegNo) (i : BitVec 16)
  /-- FLD_D: Loads a binary64 (R401). -/
  | fldD (c : CoreId) (fd ra : RegNo) (i : BitVec 16)
  /-- FST_S: Stores a binary32 (R401). -/
  | fstS (c : CoreId) (fd ra : RegNo) (i : BitVec 16)
  /-- FST_D: Stores a binary64 (R401). -/
  | fstD (c : CoreId) (fd ra : RegNo) (i : BitVec 16)
  /-- FMVWF_L: Moves F low bits to W (R401). -/
  | fmvwfL (c : CoreId) (rd fa : RegNo) (mbz : BitVec 5)
  /-- FMVWF_H: Moves F high bits to W (R401). -/
  | fmvwfH (c : CoreId) (rd fa : RegNo) (mbz : BitVec 5)
  /-- FMVFW_L: Moves W into F low bits (R401). -/
  | fmvfwL (c : CoreId) (fd ra : RegNo) (mbz : BitVec 5)
  /-- FMVFW_H: Moves W into F high bits (R401). -/
  | fmvfwH (c : CoreId) (fd ra : RegNo) (mbz : BitVec 5)
  /-- RDFCSW: Reads FCSW; a delivery point for pending traps (R405). -/
  | rdfcsw (c : CoreId) (rd : RegNo) (mbz : BitVec 10)
  /-- WRFCSW: Writes the writable FCSW fields (R411). -/
  | wrfcsw (c : CoreId) (ra : RegNo) (mbz : BitVec 10)
  /-- RDFTA: Reads FTA (R404). -/
  | rdfta (c : CoreId) (rd : RegNo) (mbz : BitVec 10)
  /-- FBAR: Barrier that delivers any pending floating-point trap (R409). -/
  | fbar (c : CoreId) (mbz : BitVec 15)
  /-- EXCEPTION_ENTRY: An exception is entered at the head of the window, pushing a frame and fetching the vector (R483). -/
  | exceptionEntry (c : CoreId) (h : HeadEvent)
  /-- INTERRUPT_ENTRY: A requested maskable source is taken at the next boundary with no window open (R497). -/
  | interruptEntry (c : CoreId)
  -- Watchdogs, keys and host windows
  /-- WDL_EXPIRY: WDL expires, raising Watchdog or, on a second expiry, a warm reset with cause WDOG (R473). -/
  | wdlExpiry
  /-- WDP_EXPIRY: WDP expires and requests the WDP bell source to Hall L (R472). -/
  | wdpExpiry
  /-- KEY_ENABLE: A write of KEY_CTL.ENABLE turns key checks on if the store is in DRAM, else sets BADBASE (R538). -/
  | keyEnable (src : Src) (on : Bool)
  /-- KEY_LOCK: KEY_CTL.LOCK freezes KEY_BASE and ENABLE until warm reset (R545). -/
  | keyLock (src : Src)
  /-- HOST_BAR4_READ: A host read through BAR4 reaches DRAM after a key check (R742). -/
  | hostBar4Read (dw : BitVec 22) (n : BitVec 10)
  /-- HOST_BAR4_WRITE: A host write through BAR4 reaches DRAM after a key check (R742). -/
  | hostBar4Write (off : BitVec 24) (l : List Byte)
  -- Wells and the Pump
  /-- WELL_TABLE_ON: A write of PMP_WTCTL.ON = 1 takes effect only when the table lies in DRAM, else sets WTBAD (R549). -/
  | wellTableOn (src : Src)
  /-- WELL_TABLE_OFF: A write of ON = 0 writes back stale contexts and empties the context cache, or is refused BUSY (R861). -/
  | wellTableOff (src : Src)
  /-- WELL_CONTEXT_WRITE: A context-window write updates a well's context, subject to hall and busy rules (R557). -/
  | wellContextWrite (src : Src) (k : Fin 16) (v : Long)
  /-- WELL_ENABLE: A write of ENABLE = 1 checks the well and enables it or records CAUSE (R559). -/
  | wellEnable (src : Src)
  /-- WELL_DISABLE: A write of ENABLE = 0 stops fetching, discards unfetched jobs and lets the well drain (R561). -/
  | wellDisable (src : Src)
  /-- CONTEXT_MISS: The Pump reads an uncached context, evicting a victim, and checks it for corruption (R599). -/
  | contextMiss (w : BitVec 14)
  /-- DESCRIPTOR_FETCH: The Pump reads a descriptor and checks it, or finds it stale, key-refused or unreadable (R568). -/
  | descriptorFetch (w : BitVec 14)
  /-- DOORBELL: A doorbell carrying a producer index is accepted, dropped or refused (R584). -/
  | doorbell (src : Src) (w : BitVec 14) (f : DoorbellForm)
  /-- DOORBELL_KICK: A kick of a Gen 3 well scans its phases and advances PI (R586). -/
  | doorbellKick (src : Src) (w : BitVec 14)
  /-- HOST_BAR2_READ: The host reads a well's CI and state from BAR2 (R582). -/
  | hostBar2Read (dw : BitVec 15) (n : BitVec 10)
  /-- STALE_REREAD: After STALEDLY, a stale entry is read again, and re-reading stops after STALEMAX (R590). -/
  | staleReread (w : BitVec 14)
  /-- POLL_SCAN: Every POLLINT µs the Pump reads the entry at PI of each hot well and kicks it on a match (R593). -/
  | pollScan
  /-- POLL_COOL: A hot well cools after HOLD without a fetch, and a waiting well may become hot (R592). -/
  | pollCool (w : BitVec 14)
  /-- SCHEDULING_DECISION: The Pump picks a level and cistern by deficit round-robin and dispatches a job (R606). -/
  | schedulingDecision
  /-- COMPLETION_WRITE: A finished job's completion entry is written to its ring, with PHASE last (R620). -/
  | completionWrite (k : Nat)
  /-- MODERATION_TIMEOUT: MTIME after the earliest unnotified entry, a notification is sent (R624). -/
  | moderationTimeout (n : Fin 2048)
  /-- CQ_ENABLE: Writing ENABLE = 1 to a ring zeroes its indices, clears ERR and releases held completions (R617). -/
  | cqEnable (src : Src) (n : Fin 2048)
  /-- CQ_DISABLE: Writing ENABLE = 0 disables a ring, or is refused BUSY (R617). -/
  | cqDisable (src : Src) (n : Fin 2048)
  /-- CQ_INDEX_WRITE: A write of CI is applied only when it does not move CI backwards, else sets BADCI (R619). -/
  | cqIndexWrite (src : Src) (n : Fin 2048) (ci : Half)
  /-- INLET_AREA_ON: Writing ON to PMP_INLBASEL or PMP_INLBASEP turns the inlet area on if it lies in DRAM, else sets INLBAD (R610). -/
  | inletAreaOn (src : Src) (h : Hall)
  /-- LEASE_EXPIRY: A job lease expires, setting EXP and LEASEEXP and writing PMP_LEASEREC (R628). -/
  | leaseExpiry (k : CoreId) (h : Hall) (slot : Fin 8)
  /-- LEASE_REVOKE: PMP_REVOKE with GO revokes an expired job lease, requeuing or abandoning the job (R629). -/
  | leaseRevoke (src : Src) (k : CoreId) (h : Hall) (slot : Fin 8) (tag : Byte)
  -- Journal and copy engines
  /-- APPEND: A journal APPEND job builds, hashes, stages and commits a Cepex record (R640). -/
  | append
  /-- FLUSH: A journal FLUSH job completes once earlier records are flushed (R657). -/
  | flush
  /-- JOURNAL_SEED: JNL_HEADCTL.SEED copies the seed SEQ and hash into the chain head (R639). -/
  | journalSeed (src : Src)
  /-- FLUSH_BATCH: A flush batch starts, copying committed records to the destination (R649). -/
  | flushBatch (ok : Bool)
  /-- FLUSHED: A flush batch completes, advancing JNL_STFL and setting FLUSHED (R649). -/
  | flushed
  /-- JOURNAL_FLUSH_TIMEOUT: A DURABLE record not flushed within JNL_FLTO completes with JNL_FLUSHFAIL (R647). -/
  | journalFlushTimeout
  /-- JOURNAL_DRD_WRITE: A write of JNL_DRD frees host ring space (R650). -/
  | journalDrdWrite (src : Src) (v : Long)
  /-- MAC_KEY_LOAD: A write of JNL_MACKEY7 sets LOADED (R665). -/
  | macKeyLoad (src : Src) (v : Long)
  /-- MAC_KEY_CLEAR: JNL_MACCTL.CLEAR clears the MAC key (R665). -/
  | macKeyClear (src : Src)
  /-- COPY: A copy-engine COPY job copies bytes in destination bursts (R660). -/
  | copy (lane : Fin 4)
  /-- FILL: A copy-engine FILL job writes the fill byte (R660). -/
  | fill (lane : Fin 4)
  /-- CPY_TIMEOUT: A copy job running TO ms is stopped and completes CPY_TIMEOUT (R664). -/
  | cpyTimeout (lane : Fin 4) (bursts : Nat)
  -- The Gallery
  /-- GALLERY_SWEEP: A due sweep snapshots inputs, samples edges, clears ACC and runs the program (R667). -/
  | gallerySweep (missed : Nat)
  /-- GALLERY_TIMER_EXPIRY: A running Gallery timer's deadline is reached, and it becomes EXPIRED at a sweep start (R672). -/
  | galleryTimerExpiry (n : Fin 64)
  /-- GALLERY_START: GAL_CTL.START checks a bank and starts the engine (R691). -/
  | galleryStart (src : Src) (b : Fin 2)
  /-- GALLERY_STOP: GAL_CTL.STOP ends the engine after the current sweep (R692). -/
  | galleryStop (src : Src)
  /-- GALLERY_SWAP: GAL_CTL.SWAP checks the other bank for an on-line exchange (R694). -/
  | gallerySwap (src : Src) (b : Fin 2)
  /-- GALLERY_CHECK_DONE: A bank check ends, refusing the bank or letting START or SWAP proceed (R690). -/
  | galleryCheckDone
  /-- GALLERY_EXCHANGE: At the end of a sweep, the new bank becomes active, with slots carried or reset (R695). -/
  | galleryExchange
  /-- FLAG_SET: A write of GAL_FSET sets flags (R674). -/
  | flagSet (src : Src) (m : Long)
  /-- FLAG_CLEAR: A write of GAL_FCLR clears flags (R674). -/
  | flagClear (src : Src) (m : Long)
  /-- GAL_NOP: Gallery NOP (R677). -/
  | galNop
  /-- GAL_LD: ACC := bit A (R677). -/
  | galLd (a : BitVec 10)
  /-- GAL_LDN: ACC := NOT bit A (R677). -/
  | galLdn (a : BitVec 10)
  /-- GAL_AND: ACC := ACC AND bit A (R677). -/
  | galAnd (a : BitVec 10)
  /-- GAL_ANDN: ACC := ACC AND NOT bit A (R677). -/
  | galAndn (a : BitVec 10)
  /-- GAL_OR: ACC := ACC OR bit A (R677). -/
  | galOr (a : BitVec 10)
  /-- GAL_ORN: ACC := ACC OR NOT bit A (R677). -/
  | galOrn (a : BitVec 10)
  /-- GAL_XOR: ACC := ACC XOR bit A (R677). -/
  | galXor (a : BitVec 10)
  /-- GAL_NOT: ACC := NOT ACC (R677). -/
  | galNot
  /-- SETF: Sets a flag when ACC is 1 (R677). -/
  | setf (n : Fin 32)
  /-- CLRF: Clears a flag when ACC is 1 (R677). -/
  | clrf (n : Fin 32)
  /-- STF: Stores ACC into a flag (R677). -/
  | stf (n : Fin 32)
  /-- TSTART: Starts a timer with RELOAD when ACC is 1 (R672). -/
  | tstart (n : Fin 64)
  /-- TSTARTI: Starts a timer with an immediate count when ACC is 1 (R672). -/
  | tstarti (n : Fin 64) (count : BitVec 20)
  /-- TSTOP: Makes a timer IDLE when ACC is 1 (R672). -/
  | tstop (n : Fin 64)
  /-- GAL_PULSE: Requests a latch pulse when ACC is 1; ACC reports acceptance (R679). -/
  | galPulse (ch : Fin 4) (door : Fin 32) (k : Fin 8)
  /-- GPO: Drives a GPIO output value (R680). -/
  | gpo (n : Fin 64) (mode : BitVec 2)
  /-- GAL_WAKE: Makes a Gallery wake request naming a hall (R681). -/
  | galWake (h : Hall)
  /-- GAL_BELL: Fires a Gallery bell source, or holds it while the fabric is off (R682). -/
  | galBell (n : Fin 32)
  /-- POST: Queues a descriptor template in the post queue (R683). -/
  | post (t : Fin 16)
  /-- SKIPT: Skips k instructions when ACC is 1 (R677). -/
  | skipt (k : BitVec 8)
  /-- SKIPF: Skips k instructions when ACC is 0 (R677). -/
  | skipf (k : BitVec 8)
  /-- GAL_END: Ends the sweep (R677). -/
  | galEnd
  /-- TEMPLATE_POST_DELIVERY: The Pump checks a queued template's well, writes it to the ring and applies PI + 1 (R684). -/
  | templatePostDelivery
  -- Latch channels and the charger
  /-- LATCH_PULSE_JOB: A latch well job is checked and starts one pulse on its channel (R714). -/
  | latchPulseJob (ch : Fin 4)
  /-- PULSE_SUPPLY_CHECK: 100 µs after selection, the supply is checked and pull-in begins, or the pulse ends NOSTART (R702). -/
  | pulseSupplyCheck (ch : Fin 4)
  /-- PULSE_HOLD_START: TPULL ends and the target becomes IHOLD (R702). -/
  | pulseHoldStart (ch : Fin 4) (x : Sense)
  /-- PULSE_RELEASE: The hold ends and the gate turns off or ramps down (R702). -/
  | pulseRelease (ch : Fin 4) (x : Sense)
  /-- PULSE_END: After release, DSEL is released, the outcome recorded and the job completed (R715). -/
  | pulseEnd (ch : Fin 4) (x : Sense)
  /-- COMPLIANCE_ARM: TBLANK after pull-in begins, the compliance rule is armed (R705). -/
  | complianceArm (ch : Fin 4) (x : Sense)
  /-- COMPLY: Duty at 98% with current below 90% for TCOMP sets COMPLY (R705). -/
  | comply (ch : Fin 4) (x : Sense)
  /-- OPEN: The peak current stays below 20% of IPULL at the decision time; the gate turns off with OPEN (R706). -/
  | pulseOpen (ch : Fin 4) (x : Sense)
  /-- SHORT: Current above 150% of IPULL for 20 µs turns the gate off with SHORT (R707). -/
  | pulseShort (ch : Fin 4) (x : Sense)
  /-- CANCEL: LCH_CTLn.CANCEL turns a pulse's gate off with ABORT (R708). -/
  | cancel (src : Src) (ch : Fin 4)
  /-- CHARGER_ENABLE: A write of CHG_CFG.ENABLE = 1 enters ABSENT and probes, or SUSPEND on the cell (R720). -/
  | chargerEnable (src : Src)
  /-- CHARGER_DISABLE: A write of ENABLE = 0 enters OFF within 1 ms (R720). -/
  | chargerDisable (src : Src)
  /-- PRECHARGE_TO_CC: VBAT reaching VPRE + 100 mV enters CC (R722). -/
  | prechargeToCc (m : Meas)
  /-- PRETIMEOUT: 30 minutes in PRECHARGE enters FAULT (R722). -/
  | pretimeout
  /-- CC_TO_CV: VBAT reaching VCV enters CV (R723). -/
  | ccToCv (m : Meas)
  /-- CHARGE_DONE: Current below TERM for 10 s in CV enters DONE (R724). -/
  | chargeDone (m : Meas)
  /-- RECHARGE: VBAT below 97% of VCV for 1 s in DONE begins a charge (R725). -/
  | recharge (m : Meas)
  /-- NTC_SUSPEND: The NTC code leaving the window suspends charging (R726). -/
  | ntcSuspend (m : Meas)
  /-- NTC_RESUME: The NTC code returning inside the hysteresis resumes charging (R728). -/
  | ntcResume (m : Meas)
  /-- SAFETY_TIMEOUT: The safety timer reaching TIMER hours enters FAULT (R727). -/
  | safetyTimeout
  /-- CLEARFAULT: CHG_CTL.CLEARFAULT in FAULT begins a charge (R728). -/
  | clearfault (src : Src)
  /-- REMOVED: A removal condition turns the PMOS off, enters ABSENT and records the cause (R730). -/
  | removed (cause : Fin 3) (m : Meas)
  /-- PROBE: A 10 mA, 10 ms probe confirms or fails the cell, and three confirmations set PRESENT (R731). -/
  | probe (rise : BitVec 13) (m : Meas)
  /-- ONCELL: VAONIN falling below its threshold switches VAON to the cell and suspends charging (R733). -/
  | oncell
  /-- OFFCELL: VAONIN above 1.70 V for 1 ms switches VAON back (R732). -/
  | offcell (m : Meas)
  /-- CELL_LDO_STOP: VBAT below VPRE for 10 ms on the cell stops the cell LDO (R734). -/
  | cellLdoStop
  -- Link, memory and ports
  /-- PME: A write of HLK_PME.PME, or a held notification in D3, signals PME or asserts WAKE# (R748). -/
  | pme (src : Option Src)
  /-- PME_TURN_OFF: The device enters L2/L3 Ready on PME_Turn_Off (R749). -/
  | pmeTurnOff
  /-- D3HOT_ENTRY: The host places the device in D3hot, pausing host-resident wells (R747). -/
  | d3hotEntry
  /-- D0_RETURN: A return to D0 ends the D3hot pause (R747). -/
  | d0Return
  /-- BUS_MASTER_ENABLE: A change of Bus Master Enable pauses or resumes host-resident wells (R751). -/
  | busMasterEnable (on : Bool)
  /-- ASPM_L1_REQUEST: After 32 µs of H-island idle, the device requests ASPM L1 (R750). -/
  | aspmL1Request
  /-- COMPLETION_TIMEOUT: A host completion timeout gives the requester poison and sets CTO (R745). -/
  | completionTimeout (r : Requester) (k : HostFail)
  /-- DRAM_TEMP_CHECK: Every 100 ms the controller reads die temperature and retrains when it has drifted 40 °C (R756). -/
  | dramTempCheck (code : BitVec 12)
  /-- RETRAIN: MEM_CTL.RETRAIN holds traffic, moves to the new rate and trains (R762). -/
  | retrain (src : Src)
  /-- DRAM_SCRUB: Each PERIOD hours, every line is read and corrected lines are written back (R758). -/
  | dramScrub (soft bad : List Nat)
  /-- FLASH_COMMAND: FSP_CMD.GO issues an xSPI command, optionally polling RDSR (R765). -/
  | flashCommand (src : Src) (v : Long)
  /-- FLASH_COMMAND_DONE: An xSPI command ends, setting DONE or, on FSP_TO, PFAIL (R767). -/
  | flashCommandDone (ok : Bool) (l : List Byte)
  /-- TRANSMIT_DATA: A write of UARTu_TXDATA pushes a frame, or sets TXOVF (R770). -/
  | transmitData (src : Src) (u : Fin 4) (d : BitVec 9)
  /-- RX_POP: A write of RXPOP removes n receive entries (R770). -/
  | rxPop (src : Src) (u : Fin 4) (n : BitVec 7)
  /-- UART_FRAME_RECEIVE: A received frame is pushed to the RX FIFO, or discarded with RXOVF (R770). -/
  | uartFrameReceive (u : Fin 4) (d : BitVec 9) (fe pe brk : Bool)
  /-- I2C_TRANSFER: I2Cp_CMD.GO runs a write, read or combined transfer (R773). -/
  | i2cTransfer (src : Src) (p : Fin 2) (v : Long)
  /-- I2C_TRANSFER_END: A transfer ends with its RESULT after STOP (R773). -/
  | i2cTransferEnd (p : Fin 2) (res : BitVec 3) (done : BitVec 7) (l : List Byte)
  /-- RECOVER: Bus recovery sends up to nine SCL pulses and a STOP (R774). -/
  | recover (src : Src) (p : Fin 2)
  /-- STRETCHTO: A clock stretch longer than STRETCHTO ends the transfer and runs recovery (R772). -/
  | stretchto (p : Fin 2) (stuck : Bool) (done : BitVec 7)
  /-- GPIO_EDGE: A selected pin edge is captured and may wake the device (R779). -/
  | gpioEdge (n : Fin 64) (lvl : Bool)
  /-- BANK_SUPPLY_CHANGE: A bank supply crossing 1.4 V undrives or restores its pins (R836). -/
  | bankSupplyChange (k : Fin 6) (up : Bool) (lvls : Half)
  /-- RTC_SECONDS_WRITE: A write of TMB_RTCSEC sets the seconds and zeroes RTCSUB (R782). -/
  | rtcSecondsWrite (src : Src) (v : Long)
  /-- ALARM: RTCSEC reaching RTCALM with ALMEN sets ALARM and is a wake source (R783). -/
  | alarm
  /-- TIMEBASE_READ: A read of TMB_TBLO returns the low bits and captures the high bits for the reader (R781). -/
  | timebaseRead (src : Src)
  /-- WATCHDOG_CONFIG_WRITE: A write of a watchdog PERIOD restarts its count; WDL ENABLE is set once (R784). -/
  | watchdogConfigWrite (src : Src) (which : Fin 3) (v : Long)
  -- JTAG and debug
  /-- EXTEST: JTAG EXTEST instruction (R786). -/
  | extest (pins : BitVec 163) (cells : BitVec 489)
  /-- IDCODE: JTAG IDCODE instruction (R787). -/
  | idcode
  /-- SAMPLE_PRELOAD: JTAG SAMPLE/PRELOAD instruction (R786). -/
  | samplePreload (pins : BitVec 163) (cells : BitVec 489)
  /-- HIGHZ: JTAG HIGHZ instruction (R786). -/
  | highz
  /-- BYPASS: JTAG BYPASS instruction (R786). -/
  | bypass
  /-- DBGACC: Selects the DBGACC data register (R789). -/
  | dbgacc
  /-- DEBUG_ACCESS: A DBGACC operation at Update-DR reads or writes memory or debug registers if permitted (R791). -/
  | debugAccess (r : BitVec 80)
  /-- HALT: DCTL.HALT stops the core at its next boundary (R792). -/
  | halt (k : CoreId) (h : Hall)
  /-- RESUME: DCTL.RESUME restarts a halted core (R792). -/
  | resume (k : CoreId) (h : Hall)
  /-- STEP: DCTL.STEP retires one instruction and halts again (R792). -/
  | step (k : CoreId) (h : Hall)
  -- Faults, leases and recovery
  /-- UNFENCE: FLT_UNFENCE.GO returns a fenced segment to service, or reports why not (R800). -/
  | unfence (src : Src) (seg : Fin 16)
  /-- UNFENCED: An accepted unfence completes, clearing FENCED and setting UNFENCED (R801). -/
  | unfenced (seg : Fin 16)
  /-- ACQUIRE: Acquires a free lease lock, advancing GEN (R806). -/
  | acquire (src : Src) (n : Fin 64) (ticket : Half)
  /-- RENEW: The owner restarts the lock's expiry timer (R806). -/
  | renew (src : Src) (n : Fin 64) (ticket : Half)
  /-- LOCK_RELEASE: The owner frees the lock (R806). -/
  | lockRelease (src : Src) (n : Fin 64) (ticket : Half)
  /-- REVOKE: Revokes an expired lock with matching GEN, acting on its binding (R806). -/
  | revoke (src : Src) (n : Fin 64) (gen : Byte)
  /-- CLRTAINT: The owner clears TAINT (R806). -/
  | clrtaint (src : Src) (n : Fin 64) (ticket : Half)
  /-- LEASE_LOCK_EXPIRY: A lease lock's TIMEOUT passes, setting EXPIRED and LLEXP (R807). -/
  | leaseLockExpiry (n : Fin 64)
  /-- WDD_KICK: The two-write WDD service sequence restarts WDD at PERIOD (R815). -/
  | wddKick (src : Src)
  /-- WDD_EXPIRY: WDD reaches zero, revoking leases in SCOPE, entering Device Watchdog and starting GRACE (R817). -/
  | wddExpiry
  /-- WDD_GRACE_EXPIRY: GRACE elapses without service, causing a warm reset with cause WDOG (R817). -/
  | wddGraceExpiry
  -- Rows added after the others
  /-- JTAG_CLAMP: The JTAG CLAMP instruction (code 0x03) is loaded into the instruction register and takes effect on the boundary-scan balls (R786). -/
  | jtagClamp
  /-- POWER_GOOD_LOW: During a WAITLOW discharge wait of a shutdown run or a Cistern release run, the slot's PG_EXTn input goes low and the run moves on to its next entry (R176). -/
  | powerGoodLow (n : Fin 16)
  /-- OSCILLATOR_START_UP: The 24 MHz oscillator, started in the Cistern state for a snapshot request or a Gallery pulse, reaches its first valid cycle, and the waiting snapshot begins its first conversion (R241). -/
  | oscillatorStartUp
  /-- SELF_REFRESH_EXIT: After wake, once the 24 MHz oscillator runs and the M PLL locks, DRAM leaves self-refresh within 60 µs, and accesses held waiting for DRAM proceed (R759). -/
  | selfRefreshExit
  /-- UART_FRAME_SENT: A UART finishes transmitting a frame from its TX FIFO, which frees the entry, starts the next frame unless CTS pauses it, and ends the RS-485 driver enable DEPOST bit times after a burst (R769). -/
  | uartFrameSent (u : Fin 4) (cts : Bool)
  /-- LINK_DOWN: The PCI Express link goes down without PERST# or a hot reset; HLK_EVT.LINKDOWN is set and link-window accesses are no longer sent (R743). -/
  | linkDown
  /-- CONFIGURATION_WRITE: The host writes PCI Express configuration space, for example the Device Control 2 completion timeout, MSI or MSI-X enable, PME_En or ASPM and L1 PM Substates control, and the device applies it (R745). -/
  | configurationWrite (w : CfgWrite)
deriving DecidableEq, Repr

end Sys2Proof
end

