-- ==== Sys2Proof/Decode.lean ====
section
/-! DEFINITION. The command that a word spells. No row of the opcode table gives bits (its rows are events and commands, and the instructions of a
core come to the model as commands with their fields), so no word spells one. -/
namespace Sys2Proof

/-- The command whose bits are `w`: none, since no row of the table gives bits. -/
def decodeTableWord (_nbits _w : Nat) : Option Instr := none

end Sys2Proof
end

