-- ==== Sys2Proof/Machine/Bits.lean ====
section
/-! DEFINITION. Bit fields, sign extension, byte order and the sorted association lists in which registers and memory
are held. -/
namespace Sys2Proof.Machine

/-- Bits [hi:lo] of a number. -/
def bitsOf (x hi lo : Nat) : Nat := (x >>> lo) % 2 ^ (hi + 1 - lo)

/-- `x` with bits [hi:lo] replaced by the low bits of `v`. -/
def putBits (x hi lo v : Nat) : Nat :=
  x - (bitsOf x hi lo) * 2 ^ lo + (v % 2 ^ (hi + 1 - lo)) * 2 ^ lo

/-- 1 for true, 0 for false. -/
def ofBool (b : Bool) : Nat := if b then 1 else 0

/-- Bit `i` of a number. -/
def bit (x i : Nat) : Bool := x.testBit i

/-- `x` with bit `i` set. -/
def setBit (x i : Nat) : Nat := x ||| 2 ^ i

/-- `x` with bit `i` cleared. -/
def clrBit (x i : Nat) : Nat := putBits x i i 0

/-- `x` with bit `i` set to `b`. -/
def withBit (x i : Nat) (b : Bool) : Nat := putBits x i i (ofBool b)

/-- The bits of `x` that are clear in `m`. -/
def andNot (x m : Nat) : Nat := x - (x &&& m)

/-- An `n`-bit number read as two's complement. -/
def signedOf (n x : Nat) : Int := if x < 2 ^ (n - 1) then (x : Int) else (x : Int) - 2 ^ n

/-- The low `n` bits of an integer in two's complement. -/
def ofInt (n : Nat) (i : Int) : Nat := (i % (2 ^ n : Nat)).toNat

/-- `v` limited to at most `m` (a saturating count). -/
def satTo (m v : Nat) : Nat := if v ≤ m then v else m

/-- The number of bits set among the low `n`. -/
def popCount : Nat → Nat → Nat
  | 0, _ => 0
  | n + 1, x => x % 2 + popCount n (x / 2)

/-- The index of the lowest bit set among the low `n` bits from `i` on. -/
def lowestBit : Nat → Nat → Nat → Option Nat
  | 0, _, _ => none
  | n + 1, i, x => if x % 2 = 1 then some i else lowestBit n (i + 1) (x / 2)

/-- Bit `i` of a Boolean function of `i < n`, packed least significant first. -/
def packBits : Nat → (Nat → Bool) → Nat
  | 0, _ => 0
  | n + 1, f => packBits n f + (if f n then 2 ^ n else 0)

/-- The `n` bytes of a number, least significant first (R250). -/
def leBytes : Nat → Nat → List Byte
  | 0, _ => []
  | n + 1, v => BitVec.ofNat 8 v :: leBytes n (v / 256)

/-- The number that bytes spell, least significant first (R250). -/
def ofLe : List Byte → Nat
  | [] => 0
  | b :: l => b.toNat + 256 * ofLe l

/-- The number that bytes spell, most significant first (decimal operands, hashes). -/
def ofBe (l : List Byte) : Nat := l.foldl (fun a b => a * 256 + b.toNat) 0

/-- The `n` bytes of a number, most significant first. -/
def beBytes (n v : Nat) : List Byte := (leBytes n v).reverse

/-- The entry of a key in an association list, if listed. -/
def lookupKey {β : Type} : List (Nat × β) → Nat → Option β
  | [], _ => none
  | (k, v) :: l, a => if k = a then some v else lookupKey l a

/-- An association list sorted by key, with key `a` set to `v`. -/
def insertKey {β : Type} : List (Nat × β) → Nat → β → List (Nat × β)
  | [], a, v => [(a, v)]
  | (k, w) :: l, a, v =>
    if a < k then (a, v) :: (k, w) :: l
    else if k = a then (a, v) :: l
    else (k, w) :: insertKey l a v

/-- An association list without key `a`. -/
def eraseKey {β : Type} : List (Nat × β) → Nat → List (Nat × β)
  | [], _ => []
  | (k, w) :: l, a => if k = a then eraseKey l a else (k, w) :: eraseKey l a

/-- The keys rise strictly. -/
def sortedKeys {β : Type} : List (Nat × β) → Bool
  | [] => true
  | [_] => true
  | (k, _) :: (k', v) :: l => decide (k < k') && sortedKeys ((k', v) :: l)

/-- Replace the element at an index of a list. -/
def setAt {α : Type} : List α → Nat → α → List α
  | [], _, _ => []
  | _ :: l, 0, a => a :: l
  | b :: l, n + 1, a => b :: setAt l n a

/-- The hall as the bit CSW.HALL and the contexts hold. -/
def hallNat : Hall → Nat
  | .L => 0
  | .P => 1

/-- The hall a bit names. -/
def hallOf (b : Bool) : Hall := if b then .P else .L

end Sys2Proof.Machine
end

