-- ==== Sys2Proof/Machine/Crypto.lean ====
section
/-! DEFINITION. The named algorithms the rules use: CRC-32 (R137), CRC-8 of SMBus (R776), SHA-256 and HMAC-SHA-256 (R636), and ECDSA
verification over P-256 (R127, R128), as their standards define them. -/
namespace Sys2Proof.Machine

/-! ### CRC -/

/-- `n` shifts of a reflected CRC. -/
def crcShift (poly : Nat) : Nat → Nat → Nat
  | 0, c => c
  | n + 1, c => crcShift poly n (if c % 2 = 1 then (c / 2) ^^^ poly else c / 2)

/-- CRC-32 of IEEE 802.3 (R137). -/
def crc32 (l : List Byte) : Nat :=
  (l.foldl (fun c b => crcShift 0xEDB88320 8 (c ^^^ b.toNat)) 0xFFFFFFFF) ^^^ 0xFFFFFFFF

/-- `n` shifts of an unreflected 8-bit CRC. -/
def crc8Shift (poly : Nat) : Nat → Nat → Nat
  | 0, c => c
  | n + 1, c => crc8Shift poly n (if 128 ≤ c then ((c * 2) % 256) ^^^ poly else c * 2)

/-- The SMBus PEC (R776). -/
def crc8 (l : List Nat) : Nat := l.foldl (fun c b => crc8Shift 0x07 8 (c ^^^ b)) 0

/-! ### SHA-256 -/

def shaK : List Nat := [
  0x428a2f98, 0x71374491, 0xb5c0fbcf, 0xe9b5dba5, 0x3956c25b, 0x59f111f1, 0x923f82a4, 0xab1c5ed5,
  0xd807aa98, 0x12835b01, 0x243185be, 0x550c7dc3, 0x72be5d74, 0x80deb1fe, 0x9bdc06a7, 0xc19bf174,
  0xe49b69c1, 0xefbe4786, 0x0fc19dc6, 0x240ca1cc, 0x2de92c6f, 0x4a7484aa, 0x5cb0a9dc, 0x76f988da,
  0x983e5152, 0xa831c66d, 0xb00327c8, 0xbf597fc7, 0xc6e00bf3, 0xd5a79147, 0x06ca6351, 0x14292967,
  0x27b70a85, 0x2e1b2138, 0x4d2c6dfc, 0x53380d13, 0x650a7354, 0x766a0abb, 0x81c2c92e, 0x92722c85,
  0xa2bfe8a1, 0xa81a664b, 0xc24b8b70, 0xc76c51a3, 0xd192e819, 0xd6990624, 0xf40e3585, 0x106aa070,
  0x19a4c116, 0x1e376c08, 0x2748774c, 0x34b0bcb5, 0x391c0cb3, 0x4ed8aa4a, 0x5b9cca4f, 0x682e6ff3,
  0x748f82ee, 0x78a5636f, 0x84c87814, 0x8cc70208, 0x90befffa, 0xa4506ceb, 0xbef9a3f7, 0xc67178f2]

def shaInit : List Long := [
  0x6a09e667, 0xbb67ae85, 0x3c6ef372, 0xa54ff53a, 0x510e527f, 0x9b05688c, 0x1f83d9ab, 0x5be0cd19]

/-- The message schedule, newest word first, extended by `n` words. -/
def shaSched : Nat → List Long → List Long
  | 0, l => l
  | n + 1, l =>
    let w15 := l.getD 14 0
    let w2 := l.getD 1 0
    let s0 := w15.rotateRight 7 ^^^ w15.rotateRight 18 ^^^ (w15 >>> 3)
    let s1 := w2.rotateRight 17 ^^^ w2.rotateRight 19 ^^^ (w2 >>> 10)
    shaSched n ((l.getD 15 0 + s0 + l.getD 6 0 + s1) :: l)

/-- One round. -/
def shaRound (st : List Long) (k : Nat) (w : Long) : List Long :=
  match st with
  | [a, b, c, d, e, f, g, h] =>
    let s1 := e.rotateRight 6 ^^^ e.rotateRight 11 ^^^ e.rotateRight 25
    let ch := (e &&& f) ^^^ (~~~e &&& g)
    let t1 := h + s1 + ch + BitVec.ofNat 32 k + w
    let s0 := a.rotateRight 2 ^^^ a.rotateRight 13 ^^^ a.rotateRight 22
    let mj := (a &&& b) ^^^ (a &&& c) ^^^ (b &&& c)
    [t1 + (s0 + mj), a, b, c, d + t1, e, f, g]
  | l => l

/-- The big-endian longs of bytes. -/
def beLongs : List Byte → List Long
  | a :: b :: c :: d :: l => BitVec.ofNat 32 (ofBe [a, b, c, d]) :: beLongs l
  | _ => []

/-- One 64-byte block. -/
def shaBlock (st : List Long) (blk : List Byte) : List Long :=
  let w := (shaSched 48 (beLongs blk).reverse).reverse
  List.zipWith (· + ·) st ((List.zip shaK w).foldl (fun a kw => shaRound a kw.1 kw.2) st)

/-- `n` blocks. -/
def shaBlocks : Nat → List Long → List Byte → List Long
  | 0, st, _ => st
  | n + 1, st, l => shaBlocks n (shaBlock st (l.take 64)) (l.drop 64)

/-- SHA-256. -/
def sha256 (l : List Byte) : List Byte :=
  let n := l.length
  let pad := 0x80#8 :: List.replicate ((119 - n % 64) % 64) 0#8
  let m := l ++ pad ++ beBytes 8 (8 * n)
  (shaBlocks (m.length / 64) shaInit m).flatMap fun w => beBytes 4 w.toNat

/-- HMAC-SHA-256 under a 32-byte key. -/
def hmac256 (key l : List Byte) : List Byte :=
  let k := key ++ List.replicate (64 - key.length) 0#8
  sha256 (k.map (· ^^^ 0x5C#8) ++ sha256 (k.map (· ^^^ 0x36#8) ++ l))

/-! ### ECDSA over P-256 -/

def p256p : Nat := 0xffffffff00000001000000000000000000000000ffffffffffffffffffffffff
def p256n : Nat := 0xffffffff00000000ffffffffffffffffbce6faada7179e84f3b9cac2fc632551
def p256b : Nat := 0x5ac635d8aa3a93e7b3ebbd55769886bc651d06b0cc53b0f63bce3c3e27d2604b
def p256gx : Nat := 0x6b17d1f2e12c4247f8bce6e563a440f277037d812deb33a0f4a13945d898c296
def p256gy : Nat := 0x4fe342e2fe1a7f9b8ee7eb4a7c0f9e162bce33576b315ececbb6406837bf51f5

/-- b ^ e modulo m, over the low `k` bits of e. -/
def powMod (m : Nat) : Nat → Nat → Nat → Nat
  | 0, _, _ => 1
  | k + 1, b, e =>
    let r := powMod m k (b * b % m) (e / 2)
    if e % 2 = 1 then b * r % m else r

/-- The inverse modulo a prime. -/
def invMod (m a : Nat) : Nat := powMod m 256 (a % m) (m - 2)

/-- The sum of two points of the curve; `none` is the point at infinity. -/
def ecAdd (a b : Option (Nat × Nat)) : Option (Nat × Nat) :=
  match a, b with
  | none, q => q
  | q, none => q
  | some (x, y), some (u, v) =>
    if x = u ∧ (y + v) % p256p = 0 then none
    else
      let l := if x = u then (3 * x * x + (p256p - 3)) * invMod p256p (2 * y) % p256p
        else (v + p256p - y) * invMod p256p (u + p256p - x) % p256p
      let x' := (l * l + 2 * p256p - x - u) % p256p
      some (x', (l * (x + p256p - x') + p256p - y) % p256p)

/-- k times a point, over the low `n` bits of k. -/
def ecMul : Nat → Nat → Option (Nat × Nat) → Option (Nat × Nat)
  | 0, _, _ => none
  | n + 1, k, q =>
    let r := ecMul n (k / 2) (ecAdd q q)
    if k % 2 = 1 then ecAdd q r else r

/-- A point lies on the curve (R127). -/
def onCurve (x y : Nat) : Bool :=
  decide (x < p256p) && decide (y < p256p) && y * y % p256p == (x * x * x + (p256p - 3) * x + p256b) % p256p

/-- ECDSA P-256 verification of a 32-byte hash (R127, R128). -/
def ecdsaOk (x y r s : Nat) (hash : List Byte) : Bool :=
  if !onCurve x y || r = 0 || s = 0 || p256n ≤ r || p256n ≤ s then false
  else
    let w := invMod p256n s
    match ecAdd (ecMul 256 (ofBe hash * w % p256n) (some (p256gx, p256gy))) (ecMul 256 (r * w % p256n) (some (x, y))) with
    | none => false
    | some (x', _) => x' % p256n == r

end Sys2Proof.Machine
end

