-- ==== Sys2Proof/Config.lean ====
section
/-! DEFINITION. The free values: what the spec leaves open, as constants with no body. No proof can see a value of
one, so a statement about one holds for every value. The address, index or counter a free value depends on is its argument. -/
namespace Sys2Proof.Config

/-- The byte a DRAM location holds when nothing has written it since DRAM contents last became undefined (R860):
free for each loss of contents and address. Log entry 3. -/
opaque dramByte : Nat → Nat → Byte
/-- Whether a line of DRAM with inline ECC that nothing has written since contents were lost reads as poison (R860).
Log entry 3. -/
opaque dramPoison : Nat → Nat → Bool
/-- The contents of the fitted xSPI flash where nothing has programmed it (R764): the board's, by the number of commands
that changed it and the offset. Log entry 4. -/
opaque flashByte : Nat → Nat → Byte
/-- The boot ROM's contents (R282): the spec does not give them. Log entry 4. -/
opaque romByte : Nat → Byte
/-- The contents of host memory where the device has not written it (R743). Log entry 4. -/
opaque hostByte : Nat → Byte
/-- ID_PCIIDS, loaded from factory words whose place the spec does not define; the same value on every part
(R740). Log entry 5. -/
opaque pciIds : Long
/-- ID_JTAGID, as `pciIds` (R787). Log entry 5. -/
opaque jtagId : Long

/-- What an output cell of a serial port, flash or link sideband ball captures while its wire is in use (R786): the spec gives the
wire no level at the instant. By capture and cell. Log entry 18. -/
opaque ballLevel : Nat → Nat → Bool

/-- The delay and reference codes that a DRAM training finds, and the temperature code it reads (R755, R762): measured on the board. By
training and byte of the R755 layout. Log entry 20. -/
opaque trainByte : Nat → Nat → Byte

/-- Whether a line of DRAM was dirty in a cache that a reset discards without writing it back (R112, R115, R119), and the bytes the line
then holds. By reset and line, by reset and address. Log entry 21. -/
opaque lineLost : Nat → Nat → Bool
opaque staleByte : Nat → Nat → Byte

/-- What a calibration store that did not verify leaves in its target bank (R141). By store and offset. Log entry 23. -/
opaque calByte : Nat → Nat → Byte

end Sys2Proof.Config
end

