-- ==== Sys2Proof/Machine/State.lean ====
section
/-! DEFINITION. The state of the block, as plain data, and the state after cold reset. -/
namespace Sys2Proof.Machine

/-! ### Set-up register descriptors (the columns of a register table, R25) -/

/-- Access codes (R25); reserved bits have no descriptor. -/
inductive Acc
  | rw | ro | wo | w1c | w1s | rws | rwk
deriving DecidableEq, Repr

/-- The Reset column: a value, a value that the cited rule gives by variant, slot or strap, `live` for a field
computed when read, `banked` for the context window. -/
inductive ResetV
  | val (n : Nat)
  | live | banked | coreHold | wnom | slotPgen | slotUse | slotUpstep | slotDep | sdSlot | adcMask
  | memEcc | memRate | memSize | linkRate | linkWidth
deriving DecidableEq, Repr

/-- The Legal and Clamp columns. `near lo hi` clamps to the nearer bound; `dflt lo hi v` to the named value;
`keep m` clears the bits outside m; `mult n` clamps to the nearest lower multiple; `signed n` is two's complement
between -n and n; the others are the named checks of the owning chapter. -/
inductive Legal
  | any
  | near (lo hi : Nat)
  | dflt (lo hi v : Nat)
  | keep (m : Nat)
  | mult (n : Nat)
  | signed (n : Nat)
  | cores | slotsPg | slotOrNone | winOrNone | sdSlot | slotDepMask | adcMask | adcGain | adcChan | belHall
  | well | fspDiv | memEcc | memRate | memSize | linkRate | linkWidth | bar4 | llBind | llCount | llFirst | i2cPec
deriving DecidableEq, Repr

/-- What decides whether instance n of a register family is present (R8 to R13). -/
inductive Pres
  | always | core | slot | win | lch | jnl | chg | cq | src | bank
deriving DecidableEq, Repr

/-- One field of a register: bits, access, reset, legal values, and whether warm reset keeps it (AON). -/
structure FieldD where
  hi : Nat
  lo : Nat
  acc : Acc
  reset : ResetV
  legal : Legal
  aon : Bool
deriving DecidableEq, Repr

/-- One register family: first offset, two strides with their counts, presence, fields. -/
structure RegD where
  off : Nat
  stride1 : Nat
  count1 : Nat
  stride2 : Nat
  count2 : Nat
  pres : Pres
  fields : List FieldD
deriving DecidableEq, Repr

/-- A named field: offset of the first register of its family, bits, and the two strides. -/
structure Fld where
  off : Nat
  hi : Nat
  lo : Nat
  stride1 : Nat
  stride2 : Nat
deriving DecidableEq, Repr

/-! ### A core -/

/-- A store that has retired and is not yet globally visible, with its physical address, and whether its memory is device-weak
(R427, R436). -/
structure SbEntry where
  addr : Nat
  bytes : List Byte
  weak : Bool
deriving DecidableEq, Repr

/-- A buffered leaf (R523): hall, tag, level (1 4 KiB, 2 2 MiB, 3 1 GiB), virtual and physical base, the low 12 bits of
the entry as buffered, and the physical address of the entry. -/
structure TlbLeaf where
  hall : Hall
  tag : Nat
  level : Nat
  va : Nat
  pa : Nat
  flags : Nat
  pte : Nat
deriving DecidableEq, Repr

/-- A walk-cache entry (R523): the table that an entry of `level` (4, 3 or 2) names, for the range at `va`. -/
structure WalkEntry where
  hall : Hall
  tag : Nat
  level : Nat
  va : Nat
  table : Nat
deriving DecidableEq, Repr

/-- An open held window (R499): its n, the count limit, and the instructions retired in it. -/
structure HoldWin where
  n : Nat
  limit : Nat
  count : Nat
deriving DecidableEq, Repr

/-- A machine check due on a core (R793): class, segment (0xF none), fault address when known. -/
structure McDue where
  cls : Nat
  seg : Nat
  fa : Option Word
deriving DecidableEq, Repr

/-- The events of R481 that are due on a core and not yet entered. -/
structure Due where
  mc : List McDue
  devWatchdog : Bool
  watchdog : Bool
  hallPStop : Bool
deriving DecidableEq, Repr

/-- One Aedori core: the registers of R257 to R267, FTA (R404), the control registers of both banks (R467, R507, R546;
listed where they differ from reset), the store buffer, the look-aside buffers, the key cache (R537), the held window,
the events due, and the states of not executing (asleep R327, halted R792, waiting in JOBGET R320). -/
structure Core where
  w : Vector Word 31
  sp : Vector Word 8
  pc : Word
  f : Vector Quad 32
  da : Vector Acc128 8
  csw : Word
  fcsw : Word
  fta : Word
  ftaOp : Nat
  fpNew : Nat
  crL : List (Nat × Word)
  crP : List (Nat × Word)
  sb : List SbEntry
  tlb : List TlbLeaf
  wcache : List WalkEntry
  keys : List (Nat × List Byte)
  hold : Option HoldWin
  due : Due
  asleep : Bool
  jobWait : Bool
  halted : Bool
  stepOne : Bool
  haltReq : Option Hall
  tbHi : Long
deriving DecidableEq, Repr

/-- No event due. -/
def Due.none : Due := ⟨[], false, false, false⟩

/-- A core after cold, warm or core reset (R263). -/
def Core.reset : Core where
  w := Vector.replicate 31 0
  sp := Vector.replicate 8 0
  pc := 0xFFFFFF0000#48
  f := Vector.replicate 32 0
  da := Vector.replicate 8 0xC#128
  csw := 0xF000#48
  fcsw := 0
  fta := 0
  ftaOp := 0
  fpNew := 0
  crL := []
  crP := []
  sb := []
  tlb := []
  wcache := []
  keys := []
  hold := Option.none
  due := Due.none
  asleep := false
  jobWait := false
  halted := false
  stepOne := false
  haltReq := Option.none
  tbHi := 0

/-! ### Memory and the link -/

/-- The DRAM controller beside its registers: trained, in self-refresh, installed size in units of 256 MiB
(MEM_STAT.USABLE, R753), the density the parts report in MR8 (a SIZE code), lines with an uncorrectable and with a
correctable error (R757), and whether a wait of R153 (oscillator, self-refresh exit) is still on. -/
structure DramCtl where
  trained : Bool
  selfRef : Bool
  usable : Nat
  mr8 : Nat
  eccBad : List Nat
  eccSoft : List Nat
  ready : Bool
deriving DecidableEq, Repr

/-! ### Power, reset and the non-volatile blocks -/

/-- Where the device stands between full power and the Cistern state (R144 to R148): awake; entry begun and not committed;
the release run under way and committed; asleep; waking, rails being driven. -/
inductive CisPhase
  | awake | entering | releasing | asleep | waking
deriving DecidableEq, Repr

/-- Power-on state, the boot ROM, the T island's source, and the OTP and calibration store (R112 to R155, R50, R51).
`fabricRails` is the set of slots that carry the fabric's own supplies, which the board chooses (R167). -/
structure Pwr where
  aonUp : Bool
  fabricUp : Bool
  tableRun : Bool
  hostBoot : Bool
  bootLen : Nat
  lifecycle : Nat
  fabricRails : Nat
  otp : List (Nat × Long)
  otpBusy : Option (Nat × Long)
  bank0 : List (Nat × Byte)
  bank1 : List (Nat × Byte)
  calActive : Option Nat
  calBusy : Bool
  adcTrim : List Nat
  cis : CisPhase
  tsrc32 : Bool
  tacc : Nat
  osc24 : Bool
  wakePend : Nat
  wakeGalL : Bool
deriving DecidableEq, Repr

/-! ### The rail sequencer -/

/-- SEQ_STAT.STATE (R210). -/
inductive SeqState
  | off | up | on | partial' | down | collapsed | kwait | restart
deriving DecidableEq, Repr

/-- Why slots are being released in shutdown-table order: SEQ_STEPCTL.DOWN or an abort (R176, R204), a Cistern release run
(R145), the fault actions DEPENDANTS and RESTART (R172, R173). -/
inductive RelKind
  | down | cistern | dependants | restart
deriving DecidableEq, Repr

/-- A release run: its slots, the entry it has reached, and whether it waits for that entry's discharge. -/
structure RelRun where
  kind : RelKind
  slots : Nat
  idx : Nat
  wait : Bool
deriving DecidableEq, Repr

/-- A PMBus command queued for I2C port 1 (R185, R191, R196): slot, address, page, VOUT code, and the margin a margin
command puts in force. -/
structure PmbCmd where
  tempo : Bool
  slot : Nat
  addr : Nat
  page : Nat
  vout : Nat
  margin : Nat
deriving DecidableEq, Repr

/-- The sequencer (R156 to R209): state, up-step, slots driven in the step and not yet up or failed, slots failed in this
run, whether STEPDLY or a strobe is awaited, release runs, PG inputs, KSYNC, tempo control, PMBus queue, MDAC currents. -/
structure Seq where
  state : SeqState
  step : Nat
  ramping : Nat
  failed : Nat
  stepDone : Bool
  kReady : Bool
  rel : List RelRun
  pg : Nat
  colArmed : Bool
  klead : Bool
  kline : Bool
  kdrive : Bool
  level : Nat
  upCnt : Nat
  dnCnt : Nat
  settleFrom : Option Nat
  pmb : List PmbCmd
  mdac : List Int
deriving DecidableEq, Repr

/-! ### Sense windows and the monitor ADC -/

/-- Window outputs and raw samples, coded as WIN_LIVE codes them: 0 UNKNOWN, 1 BELOW, 2 INSIDE, 3 ABOVE (R245); the stored
samples newest first. -/
structure Win where
  out : Nat
  raw : Nat
  samples : List Nat
deriving DecidableEq, Repr

/-- A snapshot requested and not yet written (R236 to R242). -/
structure SnapReq where
  slot : Nat
  kind : Nat
  mask : Nat
  time : Quad
  flt : List Nat
  live : Nat
  late : Bool
deriving DecidableEq, Repr

/-- The monitor ADC: the scan (running, waiting for the next pass, entry, samples left in it, pass count), channel, gain and
order of the sample delivered before, settling samples left, snapshots in the order they run, snapshots completed. -/
structure Adc where
  run : Bool
  waitPass : Bool
  entry : Nat
  left : Nat
  pass : Nat
  prev : Option (Nat × Nat × Nat)
  settle : Nat
  snaps : List SnapReq
  seqno : Nat
deriving DecidableEq, Repr

/-! ### Bells, the host link, and the Pump with its engines -/

/-- The bell controller: pending edge sources per core, and the firings held for want of a core (R492, R493). -/
structure Bells where
  pend : List (List Nat)
  held : List Nat
deriving DecidableEq, Repr

/-- The PCI Express function (R739 to R751, R625): link trained, Bus Master Enable, D-state (0 D0, 3 D3hot), link power
state (0 L0, 1 L1, 2 L1.1, 3 L1.2, 4 L2/L3 Ready), PERST# asserted, trained rate and width, BAR4 as in effect, MSI and MSI-X,
Device Control 2 timeout value, PME, ASPM and L1 substate enables, AER errors reported (bit 0 Completer Abort, 1 completion
timeout, 2 dropped posted write), MSI-X messages held unsent. -/
structure Link where
  up : Bool
  bme : Bool
  dState : Nat
  lp : Nat
  perst : Bool
  rate : Nat
  width : Nat
  bar4 : Bool
  msi : Bool
  msix : Bool
  msixMask : Bool
  msiLog : Nat
  msiAddr : Nat
  msiData : Nat
  msiMask : Nat
  msiPend : Nat
  msixWait : List Nat
  cto : Nat
  pmeEn : Bool
  pmeStat : Bool
  wakeN : Bool
  aspm : Bool
  l1ss : Nat
  mps : Nat
  mrrs : Nat
  aer : Nat
deriving DecidableEq, Repr

/-- What the Pump keeps on chip for a well (R550): enabled, draining, fetching stopped until the next doorbell or kick, and the
re-reads made of a stale entry being watched (R590). PAUSED is computed from the link (R120). -/
structure WellOn where
  enable : Bool
  draining : Bool
  stopped : Bool
  stale : Option Nat
deriving DecidableEq, Repr

/-- A cached well context (R598): its sixteen longs, and whether the image in DRAM is stale. -/
structure WellCtx where
  longs : List Nat
  dirty : Bool
deriving DecidableEq, Repr

/-- A job as fetched (R568, R106): its well, index of the first descriptor, descriptors, generation, phase expected at its
index, the settings of its epoch, its bytes, the copy a core job carries (R613, R630), the status of a failed check of R569, and how often it has been requeued. -/
structure Job where
  well : Nat
  idx : Nat
  ndesc : Nat
  gen : Nat
  phase : Nat
  hall : Hall
  fkey : Nat
  ckind : Nat
  lch : Nat
  coreset : Nat
  cq : Nat
  inPlace : Bool
  lease : Nat
  bytes : List Byte
  copy : List Byte
  status : Option Nat
  requeues : Nat
deriving DecidableEq, Repr

/-- Where a job in flight is: an inlet slot of a core with its tag, taken by JOBGET or not, lease expired or not; the
journal engine; still at it and waiting to be flushed with its SEQ (an APPEND in DURABLE mode, a FLUSH); a copy lane; a latch channel; the Pump. -/
inductive Loc
  | core (c : Nat) (h : Hall) (slot tag : Nat) (taken expired : Bool)
  | journal
  | durable (seq : Nat)
  | flush (seq : Nat)
  | copy (lane : Nat)
  | latch (ch : Nat)
  | pump
deriving DecidableEq, Repr

/-- The outcome of a job whose completion is not yet written (R623). -/
structure Done where
  status : Nat
  result : Nat
  src : Nat
deriving DecidableEq, Repr

/-- A job in flight. -/
structure Flight where
  job : Job
  loc : Loc
  done : Option Done
deriving DecidableEq, Repr

/-- A cistern with its old settings, for wells that have not crossed (R632). -/
structure OldCis where
  cis : Nat
  level : Nat
  weight : Nat
  deficit : Nat
deriving DecidableEq, Repr

/-- The Pump (R548 to R635). -/
structure Pump where
  wells : List (Nat × WellOn)
  cache : List (Nat × WellCtx)
  fetched : List Job
  requeued : List Job
  flight : List Flight
  issue : List Nat
  hot : List Nat
  coldWait : List Nat
  levelAt : List Nat
  arrived : List Bool
  lastWell : List (Nat × Nat)
  epPend : List Nat
  epList : List (Nat × Nat × Nat)
  oldCis : List OldCis
  keys : List (Nat × List Byte)
  wsel : List Nat
deriving DecidableEq, Repr

/-- A flush batch under way (R649): the staging offset it ends at, its last SEQ, and the staging offset it has copied up to. -/
structure Batch where
  stEnd : Nat
  lastSeq : Nat
  pos : Nat
deriving DecidableEq, Repr

/-- The journal and copy engines beside their registers: the batch, whether the destination is full, and their key caches. -/
structure Engines where
  batch : Option Batch
  destFull : Bool
  jnlKeys : List (Nat × List Byte)
  cpyKeys : List (Nat × List Byte)
deriving DecidableEq, Repr

/-! ### Gallery, latch channels, charger -/

/-- A Gallery timer (R671, R672), with its deadline on the timebase. -/
inductive GTimer
  | idle
  | running (deadline : Nat)
  | expired
deriving DecidableEq, Repr

/-- The Gallery beside its registers (R666 to R698): running, active bank, swap awaiting the end of a sweep, the bank check under
way (of a START or of a SWAP, with its bank), timers, EDGE bits, edge detectors whose next sample is their first, FIRST, the post queue,
the program index, ACC, and the snapshot of the inputs 0x000 to 0x0FF. -/
structure Gal where
  run : Bool
  bank : Nat
  swapPend : Bool
  check : Option (Bool × Nat)
  timers : List GTimer
  edges : Nat
  fresh : Nat
  first : Bool
  queue : List Nat
  idx : Nat
  acc : Bool
  snap : Nat
deriving DecidableEq, Repr

/-- Where a pulse stands (R702): select, pull-in, hold, release, and order 6 with the gate off. -/
inductive PulsePhase
  | select | pullIn | hold | release | off
deriving DecidableEq, Repr

/-- A pulse under way with the profile it read (R703), what the rules set (R705 to R710), and the last current and duty sensed. -/
structure Pulse where
  door : Nat
  profile : Nat
  gallery : Bool
  ipull : Nat
  ihold : Nat
  tpull : Nat
  thold : Nat
  tblank : Nat
  tcomp : Nat
  trel : Nat
  ramp : Bool
  phase : PulsePhase
  armed : Bool
  comply : Bool
  nostart : Bool
  abort : Bool
  opened : Bool
  short : Bool
  fault : Option Nat
  peak : Nat
  duty : Nat
  current : Nat
deriving DecidableEq, Repr

/-- A latch channel: the pulse under way, the door on DSELn (R701), the status of the last completed pulse for the bits of R675
(cleared when a pulse starts). -/
structure LatchCh where
  pulse : Option Pulse
  door : Nat
  outcome : Option Nat
deriving DecidableEq, Repr

/-- The charger (R719 to R735): STATE, PRESENT, SCAUSE, FCAUSE, VAON taken from the cell, confirming probes in a row, and VBAT (mV) and
the NTC code as last measured. -/
structure Chg where
  state : Nat
  present : Bool
  scause : Nat
  fcause : Nat
  oncell : Bool
  probes : Nat
  vbat : Nat
  ntc : Nat
deriving DecidableEq, Repr

/-! ### Ports, flash, JTAG, clocks, fault recovery -/

/-- A UART (R768 to R771): the transmit and receive FIFOs, a frame on the wire, the RS-485 driver enabled, CTSu_N high. -/
structure Uart where
  tx : List Nat
  rx : List Nat
  sending : Bool
  de : Bool
  ctsHigh : Bool
deriving DecidableEq, Repr

/-- An I²C transfer under way (R773): started by the sequencer, the bytes sent from the address byte on, bytes to read, and the
sequencer's transfers that follow it (R776). -/
structure I2cXfer where
  seqr : Bool
  sent : List Nat
  rlen : Nat
  more : List (List Nat)
deriving DecidableEq, Repr

/-- A flash command under way (R767): FSP_CMD, FSP_ADDR and FSP_BUF as they stood at GO. -/
structure FlashCmd where
  cmd : Nat
  addr : Nat
  data : List Byte
deriving DecidableEq, Repr

/-- The JTAG port (R786 to R791): instruction, the update stage of the boundary-scan register, what was last captured from the balls,
and the status and data a DBGACC capture returns. -/
structure Jtag where
  ir : Nat
  cells : BitVec 489
  captured : BitVec 489
  status : Nat
  data : Long
deriving DecidableEq, Repr

/-- The parts of the T island's counters below their registers (R45, R50, R782): progress towards the next 32.768 kHz cycle in units of
64/46,875, the 32.768 kHz cycles that RTC trim still skips, timebase counts within the millisecond, milliseconds of charging within the minute,
and the capture of TMB_TBHI for the host (R781). -/
structure Clk where
  sub32 : Nat
  skip : Nat
  ms : Nat
  minute : Nat
  hostTbHi : Long
deriving DecidableEq, Repr

/-- Fault recovery: the segments whose unfence was accepted and is not complete (R801), the first half of the WDD service sequence
written (R815), the lease locks whose revocation is not complete (R805, R811), and whether WDL has expired since its last service
(R473). -/
structure Flt where
  unfencing : List Nat
  wddHalf : Bool
  revoking : List Nat
  wdlOnce : Bool
deriving DecidableEq, Repr

/-- What the last read returned to its source, or how the last host request ended: status 0 done, 1 Completer Abort (R62, R742),
2 Unsupported Request (R747); the dwords returned. -/
structure Resp where
  status : Nat
  data : List Nat
deriving DecidableEq, Repr

/-! ### The whole block -/

/-- The state of the block: the queue of commands; the variant; the counter of free values (the model's own field); set-up
registers and staged values, listed where they differ from reset; memory, host memory, and the losses of DRAM and flash contents so far
(they index the free values of lost contents, the model's own fields); then one field per unit. -/
structure State where
  pending : List Instr
  variant : Variant
  freeCtr : Nat
  regs : List (Nat × Long)
  staged : List (Nat × Long)
  mem : List Host.Cell
  host : List Host.Cell
  dramGen : Nat
  dram : DramCtl
  flashGen : Nat
  flashBusy : Bool
  flashCmd : Option FlashCmd
  link : Link
  tb : Quad
  clk : Clk
  cores : Vector Core 4
  pwr : Pwr
  seq : Seq
  wins : List Win
  adc : Adc
  bel : Bells
  pump : Pump
  eng : Engines
  gal : Gal
  latch : List LatchCh
  chg : Chg
  uarts : List Uart
  i2c : List (Option I2cXfer)
  bankUp : List Bool
  jtag : Jtag
  flt : Flt
  resp : Resp
deriving DecidableEq, Repr

/-! ### Stops -/

/-- Why a command ends in a fault: it has no constructor, since every command of the table has an effect, or is one the spec says
changes nothing. -/
inductive Fault
deriving DecidableEq, Repr

/-- Why a command is refused. -/
inductive Refusal
  /-- A command whose meaning is not written; raised by an arm of `exec` (safe). -/
  | notModelled (mnemonic : String)
deriving DecidableEq, Repr

/-! ### Reset -/

/-- The DRAM controller at cold reset. -/
def DramCtl.reset : DramCtl := ⟨false, false, 0, 2, [], [], true⟩

/-- The power state with cold reset asserted: nothing released, the calibration banks and OTP unprogrammed (log entry 16). -/
def Pwr.reset : Pwr where
  aonUp := false
  fabricUp := false
  tableRun := false
  hostBoot := false
  bootLen := 0
  lifecycle := 0
  fabricRails := 0
  otp := []
  otpBusy := none
  bank0 := []
  bank1 := []
  calActive := none
  calBusy := false
  adcTrim := []
  cis := .awake
  tsrc32 := false
  tacc := 0
  osc24 := false
  wakePend := 0
  wakeGalL := false

/-- The sequencer after cold reset (R210): OFF, KSYNC released, level 4 commanded (R195). -/
def Seq.reset : Seq where
  state := .off
  step := 0
  ramping := 0
  failed := 0
  stepDone := false
  kReady := false
  rel := []
  pg := 0
  colArmed := false
  klead := false
  kline := true
  kdrive := false
  level := 4
  upCnt := 0
  dnCnt := 0
  settleFrom := none
  pmb := []
  mdac := [0, 0, 0, 0]

/-- A window with no samples: UNKNOWN (R221). -/
def Win.unknown : Win := ⟨0, 0, []⟩

/-- The ADC after cold reset. -/
def Adc.reset : Adc := ⟨false, false, 0, 0, 0, none, 0, [], 0⟩

/-- The bell controller with nothing pending. -/
def Bells.reset : Bells := ⟨[[], [], [], []], []⟩

/-- The link before training (R739): PERST# asserted. -/
def Link.reset : Link where
  up := false
  bme := false
  dState := 0
  lp := 0
  perst := true
  rate := 0
  width := 0
  bar4 := false
  msi := false
  msix := false
  msixMask := false
  msiLog := 0
  msiAddr := 0
  msiData := 0
  msiMask := 0
  msiPend := 0
  msixWait := []
  cto := 0
  pmeEn := false
  pmeStat := false
  wakeN := false
  aspm := false
  l1ss := 0
  mps := 0
  mrrs := 0
  aer := 0

/-- The Pump with nothing enabled. -/
def Pump.reset : Pump where
  wells := []
  cache := []
  fetched := []
  requeued := []
  flight := []
  issue := List.replicate 64 0
  hot := []
  coldWait := []
  levelAt := [0, 0, 0, 0]
  arrived := [false, false, false, false]
  lastWell := []
  epPend := []
  epList := []
  oldCis := []
  keys := []
  wsel := [0x7FFF, 0x7FFF, 0x7FFF]

/-- The engines at rest. -/
def Engines.reset : Engines := ⟨none, false, [], []⟩

/-- The Gallery stopped (R693). -/
def Gal.reset : Gal where
  run := false
  bank := 0
  swapPend := false
  check := none
  timers := List.replicate 64 .idle
  edges := 0
  fresh := 0xFFFFFFFF
  first := false
  queue := []
  idx := 0
  acc := false
  snap := 0

/-- A free latch channel, its door at 0 (R701). -/
def LatchCh.reset : LatchCh := ⟨none, 0, none⟩

/-- The charger OFF (R719). -/
def Chg.reset : Chg := ⟨0, false, 0, 0, false, 0, 0, 0⟩

/-- A UART with empty FIFOs. -/
def Uart.reset : Uart := ⟨[], [], false, false, false⟩

/-- The JTAG port after Test-Logic-Reset, IDCODE selected (log entry 17). -/
def Jtag.reset : Jtag := ⟨1, 0, 0, 0, 0⟩

/-- Fault recovery at rest. -/
def Flt.reset : Flt := ⟨[], false, [], false⟩

/-- The machine with cold reset asserted (R113), every register at its reset value: what stands before AON_RELEASE. -/
def State.reset : State where
  pending := []
  variant := .f4
  freeCtr := 0
  regs := []
  staged := []
  mem := []
  host := []
  dramGen := 0
  dram := DramCtl.reset
  flashGen := 0
  flashBusy := false
  flashCmd := none
  link := Link.reset
  tb := 0
  clk := ⟨0, 0, 0, 0, 0⟩
  cores := Vector.replicate 4 Core.reset
  pwr := Pwr.reset
  seq := Seq.reset
  wins := List.replicate 16 Win.unknown
  adc := Adc.reset
  bel := Bells.reset
  pump := Pump.reset
  eng := Engines.reset
  gal := Gal.reset
  latch := List.replicate 4 LatchCh.reset
  chg := Chg.reset
  uarts := List.replicate 4 Uart.reset
  i2c := [none, none]
  bankUp := List.replicate 6 true
  jtag := Jtag.reset
  flt := Flt.reset
  resp := ⟨0, []⟩

end Sys2Proof.Machine
end

