-- ==== Sys2Proof/Machine/Regs.lean ====
section
/-! DEFINITION. The set-up registers: one descriptor per register family, transcribed from the register tables of
the spec (R6, R79, R86, R111, R135, R155, R210, R245, R246, R498, R545, R597, R635, R665, R699, R737, R738, R752, R761,
R767, R771, R777, R780, R785, R791, R819, R820, R821 and the CAL layout of R143), and one named field constant per field.
Docstrings of the field constants name the register; the rule of a register stands beside its descriptor. -/
namespace Sys2Proof.Machine

/-! ### Field constants -/
namespace F
/-- ID_PART.PART (R6). -/
def ID_PART_PART : Fld := ⟨0x0, 31, 0, 0x0, 0x0⟩
/-- ID_STEP.STEP (R6). -/
def ID_STEP_STEP : Fld := ⟨0x4, 31, 0, 0x0, 0x0⟩
/-- ID_CAP.CAP (R6). -/
def ID_CAP_CAP : Fld := ⟨0x10, 31, 0, 0x4, 0x0⟩
/-- ID_OTPPROG.GO (R135). -/
def ID_OTPPROG_GO : Fld := ⟨0x100, 31, 31, 0x0, 0x0⟩
/-- ID_OTPPROG.INDEX (R135). -/
def ID_OTPPROG_INDEX : Fld := ⟨0x100, 8, 0, 0x0, 0x0⟩
/-- ID_OTPDATA.DATA (R135). -/
def ID_OTPDATA_DATA : Fld := ⟨0x104, 31, 0, 0x0, 0x0⟩
/-- ID_OTPSTAT.ERR (R135). -/
def ID_OTPSTAT_ERR : Fld := ⟨0x108, 1, 1, 0x0, 0x0⟩
/-- ID_OTPSTAT.BUSY (R135). -/
def ID_OTPSTAT_BUSY : Fld := ⟨0x108, 0, 0, 0x0, 0x0⟩
/-- ID_OTP.WORD (R130). -/
def ID_OTP_WORD : Fld := ⟨0x800, 31, 0, 0x4, 0x0⟩
/-- CFG_HOSTACC.GRANT (R79). -/
def CFG_HOSTACC_GRANT : Fld := ⟨0x10100, 22, 0, 0x0, 0x0⟩
/-- CFG_HALLPACC.GRANT (R79). -/
def CFG_HALLPACC_GRANT : Fld := ⟨0x10104, 22, 0, 0x0, 0x0⟩
/-- CFG_ACCLOCK.LOCK (R79). -/
def CFG_ACCLOCK_LOCK : Fld := ⟨0x10108, 0, 0, 0x0, 0x0⟩
/-- CFG_DENYREC.VALID (R79). -/
def CFG_DENYREC_VALID : Fld := ⟨0x1010c, 31, 31, 0x0, 0x0⟩
/-- CFG_DENYREC.SRC (R79). -/
def CFG_DENYREC_SRC : Fld := ⟨0x1010c, 30, 29, 0x0, 0x0⟩
/-- CFG_DENYREC.CAUSE (R79). -/
def CFG_DENYREC_CAUSE : Fld := ⟨0x1010c, 28, 28, 0x0, 0x0⟩
/-- CFG_DENYREC.BLOCK (R79). -/
def CFG_DENYREC_BLOCK : Fld := ⟨0x1010c, 23, 19, 0x0, 0x0⟩
/-- CFG_DENYREC.OFFSET (R79). -/
def CFG_DENYREC_OFFSET : Fld := ⟨0x1010c, 18, 0, 0x0, 0x0⟩
/-- CFG_CLAMPWR.NEXT (R86). -/
def CFG_CLAMPWR_NEXT : Fld := ⟨0x10200, 5, 0, 0x0, 0x0⟩
/-- CFG_CLAMPTOT.TOTAL (R86). -/
def CFG_CLAMPTOT_TOTAL : Fld := ⟨0x10204, 31, 0, 0x0, 0x0⟩
/-- CFG_CLAMPCTL.CLEAR (R86). -/
def CFG_CLAMPCTL_CLEAR : Fld := ⟨0x10208, 0, 0, 0x0, 0x0⟩
/-- CFG_CLAMPLOG.WORD (R86). -/
def CFG_CLAMPLOG_WORD : Fld := ⟨0x10800, 31, 0, 0x20, 0x4⟩
/-- PWR_RSTCAUSE.CAUSE (R155). -/
def PWR_RSTCAUSE_CAUSE : Fld := ⟨0x20100, 6, 0, 0x0, 0x0⟩
/-- PWR_RSTCTL.HALLP (R155). -/
def PWR_RSTCTL_HALLP : Fld := ⟨0x20104, 1, 1, 0x0, 0x0⟩
/-- PWR_RSTCTL.WARM (R155). -/
def PWR_RSTCTL_WARM : Fld := ⟨0x20104, 0, 0, 0x0, 0x0⟩
/-- PWR_HALLPCTL.BUSY (R155). -/
def PWR_HALLPCTL_BUSY : Fld := ⟨0x20108, 1, 1, 0x0, 0x0⟩
/-- PWR_HALLPCTL.ENABLE (R155). -/
def PWR_HALLPCTL_ENABLE : Fld := ⟨0x20108, 0, 0, 0x0, 0x0⟩
/-- PWR_CORERST.HOLD (R155). -/
def PWR_CORERST_HOLD : Fld := ⟨0x2010c, 3, 0, 0x0, 0x0⟩
/-- PWR_COREENT_LO.ADDR (R155). -/
def PWR_COREENT_LO_ADDR : Fld := ⟨0x20110, 30, 0, 0x0, 0x0⟩
/-- PWR_COREENT_HI.ADDR (R155). -/
def PWR_COREENT_HI_ADDR : Fld := ⟨0x20114, 8, 0, 0x0, 0x0⟩
/-- PWR_CISCTL.XT24ON (R155). -/
def PWR_CISCTL_XT24ON : Fld := ⟨0x20118, 1, 1, 0x0, 0x0⟩
/-- PWR_CISCTL.ALLOW (R155). -/
def PWR_CISCTL_ALLOW : Fld := ⟨0x20118, 0, 0, 0x0, 0x0⟩
/-- PWR_CISRAILS.SLOTS (R155). -/
def PWR_CISRAILS_SLOTS : Fld := ⟨0x2011c, 15, 0, 0x0, 0x0⟩
/-- PWR_WAKEEN.EN (R155). -/
def PWR_WAKEEN_EN : Fld := ⟨0x20120, 5, 0, 0x0, 0x0⟩
/-- PWR_WAKEROUTE.ROUTE (R155). -/
def PWR_WAKEROUTE_ROUTE : Fld := ⟨0x20124, 5, 1, 0x0, 0x0⟩
/-- PWR_WAKESRC.SRC (R155). -/
def PWR_WAKESRC_SRC : Fld := ⟨0x20128, 5, 0, 0x0, 0x0⟩
/-- PWR_WAKETIME.TIME (R155). -/
def PWR_WAKETIME_TIME : Fld := ⟨0x2012c, 31, 0, 0x0, 0x0⟩
/-- PWR_WAKEVECL.VEC (R155). -/
def PWR_WAKEVECL_VEC : Fld := ⟨0x20130, 15, 2, 0x0, 0x0⟩
/-- PWR_WAKEVECP.VEC (R155). -/
def PWR_WAKEVECP_VEC : Fld := ⟨0x20134, 15, 2, 0x0, 0x0⟩
/-- PWR_BOOTSTAT.ROLLBACK (R155). -/
def PWR_BOOTSTAT_ROLLBACK : Fld := ⟨0x20140, 23, 16, 0x0, 0x0⟩
/-- PWR_BOOTSTAT.BOOTSEL (R155). -/
def PWR_BOOTSTAT_BOOTSEL : Fld := ⟨0x20140, 11, 10, 0x0, 0x0⟩
/-- PWR_BOOTSTAT.SOURCE (R155). -/
def PWR_BOOTSTAT_SOURCE : Fld := ⟨0x20140, 9, 8, 0x0, 0x0⟩
/-- PWR_BOOTSTAT.CODE (R155). -/
def PWR_BOOTSTAT_CODE : Fld := ⟨0x20140, 7, 0, 0x0, 0x0⟩
/-- SEQ_STEPCTL.STEPDLY (R210). -/
def SEQ_STEPCTL_STEPDLY : Fld := ⟨0x30100, 23, 16, 0x0, 0x0⟩
/-- SEQ_STEPCTL.ABORT (R210). -/
def SEQ_STEPCTL_ABORT : Fld := ⟨0x30100, 2, 2, 0x0, 0x0⟩
/-- SEQ_STEPCTL.DOWN (R210). -/
def SEQ_STEPCTL_DOWN : Fld := ⟨0x30100, 1, 1, 0x0, 0x0⟩
/-- SEQ_STEPCTL.GO (R210). -/
def SEQ_STEPCTL_GO : Fld := ⟨0x30100, 0, 0, 0x0, 0x0⟩
/-- SEQ_UPMASK.DRIVEN (R210). -/
def SEQ_UPMASK_DRIVEN : Fld := ⟨0x30104, 31, 16, 0x0, 0x0⟩
/-- SEQ_UPMASK.UP (R210). -/
def SEQ_UPMASK_UP : Fld := ⟨0x30104, 15, 0, 0x0, 0x0⟩
/-- SEQ_FLTCFG.MAINSQUAL (R210). -/
def SEQ_FLTCFG_MAINSQUAL : Fld := ⟨0x30108, 27, 16, 0x0, 0x0⟩
/-- SEQ_FLTCFG.RESTARTDLY (R210). -/
def SEQ_FLTCFG_RESTARTDLY : Fld := ⟨0x30108, 15, 8, 0x0, 0x0⟩
/-- SEQ_FLTCFG.RETRIES (R210). -/
def SEQ_FLTCFG_RETRIES : Fld := ⟨0x30108, 2, 0, 0x0, 0x0⟩
/-- SEQ_RESTARTS.COUNT (R210). -/
def SEQ_RESTARTS_COUNT : Fld := ⟨0x3010c, 7, 0, 0x0, 0x0⟩
/-- SEQ_FLTREC0.VALID (R210). -/
def SEQ_FLTREC0_VALID : Fld := ⟨0x30110, 31, 31, 0x0, 0x0⟩
/-- SEQ_FLTREC0.SNAP (R210). -/
def SEQ_FLTREC0_SNAP : Fld := ⟨0x30110, 30, 28, 0x0, 0x0⟩
/-- SEQ_FLTREC0.SNAPOK (R210). -/
def SEQ_FLTREC0_SNAPOK : Fld := ⟨0x30110, 27, 27, 0x0, 0x0⟩
/-- SEQ_FLTREC0.CAUSE (R210). -/
def SEQ_FLTREC0_CAUSE : Fld := ⟨0x30110, 23, 20, 0x0, 0x0⟩
/-- SEQ_FLTREC0.STEP (R210). -/
def SEQ_FLTREC0_STEP : Fld := ⟨0x30110, 19, 15, 0x0, 0x0⟩
/-- SEQ_FLTREC0.SLOT (R210). -/
def SEQ_FLTREC0_SLOT : Fld := ⟨0x30110, 4, 0, 0x0, 0x0⟩
/-- SEQ_FLTREC1.TIME (R210). -/
def SEQ_FLTREC1_TIME : Fld := ⟨0x30114, 31, 0, 0x0, 0x0⟩
/-- SEQ_FLTREC2.SKIPPED (R210). -/
def SEQ_FLTREC2_SKIPPED : Fld := ⟨0x30118, 31, 16, 0x0, 0x0⟩
/-- SEQ_FLTREC2.RELEASED (R210). -/
def SEQ_FLTREC2_RELEASED : Fld := ⟨0x30118, 15, 0, 0x0, 0x0⟩
/-- SEQ_KCFG.GAP (R210). -/
def SEQ_KCFG_GAP : Fld := ⟨0x30120, 25, 16, 0x0, 0x0⟩
/-- SEQ_KCFG.LAST (R210). -/
def SEQ_KCFG_LAST : Fld := ⟨0x30120, 8, 4, 0x0, 0x0⟩
/-- SEQ_KCFG.FAILABORT (R210). -/
def SEQ_KCFG_FAILABORT : Fld := ⟨0x30120, 1, 1, 0x0, 0x0⟩
/-- SEQ_KCFG.ENABLE (R210). -/
def SEQ_KCFG_ENABLE : Fld := ⟨0x30120, 0, 0, 0x0, 0x0⟩
/-- SEQ_KSTAT.ABORTS (R210). -/
def SEQ_KSTAT_ABORTS : Fld := ⟨0x30124, 23, 16, 0x0, 0x0⟩
/-- SEQ_KSTAT.HOLDING (R210). -/
def SEQ_KSTAT_HOLDING : Fld := ⟨0x30124, 8, 8, 0x0, 0x0⟩
/-- SEQ_KSTAT.STROBES (R210). -/
def SEQ_KSTAT_STROBES : Fld := ⟨0x30124, 5, 0, 0x0, 0x0⟩
/-- SEQ_TEMPOCTL.MANUAL (R210). -/
def SEQ_TEMPOCTL_MANUAL : Fld := ⟨0x30140, 26, 24, 0x0, 0x0⟩
/-- SEQ_TEMPOCTL.SLOT (R210). -/
def SEQ_TEMPOCTL_SLOT : Fld := ⟨0x30140, 20, 16, 0x0, 0x0⟩
/-- SEQ_TEMPOCTL.MODE (R210). -/
def SEQ_TEMPOCTL_MODE : Fld := ⟨0x30140, 1, 1, 0x0, 0x0⟩
/-- SEQ_TEMPOCTL.ENABLE (R210). -/
def SEQ_TEMPOCTL_ENABLE : Fld := ⟨0x30140, 0, 0, 0x0, 0x0⟩
/-- SEQ_TEMPOFLR.FLOOR (R210). -/
def SEQ_TEMPOFLR_FLOOR : Fld := ⟨0x30144, 2, 0, 0x0, 0x0⟩
/-- SEQ_TEMPOCEIL.CEIL (R210). -/
def SEQ_TEMPOCEIL_CEIL : Fld := ⟨0x30148, 2, 0, 0x0, 0x0⟩
/-- SEQ_TEMPODN.DN (R210). -/
def SEQ_TEMPODN_DN : Fld := ⟨0x3014c, 15, 0, 0x0, 0x0⟩
/-- SEQ_TEMPOUP.UP (R210). -/
def SEQ_TEMPOUP_UP : Fld := ⟨0x30150, 15, 0, 0x0, 0x0⟩
/-- SEQ_TEMPOTIM.DNN (R210). -/
def SEQ_TEMPOTIM_DNN : Fld := ⟨0x30154, 27, 24, 0x0, 0x0⟩
/-- SEQ_TEMPOTIM.UPN (R210). -/
def SEQ_TEMPOTIM_UPN : Fld := ⟨0x30154, 19, 16, 0x0, 0x0⟩
/-- SEQ_TEMPOTIM.PERIOD (R210). -/
def SEQ_TEMPOTIM_PERIOD : Fld := ⟨0x30154, 9, 0, 0x0, 0x0⟩
/-- SEQ_TEMPOSET.TOL (R210). -/
def SEQ_TEMPOSET_TOL : Fld := ⟨0x30158, 25, 16, 0x0, 0x0⟩
/-- SEQ_TEMPOSET.SETTLE (R210). -/
def SEQ_TEMPOSET_SETTLE : Fld := ⟨0x30158, 9, 0, 0x0, 0x0⟩
/-- SEQ_TEMPOLVL.VOUT (R210). -/
def SEQ_TEMPOLVL_VOUT : Fld := ⟨0x30160, 31, 16, 0x4, 0x0⟩
/-- SEQ_TEMPOLVL.WNOM (R210). -/
def SEQ_TEMPOLVL_WNOM : Fld := ⟨0x30160, 9, 0, 0x4, 0x0⟩
/-- SEQ_SLOT_CFG.RAMPTO (R210). -/
def SEQ_SLOT_CFG_RAMPTO : Fld := ⟨0x31000, 27, 16, 0x20, 0x0⟩
/-- SEQ_SLOT_CFG.DROPCHK (R210). -/
def SEQ_SLOT_CFG_DROPCHK : Fld := ⟨0x31000, 15, 15, 0x20, 0x0⟩
/-- SEQ_SLOT_CFG.FAULTACT (R210). -/
def SEQ_SLOT_CFG_FAULTACT : Fld := ⟨0x31000, 14, 13, 0x20, 0x0⟩
/-- SEQ_SLOT_CFG.WIN (R210). -/
def SEQ_SLOT_CFG_WIN : Fld := ⟨0x31000, 12, 8, 0x20, 0x0⟩
/-- SEQ_SLOT_CFG.WINCHK (R210). -/
def SEQ_SLOT_CFG_WINCHK : Fld := ⟨0x31000, 7, 7, 0x20, 0x0⟩
/-- SEQ_SLOT_CFG.PGEN (R210). -/
def SEQ_SLOT_CFG_PGEN : Fld := ⟨0x31000, 6, 6, 0x20, 0x0⟩
/-- SEQ_SLOT_CFG.USE (R210). -/
def SEQ_SLOT_CFG_USE : Fld := ⟨0x31000, 5, 5, 0x20, 0x0⟩
/-- SEQ_SLOT_CFG.UPSTEP (R210). -/
def SEQ_SLOT_CFG_UPSTEP : Fld := ⟨0x31000, 4, 0, 0x20, 0x0⟩
/-- SEQ_SLOT_DEP.DEP (R210). -/
def SEQ_SLOT_DEP_DEP : Fld := ⟨0x31004, 15, 0, 0x20, 0x0⟩
/-- SEQ_SLOT_MCFG.MSTEP (R210). -/
def SEQ_SLOT_MCFG_MSTEP : Fld := ⟨0x31008, 23, 16, 0x20, 0x0⟩
/-- SEQ_SLOT_MCFG.PAGE (R210). -/
def SEQ_SLOT_MCFG_PAGE : Fld := ⟨0x31008, 15, 11, 0x20, 0x0⟩
/-- SEQ_SLOT_MCFG.PMBADDR (R210). -/
def SEQ_SLOT_MCFG_PMBADDR : Fld := ⟨0x31008, 10, 4, 0x20, 0x0⟩
/-- SEQ_SLOT_MCFG.MTRACK (R210). -/
def SEQ_SLOT_MCFG_MTRACK : Fld := ⟨0x31008, 3, 3, 0x20, 0x0⟩
/-- SEQ_SLOT_MCFG.METHOD (R210). -/
def SEQ_SLOT_MCFG_METHOD : Fld := ⟨0x31008, 2, 0, 0x20, 0x0⟩
/-- SEQ_SLOT_VNOM.VNOM (R210). -/
def SEQ_SLOT_VNOM_VNOM : Fld := ⟨0x3100c, 15, 0, 0x20, 0x0⟩
/-- SEQ_SLOT_MARG.RESULT (R210). -/
def SEQ_SLOT_MARG_RESULT : Fld := ⟨0x31010, 11, 8, 0x20, 0x0⟩
/-- SEQ_SLOT_MARG.MARGIN (R210). -/
def SEQ_SLOT_MARG_MARGIN : Fld := ⟨0x31010, 5, 0, 0x20, 0x0⟩
/-- SEQ_SLOT_WEFF.HI (R210). -/
def SEQ_SLOT_WEFF_HI : Fld := ⟨0x31014, 25, 16, 0x20, 0x0⟩
/-- SEQ_SLOT_WEFF.LO (R210). -/
def SEQ_SLOT_WEFF_LO : Fld := ⟨0x31014, 9, 0, 0x20, 0x0⟩
/-- SEQ_SD.DISCHTO (R210). -/
def SEQ_SD_DISCHTO : Fld := ⟨0x32000, 27, 16, 0x4, 0x0⟩
/-- SEQ_SD.DELAY (R210). -/
def SEQ_SD_DELAY : Fld := ⟨0x32000, 15, 8, 0x4, 0x0⟩
/-- SEQ_SD.WAITLOW (R210). -/
def SEQ_SD_WAITLOW : Fld := ⟨0x32000, 5, 5, 0x4, 0x0⟩
/-- SEQ_SD.SLOT (R210). -/
def SEQ_SD_SLOT : Fld := ⟨0x32000, 4, 0, 0x4, 0x0⟩
/-- WIN_LIVE.OUT (R245). -/
def WIN_LIVE_OUT : Fld := ⟨0x40100, 31, 0, 0x0, 0x0⟩
/-- WIN_RAW.RAW (R245). -/
def WIN_RAW_RAW : Fld := ⟨0x40104, 31, 0, 0x0, 0x0⟩
/-- WIN_GRP.CISDIV (R245). -/
def WIN_GRP_CISDIV : Fld := ⟨0x40110, 21, 16, 0x4, 0x0⟩
/-- WIN_GRP.DIV24 (R245). -/
def WIN_GRP_DIV24 : Fld := ⟨0x40110, 14, 0, 0x4, 0x0⟩
/-- WIN_LO.LO (R245). -/
def WIN_LO_LO : Fld := ⟨0x41000, 9, 0, 0x10, 0x0⟩
/-- WIN_HI.HI (R245). -/
def WIN_HI_HI : Fld := ⟨0x41004, 9, 0, 0x10, 0x0⟩
/-- WIN_CFG.EVSEL (R245). -/
def WIN_CFG_EVSEL : Fld := ⟨0x41008, 14, 12, 0x10, 0x0⟩
/-- WIN_CFG.FILT (R245). -/
def WIN_CFG_FILT : Fld := ⟨0x41008, 11, 8, 0x10, 0x0⟩
/-- WIN_CFG.ENABLE (R245). -/
def WIN_CFG_ENABLE : Fld := ⟨0x41008, 0, 0, 0x10, 0x0⟩
/-- WIN_TRIM.HITRIM (R245). -/
def WIN_TRIM_HITRIM : Fld := ⟨0x4100c, 15, 8, 0x10, 0x0⟩
/-- WIN_TRIM.LOTRIM (R245). -/
def WIN_TRIM_LOTRIM : Fld := ⟨0x4100c, 7, 0, 0x10, 0x0⟩
/-- ADC_CTL.PERIOD (R246). -/
def ADC_CTL_PERIOD : Fld := ⟨0x50100, 31, 16, 0x0, 0x0⟩
/-- ADC_CTL.LAST (R246). -/
def ADC_CTL_LAST : Fld := ⟨0x50100, 11, 8, 0x0, 0x0⟩
/-- ADC_CTL.MODE (R246). -/
def ADC_CTL_MODE : Fld := ⟨0x50100, 4, 4, 0x0, 0x0⟩
/-- ADC_CTL.SNAP (R246). -/
def ADC_CTL_SNAP : Fld := ⟨0x50100, 2, 2, 0x0, 0x0⟩
/-- ADC_CTL.STOP (R246). -/
def ADC_CTL_STOP : Fld := ⟨0x50100, 1, 1, 0x0, 0x0⟩
/-- ADC_CTL.START (R246). -/
def ADC_CTL_START : Fld := ⟨0x50100, 0, 0, 0x0, 0x0⟩
/-- ADC_SNAPMASK.MASK (R246). -/
def ADC_SNAPMASK_MASK : Fld := ⟨0x50110, 23, 0, 0x0, 0x0⟩
/-- ADC_SNAPSTAT.VALID (R243). -/
def ADC_SNAPSTAT_VALID : Fld := ⟨0x50114, 7, 0, 0x0, 0x0⟩
/-- ADC_SNAPCFG.SNAPGAIN (R246). -/
def ADC_SNAPCFG_SNAPGAIN : Fld := ⟨0x50118, 2, 1, 0x0, 0x0⟩
/-- ADC_SNAPCFG.KEEP7 (R246). -/
def ADC_SNAPCFG_KEEP7 : Fld := ⟨0x50118, 0, 0, 0x0, 0x0⟩
/-- ADC_TRIMOFF.OFFSET (R246). -/
def ADC_TRIMOFF_OFFSET : Fld := ⟨0x50120, 15, 0, 0x0, 0x0⟩
/-- ADC_TRIMGAIN.GAIN (R246). -/
def ADC_TRIMGAIN_GAIN : Fld := ⟨0x50124, 15, 0, 0x0, 0x0⟩
/-- ADC_TRIMTEMP.TEMP (R246). -/
def ADC_TRIMTEMP_TEMP : Fld := ⟨0x50128, 15, 0, 0x0, 0x0⟩
/-- ADC_WRIDX.WRAP (R246). -/
def ADC_WRIDX_WRAP : Fld := ⟨0x50140, 6, 6, 0x0, 0x0⟩
/-- ADC_WRIDX.IDX (R246). -/
def ADC_WRIDX_IDX : Fld := ⟨0x50140, 5, 0, 0x0, 0x0⟩
/-- ADC_RDIDX.IDX (R246). -/
def ADC_RDIDX_IDX : Fld := ⟨0x50144, 5, 0, 0x0, 0x0⟩
/-- ADC_ENTRY.COUNT (R246). -/
def ADC_ENTRY_COUNT : Fld := ⟨0x50200, 19, 16, 0x4, 0x0⟩
/-- ADC_ENTRY.ORDER (R246). -/
def ADC_ENTRY_ORDER : Fld := ⟨0x50200, 13, 12, 0x4, 0x0⟩
/-- ADC_ENTRY.GAIN (R246). -/
def ADC_ENTRY_GAIN : Fld := ⟨0x50200, 9, 8, 0x4, 0x0⟩
/-- ADC_ENTRY.CHAN (R246). -/
def ADC_ENTRY_CHAN : Fld := ⟨0x50200, 4, 0, 0x4, 0x0⟩
/-- ADC_BUF.SAMPLE (R246). -/
def ADC_BUF_SAMPLE : Fld := ⟨0x50400, 31, 0, 0x4, 0x0⟩
/-- CAL_CTL.STORE (R143). -/
def CAL_CTL_STORE : Fld := ⟨0x60100, 0, 0, 0x0, 0x0⟩
/-- CAL_STAT.ABSENT (R143). -/
def CAL_STAT_ABSENT : Fld := ⟨0x60104, 31, 31, 0x0, 0x0⟩
/-- CAL_STAT.NONE (R143). -/
def CAL_STAT_NONE : Fld := ⟨0x60104, 3, 3, 0x0, 0x0⟩
/-- CAL_STAT.BUSY (R143). -/
def CAL_STAT_BUSY : Fld := ⟨0x60104, 2, 2, 0x0, 0x0⟩
/-- CAL_STAT.VALID1 (R143). -/
def CAL_STAT_VALID1 : Fld := ⟨0x60104, 1, 1, 0x0, 0x0⟩
/-- CAL_STAT.ACTIVE (R143). -/
def CAL_STAT_ACTIVE : Fld := ⟨0x60104, 0, 0, 0x0, 0x0⟩
/-- CAL_SEQ.SEQ (R143). -/
def CAL_SEQ_SEQ : Fld := ⟨0x60108, 31, 0, 0x0, 0x0⟩
/-- CAL_IMAGE.WORD (R143). -/
def CAL_IMAGE_WORD : Fld := ⟨0x70000, 31, 0, 0x4, 0x0⟩
/-- CAL_BUF.WORD (R143). -/
def CAL_BUF_WORD : Fld := ⟨0x74000, 31, 0, 0x4, 0x0⟩
/-- BEL_SRC.CORES (R498). -/
def BEL_SRC_CORES : Fld := ⟨0x101000, 11, 8, 0x4, 0x0⟩
/-- BEL_SRC.DELIV (R498). -/
def BEL_SRC_DELIV : Fld := ⟨0x101000, 5, 5, 0x4, 0x0⟩
/-- BEL_SRC.HALL (R498). -/
def BEL_SRC_HALL : Fld := ⟨0x101000, 4, 4, 0x4, 0x0⟩
/-- BEL_SRC.LEVEL (R498). -/
def BEL_SRC_LEVEL : Fld := ⟨0x101000, 3, 0, 0x4, 0x0⟩
/-- BEL_PEND.PEND (R498). -/
def BEL_PEND_PEND : Fld := ⟨0x103000, 31, 0, 0x40, 0x4⟩
/-- KEY_BASE.BASE (R545). -/
def KEY_BASE_BASE : Fld := ⟨0x140100, 27, 0, 0x0, 0x0⟩
/-- KEY_CTL.LOCK (R545). -/
def KEY_CTL_LOCK : Fld := ⟨0x140104, 1, 1, 0x0, 0x0⟩
/-- KEY_CTL.ENABLE (R545). -/
def KEY_CTL_ENABLE : Fld := ⟨0x140104, 0, 0, 0x0, 0x0⟩
/-- KEY_HOSTKEY.KEY (R545). -/
def KEY_HOSTKEY_KEY : Fld := ⟨0x140108, 3, 0, 0x0, 0x0⟩
/-- KEY_HOSTREC.VALID (R545). -/
def KEY_HOSTREC_VALID : Fld := ⟨0x14010c, 31, 31, 0x0, 0x0⟩
/-- KEY_HOSTREC.WRITE (R545). -/
def KEY_HOSTREC_WRITE : Fld := ⟨0x14010c, 30, 30, 0x0, 0x0⟩
/-- KEY_HOSTREC.FRAME (R545). -/
def KEY_HOSTREC_FRAME : Fld := ⟨0x14010c, 27, 0, 0x0, 0x0⟩
/-- PMP_EPOCH.LISTERR (R111). -/
def PMP_EPOCH_LISTERR : Fld := ⟨0x180100, 26, 26, 0x0, 0x0⟩
/-- PMP_EPOCH.BUSY (R111). -/
def PMP_EPOCH_BUSY : Fld := ⟨0x180100, 25, 25, 0x0, 0x0⟩
/-- PMP_EPOCH.GO (R111). -/
def PMP_EPOCH_GO : Fld := ⟨0x180100, 24, 24, 0x0, 0x0⟩
/-- PMP_EPOCH.DONE (R111). -/
def PMP_EPOCH_DONE : Fld := ⟨0x180100, 15, 8, 0x0, 0x0⟩
/-- PMP_EPOCH.CUR (R111). -/
def PMP_EPOCH_CUR : Fld := ⟨0x180100, 7, 0, 0x0, 0x0⟩
/-- PMP_EPPEND.PENDING (R111). -/
def PMP_EPPEND_PENDING : Fld := ⟨0x180104, 14, 0, 0x0, 0x0⟩
/-- PMP_EPLBASE.BASE (R111). -/
def PMP_EPLBASE_BASE : Fld := ⟨0x180108, 27, 0, 0x0, 0x0⟩
/-- PMP_EPLCNT.COUNT (R111). -/
def PMP_EPLCNT_COUNT : Fld := ⟨0x18010c, 14, 0, 0x0, 0x0⟩
/-- PMP_WTBASE.BASE (R597). -/
def PMP_WTBASE_BASE : Fld := ⟨0x180200, 27, 0, 0x0, 0x0⟩
/-- PMP_WTCTL.ON (R597). -/
def PMP_WTCTL_ON : Fld := ⟨0x180204, 0, 0, 0x0, 0x0⟩
/-- PMP_POLLCFG.HOLD (R597). -/
def PMP_POLLCFG_HOLD : Fld := ⟨0x180208, 25, 16, 0x0, 0x0⟩
/-- PMP_POLLCFG.POLLINT (R597). -/
def PMP_POLLCFG_POLLINT : Fld := ⟨0x180208, 6, 0, 0x0, 0x0⟩
/-- PMP_STALECFG.STALEMAX (R597). -/
def PMP_STALECFG_STALEMAX : Fld := ⟨0x18020c, 15, 8, 0x0, 0x0⟩
/-- PMP_STALECFG.STALEDLY (R597). -/
def PMP_STALECFG_STALEDLY : Fld := ⟨0x18020c, 6, 0, 0x0, 0x0⟩
/-- PMP_DBDROP.COUNT (R597). -/
def PMP_DBDROP_COUNT : Fld := ⟨0x180210, 31, 0, 0x0, 0x0⟩
/-- PMP_DBBAD.COUNT (R597). -/
def PMP_DBBAD_COUNT : Fld := ⟨0x180214, 31, 0, 0x0, 0x0⟩
/-- PMP_STALECNT.COUNT (R597). -/
def PMP_STALECNT_COUNT : Fld := ⟨0x180218, 31, 0, 0x0, 0x0⟩
/-- PMP_DBREC.VALID (R597). -/
def PMP_DBREC_VALID : Fld := ⟨0x18021c, 31, 31, 0x0, 0x0⟩
/-- PMP_DBREC.SRC (R597). -/
def PMP_DBREC_SRC : Fld := ⟨0x18021c, 30, 29, 0x0, 0x0⟩
/-- PMP_DBREC.REASON (R597). -/
def PMP_DBREC_REASON : Fld := ⟨0x18021c, 28, 26, 0x0, 0x0⟩
/-- PMP_DBREC.WELL (R597). -/
def PMP_DBREC_WELL : Fld := ⟨0x18021c, 13, 0, 0x0, 0x0⟩
/-- PMP_STALEREC.VALID (R597). -/
def PMP_STALEREC_VALID : Fld := ⟨0x180220, 31, 31, 0x0, 0x0⟩
/-- PMP_STALEREC.WELL (R597). -/
def PMP_STALEREC_WELL : Fld := ⟨0x180220, 29, 16, 0x0, 0x0⟩
/-- PMP_STALEREC.INDEX (R597). -/
def PMP_STALEREC_INDEX : Fld := ⟨0x180220, 15, 0, 0x0, 0x0⟩
/-- PMP_WSEL.WELL (R597). -/
def PMP_WSEL_WELL : Fld := ⟨0x180300, 14, 0, 0x0, 0x0⟩
/-- PMP_WCTX.LONG (R597). -/
def PMP_WCTX_LONG : Fld := ⟨0x180340, 31, 0, 0x4, 0x0⟩
/-- PMP_CCSTAT.PINNED (R635). -/
def PMP_CCSTAT_PINNED : Fld := ⟨0x180400, 25, 16, 0x0, 0x0⟩
/-- PMP_CCSTAT.CACHED (R635). -/
def PMP_CCSTAT_CACHED : Fld := ⟨0x180400, 9, 0, 0x0, 0x0⟩
/-- PMP_CCMISS.COUNT (R635). -/
def PMP_CCMISS_COUNT : Fld := ⟨0x180404, 31, 0, 0x0, 0x0⟩
/-- PMP_BACKLOG.BACKLOG (R635). -/
def PMP_BACKLOG_BACKLOG : Fld := ⟨0x180408, 15, 0, 0x0, 0x0⟩
/-- PMP_INLBASEL.ON (R635). -/
def PMP_INLBASEL_ON : Fld := ⟨0x180410, 31, 31, 0x0, 0x0⟩
/-- PMP_INLBASEL.BASE (R635). -/
def PMP_INLBASEL_BASE : Fld := ⟨0x180410, 27, 0, 0x0, 0x0⟩
/-- PMP_INLBASEP.ON (R635). -/
def PMP_INLBASEP_ON : Fld := ⟨0x180414, 31, 31, 0x0, 0x0⟩
/-- PMP_INLBASEP.BASE (R635). -/
def PMP_INLBASEP_BASE : Fld := ⟨0x180414, 27, 0, 0x0, 0x0⟩
/-- PMP_LEASECFG.REQMAX (R635). -/
def PMP_LEASECFG_REQMAX : Fld := ⟨0x180418, 3, 0, 0x0, 0x0⟩
/-- PMP_INST.EXPP (R635). -/
def PMP_INST_EXPP : Fld := ⟨0x180420, 31, 24, 0x4, 0x0⟩
/-- PMP_INST.LIVEP (R635). -/
def PMP_INST_LIVEP : Fld := ⟨0x180420, 23, 16, 0x4, 0x0⟩
/-- PMP_INST.EXPL (R635). -/
def PMP_INST_EXPL : Fld := ⟨0x180420, 15, 8, 0x4, 0x0⟩
/-- PMP_INST.LIVEL (R635). -/
def PMP_INST_LIVEL : Fld := ⟨0x180420, 7, 0, 0x4, 0x0⟩
/-- PMP_REVOKE.GO (R635). -/
def PMP_REVOKE_GO : Fld := ⟨0x180430, 31, 31, 0x0, 0x0⟩
/-- PMP_REVOKE.RES (R635). -/
def PMP_REVOKE_RES : Fld := ⟨0x180430, 27, 24, 0x0, 0x0⟩
/-- PMP_REVOKE.HALL (R635). -/
def PMP_REVOKE_HALL : Fld := ⟨0x180430, 18, 18, 0x0, 0x0⟩
/-- PMP_REVOKE.CORE (R635). -/
def PMP_REVOKE_CORE : Fld := ⟨0x180430, 17, 16, 0x0, 0x0⟩
/-- PMP_REVOKE.TAG (R635). -/
def PMP_REVOKE_TAG : Fld := ⟨0x180430, 15, 8, 0x0, 0x0⟩
/-- PMP_REVOKE.SLOT (R635). -/
def PMP_REVOKE_SLOT : Fld := ⟨0x180430, 2, 0, 0x0, 0x0⟩
/-- PMP_LEASEREC.VALID (R635). -/
def PMP_LEASEREC_VALID : Fld := ⟨0x180434, 31, 31, 0x0, 0x0⟩
/-- PMP_LEASEREC.WELL (R635). -/
def PMP_LEASEREC_WELL : Fld := ⟨0x180434, 29, 16, 0x0, 0x0⟩
/-- PMP_LEASEREC.TAG (R635). -/
def PMP_LEASEREC_TAG : Fld := ⟨0x180434, 15, 8, 0x0, 0x0⟩
/-- PMP_LEASEREC.HALL (R635). -/
def PMP_LEASEREC_HALL : Fld := ⟨0x180434, 6, 6, 0x0, 0x0⟩
/-- PMP_LEASEREC.CORE (R635). -/
def PMP_LEASEREC_CORE : Fld := ⟨0x180434, 5, 4, 0x0, 0x0⟩
/-- PMP_LEASEREC.SLOT (R635). -/
def PMP_LEASEREC_SLOT : Fld := ⟨0x180434, 2, 0, 0x0, 0x0⟩
/-- PMP_CIS.DEF (R635). -/
def PMP_CIS_DEF : Fld := ⟨0x181000, 22, 16, 0x4, 0x0⟩
/-- PMP_CIS.WEIGHT (R635). -/
def PMP_CIS_WEIGHT : Fld := ⟨0x181000, 14, 8, 0x4, 0x0⟩
/-- PMP_CIS.LEVEL (R635). -/
def PMP_CIS_LEVEL : Fld := ⟨0x181000, 1, 0, 0x4, 0x0⟩
/-- CQ_EVTREC.VALID (R635). -/
def CQ_EVTREC_VALID : Fld := ⟨0x1c0100, 31, 31, 0x0, 0x0⟩
/-- CQ_EVTREC.EVENT (R635). -/
def CQ_EVTREC_EVENT : Fld := ⟨0x1c0100, 18, 16, 0x0, 0x0⟩
/-- CQ_EVTREC.RING (R635). -/
def CQ_EVTREC_RING : Fld := ⟨0x1c0100, 10, 0, 0x0, 0x0⟩
/-- CQ_CTL.NKIND (R615). -/
def CQ_CTL_NKIND : Fld := ⟨0x1c1000, 9, 8, 0x20, 0x0⟩
/-- CQ_CTL.FKEY (R615). -/
def CQ_CTL_FKEY : Fld := ⟨0x1c1000, 7, 4, 0x20, 0x0⟩
/-- CQ_CTL.ERR (R615). -/
def CQ_CTL_ERR : Fld := ⟨0x1c1000, 3, 3, 0x20, 0x0⟩
/-- CQ_CTL.HALL (R615). -/
def CQ_CTL_HALL : Fld := ⟨0x1c1000, 2, 2, 0x20, 0x0⟩
/-- CQ_CTL.ESIZE (R615). -/
def CQ_CTL_ESIZE : Fld := ⟨0x1c1000, 1, 1, 0x20, 0x0⟩
/-- CQ_CTL.ENABLE (R615). -/
def CQ_CTL_ENABLE : Fld := ⟨0x1c1000, 0, 0, 0x20, 0x0⟩
/-- CQ_BASELO.SIZE (R615). -/
def CQ_BASELO_SIZE : Fld := ⟨0x1c1004, 30, 26, 0x20, 0x0⟩
/-- CQ_BASELO.BASE (R615). -/
def CQ_BASELO_BASE : Fld := ⟨0x1c1004, 25, 0, 0x20, 0x0⟩
/-- CQ_BASEHI.BASE (R615). -/
def CQ_BASEHI_BASE : Fld := ⟨0x1c1008, 7, 0, 0x20, 0x0⟩
/-- CQ_IDX.CI (R615). -/
def CQ_IDX_CI : Fld := ⟨0x1c100c, 31, 16, 0x20, 0x0⟩
/-- CQ_IDX.PI (R615). -/
def CQ_IDX_PI : Fld := ⟨0x1c100c, 15, 0, 0x20, 0x0⟩
/-- CQ_MOD.MTIME (R615). -/
def CQ_MOD_MTIME : Fld := ⟨0x1c1010, 25, 16, 0x20, 0x0⟩
/-- CQ_MOD.MCOUNT (R615). -/
def CQ_MOD_MCOUNT : Fld := ⟨0x1c1010, 7, 0, 0x20, 0x0⟩
/-- CQ_NOT.IBELL (R615). -/
def CQ_NOT_IBELL : Fld := ⟨0x1c1014, 24, 16, 0x20, 0x0⟩
/-- CQ_NOT.HVEC (R615). -/
def CQ_NOT_HVEC : Fld := ⟨0x1c1014, 10, 0, 0x20, 0x0⟩
/-- CQ_ST.PHASE (R615). -/
def CQ_ST_PHASE : Fld := ⟨0x1c1018, 31, 31, 0x20, 0x0⟩
/-- CQ_ST.RSV (R615). -/
def CQ_ST_RSV : Fld := ⟨0x1c1018, 25, 16, 0x20, 0x0⟩
/-- CQ_ST.UNN (R615). -/
def CQ_ST_UNN : Fld := ⟨0x1c1018, 7, 0, 0x20, 0x0⟩
/-- JNL_CFG.DEST (R665). -/
def JNL_CFG_DEST : Fld := ⟨0x200100, 9, 8, 0x0, 0x0⟩
/-- JNL_CFG.MACALL (R665). -/
def JNL_CFG_MACALL : Fld := ⟨0x200100, 4, 4, 0x0, 0x0⟩
/-- JNL_CFG.MODE (R665). -/
def JNL_CFG_MODE : Fld := ⟨0x200100, 1, 0, 0x0, 0x0⟩
/-- JNL_HEADCTL.VALID (R665). -/
def JNL_HEADCTL_VALID : Fld := ⟨0x200104, 31, 31, 0x0, 0x0⟩
/-- JNL_HEADCTL.SEED (R665). -/
def JNL_HEADCTL_SEED : Fld := ⟨0x200104, 0, 0, 0x0, 0x0⟩
/-- JNL_HEADSEQL.SEQ (R665). -/
def JNL_HEADSEQL_SEQ : Fld := ⟨0x200110, 31, 0, 0x0, 0x0⟩
/-- JNL_HEADSEQH.SEQ (R665). -/
def JNL_HEADSEQH_SEQ : Fld := ⟨0x200114, 15, 0, 0x0, 0x0⟩
/-- JNL_HEADHASH.HASH (R665). -/
def JNL_HEADHASH_HASH : Fld := ⟨0x200120, 31, 0, 0x4, 0x0⟩
/-- JNL_SEEDSEQL.SEQ (R665). -/
def JNL_SEEDSEQL_SEQ : Fld := ⟨0x200140, 31, 0, 0x0, 0x0⟩
/-- JNL_SEEDSEQH.SEQ (R665). -/
def JNL_SEEDSEQH_SEQ : Fld := ⟨0x200144, 15, 0, 0x0, 0x0⟩
/-- JNL_SEEDHASH.HASH (R665). -/
def JNL_SEEDHASH_HASH : Fld := ⟨0x200160, 31, 0, 0x4, 0x0⟩
/-- JNL_MACKEY.KEY (R665). -/
def JNL_MACKEY_KEY : Fld := ⟨0x200180, 31, 0, 0x4, 0x0⟩
/-- JNL_MACCTL.CLEAR (R665). -/
def JNL_MACCTL_CLEAR : Fld := ⟨0x2001a0, 1, 1, 0x0, 0x0⟩
/-- JNL_MACCTL.LOADED (R665). -/
def JNL_MACCTL_LOADED : Fld := ⟨0x2001a0, 0, 0, 0x0, 0x0⟩
/-- JNL_STWR.OFFSET (R665). -/
def JNL_STWR_OFFSET : Fld := ⟨0x200200, 14, 0, 0x0, 0x0⟩
/-- JNL_STFL.OFFSET (R665). -/
def JNL_STFL_OFFSET : Fld := ⟨0x200204, 14, 0, 0x0, 0x0⟩
/-- JNL_FLCFG.DELAY (R665). -/
def JNL_FLCFG_DELAY : Fld := ⟨0x200210, 25, 16, 0x0, 0x0⟩
/-- JNL_FLCFG.THRESH (R665). -/
def JNL_FLCFG_THRESH : Fld := ⟨0x200210, 8, 0, 0x0, 0x0⟩
/-- JNL_FLTO.TO (R665). -/
def JNL_FLTO_TO : Fld := ⟨0x200214, 9, 0, 0x0, 0x0⟩
/-- JNL_DBASELO.BASE (R665). -/
def JNL_DBASELO_BASE : Fld := ⟨0x200220, 19, 0, 0x0, 0x0⟩
/-- JNL_DBASEHI.SIZE (R665). -/
def JNL_DBASEHI_SIZE : Fld := ⟨0x200224, 20, 16, 0x0, 0x0⟩
/-- JNL_DBASEHI.BASE (R665). -/
def JNL_DBASEHI_BASE : Fld := ⟨0x200224, 7, 0, 0x0, 0x0⟩
/-- JNL_DWR.OFFSET (R665). -/
def JNL_DWR_OFFSET : Fld := ⟨0x200228, 27, 0, 0x0, 0x0⟩
/-- JNL_DRD.OFFSET (R665). -/
def JNL_DRD_OFFSET : Fld := ⟨0x20022c, 27, 0, 0x0, 0x0⟩
/-- JNL_REPLAY.COUNT (R665). -/
def JNL_REPLAY_COUNT : Fld := ⟨0x200230, 15, 0, 0x0, 0x0⟩
/-- CPY_CFG.TO (R665). -/
def CPY_CFG_TO : Fld := ⟨0x220100, 9, 0, 0x0, 0x0⟩
/-- GAL_CTL.BANK (R699). -/
def GAL_CTL_BANK : Fld := ⟨0x240100, 8, 8, 0x0, 0x0⟩
/-- GAL_CTL.SWAP (R699). -/
def GAL_CTL_SWAP : Fld := ⟨0x240100, 2, 2, 0x0, 0x0⟩
/-- GAL_CTL.STOP (R699). -/
def GAL_CTL_STOP : Fld := ⟨0x240100, 1, 1, 0x0, 0x0⟩
/-- GAL_CTL.START (R699). -/
def GAL_CTL_START : Fld := ⟨0x240100, 0, 0, 0x0, 0x0⟩
/-- GAL_SWEEP.INTERVAL (R699). -/
def GAL_SWEEP_INTERVAL : Fld := ⟨0x240104, 19, 0, 0x0, 0x0⟩
/-- GAL_SWEEPCNT.COUNT (R699). -/
def GAL_SWEEPCNT_COUNT : Fld := ⟨0x240108, 31, 0, 0x0, 0x0⟩
/-- GAL_OVRCNT.COUNT (R699). -/
def GAL_OVRCNT_COUNT : Fld := ⟨0x24010c, 15, 0, 0x0, 0x0⟩
/-- GAL_LOADREC.VALID (R699). -/
def GAL_LOADREC_VALID : Fld := ⟨0x240110, 31, 31, 0x0, 0x0⟩
/-- GAL_LOADREC.REASON (R699). -/
def GAL_LOADREC_REASON : Fld := ⟨0x240110, 27, 24, 0x0, 0x0⟩
/-- GAL_LOADREC.OFFSET (R699). -/
def GAL_LOADREC_OFFSET : Fld := ⟨0x240110, 10, 0, 0x0, 0x0⟩
/-- GAL_ABSREC.VALID (R699). -/
def GAL_ABSREC_VALID : Fld := ⟨0x240114, 31, 31, 0x0, 0x0⟩
/-- GAL_ABSREC.RUN (R699). -/
def GAL_ABSREC_RUN : Fld := ⟨0x240114, 30, 30, 0x0, 0x0⟩
/-- GAL_ABSREC.OFFSET (R699). -/
def GAL_ABSREC_OFFSET : Fld := ⟨0x240114, 10, 0, 0x0, 0x0⟩
/-- GAL_TCANCEL.MASK (R699). -/
def GAL_TCANCEL_MASK : Fld := ⟨0x240120, 31, 0, 0x4, 0x0⟩
/-- GAL_TFORCED.MASK (R699). -/
def GAL_TFORCED_MASK : Fld := ⟨0x240128, 31, 0, 0x4, 0x0⟩
/-- GAL_EFORCED.MASK (R699). -/
def GAL_EFORCED_MASK : Fld := ⟨0x240130, 31, 0, 0x0, 0x0⟩
/-- GAL_FLAGS.GF (R699). -/
def GAL_FLAGS_GF : Fld := ⟨0x240140, 31, 0, 0x0, 0x0⟩
/-- GAL_FSET.SET (R699). -/
def GAL_FSET_SET : Fld := ⟨0x240144, 31, 0, 0x0, 0x0⟩
/-- GAL_FCLR.CLR (R699). -/
def GAL_FCLR_CLR : Fld := ⟨0x240148, 31, 0, 0x0, 0x0⟩
/-- GAL_POSTQ.COUNT (R699). -/
def GAL_POSTQ_COUNT : Fld := ⟨0x240150, 4, 0, 0x0, 0x0⟩
/-- GAL_POSTREC.VALID (R699). -/
def GAL_POSTREC_VALID : Fld := ⟨0x240154, 31, 31, 0x0, 0x0⟩
/-- GAL_POSTREC.REASON (R699). -/
def GAL_POSTREC_REASON : Fld := ⟨0x240154, 30, 28, 0x0, 0x0⟩
/-- GAL_POSTREC.TEMPLATE (R699). -/
def GAL_POSTREC_TEMPLATE : Fld := ⟨0x240154, 19, 16, 0x0, 0x0⟩
/-- GAL_POSTREC.WELL (R699). -/
def GAL_POSTREC_WELL : Fld := ⟨0x240154, 14, 0, 0x0, 0x0⟩
/-- GAL_BELLPEND.MASK (R699). -/
def GAL_BELLPEND_MASK : Fld := ⟨0x240158, 31, 0, 0x0, 0x0⟩
/-- GAL_TSTAT.RUNNING (R699). -/
def GAL_TSTAT_RUNNING : Fld := ⟨0x240200, 25, 25, 0x4, 0x0⟩
/-- GAL_TSTAT.EXPIRED (R699). -/
def GAL_TSTAT_EXPIRED : Fld := ⟨0x240200, 24, 24, 0x4, 0x0⟩
/-- GAL_TSTAT.REMAIN (R699). -/
def GAL_TSTAT_REMAIN : Fld := ⟨0x240200, 23, 0, 0x4, 0x0⟩
/-- GAL_ESTAT.LAST (R699). -/
def GAL_ESTAT_LAST : Fld := ⟨0x240300, 31, 0, 0x0, 0x0⟩
/-- GAL_TPLCTL.WELL (R699). -/
def GAL_TPLCTL_WELL : Fld := ⟨0x240400, 14, 0, 0x4, 0x0⟩
/-- GAL_TPL.LONG (R699). -/
def GAL_TPL_LONG : Fld := ⟨0x241000, 31, 0, 0x40, 0x4⟩
/-- GAL_BANK.WORD (R688). -/
def GAL_BANK_WORD : Fld := ⟨0x250000, 31, 0, 0x2000, 0x4⟩
/-- LCH_CFG.PWMKHZ (R737). -/
def LCH_CFG_PWMKHZ : Fld := ⟨0x280100, 22, 16, 0x20, 0x0⟩
/-- LCH_CFG.VWIN (R737). -/
def LCH_CFG_VWIN : Fld := ⟨0x280100, 12, 8, 0x20, 0x0⟩
/-- LCH_CFG.ENABLE (R737). -/
def LCH_CFG_ENABLE : Fld := ⟨0x280100, 0, 0, 0x20, 0x0⟩
/-- LCH_LOOP.KP (R737). -/
def LCH_LOOP_KP : Fld := ⟨0x280104, 15, 8, 0x20, 0x0⟩
/-- LCH_LOOP.KI (R737). -/
def LCH_LOOP_KI : Fld := ⟨0x280104, 7, 0, 0x20, 0x0⟩
/-- LCH_CTL.CANCEL (R737). -/
def LCH_CTL_CANCEL : Fld := ⟨0x280108, 0, 0, 0x20, 0x0⟩
/-- LCH_LAST.RESULT (R737). -/
def LCH_LAST_RESULT : Fld := ⟨0x28010c, 31, 0, 0x20, 0x0⟩
/-- LCH_LASTST.VALID (R737). -/
def LCH_LASTST_VALID : Fld := ⟨0x280110, 31, 31, 0x20, 0x0⟩
/-- LCH_LASTST.SRC (R737). -/
def LCH_LASTST_SRC : Fld := ⟨0x280110, 8, 8, 0x20, 0x0⟩
/-- LCH_LASTST.STATUS (R737). -/
def LCH_LASTST_STATUS : Fld := ⟨0x280110, 7, 0, 0x20, 0x0⟩
/-- LCH_LIVE.PHASE (R737). -/
def LCH_LIVE_PHASE : Fld := ⟨0x280114, 26, 24, 0x20, 0x0⟩
/-- LCH_LIVE.DUTY (R737). -/
def LCH_LIVE_DUTY : Fld := ⟨0x280114, 22, 16, 0x20, 0x0⟩
/-- LCH_LIVE.CURRENT (R737). -/
def LCH_LIVE_CURRENT : Fld := ⟨0x280114, 11, 0, 0x20, 0x0⟩
/-- LCH_CNT.NOTOK (R737). -/
def LCH_CNT_NOTOK : Fld := ⟨0x280118, 31, 16, 0x20, 0x0⟩
/-- LCH_CNT.PULSES (R737). -/
def LCH_CNT_PULSES : Fld := ⟨0x280118, 15, 0, 0x20, 0x0⟩
/-- LCH_IPULL.IPULL (R737). -/
def LCH_IPULL_IPULL : Fld := ⟨0x281000, 9, 0, 0x100, 0x10⟩
/-- LCH_IHOLD.IHOLD (R737). -/
def LCH_IHOLD_IHOLD : Fld := ⟨0x281004, 9, 0, 0x100, 0x10⟩
/-- LCH_TIME.TPULL (R737). -/
def LCH_TIME_TPULL : Fld := ⟨0x281008, 24, 16, 0x100, 0x10⟩
/-- LCH_TIME.THOLD (R737). -/
def LCH_TIME_THOLD : Fld := ⟨0x281008, 9, 0, 0x100, 0x10⟩
/-- LCH_REL.TBLANK (R737). -/
def LCH_REL_TBLANK : Fld := ⟨0x28100c, 30, 24, 0x100, 0x10⟩
/-- LCH_REL.TCOMP (R737). -/
def LCH_REL_TCOMP : Fld := ⟨0x28100c, 21, 16, 0x100, 0x10⟩
/-- LCH_REL.TREL (R737). -/
def LCH_REL_TREL : Fld := ⟨0x28100c, 13, 8, 0x100, 0x10⟩
/-- LCH_REL.RAMP (R737). -/
def LCH_REL_RAMP : Fld := ⟨0x28100c, 0, 0, 0x100, 0x10⟩
/-- CHG_CFG.TIMER (R738). -/
def CHG_CFG_TIMER : Fld := ⟨0x290100, 19, 16, 0x0, 0x0⟩
/-- CHG_CFG.TERM (R738). -/
def CHG_CFG_TERM : Fld := ⟨0x290100, 12, 8, 0x0, 0x0⟩
/-- CHG_CFG.PRESEL (R738). -/
def CHG_CFG_PRESEL : Fld := ⟨0x290100, 3, 3, 0x0, 0x0⟩
/-- CHG_CFG.CHEM (R738). -/
def CHG_CFG_CHEM : Fld := ⟨0x290100, 2, 1, 0x0, 0x0⟩
/-- CHG_CFG.ENABLE (R738). -/
def CHG_CFG_ENABLE : Fld := ⟨0x290100, 0, 0, 0x0, 0x0⟩
/-- CHG_ICC.ICC (R738). -/
def CHG_ICC_ICC : Fld := ⟨0x290104, 6, 0, 0x0, 0x0⟩
/-- CHG_NTC.COLD (R738). -/
def CHG_NTC_COLD : Fld := ⟨0x290108, 25, 16, 0x0, 0x0⟩
/-- CHG_NTC.HOT (R738). -/
def CHG_NTC_HOT : Fld := ⟨0x290108, 9, 0, 0x0, 0x0⟩
/-- CHG_CTL.CLEARFAULT (R738). -/
def CHG_CTL_CLEARFAULT : Fld := ⟨0x29010c, 0, 0, 0x0, 0x0⟩
/-- CHG_REMREC.VALID (R738). -/
def CHG_REMREC_VALID : Fld := ⟨0x290110, 31, 31, 0x0, 0x0⟩
/-- CHG_REMREC.CAUSE (R738). -/
def CHG_REMREC_CAUSE : Fld := ⟨0x290110, 30, 28, 0x0, 0x0⟩
/-- CHG_REMREC.STATE (R738). -/
def CHG_REMREC_STATE : Fld := ⟨0x290110, 2, 0, 0x0, 0x0⟩
/-- CHG_REMTIME.TIME (R738). -/
def CHG_REMTIME_TIME : Fld := ⟨0x290114, 31, 0, 0x0, 0x0⟩
/-- CHG_MEAS.VBAT (R738). -/
def CHG_MEAS_VBAT : Fld := ⟨0x290118, 28, 16, 0x0, 0x0⟩
/-- CHG_MEAS.CURRENT (R738). -/
def CHG_MEAS_CURRENT : Fld := ⟨0x290118, 9, 0, 0x0, 0x0⟩
/-- CHG_ELAPSED.MINUTES (R738). -/
def CHG_ELAPSED_MINUTES : Fld := ⟨0x29011c, 9, 0, 0x0, 0x0⟩
/-- TMB_TBLO.LO (R785). -/
def TMB_TBLO_LO : Fld := ⟨0x2a0100, 31, 0, 0x0, 0x0⟩
/-- TMB_TBHI.HI (R785). -/
def TMB_TBHI_HI : Fld := ⟨0x2a0104, 31, 0, 0x0, 0x0⟩
/-- TMB_RTCSEC.SEC (R785). -/
def TMB_RTCSEC_SEC : Fld := ⟨0x2a0110, 31, 0, 0x0, 0x0⟩
/-- TMB_RTCSUB.SUB (R785). -/
def TMB_RTCSUB_SUB : Fld := ⟨0x2a0114, 14, 0, 0x0, 0x0⟩
/-- TMB_RTCALM.ALM (R785). -/
def TMB_RTCALM_ALM : Fld := ⟨0x2a0118, 31, 0, 0x0, 0x0⟩
/-- TMB_RTCCTL.TRIM (R785). -/
def TMB_RTCCTL_TRIM : Fld := ⟨0x2a011c, 15, 8, 0x0, 0x0⟩
/-- TMB_RTCCTL.ALMEN (R785). -/
def TMB_RTCCTL_ALMEN : Fld := ⟨0x2a011c, 0, 0, 0x0, 0x0⟩
/-- TMB_WDLCFG.ENABLE (R785). -/
def TMB_WDLCFG_ENABLE : Fld := ⟨0x2a0120, 31, 31, 0x0, 0x0⟩
/-- TMB_WDLCFG.PERIOD (R785). -/
def TMB_WDLCFG_PERIOD : Fld := ⟨0x2a0120, 15, 0, 0x0, 0x0⟩
/-- TMB_WDPCFG.ENABLE (R785). -/
def TMB_WDPCFG_ENABLE : Fld := ⟨0x2a0124, 31, 31, 0x0, 0x0⟩
/-- TMB_WDPCFG.PERIOD (R785). -/
def TMB_WDPCFG_PERIOD : Fld := ⟨0x2a0124, 15, 0, 0x0, 0x0⟩
/-- TMB_WDLCNT.MS (R785). -/
def TMB_WDLCNT_MS : Fld := ⟨0x2a0128, 15, 0, 0x0, 0x0⟩
/-- TMB_WDPCNT.MS (R785). -/
def TMB_WDPCNT_MS : Fld := ⟨0x2a012c, 15, 0, 0x0, 0x0⟩
/-- TMB_DBGFRZ.FRZ (R785). -/
def TMB_DBGFRZ_FRZ : Fld := ⟨0x2a0130, 0, 0, 0x0, 0x0⟩
/-- TMB_WDDCFG.ENABLE (R821). -/
def TMB_WDDCFG_ENABLE : Fld := ⟨0x2a0200, 31, 31, 0x0, 0x0⟩
/-- TMB_WDDCFG.SCOPE (R821). -/
def TMB_WDDCFG_SCOPE : Fld := ⟨0x2a0200, 25, 24, 0x0, 0x0⟩
/-- TMB_WDDCFG.GRACE (R821). -/
def TMB_WDDCFG_GRACE : Fld := ⟨0x2a0200, 23, 16, 0x0, 0x0⟩
/-- TMB_WDDCFG.PERIOD (R821). -/
def TMB_WDDCFG_PERIOD : Fld := ⟨0x2a0200, 15, 0, 0x0, 0x0⟩
/-- TMB_WDDKICK.KICK (R821). -/
def TMB_WDDKICK_KICK : Fld := ⟨0x2a0204, 15, 0, 0x0, 0x0⟩
/-- TMB_WDDCNT.GRACE (R821). -/
def TMB_WDDCNT_GRACE : Fld := ⟨0x2a0208, 16, 16, 0x0, 0x0⟩
/-- TMB_WDDCNT.MS (R821). -/
def TMB_WDDCNT_MS : Fld := ⟨0x2a0208, 15, 0, 0x0, 0x0⟩
/-- TMB_WDDREC.VALID (R821). -/
def TMB_WDDREC_VALID : Fld := ⟨0x2a020c, 31, 31, 0x0, 0x0⟩
/-- TMB_WDDREC.STAGE2 (R821). -/
def TMB_WDDREC_STAGE2 : Fld := ⟨0x2a020c, 30, 30, 0x0, 0x0⟩
/-- TMB_WDDREC.LOCKS (R821). -/
def TMB_WDDREC_LOCKS : Fld := ⟨0x2a020c, 23, 16, 0x0, 0x0⟩
/-- TMB_WDDREC.LEASES (R821). -/
def TMB_WDDREC_LEASES : Fld := ⟨0x2a020c, 15, 0, 0x0, 0x0⟩
/-- UART_CFG.DIV (R771). -/
def UART_CFG_DIV : Fld := ⟨0x2b1000, 31, 16, 0x100, 0x0⟩
/-- UART_CFG.FRAC (R771). -/
def UART_CFG_FRAC : Fld := ⟨0x2b1000, 15, 12, 0x100, 0x0⟩
/-- UART_CFG.OSR8 (R771). -/
def UART_CFG_OSR8 : Fld := ⟨0x2b1000, 11, 11, 0x100, 0x0⟩
/-- UART_CFG.STOP (R771). -/
def UART_CFG_STOP : Fld := ⟨0x2b1000, 10, 9, 0x100, 0x0⟩
/-- UART_CFG.PARITY (R771). -/
def UART_CFG_PARITY : Fld := ⟨0x2b1000, 8, 6, 0x100, 0x0⟩
/-- UART_CFG.BITS (R771). -/
def UART_CFG_BITS : Fld := ⟨0x2b1000, 3, 0, 0x100, 0x0⟩
/-- UART_CTL.DEPRE (R771). -/
def UART_CTL_DEPRE : Fld := ⟨0x2b1004, 31, 28, 0x100, 0x0⟩
/-- UART_CTL.DEPOST (R771). -/
def UART_CTL_DEPOST : Fld := ⟨0x2b1004, 27, 24, 0x100, 0x0⟩
/-- UART_CTL.ECHO (R771). -/
def UART_CTL_ECHO : Fld := ⟨0x2b1004, 3, 3, 0x100, 0x0⟩
/-- UART_CTL.RS485 (R771). -/
def UART_CTL_RS485 : Fld := ⟨0x2b1004, 2, 2, 0x100, 0x0⟩
/-- UART_CTL.FLOW (R771). -/
def UART_CTL_FLOW : Fld := ⟨0x2b1004, 1, 1, 0x100, 0x0⟩
/-- UART_CTL.ENABLE (R771). -/
def UART_CTL_ENABLE : Fld := ⟨0x2b1004, 0, 0, 0x100, 0x0⟩
/-- UART_TXDATA.DATA (R771). -/
def UART_TXDATA_DATA : Fld := ⟨0x2b1008, 8, 0, 0x100, 0x0⟩
/-- UART_RXHEAD.ENTRY (R771). -/
def UART_RXHEAD_ENTRY : Fld := ⟨0x2b100c, 15, 0, 0x100, 0x0⟩
/-- UART_RXPOP.COUNT (R771). -/
def UART_RXPOP_COUNT : Fld := ⟨0x2b1010, 6, 0, 0x100, 0x0⟩
/-- UART_FIFO.RX (R771). -/
def UART_FIFO_RX : Fld := ⟨0x2b1014, 22, 16, 0x100, 0x0⟩
/-- UART_FIFO.TX (R771). -/
def UART_FIFO_TX : Fld := ⟨0x2b1014, 6, 0, 0x100, 0x0⟩
/-- UART_ERR.ERR (R771). -/
def UART_ERR_ERR : Fld := ⟨0x2b1018, 3, 0, 0x100, 0x0⟩
/-- I2C_CFG.STRETCHTO (R777). -/
def I2C_CFG_STRETCHTO : Fld := ⟨0x2b2000, 15, 8, 0x100, 0x0⟩
/-- I2C_CFG.PEC (R777). -/
def I2C_CFG_PEC : Fld := ⟨0x2b2000, 2, 2, 0x100, 0x0⟩
/-- I2C_CFG.SPEED (R777). -/
def I2C_CFG_SPEED : Fld := ⟨0x2b2000, 1, 0, 0x100, 0x0⟩
/-- I2C_CMD.GO (R777). -/
def I2C_CMD_GO : Fld := ⟨0x2b2004, 31, 31, 0x100, 0x0⟩
/-- I2C_CMD.RECOVER (R777). -/
def I2C_CMD_RECOVER : Fld := ⟨0x2b2004, 30, 30, 0x100, 0x0⟩
/-- I2C_CMD.ADDR (R777). -/
def I2C_CMD_ADDR : Fld := ⟨0x2b2004, 22, 16, 0x100, 0x0⟩
/-- I2C_CMD.WLEN (R777). -/
def I2C_CMD_WLEN : Fld := ⟨0x2b2004, 13, 8, 0x100, 0x0⟩
/-- I2C_CMD.RLEN (R777). -/
def I2C_CMD_RLEN : Fld := ⟨0x2b2004, 5, 0, 0x100, 0x0⟩
/-- I2C_STAT.BUSY (R777). -/
def I2C_STAT_BUSY : Fld := ⟨0x2b2008, 31, 31, 0x100, 0x0⟩
/-- I2C_STAT.SEQOWN (R777). -/
def I2C_STAT_SEQOWN : Fld := ⟨0x2b2008, 30, 30, 0x100, 0x0⟩
/-- I2C_STAT.RESULT (R777). -/
def I2C_STAT_RESULT : Fld := ⟨0x2b2008, 26, 24, 0x100, 0x0⟩
/-- I2C_STAT.DONE (R777). -/
def I2C_STAT_DONE : Fld := ⟨0x2b2008, 5, 0, 0x100, 0x0⟩
/-- I2C_BUF.BYTES (R777). -/
def I2C_BUF_BYTES : Fld := ⟨0x2b2020, 31, 0, 0x100, 0x4⟩
/-- GPIO_DIR.MASK (R780). -/
def GPIO_DIR_MASK : Fld := ⟨0x2b3000, 31, 0, 0x4, 0x0⟩
/-- GPIO_OUT.MASK (R780). -/
def GPIO_OUT_MASK : Fld := ⟨0x2b3008, 31, 0, 0x4, 0x0⟩
/-- GPIO_IN.MASK (R780). -/
def GPIO_IN_MASK : Fld := ⟨0x2b3010, 31, 0, 0x4, 0x0⟩
/-- GPIO_PULL.SEL (R780). -/
def GPIO_PULL_SEL : Fld := ⟨0x2b3020, 31, 0, 0x4, 0x0⟩
/-- GPIO_EDGECFG.SEL (R780). -/
def GPIO_EDGECFG_SEL : Fld := ⟨0x2b3030, 31, 0, 0x4, 0x0⟩
/-- GPIO_EDGE.MASK (R780). -/
def GPIO_EDGE_MASK : Fld := ⟨0x2b3040, 31, 0, 0x4, 0x0⟩
/-- GPIO_EDGEEN.MASK (R780). -/
def GPIO_EDGEEN_MASK : Fld := ⟨0x2b3048, 31, 0, 0x4, 0x0⟩
/-- FSP_CFG.DIV (R767). -/
def FSP_CFG_DIV : Fld := ⟨0x2c0100, 23, 16, 0x0, 0x0⟩
/-- FSP_CFG.SIZE (R767). -/
def FSP_CFG_SIZE : Fld := ⟨0x2c0100, 12, 8, 0x0, 0x0⟩
/-- FSP_CFG.DUMMY (R767). -/
def FSP_CFG_DUMMY : Fld := ⟨0x2c0100, 7, 4, 0x0, 0x0⟩
/-- FSP_CFG.MODE (R767). -/
def FSP_CFG_MODE : Fld := ⟨0x2c0100, 1, 0, 0x0, 0x0⟩
/-- FSP_OPC.RDSR (R767). -/
def FSP_OPC_RDSR : Fld := ⟨0x2c0104, 23, 16, 0x0, 0x0⟩
/-- FSP_OPC.PP (R767). -/
def FSP_OPC_PP : Fld := ⟨0x2c0104, 15, 8, 0x0, 0x0⟩
/-- FSP_OPC.WREN (R767). -/
def FSP_OPC_WREN : Fld := ⟨0x2c0104, 7, 0, 0x0, 0x0⟩
/-- FSP_CMD.GO (R767). -/
def FSP_CMD_GO : Fld := ⟨0x2c0108, 31, 31, 0x0, 0x0⟩
/-- FSP_CMD.POLL (R767). -/
def FSP_CMD_POLL : Fld := ⟨0x2c0108, 30, 30, 0x0, 0x0⟩
/-- FSP_CMD.ADDR (R767). -/
def FSP_CMD_ADDR : Fld := ⟨0x2c0108, 29, 29, 0x0, 0x0⟩
/-- FSP_CMD.READ (R767). -/
def FSP_CMD_READ : Fld := ⟨0x2c0108, 28, 28, 0x0, 0x0⟩
/-- FSP_CMD.LEN (R767). -/
def FSP_CMD_LEN : Fld := ⟨0x2c0108, 24, 16, 0x0, 0x0⟩
/-- FSP_CMD.BYTES (R767). -/
def FSP_CMD_BYTES : Fld := ⟨0x2c0108, 15, 0, 0x0, 0x0⟩
/-- FSP_ADDR.OFFSET (R767). -/
def FSP_ADDR_OFFSET : Fld := ⟨0x2c010c, 31, 0, 0x0, 0x0⟩
/-- FSP_TO.MS (R767). -/
def FSP_TO_MS : Fld := ⟨0x2c0110, 11, 0, 0x0, 0x0⟩
/-- FSP_CMDSTAT.BUSY (R767). -/
def FSP_CMDSTAT_BUSY : Fld := ⟨0x2c0114, 0, 0, 0x0, 0x0⟩
/-- FSP_BUF.BYTES (R767). -/
def FSP_BUF_BYTES : Fld := ⟨0x2c1000, 31, 0, 0x4, 0x0⟩
/-- MEM_CFG.ECC (R761). -/
def MEM_CFG_ECC : Fld := ⟨0x300100, 9, 8, 0x0, 0x0⟩
/-- MEM_CFG.RATE (R761). -/
def MEM_CFG_RATE : Fld := ⟨0x300100, 5, 4, 0x0, 0x0⟩
/-- MEM_CFG.SIZE (R761). -/
def MEM_CFG_SIZE : Fld := ⟨0x300100, 1, 0, 0x0, 0x0⟩
/-- MEM_CTL.RETRAIN (R761). -/
def MEM_CTL_RETRAIN : Fld := ⟨0x300104, 0, 0, 0x0, 0x0⟩
/-- MEM_ECCCNT.COUNT (R761). -/
def MEM_ECCCNT_COUNT : Fld := ⟨0x300108, 31, 0, 0x0, 0x0⟩
/-- MEM_SCRUB.PERIOD (R761). -/
def MEM_SCRUB_PERIOD : Fld := ⟨0x30010c, 7, 0, 0x0, 0x0⟩
/-- MEM_TRAINTEMP.TEMP (R761). -/
def MEM_TRAINTEMP_TEMP : Fld := ⟨0x300110, 15, 0, 0x0, 0x0⟩
/-- MEM_TRAINBUF.WORD (R761). -/
def MEM_TRAINBUF_WORD : Fld := ⟨0x301000, 31, 0, 0x4, 0x0⟩
/-- HLK_CFG.BAR4EN (R752). -/
def HLK_CFG_BAR4EN : Fld := ⟨0x340100, 8, 8, 0x0, 0x0⟩
/-- HLK_CFG.MAXRATE (R752). -/
def HLK_CFG_MAXRATE : Fld := ⟨0x340100, 6, 4, 0x0, 0x0⟩
/-- HLK_CFG.MAXWIDTH (R752). -/
def HLK_CFG_MAXWIDTH : Fld := ⟨0x340100, 2, 0, 0x0, 0x0⟩
/-- HLK_BAR4MAP.BASE (R752). -/
def HLK_BAR4MAP_BASE : Fld := ⟨0x340104, 15, 0, 0x0, 0x0⟩
/-- HLK_OBEN.EN (R752). -/
def HLK_OBEN_EN : Fld := ⟨0x340108, 3, 0, 0x0, 0x0⟩
/-- HLK_OBSEG.HADDR (R752). -/
def HLK_OBSEG_HADDR : Fld := ⟨0x340110, 27, 0, 0x4, 0x0⟩
/-- HLK_LTR.LAT (R752). -/
def HLK_LTR_LAT : Fld := ⟨0x340120, 9, 0, 0x0, 0x0⟩
/-- HLK_PME.PME (R752). -/
def HLK_PME_PME : Fld := ⟨0x340124, 0, 0, 0x0, 0x0⟩
/-- HLK_SUBSYS.ID (R752). -/
def HLK_SUBSYS_ID : Fld := ⟨0x340128, 15, 0, 0x0, 0x0⟩
/-- HLK_CTOCNT.COUNT (R752). -/
def HLK_CTOCNT_COUNT : Fld := ⟨0x340130, 15, 0, 0x0, 0x0⟩
/-- FLT_STALLCFG.LIMIT (R65). -/
def FLT_STALLCFG_LIMIT : Fld := ⟨0x380100, 9, 0, 0x0, 0x0⟩
/-- FLT_SEGSTAT.PENDING (R66). -/
def FLT_SEGSTAT_PENDING : Fld := ⟨0x380104, 28, 16, 0x0, 0x0⟩
/-- FLT_SEGSTAT.FENCED (R66). -/
def FLT_SEGSTAT_FENCED : Fld := ⟨0x380104, 12, 0, 0x0, 0x0⟩
/-- FLT_STALLREC0.VALID (R66). -/
def FLT_STALLREC0_VALID : Fld := ⟨0x380108, 31, 31, 0x0, 0x0⟩
/-- FLT_STALLREC0.DRAINED (R66). -/
def FLT_STALLREC0_DRAINED : Fld := ⟨0x380108, 11, 4, 0x0, 0x0⟩
/-- FLT_STALLREC0.SEG (R66). -/
def FLT_STALLREC0_SEG : Fld := ⟨0x380108, 3, 0, 0x0, 0x0⟩
/-- FLT_STALLREC1.TIME (R66). -/
def FLT_STALLREC1_TIME : Fld := ⟨0x38010c, 31, 0, 0x0, 0x0⟩
/-- FLT_DRAINCNT.COUNT (R66). -/
def FLT_DRAINCNT_COUNT : Fld := ⟨0x380110, 15, 0, 0x0, 0x0⟩
/-- FLT_UNFENCE.GO (R819). -/
def FLT_UNFENCE_GO : Fld := ⟨0x380114, 31, 31, 0x0, 0x0⟩
/-- FLT_UNFENCE.RES (R819). -/
def FLT_UNFENCE_RES : Fld := ⟨0x380114, 27, 24, 0x0, 0x0⟩
/-- FLT_UNFENCE.SEG (R819). -/
def FLT_UNFENCE_SEG : Fld := ⟨0x380114, 3, 0, 0x0, 0x0⟩
/-- FLT_CETHR.THRESH (R819). -/
def FLT_CETHR_THRESH : Fld := ⟨0x380118, 15, 0, 0x0, 0x0⟩
/-- FLT_LOCKREC0.VALID (R819). -/
def FLT_LOCKREC0_VALID : Fld := ⟨0x380120, 31, 31, 0x0, 0x0⟩
/-- FLT_LOCKREC0.HALL (R819). -/
def FLT_LOCKREC0_HALL : Fld := ⟨0x380120, 30, 30, 0x0, 0x0⟩
/-- FLT_LOCKREC0.CORE (R819). -/
def FLT_LOCKREC0_CORE : Fld := ⟨0x380120, 29, 28, 0x0, 0x0⟩
/-- FLT_LOCKREC0.WHY (R819). -/
def FLT_LOCKREC0_WHY : Fld := ⟨0x380120, 26, 24, 0x0, 0x0⟩
/-- FLT_LOCKREC0.VEC (R819). -/
def FLT_LOCKREC0_VEC : Fld := ⟨0x380120, 21, 16, 0x0, 0x0⟩
/-- FLT_LOCKREC1.TIME (R819). -/
def FLT_LOCKREC1_TIME : Fld := ⟨0x380124, 31, 0, 0x0, 0x0⟩
/-- FLT_SELF.SRC (R819). -/
def FLT_SELF_SRC : Fld := ⟨0x380130, 29, 28, 0x0, 0x0⟩
/-- FLT_SELF.CORE (R819). -/
def FLT_SELF_CORE : Fld := ⟨0x380130, 25, 24, 0x0, 0x0⟩
/-- FLT_LLEXP.MASK (R819). -/
def FLT_LLEXP_MASK : Fld := ⟨0x380140, 31, 0, 0x4, 0x0⟩
/-- FLT_BANK_STAT.VALID (R819). -/
def FLT_BANK_STAT_VALID : Fld := ⟨0x380200, 31, 31, 0x20, 0x0⟩
/-- FLT_BANK_STAT.UC (R819). -/
def FLT_BANK_STAT_UC : Fld := ⟨0x380200, 30, 30, 0x20, 0x0⟩
/-- FLT_BANK_STAT.OVER (R819). -/
def FLT_BANK_STAT_OVER : Fld := ⟨0x380200, 29, 29, 0x20, 0x0⟩
/-- FLT_BANK_STAT.MCE (R819). -/
def FLT_BANK_STAT_MCE : Fld := ⟨0x380200, 28, 28, 0x20, 0x0⟩
/-- FLT_BANK_STAT.TYPE (R819). -/
def FLT_BANK_STAT_TYPE : Fld := ⟨0x380200, 27, 24, 0x20, 0x0⟩
/-- FLT_BANK_STAT.SEG (R819). -/
def FLT_BANK_STAT_SEG : Fld := ⟨0x380200, 19, 16, 0x20, 0x0⟩
/-- FLT_BANK_ADDRLO.ADDR (R819). -/
def FLT_BANK_ADDRLO_ADDR : Fld := ⟨0x380204, 31, 0, 0x20, 0x0⟩
/-- FLT_BANK_ADDRHI.ADDRV (R819). -/
def FLT_BANK_ADDRHI_ADDRV : Fld := ⟨0x380208, 31, 31, 0x20, 0x0⟩
/-- FLT_BANK_ADDRHI.ADDR (R819). -/
def FLT_BANK_ADDRHI_ADDR : Fld := ⟨0x380208, 7, 0, 0x20, 0x0⟩
/-- FLT_BANK_TIME.TIME (R819). -/
def FLT_BANK_TIME_TIME : Fld := ⟨0x38020c, 31, 0, 0x20, 0x0⟩
/-- FLT_BANK_CECNT.COUNT (R819). -/
def FLT_BANK_CECNT_COUNT : Fld := ⟨0x380210, 31, 0, 0x20, 0x0⟩
/-- LL_CTL.OP (R820). -/
def LL_CTL_OP : Fld := ⟨0x381000, 31, 28, 0x10, 0x0⟩
/-- LL_CTL.GEN (R820). -/
def LL_CTL_GEN : Fld := ⟨0x381000, 23, 16, 0x10, 0x0⟩
/-- LL_CTL.TICKET (R820). -/
def LL_CTL_TICKET : Fld := ⟨0x381000, 15, 0, 0x10, 0x0⟩
/-- LL_STAT.HELD (R820). -/
def LL_STAT_HELD : Fld := ⟨0x381004, 31, 31, 0x10, 0x0⟩
/-- LL_STAT.EXPIRED (R820). -/
def LL_STAT_EXPIRED : Fld := ⟨0x381004, 30, 30, 0x10, 0x0⟩
/-- LL_STAT.TAINT (R820). -/
def LL_STAT_TAINT : Fld := ⟨0x381004, 29, 29, 0x10, 0x0⟩
/-- LL_STAT.SRC (R820). -/
def LL_STAT_SRC : Fld := ⟨0x381004, 28, 27, 0x10, 0x0⟩
/-- LL_STAT.CORE (R820). -/
def LL_STAT_CORE : Fld := ⟨0x381004, 25, 24, 0x10, 0x0⟩
/-- LL_STAT.GEN (R820). -/
def LL_STAT_GEN : Fld := ⟨0x381004, 23, 16, 0x10, 0x0⟩
/-- LL_STAT.TICKET (R820). -/
def LL_STAT_TICKET : Fld := ⟨0x381004, 15, 0, 0x10, 0x0⟩
/-- LL_CFG.HOSTOK (R820). -/
def LL_CFG_HOSTOK : Fld := ⟨0x381008, 31, 31, 0x10, 0x0⟩
/-- LL_CFG.HALLPOK (R820). -/
def LL_CFG_HALLPOK : Fld := ⟨0x381008, 30, 30, 0x10, 0x0⟩
/-- LL_CFG.BIND (R820). -/
def LL_CFG_BIND : Fld := ⟨0x381008, 29, 28, 0x10, 0x0⟩
/-- LL_CFG.TIMEOUT (R820). -/
def LL_CFG_TIMEOUT : Fld := ⟨0x381008, 23, 0, 0x10, 0x0⟩
/-- LL_BIND.COUNT (R820). -/
def LL_BIND_COUNT : Fld := ⟨0x38100c, 30, 16, 0x10, 0x0⟩
/-- LL_BIND.FIRST (R820). -/
def LL_BIND_FIRST : Fld := ⟨0x38100c, 13, 0, 0x10, 0x0⟩
/-- ID_PCIIDS.IDS (R740). -/
def ID_PCIIDS_IDS : Fld := ⟨0x20, 31, 0, 0x0, 0x0⟩
/-- ID_JTAGID.ID (R787). -/
def ID_JTAGID_ID : Fld := ⟨0x24, 31, 0, 0x0, 0x0⟩
/-- DBG_CTL.LEN (R791). -/
def DBG_CTL_LEN : Fld := ⟨0x2b4000, 1, 1, 0x0, 0x0⟩
/-- DBG_CTL.PEN (R791). -/
def DBG_CTL_PEN : Fld := ⟨0x2b4000, 0, 0, 0x0, 0x0⟩
/-- HLK_MSIX.WORD (R746). -/
def HLK_MSIX_WORD : Fld := ⟨0x360000, 31, 0, 0x10, 0x4⟩
/-- HLK_PBA.PENDING (R746). -/
def HLK_PBA_PENDING : Fld := ⟨0x370000, 31, 0, 0x4, 0x0⟩
end F

/-! ### Descriptors, block by block -/
/-- The registers of block 0 (ID) beside its common header. -/
def regsID : List RegD := [
  -- ID_PART, R6
  ⟨0x0, 0x0, 1, 0x0, 1, .always, [⟨31, 0, .ro, .live, .any, false⟩]⟩,
  -- ID_STEP, R6
  ⟨0x4, 0x0, 1, 0x0, 1, .always, [⟨31, 0, .ro, (.val 0), .any, false⟩]⟩,
  -- ID_CAP, R6
  ⟨0x10, 0x4, 4, 0x0, 1, .always, [⟨31, 0, .ro, .live, .any, false⟩]⟩,
  -- ID_OTPPROG, R135
  ⟨0x100, 0x0, 1, 0x0, 1, .always, [⟨31, 31, .wo, (.val 0), .any, false⟩, ⟨8, 0, .wo, (.val 0), .any, false⟩]⟩,
  -- ID_OTPDATA, R135
  ⟨0x104, 0x0, 1, 0x0, 1, .always, [⟨31, 0, .rw, (.val 0), .any, false⟩]⟩,
  -- ID_OTPSTAT, R135
  ⟨0x108, 0x0, 1, 0x0, 1, .always, [⟨1, 1, .w1c, (.val 0), .any, false⟩, ⟨0, 0, .ro, (.val 0), .any, false⟩]⟩,
  -- ID_OTP, R130
  ⟨0x800, 0x4, 512, 0x0, 1, .always, [⟨31, 0, .ro, .live, .any, false⟩]⟩,
  -- ID_PCIIDS, R740
  ⟨0x20, 0x0, 1, 0x0, 1, .always, [⟨31, 0, .ro, .live, .any, false⟩]⟩,
  -- ID_JTAGID, R787
  ⟨0x24, 0x0, 1, 0x0, 1, .always, [⟨31, 0, .ro, .live, .any, false⟩]⟩]

/-- The registers of block 1 (CFG) beside its common header. -/
def regsCFG : List RegD := [
  -- CFG_HOSTACC, R79
  ⟨0x10100, 0x0, 1, 0x0, 1, .always, [⟨22, 0, .rw, (.val 0x7FFDFC), (.keep 0x7FFDFC), false⟩]⟩,
  -- CFG_HALLPACC, R79
  ⟨0x10104, 0x0, 1, 0x0, 1, .always, [⟨22, 0, .rw, (.val 0), (.keep 0x7FFDFC), false⟩]⟩,
  -- CFG_ACCLOCK, R79
  ⟨0x10108, 0x0, 1, 0x0, 1, .always, [⟨0, 0, .w1s, (.val 0), .any, false⟩]⟩,
  -- CFG_DENYREC, R79
  ⟨0x1010c, 0x0, 1, 0x0, 1, .always, [⟨31, 31, .ro, (.val 0), .any, false⟩, ⟨30, 29, .ro, (.val 0), .any, false⟩, ⟨28, 28, .ro, (.val 0), .any, false⟩, ⟨23, 19, .ro, (.val 0), .any, false⟩, ⟨18, 0, .ro, (.val 0), .any, false⟩]⟩,
  -- CFG_CLAMPWR, R86
  ⟨0x10200, 0x0, 1, 0x0, 1, .always, [⟨5, 0, .ro, (.val 0), .any, true⟩]⟩,
  -- CFG_CLAMPTOT, R86
  ⟨0x10204, 0x0, 1, 0x0, 1, .always, [⟨31, 0, .ro, (.val 0), .any, true⟩]⟩,
  -- CFG_CLAMPCTL, R86
  ⟨0x10208, 0x0, 1, 0x0, 1, .always, [⟨0, 0, .wo, (.val 0), .any, false⟩]⟩,
  -- CFG_CLAMPLOG, R86
  ⟨0x10800, 0x20, 64, 0x4, 8, .always, [⟨31, 0, .ro, (.val 0), .any, true⟩]⟩]

/-- The registers of block 2 (PWR) beside its common header. -/
def regsPWR : List RegD := [
  -- PWR_RSTCAUSE, R155
  ⟨0x20100, 0x0, 1, 0x0, 1, .always, [⟨6, 0, .w1c, (.val 1), .any, true⟩]⟩,
  -- PWR_RSTCTL, R155
  ⟨0x20104, 0x0, 1, 0x0, 1, .always, [⟨1, 1, .wo, (.val 0), .any, false⟩, ⟨0, 0, .wo, (.val 0), .any, false⟩]⟩,
  -- PWR_HALLPCTL, R155
  ⟨0x20108, 0x0, 1, 0x0, 1, .always, [⟨1, 1, .ro, (.val 0), .any, false⟩, ⟨0, 0, .rw, (.val 0), .any, false⟩]⟩,
  -- PWR_CORERST, R155
  ⟨0x2010c, 0x0, 1, 0x0, 1, .always, [⟨3, 0, .rw, .coreHold, .cores, false⟩]⟩,
  -- PWR_COREENT_LO, R155
  ⟨0x20110, 0x0, 1, 0x0, 1, .always, [⟨30, 0, .rws, (.val 0x7FFF0000), (.mult 4), false⟩]⟩,
  -- PWR_COREENT_HI, R155
  ⟨0x20114, 0x0, 1, 0x0, 1, .always, [⟨8, 0, .rwk, (.val 0x1FF), .any, false⟩]⟩,
  -- PWR_CISCTL, R155
  ⟨0x20118, 0x0, 1, 0x0, 1, .always, [⟨1, 1, .rw, (.val 0), .any, true⟩, ⟨0, 0, .rw, (.val 0), .any, true⟩]⟩,
  -- PWR_CISRAILS, R155
  ⟨0x2011c, 0x0, 1, 0x0, 1, .always, [⟨15, 0, .rw, (.val 0), .slotsPg, true⟩]⟩,
  -- PWR_WAKEEN, R155
  ⟨0x20120, 0x0, 1, 0x0, 1, .always, [⟨5, 0, .rw, (.val 0x3F), .any, true⟩]⟩,
  -- PWR_WAKEROUTE, R155
  ⟨0x20124, 0x0, 1, 0x0, 1, .always, [⟨5, 1, .rw, (.val 0), .any, true⟩]⟩,
  -- PWR_WAKESRC, R155
  ⟨0x20128, 0x0, 1, 0x0, 1, .always, [⟨5, 0, .w1c, (.val 0), .any, true⟩]⟩,
  -- PWR_WAKETIME, R155
  ⟨0x2012c, 0x0, 1, 0x0, 1, .always, [⟨31, 0, .ro, (.val 0), .any, true⟩]⟩,
  -- PWR_WAKEVECL, R155
  ⟨0x20130, 0x0, 1, 0x0, 1, .always, [⟨15, 2, .rw, (.val 0), .any, true⟩]⟩,
  -- PWR_WAKEVECP, R155
  ⟨0x20134, 0x0, 1, 0x0, 1, .always, [⟨15, 2, .rw, (.val 0), .any, true⟩]⟩,
  -- PWR_BOOTSTAT, R155
  ⟨0x20140, 0x0, 1, 0x0, 1, .always, [⟨23, 16, .rw, (.val 0), (.near 0 128), false⟩, ⟨11, 10, .ro, (.val 0), .any, false⟩, ⟨9, 8, .rw, (.val 3), .any, false⟩, ⟨7, 0, .rw, (.val 0), .any, false⟩]⟩]

/-- The registers of block 3 (SEQ) beside its common header. -/
def regsSEQ : List RegD := [
  -- SEQ_STEPCTL, R210
  ⟨0x30100, 0x0, 1, 0x0, 1, .always, [⟨23, 16, .rw, (.val 10), (.near 0 100), true⟩, ⟨2, 2, .wo, (.val 0), .any, false⟩, ⟨1, 1, .wo, (.val 0), .any, false⟩, ⟨0, 0, .wo, (.val 0), .any, false⟩]⟩,
  -- SEQ_UPMASK, R210
  ⟨0x30104, 0x0, 1, 0x0, 1, .always, [⟨31, 16, .ro, (.val 0), .any, true⟩, ⟨15, 0, .ro, (.val 0), .any, true⟩]⟩,
  -- SEQ_FLTCFG, R210
  ⟨0x30108, 0x0, 1, 0x0, 1, .always, [⟨27, 16, .rw, (.val 100), (.near 10 1000), true⟩, ⟨15, 8, .rw, (.val 10), (.near 1 255), true⟩, ⟨2, 0, .rw, (.val 0), .any, true⟩]⟩,
  -- SEQ_RESTARTS, R210
  ⟨0x3010c, 0x0, 1, 0x0, 1, .always, [⟨7, 0, .rw, (.val 0), .any, true⟩]⟩,
  -- SEQ_FLTREC0, R210
  ⟨0x30110, 0x0, 1, 0x0, 1, .always, [⟨31, 31, .ro, (.val 0), .any, true⟩, ⟨30, 28, .ro, (.val 0), .any, true⟩, ⟨27, 27, .ro, (.val 0), .any, true⟩, ⟨23, 20, .ro, (.val 0), .any, true⟩, ⟨19, 15, .ro, (.val 0), .any, true⟩, ⟨4, 0, .ro, (.val 0x1F), .any, true⟩]⟩,
  -- SEQ_FLTREC1, R210
  ⟨0x30114, 0x0, 1, 0x0, 1, .always, [⟨31, 0, .ro, (.val 0), .any, true⟩]⟩,
  -- SEQ_FLTREC2, R210
  ⟨0x30118, 0x0, 1, 0x0, 1, .always, [⟨31, 16, .ro, (.val 0), .any, true⟩, ⟨15, 0, .ro, (.val 0), .any, true⟩]⟩,
  -- SEQ_KCFG, R210
  ⟨0x30120, 0x0, 1, 0x0, 1, .always, [⟨25, 16, .rw, (.val 100), (.near 0 1000), true⟩, ⟨8, 4, .rw, (.val 31), .any, true⟩, ⟨1, 1, .rw, (.val 1), .any, true⟩, ⟨0, 0, .rw, (.val 0), .any, true⟩]⟩,
  -- SEQ_KSTAT, R210
  ⟨0x30124, 0x0, 1, 0x0, 1, .always, [⟨23, 16, .ro, (.val 0), .any, true⟩, ⟨8, 8, .ro, (.val 0), .any, true⟩, ⟨5, 0, .ro, (.val 0), .any, true⟩]⟩,
  -- SEQ_TEMPOCTL, R210
  ⟨0x30140, 0x0, 1, 0x0, 1, .always, [⟨26, 24, .rw, (.val 4), .any, true⟩, ⟨20, 16, .rw, (.val 0x1F), .slotOrNone, true⟩, ⟨1, 1, .rw, (.val 0), .any, true⟩, ⟨0, 0, .rw, (.val 0), .any, true⟩]⟩,
  -- SEQ_TEMPOFLR, R210
  ⟨0x30144, 0x0, 1, 0x0, 1, .always, [⟨2, 0, .rws, (.val 0), .any, true⟩]⟩,
  -- SEQ_TEMPOCEIL, R210
  ⟨0x30148, 0x0, 1, 0x0, 1, .always, [⟨2, 0, .rwk, (.val 7), .any, true⟩]⟩,
  -- SEQ_TEMPODN, R210
  ⟨0x3014c, 0x0, 1, 0x0, 1, .always, [⟨15, 0, .rws, (.val 16), .any, true⟩]⟩,
  -- SEQ_TEMPOUP, R210
  ⟨0x30150, 0x0, 1, 0x0, 1, .always, [⟨15, 0, .rwk, (.val 256), (.near 1 65535), true⟩]⟩,
  -- SEQ_TEMPOTIM, R210
  ⟨0x30154, 0x0, 1, 0x0, 1, .always, [⟨27, 24, .rw, (.val 8), (.near 1 15), true⟩, ⟨19, 16, .rw, (.val 2), (.near 1 15), true⟩, ⟨9, 0, .rw, (.val 10), (.near 1 1000), true⟩]⟩,
  -- SEQ_TEMPOSET, R210
  ⟨0x30158, 0x0, 1, 0x0, 1, .always, [⟨25, 16, .rw, (.val 25), (.near 1 255), true⟩, ⟨9, 0, .rw, (.val 100), (.near 10 1000), true⟩]⟩,
  -- SEQ_TEMPOLVL, R210
  ⟨0x30160, 0x4, 8, 0x0, 1, .always, [⟨31, 16, .rw, (.val 0), .any, true⟩, ⟨9, 0, .rw, .wnom, .any, true⟩]⟩,
  -- SEQ_SLOT_CFG, R210
  ⟨0x31000, 0x20, 16, 0x0, 1, .slot, [⟨27, 16, .rw, (.val 200), (.near 1 1000), true⟩, ⟨15, 15, .rw, (.val 1), .any, true⟩, ⟨14, 13, .rw, (.val 0), (.dflt 0 2 0), true⟩, ⟨12, 8, .rw, (.val 0x1F), .winOrNone, true⟩, ⟨7, 7, .rw, (.val 0), .any, true⟩, ⟨6, 6, .rw, .slotPgen, .any, true⟩, ⟨5, 5, .rw, .slotUse, .any, true⟩, ⟨4, 0, .rw, .slotUpstep, .any, true⟩]⟩,
  -- SEQ_SLOT_DEP, R210
  ⟨0x31004, 0x20, 16, 0x0, 1, .slot, [⟨15, 0, .rw, .slotDep, .slotDepMask, true⟩]⟩,
  -- SEQ_SLOT_MCFG, R210
  ⟨0x31008, 0x20, 16, 0x0, 1, .slot, [⟨23, 16, .rw, (.val 10), (.near 1 50), true⟩, ⟨15, 11, .rw, (.val 0), .any, true⟩, ⟨10, 4, .rw, (.val 8), (.near 8 0x77), true⟩, ⟨3, 3, .rw, (.val 1), .any, true⟩, ⟨2, 0, .rw, (.val 0), (.dflt 0 5 0), true⟩]⟩,
  -- SEQ_SLOT_VNOM, R210
  ⟨0x3100c, 0x20, 16, 0x0, 1, .slot, [⟨15, 0, .rw, (.val 0), .any, true⟩]⟩,
  -- SEQ_SLOT_MARG, R210
  ⟨0x31010, 0x20, 16, 0x0, 1, .slot, [⟨11, 8, .ro, (.val 0), .any, true⟩, ⟨5, 0, .rw, (.val 0), (.signed 20), true⟩]⟩,
  -- SEQ_SLOT_WEFF, R210
  ⟨0x31014, 0x20, 16, 0x0, 1, .slot, [⟨25, 16, .ro, .live, .any, false⟩, ⟨9, 0, .ro, .live, .any, false⟩]⟩,
  -- SEQ_SD, R210
  ⟨0x32000, 0x4, 32, 0x0, 1, .always, [⟨27, 16, .rw, (.val 100), (.near 1 1000), true⟩, ⟨15, 8, .rw, (.val 10), (.near 0 100), true⟩, ⟨5, 5, .rw, (.val 0), .any, true⟩, ⟨4, 0, .rw, .sdSlot, .sdSlot, true⟩]⟩]

/-- The registers of block 4 (WIN) beside its common header. -/
def regsWIN : List RegD := [
  -- WIN_LIVE, R245
  ⟨0x40100, 0x0, 1, 0x0, 1, .always, [⟨31, 0, .ro, .live, .any, false⟩]⟩,
  -- WIN_RAW, R245
  ⟨0x40104, 0x0, 1, 0x0, 1, .always, [⟨31, 0, .ro, .live, .any, false⟩]⟩,
  -- WIN_GRP, R245
  ⟨0x40110, 0x4, 4, 0x0, 1, .always, [⟨21, 16, .rw, (.val 32), (.near 1 32), true⟩, ⟨14, 0, .rw, (.val 24000), (.near 12 24000), true⟩]⟩,
  -- WIN_LO, R245
  ⟨0x41000, 0x10, 16, 0x0, 1, .win, [⟨9, 0, .rws, (.val 0), .any, true⟩]⟩,
  -- WIN_HI, R245
  ⟨0x41004, 0x10, 16, 0x0, 1, .win, [⟨9, 0, .rwk, (.val 1023), .any, true⟩]⟩,
  -- WIN_CFG, R245
  ⟨0x41008, 0x10, 16, 0x0, 1, .win, [⟨14, 12, .rw, (.val 5), .any, true⟩, ⟨11, 8, .rw, (.val 1), (.near 0 14), true⟩, ⟨0, 0, .rw, (.val 0), .any, true⟩]⟩,
  -- WIN_TRIM, R245
  ⟨0x4100c, 0x10, 16, 0x0, 1, .win, [⟨15, 8, .rw, (.val 0), .any, true⟩, ⟨7, 0, .rw, (.val 0), .any, true⟩]⟩]

/-- The registers of block 5 (ADC) beside its common header. -/
def regsADC : List RegD := [
  -- ADC_CTL, R246
  ⟨0x50100, 0x0, 1, 0x0, 1, .always, [⟨31, 16, .rw, (.val 0), .any, false⟩, ⟨11, 8, .rw, (.val 0), .any, false⟩, ⟨4, 4, .rw, (.val 0), .any, false⟩, ⟨2, 2, .wo, (.val 0), .any, false⟩, ⟨1, 1, .wo, (.val 0), .any, false⟩, ⟨0, 0, .wo, (.val 0), .any, false⟩]⟩,
  -- ADC_SNAPMASK, R246
  ⟨0x50110, 0x0, 1, 0x0, 1, .always, [⟨23, 0, .rw, .adcMask, .adcMask, true⟩]⟩,
  -- ADC_SNAPSTAT, R243
  ⟨0x50114, 0x0, 1, 0x0, 1, .always, [⟨7, 0, .w1c, .live, .any, false⟩]⟩,
  -- ADC_SNAPCFG, R246
  ⟨0x50118, 0x0, 1, 0x0, 1, .always, [⟨2, 1, .rw, (.val 2), (.dflt 1 3 1), true⟩, ⟨0, 0, .rw, (.val 1), .any, true⟩]⟩,
  -- ADC_TRIMOFF, R246
  ⟨0x50120, 0x0, 1, 0x0, 1, .always, [⟨15, 0, .rw, (.val 0), .any, true⟩]⟩,
  -- ADC_TRIMGAIN, R246
  ⟨0x50124, 0x0, 1, 0x0, 1, .always, [⟨15, 0, .rw, (.val 0x8000), (.near 0x7000 0x9000), true⟩]⟩,
  -- ADC_TRIMTEMP, R246
  ⟨0x50128, 0x0, 1, 0x0, 1, .always, [⟨15, 0, .rw, (.val 0), .any, true⟩]⟩,
  -- ADC_WRIDX, R246
  ⟨0x50140, 0x0, 1, 0x0, 1, .always, [⟨6, 6, .ro, (.val 0), .any, false⟩, ⟨5, 0, .ro, (.val 0), .any, false⟩]⟩,
  -- ADC_RDIDX, R246
  ⟨0x50144, 0x0, 1, 0x0, 1, .always, [⟨5, 0, .rw, (.val 0), .any, false⟩]⟩,
  -- ADC_ENTRY, R246
  ⟨0x50200, 0x4, 16, 0x0, 1, .always, [⟨19, 16, .rw, (.val 0), .any, false⟩, ⟨13, 12, .rw, (.val 0), .any, false⟩, ⟨9, 8, .rw, (.val 0), .adcGain, false⟩, ⟨4, 0, .rw, (.val 0x1F), .adcChan, false⟩]⟩,
  -- ADC_BUF, R246
  ⟨0x50400, 0x4, 64, 0x0, 1, .always, [⟨31, 0, .ro, (.val 0), .any, false⟩]⟩]

/-- The registers of block 6 (CAL) beside its common header. -/
def regsCAL : List RegD := [
  -- CAL_CTL, R143
  ⟨0x60100, 0x0, 1, 0x0, 1, .always, [⟨0, 0, .wo, (.val 0), .any, false⟩]⟩,
  -- CAL_STAT, R143
  ⟨0x60104, 0x0, 1, 0x0, 1, .always, [⟨31, 31, .ro, (.val 0), .any, false⟩, ⟨3, 3, .ro, .live, .any, false⟩, ⟨2, 2, .ro, .live, .any, false⟩, ⟨1, 1, .ro, .live, .any, false⟩, ⟨0, 0, .ro, .live, .any, false⟩]⟩,
  -- CAL_SEQ, R143
  ⟨0x60108, 0x0, 1, 0x0, 1, .always, [⟨31, 0, .ro, .live, .any, false⟩]⟩,
  -- CAL_IMAGE, R143
  ⟨0x70000, 0x4, 2048, 0x0, 1, .always, [⟨31, 0, .ro, .live, .any, false⟩]⟩,
  -- CAL_BUF, R143
  ⟨0x74000, 0x4, 2044, 0x0, 1, .always, [⟨31, 0, .rw, (.val 0), .any, true⟩]⟩]

/-- The registers of block 7 (CORE) beside its common header. -/
def regsCORE : List RegD := [
]

/-- The registers of block 8 (BEL) beside its common header. -/
def regsBEL : List RegD := [
  -- BEL_SRC, R498
  ⟨0x101000, 0x4, 512, 0x0, 1, .src, [⟨11, 8, .rw, (.val 1), .cores, false⟩, ⟨5, 5, .rw, (.val 0), .any, false⟩, ⟨4, 4, .rw, (.val 0), .belHall, false⟩, ⟨3, 0, .rw, (.val 0), .any, false⟩]⟩,
  -- BEL_PEND, R498
  ⟨0x103000, 0x40, 4, 0x4, 16, .core, [⟨31, 0, .w1c, .live, .any, false⟩]⟩]

/-- The registers of block 9 (KEY) beside its common header. -/
def regsKEY : List RegD := [
  -- KEY_BASE, R545
  ⟨0x140100, 0x0, 1, 0x0, 1, .always, [⟨27, 0, .rw, (.val 0), (.mult 16), false⟩]⟩,
  -- KEY_CTL, R545
  ⟨0x140104, 0x0, 1, 0x0, 1, .always, [⟨1, 1, .w1s, (.val 0), .any, false⟩, ⟨0, 0, .rw, (.val 0), .any, false⟩]⟩,
  -- KEY_HOSTKEY, R545
  ⟨0x140108, 0x0, 1, 0x0, 1, .always, [⟨3, 0, .rw, (.val 0xF), .any, false⟩]⟩,
  -- KEY_HOSTREC, R545
  ⟨0x14010c, 0x0, 1, 0x0, 1, .always, [⟨31, 31, .ro, (.val 0), .any, false⟩, ⟨30, 30, .ro, (.val 0), .any, false⟩, ⟨27, 0, .ro, (.val 0), .any, false⟩]⟩]

/-- The registers of block 10 (PMP) beside its common header. -/
def regsPMP : List RegD := [
  -- PMP_EPOCH, R111
  ⟨0x180100, 0x0, 1, 0x0, 1, .always, [⟨26, 26, .ro, (.val 0), .any, false⟩, ⟨25, 25, .ro, (.val 0), .any, false⟩, ⟨24, 24, .wo, (.val 0), .any, false⟩, ⟨15, 8, .ro, (.val 0), .any, false⟩, ⟨7, 0, .ro, (.val 0), .any, false⟩]⟩,
  -- PMP_EPPEND, R111
  ⟨0x180104, 0x0, 1, 0x0, 1, .always, [⟨14, 0, .ro, (.val 0), .any, false⟩]⟩,
  -- PMP_EPLBASE, R111
  ⟨0x180108, 0x0, 1, 0x0, 1, .always, [⟨27, 0, .rws, (.val 0), .any, false⟩]⟩,
  -- PMP_EPLCNT, R111
  ⟨0x18010c, 0x0, 1, 0x0, 1, .always, [⟨14, 0, .rwk, (.val 1), (.near 1 16384), false⟩]⟩,
  -- PMP_WTBASE, R597
  ⟨0x180200, 0x0, 1, 0x0, 1, .always, [⟨27, 0, .rw, (.val 0), (.mult 16), false⟩]⟩,
  -- PMP_WTCTL, R597
  ⟨0x180204, 0x0, 1, 0x0, 1, .always, [⟨0, 0, .rw, (.val 0), .any, false⟩]⟩,
  -- PMP_POLLCFG, R597
  ⟨0x180208, 0x0, 1, 0x0, 1, .always, [⟨25, 16, .rw, (.val 10), (.near 1 1000), false⟩, ⟨6, 0, .rw, (.val 10), (.near 1 100), false⟩]⟩,
  -- PMP_STALECFG, R597
  ⟨0x18020c, 0x0, 1, 0x0, 1, .always, [⟨15, 8, .rw, (.val 16), (.near 1 255), false⟩, ⟨6, 0, .rw, (.val 2), (.near 1 100), false⟩]⟩,
  -- PMP_DBDROP, R597
  ⟨0x180210, 0x0, 1, 0x0, 1, .always, [⟨31, 0, .ro, (.val 0), .any, false⟩]⟩,
  -- PMP_DBBAD, R597
  ⟨0x180214, 0x0, 1, 0x0, 1, .always, [⟨31, 0, .ro, (.val 0), .any, false⟩]⟩,
  -- PMP_STALECNT, R597
  ⟨0x180218, 0x0, 1, 0x0, 1, .always, [⟨31, 0, .ro, (.val 0), .any, false⟩]⟩,
  -- PMP_DBREC, R597
  ⟨0x18021c, 0x0, 1, 0x0, 1, .always, [⟨31, 31, .ro, (.val 0), .any, false⟩, ⟨30, 29, .ro, (.val 0), .any, false⟩, ⟨28, 26, .ro, (.val 0), .any, false⟩, ⟨13, 0, .ro, (.val 0), .any, false⟩]⟩,
  -- PMP_STALEREC, R597
  ⟨0x180220, 0x0, 1, 0x0, 1, .always, [⟨31, 31, .ro, (.val 0), .any, false⟩, ⟨29, 16, .ro, (.val 0), .any, false⟩, ⟨15, 0, .ro, (.val 0), .any, false⟩]⟩,
  -- PMP_WSEL, R597
  ⟨0x180300, 0x0, 1, 0x0, 1, .always, [⟨14, 0, .rw, .banked, .well, false⟩]⟩,
  -- PMP_WCTX, R597
  ⟨0x180340, 0x4, 16, 0x0, 1, .always, [⟨31, 0, .rw, .banked, .any, false⟩]⟩,
  -- PMP_CCSTAT, R635
  ⟨0x180400, 0x0, 1, 0x0, 1, .always, [⟨25, 16, .ro, .live, .any, false⟩, ⟨9, 0, .ro, .live, .any, false⟩]⟩,
  -- PMP_CCMISS, R635
  ⟨0x180404, 0x0, 1, 0x0, 1, .always, [⟨31, 0, .ro, (.val 0), .any, false⟩]⟩,
  -- PMP_BACKLOG, R635
  ⟨0x180408, 0x0, 1, 0x0, 1, .always, [⟨15, 0, .ro, .live, .any, false⟩]⟩,
  -- PMP_INLBASEL, R635
  ⟨0x180410, 0x0, 1, 0x0, 1, .always, [⟨31, 31, .rw, (.val 0), .any, false⟩, ⟨27, 0, .rw, (.val 0), (.mult 4), false⟩]⟩,
  -- PMP_INLBASEP, R635
  ⟨0x180414, 0x0, 1, 0x0, 1, .always, [⟨31, 31, .rw, (.val 0), .any, false⟩, ⟨27, 0, .rw, (.val 0), (.mult 4), false⟩]⟩,
  -- PMP_LEASECFG, R635
  ⟨0x180418, 0x0, 1, 0x0, 1, .always, [⟨3, 0, .rw, (.val 3), .any, false⟩]⟩,
  -- PMP_INST, R635
  ⟨0x180420, 0x4, 4, 0x0, 1, .core, [⟨31, 24, .ro, .live, .any, false⟩, ⟨23, 16, .ro, .live, .any, false⟩, ⟨15, 8, .ro, .live, .any, false⟩, ⟨7, 0, .ro, .live, .any, false⟩]⟩,
  -- PMP_REVOKE, R635
  ⟨0x180430, 0x0, 1, 0x0, 1, .always, [⟨31, 31, .wo, (.val 0), .any, false⟩, ⟨27, 24, .ro, (.val 0), .any, false⟩, ⟨18, 18, .rw, (.val 0), .any, false⟩, ⟨17, 16, .rw, (.val 0), .any, false⟩, ⟨15, 8, .rw, (.val 0), .any, false⟩, ⟨2, 0, .rw, (.val 0), .any, false⟩]⟩,
  -- PMP_LEASEREC, R635
  ⟨0x180434, 0x0, 1, 0x0, 1, .always, [⟨31, 31, .ro, (.val 0), .any, false⟩, ⟨29, 16, .ro, (.val 0), .any, false⟩, ⟨15, 8, .ro, (.val 0), .any, false⟩, ⟨6, 6, .ro, (.val 0), .any, false⟩, ⟨5, 4, .ro, (.val 0), .any, false⟩, ⟨2, 0, .ro, (.val 0), .any, false⟩]⟩,
  -- PMP_CIS, R635
  ⟨0x181000, 0x4, 64, 0x0, 1, .always, [⟨22, 16, .ro, (.val 0), .any, false⟩, ⟨14, 8, .rw, (.val 1), (.near 1 64), false⟩, ⟨1, 0, .rw, (.val 2), .any, false⟩]⟩]

/-- The registers of block 11 (CQ) beside its common header. -/
def regsCQ : List RegD := [
  -- CQ_EVTREC, R635
  ⟨0x1c0100, 0x0, 1, 0x0, 1, .always, [⟨31, 31, .ro, (.val 0), .any, false⟩, ⟨18, 16, .ro, (.val 0), .any, false⟩, ⟨10, 0, .ro, (.val 0), .any, false⟩]⟩,
  -- CQ_CTL, R615
  ⟨0x1c1000, 0x20, 2048, 0x0, 1, .cq, [⟨9, 8, .rw, (.val 0), (.dflt 0 2 0), false⟩, ⟨7, 4, .rw, (.val 0), .any, false⟩, ⟨3, 3, .ro, (.val 0), .any, false⟩, ⟨2, 2, .rw, (.val 0), .any, false⟩, ⟨1, 1, .rw, (.val 0), .any, false⟩, ⟨0, 0, .rw, (.val 0), .any, false⟩]⟩,
  -- CQ_BASELO, R615
  ⟨0x1c1004, 0x20, 2048, 0x0, 1, .cq, [⟨30, 26, .rws, (.val 4), (.near 4 16), false⟩, ⟨25, 0, .rws, (.val 0), .any, false⟩]⟩,
  -- CQ_BASEHI, R615
  ⟨0x1c1008, 0x20, 2048, 0x0, 1, .cq, [⟨7, 0, .rwk, (.val 0), .any, false⟩]⟩,
  -- CQ_IDX, R615
  ⟨0x1c100c, 0x20, 2048, 0x0, 1, .cq, [⟨31, 16, .rw, (.val 0), .any, false⟩, ⟨15, 0, .ro, (.val 0), .any, false⟩]⟩,
  -- CQ_MOD, R615
  ⟨0x1c1010, 0x20, 2048, 0x0, 1, .cq, [⟨25, 16, .rw, (.val 0), (.near 0 1000), false⟩, ⟨7, 0, .rw, (.val 1), (.near 1 255), false⟩]⟩,
  -- CQ_NOT, R615
  ⟨0x1c1014, 0x20, 2048, 0x0, 1, .cq, [⟨24, 16, .rw, (.val 0), (.near 0 383), false⟩, ⟨10, 0, .rw, (.val 0), .any, false⟩]⟩,
  -- CQ_ST, R615
  ⟨0x1c1018, 0x20, 2048, 0x0, 1, .cq, [⟨31, 31, .ro, (.val 0), .any, false⟩, ⟨25, 16, .ro, .live, .any, false⟩, ⟨7, 0, .ro, (.val 0), .any, false⟩]⟩]

/-- The registers of block 12 (JNL) beside its common header. -/
def regsJNL : List RegD := [
  -- JNL_CFG, R665
  ⟨0x200100, 0x0, 1, 0x0, 1, .jnl, [⟨9, 8, .rw, (.val 0), (.dflt 0 2 0), true⟩, ⟨4, 4, .rw, (.val 0), .any, true⟩, ⟨1, 0, .rw, (.val 0), (.dflt 0 2 1), true⟩]⟩,
  -- JNL_HEADCTL, R665
  ⟨0x200104, 0x0, 1, 0x0, 1, .jnl, [⟨31, 31, .ro, (.val 0), .any, true⟩, ⟨0, 0, .wo, (.val 0), .any, false⟩]⟩,
  -- JNL_HEADSEQL, R665
  ⟨0x200110, 0x0, 1, 0x0, 1, .jnl, [⟨31, 0, .ro, (.val 0), .any, true⟩]⟩,
  -- JNL_HEADSEQH, R665
  ⟨0x200114, 0x0, 1, 0x0, 1, .jnl, [⟨15, 0, .ro, (.val 0), .any, true⟩]⟩,
  -- JNL_HEADHASH, R665
  ⟨0x200120, 0x4, 8, 0x0, 1, .jnl, [⟨31, 0, .ro, (.val 0), .any, true⟩]⟩,
  -- JNL_SEEDSEQL, R665
  ⟨0x200140, 0x0, 1, 0x0, 1, .jnl, [⟨31, 0, .rw, (.val 0), .any, true⟩]⟩,
  -- JNL_SEEDSEQH, R665
  ⟨0x200144, 0x0, 1, 0x0, 1, .jnl, [⟨15, 0, .rw, (.val 0), .any, true⟩]⟩,
  -- JNL_SEEDHASH, R665
  ⟨0x200160, 0x4, 8, 0x0, 1, .jnl, [⟨31, 0, .rw, (.val 0), .any, true⟩]⟩,
  -- JNL_MACKEY, R665
  ⟨0x200180, 0x4, 8, 0x0, 1, .jnl, [⟨31, 0, .wo, (.val 0), .any, true⟩]⟩,
  -- JNL_MACCTL, R665
  ⟨0x2001a0, 0x0, 1, 0x0, 1, .jnl, [⟨1, 1, .wo, (.val 0), .any, false⟩, ⟨0, 0, .ro, (.val 0), .any, true⟩]⟩,
  -- JNL_STWR, R665
  ⟨0x200200, 0x0, 1, 0x0, 1, .jnl, [⟨14, 0, .ro, (.val 0), .any, true⟩]⟩,
  -- JNL_STFL, R665
  ⟨0x200204, 0x0, 1, 0x0, 1, .jnl, [⟨14, 0, .ro, (.val 0), .any, true⟩]⟩,
  -- JNL_FLCFG, R665
  ⟨0x200210, 0x0, 1, 0x0, 1, .jnl, [⟨25, 16, .rw, (.val 10), (.near 1 1000), true⟩, ⟨8, 0, .rw, (.val 64), (.near 1 448), true⟩]⟩,
  -- JNL_FLTO, R665
  ⟨0x200214, 0x0, 1, 0x0, 1, .jnl, [⟨9, 0, .rw, (.val 100), (.near 1 1000), true⟩]⟩,
  -- JNL_DBASELO, R665
  ⟨0x200220, 0x0, 1, 0x0, 1, .jnl, [⟨19, 0, .rws, (.val 0), .any, true⟩]⟩,
  -- JNL_DBASEHI, R665
  ⟨0x200224, 0x0, 1, 0x0, 1, .jnl, [⟨20, 16, .rwk, (.val 12), (.near 12 28), true⟩, ⟨7, 0, .rwk, (.val 0), .any, true⟩]⟩,
  -- JNL_DWR, R665
  ⟨0x200228, 0x0, 1, 0x0, 1, .jnl, [⟨27, 0, .ro, (.val 0), .any, true⟩]⟩,
  -- JNL_DRD, R665
  ⟨0x20022c, 0x0, 1, 0x0, 1, .jnl, [⟨27, 0, .rw, (.val 0), (.mult 8), true⟩]⟩,
  -- JNL_REPLAY, R665
  ⟨0x200230, 0x0, 1, 0x0, 1, .jnl, [⟨15, 0, .ro, (.val 0), .any, true⟩]⟩]

/-- The registers of block 13 (CPY) beside its common header. -/
def regsCPY : List RegD := [
  -- CPY_CFG, R665
  ⟨0x220100, 0x0, 1, 0x0, 1, .always, [⟨9, 0, .rw, (.val 100), (.near 1 1000), false⟩]⟩]

/-- The registers of block 14 (GAL) beside its common header. -/
def regsGAL : List RegD := [
  -- GAL_CTL, R699
  ⟨0x240100, 0x0, 1, 0x0, 1, .always, [⟨8, 8, .wo, (.val 0), .any, false⟩, ⟨2, 2, .wo, (.val 0), .any, false⟩, ⟨1, 1, .wo, (.val 0), .any, false⟩, ⟨0, 0, .wo, (.val 0), .any, false⟩]⟩,
  -- GAL_SWEEP, R699
  ⟨0x240104, 0x0, 1, 0x0, 1, .always, [⟨19, 0, .rw, (.val 10000), (.near 10 1000000), true⟩]⟩,
  -- GAL_SWEEPCNT, R699
  ⟨0x240108, 0x0, 1, 0x0, 1, .always, [⟨31, 0, .ro, (.val 0), .any, true⟩]⟩,
  -- GAL_OVRCNT, R699
  ⟨0x24010c, 0x0, 1, 0x0, 1, .always, [⟨15, 0, .ro, (.val 0), .any, true⟩]⟩,
  -- GAL_LOADREC, R699
  ⟨0x240110, 0x0, 1, 0x0, 1, .always, [⟨31, 31, .ro, (.val 0), .any, true⟩, ⟨27, 24, .ro, (.val 0), .any, true⟩, ⟨10, 0, .ro, (.val 0), .any, true⟩]⟩,
  -- GAL_ABSREC, R699
  ⟨0x240114, 0x0, 1, 0x0, 1, .always, [⟨31, 31, .ro, (.val 0), .any, true⟩, ⟨30, 30, .ro, (.val 0), .any, true⟩, ⟨10, 0, .ro, (.val 0), .any, true⟩]⟩,
  -- GAL_TCANCEL, R699
  ⟨0x240120, 0x4, 2, 0x0, 1, .always, [⟨31, 0, .ro, (.val 0), .any, true⟩]⟩,
  -- GAL_TFORCED, R699
  ⟨0x240128, 0x4, 2, 0x0, 1, .always, [⟨31, 0, .ro, (.val 0), .any, true⟩]⟩,
  -- GAL_EFORCED, R699
  ⟨0x240130, 0x0, 1, 0x0, 1, .always, [⟨31, 0, .ro, (.val 0), .any, true⟩]⟩,
  -- GAL_FLAGS, R699
  ⟨0x240140, 0x0, 1, 0x0, 1, .always, [⟨31, 0, .rw, (.val 0), .any, true⟩]⟩,
  -- GAL_FSET, R699
  ⟨0x240144, 0x0, 1, 0x0, 1, .always, [⟨31, 0, .wo, (.val 0), .any, false⟩]⟩,
  -- GAL_FCLR, R699
  ⟨0x240148, 0x0, 1, 0x0, 1, .always, [⟨31, 0, .wo, (.val 0), .any, false⟩]⟩,
  -- GAL_POSTQ, R699
  ⟨0x240150, 0x0, 1, 0x0, 1, .always, [⟨4, 0, .ro, .live, .any, false⟩]⟩,
  -- GAL_POSTREC, R699
  ⟨0x240154, 0x0, 1, 0x0, 1, .always, [⟨31, 31, .ro, (.val 0), .any, true⟩, ⟨30, 28, .ro, (.val 0), .any, true⟩, ⟨19, 16, .ro, (.val 0), .any, true⟩, ⟨14, 0, .ro, (.val 0), .any, true⟩]⟩,
  -- GAL_BELLPEND, R699
  ⟨0x240158, 0x0, 1, 0x0, 1, .always, [⟨31, 0, .ro, (.val 0), .any, true⟩]⟩,
  -- GAL_TSTAT, R699
  ⟨0x240200, 0x4, 64, 0x0, 1, .always, [⟨25, 25, .ro, .live, .any, false⟩, ⟨24, 24, .ro, .live, .any, false⟩, ⟨23, 0, .ro, .live, .any, false⟩]⟩,
  -- GAL_ESTAT, R699
  ⟨0x240300, 0x0, 1, 0x0, 1, .always, [⟨31, 0, .ro, (.val 0), .any, true⟩]⟩,
  -- GAL_TPLCTL, R699
  ⟨0x240400, 0x4, 16, 0x0, 1, .always, [⟨14, 0, .rw, (.val 0x7FFF), .well, true⟩]⟩,
  -- GAL_TPL, R699
  ⟨0x241000, 0x40, 16, 0x4, 16, .always, [⟨31, 0, .rw, (.val 0), .any, true⟩]⟩,
  -- GAL_BANK, R688
  ⟨0x250000, 0x2000, 2, 0x4, 1152, .always, [⟨31, 0, .rw, (.val 0), .any, true⟩]⟩]

/-- The registers of block 15 (LCH) beside its common header. -/
def regsLCH : List RegD := [
  -- LCH_CFG, R737
  ⟨0x280100, 0x20, 4, 0x0, 1, .lch, [⟨22, 16, .rw, (.val 50), (.near 20 100), true⟩, ⟨12, 8, .rw, (.val 0x1F), .winOrNone, true⟩, ⟨0, 0, .rw, (.val 0), .any, true⟩]⟩,
  -- LCH_LOOP, R737
  ⟨0x280104, 0x20, 4, 0x0, 1, .lch, [⟨15, 8, .rw, (.val 64), (.near 1 255), true⟩, ⟨7, 0, .rw, (.val 16), (.near 1 255), true⟩]⟩,
  -- LCH_CTL, R737
  ⟨0x280108, 0x20, 4, 0x0, 1, .lch, [⟨0, 0, .wo, (.val 0), .any, false⟩]⟩,
  -- LCH_LAST, R737
  ⟨0x28010c, 0x20, 4, 0x0, 1, .lch, [⟨31, 0, .ro, (.val 0), .any, true⟩]⟩,
  -- LCH_LASTST, R737
  ⟨0x280110, 0x20, 4, 0x0, 1, .lch, [⟨31, 31, .ro, (.val 0), .any, true⟩, ⟨8, 8, .ro, (.val 0), .any, true⟩, ⟨7, 0, .ro, (.val 0), .any, true⟩]⟩,
  -- LCH_LIVE, R737
  ⟨0x280114, 0x20, 4, 0x0, 1, .lch, [⟨26, 24, .ro, .live, .any, false⟩, ⟨22, 16, .ro, .live, .any, false⟩, ⟨11, 0, .ro, .live, .any, false⟩]⟩,
  -- LCH_CNT, R737
  ⟨0x280118, 0x20, 4, 0x0, 1, .lch, [⟨31, 16, .ro, (.val 0), .any, true⟩, ⟨15, 0, .ro, (.val 0), .any, true⟩]⟩,
  -- LCH_IPULL, R737
  ⟨0x281000, 0x100, 4, 0x10, 8, .lch, [⟨9, 0, .rws, (.val 200), (.near 20 800), true⟩]⟩,
  -- LCH_IHOLD, R737
  ⟨0x281004, 0x100, 4, 0x10, 8, .lch, [⟨9, 0, .rwk, (.val 60), (.near 0 800), true⟩]⟩,
  -- LCH_TIME, R737
  ⟨0x281008, 0x100, 4, 0x10, 8, .lch, [⟨24, 16, .rw, (.val 50), (.near 5 500), true⟩, ⟨9, 0, .rw, (.val 0), (.near 0 1000), true⟩]⟩,
  -- LCH_REL, R737
  ⟨0x28100c, 0x100, 4, 0x10, 8, .lch, [⟨30, 24, .rw, (.val 10), (.near 0 100), true⟩, ⟨21, 16, .rw, (.val 10), (.near 2 50), true⟩, ⟨13, 8, .rw, (.val 0), (.near 0 50), true⟩, ⟨0, 0, .rw, (.val 0), .any, true⟩]⟩]

/-- The registers of block 16 (CHG) beside its common header. -/
def regsCHG : List RegD := [
  -- CHG_CFG, R738
  ⟨0x290100, 0x0, 1, 0x0, 1, .chg, [⟨19, 16, .rw, (.val 5), (.near 1 10), true⟩, ⟨12, 8, .rw, (.val 10), (.near 5 20), true⟩, ⟨3, 3, .rw, (.val 0), .any, true⟩, ⟨2, 1, .rw, (.val 1), (.dflt 0 2 1), true⟩, ⟨0, 0, .rw, (.val 0), .any, true⟩]⟩,
  -- CHG_ICC, R738
  ⟨0x290104, 0x0, 1, 0x0, 1, .chg, [⟨6, 0, .rw, (.val 20), (.near 5 100), true⟩]⟩,
  -- CHG_NTC, R738
  ⟨0x290108, 0x0, 1, 0x0, 1, .chg, [⟨25, 16, .rw, (.val 759), .any, true⟩, ⟨9, 0, .rw, (.val 334), .any, true⟩]⟩,
  -- CHG_CTL, R738
  ⟨0x29010c, 0x0, 1, 0x0, 1, .chg, [⟨0, 0, .wo, (.val 0), .any, false⟩]⟩,
  -- CHG_REMREC, R738
  ⟨0x290110, 0x0, 1, 0x0, 1, .chg, [⟨31, 31, .ro, (.val 0), .any, true⟩, ⟨30, 28, .ro, (.val 0), .any, true⟩, ⟨2, 0, .ro, (.val 0), .any, true⟩]⟩,
  -- CHG_REMTIME, R738
  ⟨0x290114, 0x0, 1, 0x0, 1, .chg, [⟨31, 0, .ro, (.val 0), .any, true⟩]⟩,
  -- CHG_MEAS, R738
  ⟨0x290118, 0x0, 1, 0x0, 1, .chg, [⟨28, 16, .ro, (.val 0), .any, true⟩, ⟨9, 0, .ro, (.val 0), .any, true⟩]⟩,
  -- CHG_ELAPSED, R738
  ⟨0x29011c, 0x0, 1, 0x0, 1, .chg, [⟨9, 0, .ro, (.val 0), .any, true⟩]⟩]

/-- The registers of block 17 (TMB) beside its common header. -/
def regsTMB : List RegD := [
  -- TMB_TBLO, R785
  ⟨0x2a0100, 0x0, 1, 0x0, 1, .always, [⟨31, 0, .ro, .live, .any, false⟩]⟩,
  -- TMB_TBHI, R785
  ⟨0x2a0104, 0x0, 1, 0x0, 1, .always, [⟨31, 0, .ro, .live, .any, false⟩]⟩,
  -- TMB_RTCSEC, R785
  ⟨0x2a0110, 0x0, 1, 0x0, 1, .always, [⟨31, 0, .rw, (.val 0), .any, true⟩]⟩,
  -- TMB_RTCSUB, R785
  ⟨0x2a0114, 0x0, 1, 0x0, 1, .always, [⟨14, 0, .ro, (.val 0), .any, true⟩]⟩,
  -- TMB_RTCALM, R785
  ⟨0x2a0118, 0x0, 1, 0x0, 1, .always, [⟨31, 0, .rw, (.val 0), .any, true⟩]⟩,
  -- TMB_RTCCTL, R785
  ⟨0x2a011c, 0x0, 1, 0x0, 1, .always, [⟨15, 8, .rw, (.val 0), (.signed 127), true⟩, ⟨0, 0, .rw, (.val 0), .any, true⟩]⟩,
  -- TMB_WDLCFG, R785
  ⟨0x2a0120, 0x0, 1, 0x0, 1, .always, [⟨31, 31, .w1s, (.val 0), .any, false⟩, ⟨15, 0, .rw, (.val 1000), (.near 1 65535), false⟩]⟩,
  -- TMB_WDPCFG, R785
  ⟨0x2a0124, 0x0, 1, 0x0, 1, .always, [⟨31, 31, .rw, (.val 0), .any, false⟩, ⟨15, 0, .rw, (.val 1000), (.near 1 65535), false⟩]⟩,
  -- TMB_WDLCNT, R785
  ⟨0x2a0128, 0x0, 1, 0x0, 1, .always, [⟨15, 0, .ro, (.val 0), .any, false⟩]⟩,
  -- TMB_WDPCNT, R785
  ⟨0x2a012c, 0x0, 1, 0x0, 1, .always, [⟨15, 0, .ro, (.val 0), .any, false⟩]⟩,
  -- TMB_DBGFRZ, R785
  ⟨0x2a0130, 0x0, 1, 0x0, 1, .always, [⟨0, 0, .rw, (.val 0), .any, false⟩]⟩,
  -- TMB_WDDCFG, R821
  ⟨0x2a0200, 0x0, 1, 0x0, 1, .always, [⟨31, 31, .w1s, (.val 0), .any, false⟩, ⟨25, 24, .rw, (.val 1), (.dflt 0 2 1), false⟩, ⟨23, 16, .rw, (.val 100), (.near 1 255), false⟩, ⟨15, 0, .rw, (.val 5000), (.near 1 65535), false⟩]⟩,
  -- TMB_WDDKICK, R821
  ⟨0x2a0204, 0x0, 1, 0x0, 1, .always, [⟨15, 0, .wo, (.val 0), .any, false⟩]⟩,
  -- TMB_WDDCNT, R821
  ⟨0x2a0208, 0x0, 1, 0x0, 1, .always, [⟨16, 16, .ro, (.val 0), .any, false⟩, ⟨15, 0, .ro, (.val 0), .any, false⟩]⟩,
  -- TMB_WDDREC, R821
  ⟨0x2a020c, 0x0, 1, 0x0, 1, .always, [⟨31, 31, .ro, (.val 0), .any, true⟩, ⟨30, 30, .ro, (.val 0), .any, true⟩, ⟨23, 16, .ro, (.val 0), .any, true⟩, ⟨15, 0, .ro, (.val 0), .any, true⟩]⟩]

/-- The registers of block 18 (PRT) beside its common header. -/
def regsPRT : List RegD := [
  -- UART_CFG, R771
  ⟨0x2b1000, 0x100, 4, 0x0, 1, .always, [⟨31, 16, .rw, (.val 13), (.near 1 65535), false⟩, ⟨15, 12, .rw, (.val 0), .any, false⟩, ⟨11, 11, .rw, (.val 0), .any, false⟩, ⟨10, 9, .rw, (.val 1), (.near 1 2), false⟩, ⟨8, 6, .rw, (.val 0), (.near 0 4), false⟩, ⟨3, 0, .rw, (.val 8), (.near 5 9), false⟩]⟩,
  -- UART_CTL, R771
  ⟨0x2b1004, 0x100, 4, 0x0, 1, .always, [⟨31, 28, .rw, (.val 0), .any, false⟩, ⟨27, 24, .rw, (.val 0), .any, false⟩, ⟨3, 3, .rw, (.val 0), .any, false⟩, ⟨2, 2, .rw, (.val 0), .any, false⟩, ⟨1, 1, .rw, (.val 0), .any, false⟩, ⟨0, 0, .rw, (.val 0), .any, false⟩]⟩,
  -- UART_TXDATA, R771
  ⟨0x2b1008, 0x100, 4, 0x0, 1, .always, [⟨8, 0, .wo, (.val 0), .any, false⟩]⟩,
  -- UART_RXHEAD, R771
  ⟨0x2b100c, 0x100, 4, 0x0, 1, .always, [⟨15, 0, .ro, .live, .any, false⟩]⟩,
  -- UART_RXPOP, R771
  ⟨0x2b1010, 0x100, 4, 0x0, 1, .always, [⟨6, 0, .wo, (.val 0), (.near 0 64), false⟩]⟩,
  -- UART_FIFO, R771
  ⟨0x2b1014, 0x100, 4, 0x0, 1, .always, [⟨22, 16, .ro, .live, .any, false⟩, ⟨6, 0, .ro, .live, .any, false⟩]⟩,
  -- UART_ERR, R771
  ⟨0x2b1018, 0x100, 4, 0x0, 1, .always, [⟨3, 0, .w1c, (.val 0), .any, false⟩]⟩,
  -- I2C_CFG, R777
  ⟨0x2b2000, 0x100, 2, 0x0, 1, .always, [⟨15, 8, .rw, (.val 25), (.near 1 100), false⟩, ⟨2, 2, .rw, (.val 0), .i2cPec, false⟩, ⟨1, 0, .rw, (.val 0), (.near 0 2), false⟩]⟩,
  -- I2C_CMD, R777
  ⟨0x2b2004, 0x100, 2, 0x0, 1, .always, [⟨31, 31, .wo, (.val 0), .any, false⟩, ⟨30, 30, .wo, (.val 0), .any, false⟩, ⟨22, 16, .rw, (.val 0), .any, false⟩, ⟨13, 8, .rw, (.val 0), (.near 0 32), false⟩, ⟨5, 0, .rw, (.val 0), (.near 0 32), false⟩]⟩,
  -- I2C_STAT, R777
  ⟨0x2b2008, 0x100, 2, 0x0, 1, .always, [⟨31, 31, .ro, (.val 0), .any, false⟩, ⟨30, 30, .ro, (.val 0), .any, false⟩, ⟨26, 24, .ro, (.val 0), .any, false⟩, ⟨5, 0, .ro, (.val 0), .any, false⟩]⟩,
  -- I2C_BUF, R777
  ⟨0x2b2020, 0x100, 2, 0x4, 8, .always, [⟨31, 0, .rw, (.val 0), .any, false⟩]⟩,
  -- GPIO_DIR, R780
  ⟨0x2b3000, 0x4, 2, 0x0, 1, .always, [⟨31, 0, .rw, (.val 0), .any, true⟩]⟩,
  -- GPIO_OUT, R780
  ⟨0x2b3008, 0x4, 2, 0x0, 1, .always, [⟨31, 0, .rw, (.val 0), .any, true⟩]⟩,
  -- GPIO_IN, R780
  ⟨0x2b3010, 0x4, 2, 0x0, 1, .always, [⟨31, 0, .ro, (.val 0), .any, true⟩]⟩,
  -- GPIO_PULL, R780
  ⟨0x2b3020, 0x4, 4, 0x0, 1, .always, [⟨31, 0, .rw, (.val 0), .any, true⟩]⟩,
  -- GPIO_EDGECFG, R780
  ⟨0x2b3030, 0x4, 4, 0x0, 1, .always, [⟨31, 0, .rw, (.val 0), .any, true⟩]⟩,
  -- GPIO_EDGE, R780
  ⟨0x2b3040, 0x4, 2, 0x0, 1, .always, [⟨31, 0, .w1c, (.val 0), .any, true⟩]⟩,
  -- GPIO_EDGEEN, R780
  ⟨0x2b3048, 0x4, 2, 0x0, 1, .always, [⟨31, 0, .rw, (.val 0), .any, true⟩]⟩,
  -- DBG_CTL, R791
  ⟨0x2b4000, 0x0, 1, 0x0, 1, .always, [⟨1, 1, .rw, (.val 0), .any, false⟩, ⟨0, 0, .rw, (.val 0), .any, false⟩]⟩]

/-- The registers of block 19 (FSP) beside its common header. -/
def regsFSP : List RegD := [
  -- FSP_CFG, R767
  ⟨0x2c0100, 0x0, 1, 0x0, 1, .always, [⟨23, 16, .rw, (.val 8), .fspDiv, false⟩, ⟨12, 8, .rw, (.val 24), (.near 20 28), false⟩, ⟨7, 4, .rw, (.val 8), .any, false⟩, ⟨1, 0, .rw, (.val 0), (.near 0 2), false⟩]⟩,
  -- FSP_OPC, R767
  ⟨0x2c0104, 0x0, 1, 0x0, 1, .always, [⟨23, 16, .rw, (.val 0x05), .any, false⟩, ⟨15, 8, .rw, (.val 0x12), .any, false⟩, ⟨7, 0, .rw, (.val 0x06), .any, false⟩]⟩,
  -- FSP_CMD, R767
  ⟨0x2c0108, 0x0, 1, 0x0, 1, .always, [⟨31, 31, .wo, (.val 0), .any, false⟩, ⟨30, 30, .rw, (.val 0), .any, false⟩, ⟨29, 29, .rw, (.val 0), .any, false⟩, ⟨28, 28, .rw, (.val 0), .any, false⟩, ⟨24, 16, .rw, (.val 0), (.near 0 256), false⟩, ⟨15, 0, .rw, (.val 0), .any, false⟩]⟩,
  -- FSP_ADDR, R767
  ⟨0x2c010c, 0x0, 1, 0x0, 1, .always, [⟨31, 0, .rw, (.val 0), .any, false⟩]⟩,
  -- FSP_TO, R767
  ⟨0x2c0110, 0x0, 1, 0x0, 1, .always, [⟨11, 0, .rw, (.val 2000), (.near 1 4000), false⟩]⟩,
  -- FSP_CMDSTAT, R767
  ⟨0x2c0114, 0x0, 1, 0x0, 1, .always, [⟨0, 0, .ro, (.val 0), .any, false⟩]⟩,
  -- FSP_BUF, R767
  ⟨0x2c1000, 0x4, 64, 0x0, 1, .always, [⟨31, 0, .rw, (.val 0), .any, false⟩]⟩]

/-- The registers of block 20 (MEM) beside its common header. -/
def regsMEM : List RegD := [
  -- MEM_CFG, R761
  ⟨0x300100, 0x0, 1, 0x0, 1, .always, [⟨9, 8, .rw, .memEcc, .memEcc, false⟩, ⟨5, 4, .rw, .memRate, .memRate, false⟩, ⟨1, 0, .rw, .memSize, .memSize, false⟩]⟩,
  -- MEM_CTL, R761
  ⟨0x300104, 0x0, 1, 0x0, 1, .always, [⟨0, 0, .wo, (.val 0), .any, false⟩]⟩,
  -- MEM_ECCCNT, R761
  ⟨0x300108, 0x0, 1, 0x0, 1, .always, [⟨31, 0, .ro, (.val 0), .any, false⟩]⟩,
  -- MEM_SCRUB, R761
  ⟨0x30010c, 0x0, 1, 0x0, 1, .always, [⟨7, 0, .rw, (.val 24), .any, false⟩]⟩,
  -- MEM_TRAINTEMP, R761
  ⟨0x300110, 0x0, 1, 0x0, 1, .always, [⟨15, 0, .ro, (.val 0), .any, false⟩]⟩,
  -- MEM_TRAINBUF, R761
  ⟨0x301000, 0x4, 42, 0x0, 1, .always, [⟨31, 0, .ro, (.val 0), .any, false⟩]⟩]

/-- The registers of block 21 (HLK) beside its common header. -/
def regsHLK : List RegD := [
  -- HLK_CFG, R752
  ⟨0x340100, 0x0, 1, 0x0, 1, .always, [⟨8, 8, .rw, (.val 0), .any, false⟩, ⟨6, 4, .rw, .linkRate, .linkRate, false⟩, ⟨2, 0, .rw, .linkWidth, .linkWidth, false⟩]⟩,
  -- HLK_BAR4MAP, R752
  ⟨0x340104, 0x0, 1, 0x0, 1, .always, [⟨15, 0, .rw, (.val 0), .bar4, false⟩]⟩,
  -- HLK_OBEN, R752
  ⟨0x340108, 0x0, 1, 0x0, 1, .always, [⟨3, 0, .rw, (.val 0), .any, false⟩]⟩,
  -- HLK_OBSEG, R752
  ⟨0x340110, 0x4, 4, 0x0, 1, .always, [⟨27, 0, .rw, (.val 0), .any, false⟩]⟩,
  -- HLK_LTR, R752
  ⟨0x340120, 0x0, 1, 0x0, 1, .always, [⟨9, 0, .rw, (.val 100), (.near 1 1000), false⟩]⟩,
  -- HLK_PME, R752
  ⟨0x340124, 0x0, 1, 0x0, 1, .always, [⟨0, 0, .wo, (.val 0), .any, false⟩]⟩,
  -- HLK_SUBSYS, R752
  ⟨0x340128, 0x0, 1, 0x0, 1, .always, [⟨15, 0, .rw, (.val 0), .any, true⟩]⟩,
  -- HLK_CTOCNT, R752
  ⟨0x340130, 0x0, 1, 0x0, 1, .always, [⟨15, 0, .ro, (.val 0), .any, false⟩]⟩,
  -- HLK_MSIX, R746
  ⟨0x360000, 0x10, 2048, 0x4, 4, .always, [⟨31, 0, .rw, (.val 0), .any, false⟩]⟩,
  -- HLK_PBA, R746
  ⟨0x370000, 0x4, 64, 0x0, 1, .always, [⟨31, 0, .ro, (.val 0), .any, false⟩]⟩]

/-- The registers of block 22 (FLT) beside its common header. -/
def regsFLT : List RegD := [
  -- FLT_STALLCFG, R65
  ⟨0x380100, 0x0, 1, 0x0, 1, .always, [⟨9, 0, .rw, (.val 100), (.near 1 1000), false⟩]⟩,
  -- FLT_SEGSTAT, R66
  ⟨0x380104, 0x0, 1, 0x0, 1, .always, [⟨28, 16, .ro, (.val 0), .any, false⟩, ⟨12, 0, .ro, (.val 0), .any, false⟩]⟩,
  -- FLT_STALLREC0, R66
  ⟨0x380108, 0x0, 1, 0x0, 1, .always, [⟨31, 31, .ro, (.val 0), .any, true⟩, ⟨11, 4, .ro, (.val 0), .any, true⟩, ⟨3, 0, .ro, (.val 0xF), .any, true⟩]⟩,
  -- FLT_STALLREC1, R66
  ⟨0x38010c, 0x0, 1, 0x0, 1, .always, [⟨31, 0, .ro, (.val 0), .any, true⟩]⟩,
  -- FLT_DRAINCNT, R66
  ⟨0x380110, 0x0, 1, 0x0, 1, .always, [⟨15, 0, .ro, (.val 0), .any, true⟩]⟩,
  -- FLT_UNFENCE, R819
  ⟨0x380114, 0x0, 1, 0x0, 1, .always, [⟨31, 31, .wo, (.val 0), .any, false⟩, ⟨27, 24, .ro, (.val 0), .any, false⟩, ⟨3, 0, .rw, (.val 0), (.near 0 12), false⟩]⟩,
  -- FLT_CETHR, R819
  ⟨0x380118, 0x0, 1, 0x0, 1, .always, [⟨15, 0, .rw, (.val 256), (.near 1 65535), false⟩]⟩,
  -- FLT_LOCKREC0, R819
  ⟨0x380120, 0x0, 1, 0x0, 1, .always, [⟨31, 31, .ro, (.val 0), .any, true⟩, ⟨30, 30, .ro, (.val 0), .any, true⟩, ⟨29, 28, .ro, (.val 0), .any, true⟩, ⟨26, 24, .ro, (.val 0), .any, true⟩, ⟨21, 16, .ro, (.val 0), .any, true⟩]⟩,
  -- FLT_LOCKREC1, R819
  ⟨0x380124, 0x0, 1, 0x0, 1, .always, [⟨31, 0, .ro, (.val 0), .any, true⟩]⟩,
  -- FLT_SELF, R819
  ⟨0x380130, 0x0, 1, 0x0, 1, .always, [⟨29, 28, .ro, .live, .any, false⟩, ⟨25, 24, .ro, .live, .any, false⟩]⟩,
  -- FLT_LLEXP, R819
  ⟨0x380140, 0x4, 2, 0x0, 1, .always, [⟨31, 0, .ro, .live, .any, false⟩]⟩,
  -- FLT_BANK_STAT, R819
  ⟨0x380200, 0x20, 8, 0x0, 1, .bank, [⟨31, 31, .w1c, (.val 0), .any, true⟩, ⟨30, 30, .ro, (.val 0), .any, true⟩, ⟨29, 29, .ro, (.val 0), .any, true⟩, ⟨28, 28, .ro, (.val 0), .any, true⟩, ⟨27, 24, .ro, (.val 0), .any, true⟩, ⟨19, 16, .ro, (.val 0), .any, true⟩]⟩,
  -- FLT_BANK_ADDRLO, R819
  ⟨0x380204, 0x20, 8, 0x0, 1, .bank, [⟨31, 0, .ro, (.val 0), .any, true⟩]⟩,
  -- FLT_BANK_ADDRHI, R819
  ⟨0x380208, 0x20, 8, 0x0, 1, .bank, [⟨31, 31, .ro, (.val 0), .any, true⟩, ⟨7, 0, .ro, (.val 0), .any, true⟩]⟩,
  -- FLT_BANK_TIME, R819
  ⟨0x38020c, 0x20, 8, 0x0, 1, .bank, [⟨31, 0, .ro, (.val 0), .any, true⟩]⟩,
  -- FLT_BANK_CECNT, R819
  ⟨0x380210, 0x20, 8, 0x0, 1, .bank, [⟨31, 0, .rw, (.val 0), .any, true⟩]⟩,
  -- LL_CTL, R820
  ⟨0x381000, 0x10, 64, 0x0, 1, .always, [⟨31, 28, .wo, (.val 0), .any, false⟩, ⟨23, 16, .wo, (.val 0), .any, false⟩, ⟨15, 0, .wo, (.val 0), .any, false⟩]⟩,
  -- LL_STAT, R820
  ⟨0x381004, 0x10, 64, 0x0, 1, .always, [⟨31, 31, .ro, (.val 0), .any, false⟩, ⟨30, 30, .ro, (.val 0), .any, false⟩, ⟨29, 29, .ro, (.val 0), .any, false⟩, ⟨28, 27, .ro, (.val 0), .any, false⟩, ⟨25, 24, .ro, (.val 0), .any, false⟩, ⟨23, 16, .ro, (.val 0), .any, false⟩, ⟨15, 0, .ro, (.val 0), .any, false⟩]⟩,
  -- LL_CFG, R820
  ⟨0x381008, 0x10, 64, 0x0, 1, .always, [⟨31, 31, .rw, (.val 0), .any, false⟩, ⟨30, 30, .rw, (.val 0), .any, false⟩, ⟨29, 28, .rw, (.val 0), .llBind, false⟩, ⟨23, 0, .rw, (.val 100000), (.near 10 10000000), false⟩]⟩,
  -- LL_BIND, R820
  ⟨0x38100c, 0x10, 64, 0x0, 1, .always, [⟨30, 16, .rw, (.val 1), .llCount, false⟩, ⟨13, 0, .rw, (.val 0), .llFirst, false⟩]⟩]

/-- The descriptors of a block, by its index in R68. -/
def blockRegs (b : Nat) : List RegD :=
  match b with
  | 0 => regsID
  | 1 => regsCFG
  | 2 => regsPWR
  | 3 => regsSEQ
  | 4 => regsWIN
  | 5 => regsADC
  | 6 => regsCAL
  | 7 => regsCORE
  | 8 => regsBEL
  | 9 => regsKEY
  | 10 => regsPMP
  | 11 => regsCQ
  | 12 => regsJNL
  | 13 => regsCPY
  | 14 => regsGAL
  | 15 => regsLCH
  | 16 => regsCHG
  | 17 => regsTMB
  | 18 => regsPRT
  | 19 => regsFSP
  | 20 => regsMEM
  | 21 => regsHLK
  | 22 => regsFLT
  | _ => []

end Sys2Proof.Machine
end

