-- ==== Sys2Proof/Machine/RegFile.lean ====
section
/-! DEFINITION. The register file: the set-up map (R68), presence by variant (R1, R7 to R13), reset values, and the
one pair of operations that reads and writes a register or a field of one. A register not listed in `State.regs` holds its
reset value. -/
namespace Sys2Proof.Machine

/-! ### Variants (R1) -/

/-- Cores present. -/
def Variant.cores : Variant → Nat
  | .f4 => 4
  | _ => 2
/-- DSC and FPU present on every core. -/
def Variant.hasDsc : Variant → Bool
  | .b2 => false
  | _ => true
/-- The journal engine is present. -/
def Variant.hasJnl (v : Variant) : Bool := Variant.hasDsc v
/-- The charger is present. -/
def Variant.hasChg (v : Variant) : Bool := Variant.hasDsc v
/-- Wells present. -/
def Variant.wells : Variant → Nat
  | .b2 => 4096
  | _ => 16384
/-- Completion rings present. -/
def Variant.rings : Variant → Nat
  | .b2 => 512
  | _ => 2048
/-- Latch channels present. -/
def Variant.latches : Variant → Nat
  | .f4 => 4
  | _ => 2
/-- Rail slots present. -/
def Variant.slots : Variant → Nat
  | .b2 => 8
  | _ => 16
/-- Window n is present: WIN0 to WIN6 and WIN15 on the QL48-B2. -/
def Variant.win (v : Variant) (n : Nat) : Bool :=
  match v with
  | .b2 => decide (n < 7) || n == 15
  | _ => decide (n < 16)
/-- ID_PART (R7). -/
def Variant.part : Variant → Nat
  | .f4 => 0x51484801
  | .d2 => 0x51484802
  | .b2 => 0x51484803
/-- The capability words CAP0 to CAP3 (R7); zero beyond. -/
def Variant.cap (v : Variant) (n : Nat) : Nat :=
  match v, n with
  | .f4, 0 => 0x0000123F
  | .f4, 1 => 0x00007D6E
  | .f4, 2 => 0xFFFFFFFF
  | .f4, 3 => 0x0003443F
  | .d2, 0 => 0x00001133
  | .d2, 1 => 0x00007D6E
  | .d2, 2 => 0xFFFFFFFF
  | .d2, 3 => 0x00034433
  | .b2, 0 => 0x00001103
  | .b2, 1 => 0x0000792C
  | .b2, 2 => 0x807F00FF
  | .b2, 3 => 0x00032323
  | _, _ => 0
/-- ADC channel n is present (R225, and the Variants of its chapter). -/
def Variant.adcChan (v : Variant) (n : Nat) : Bool :=
  match v with
  | .f4 => decide (n < 24)
  | .d2 => decide (n < 22)
  | .b2 => decide (n < 22) && !(decide (7 ≤ n) && decide (n ≤ 14))
/-- The maximum link rate and width (CAP3). -/
def Variant.maxRate : Variant → Nat
  | .b2 => 3
  | _ => 4
def Variant.maxWidth : Variant → Nat
  | .b2 => 2
  | _ => 4

/-- Bell source s is defined and present (R491 and the Variants of its chapter). -/
def Variant.bellSrc (v : Variant) (s : Nat) : Bool :=
  decide (s < 16) || (decide (16 ≤ s) && decide (s ≤ 38) && s != 23) || (decide (40 ≤ s) && decide (s < 40 + Variant.cores v))
    || s == 44 || (decide (64 ≤ s) && decide (s ≤ 95)) || (decide (128 ≤ s) && decide (s ≤ 511))

/-! ### The map (R68) -/

/-- The first offset of each block, and the end of set-up space. -/
def blockBases : List Nat :=
  [0x0, 0x10000, 0x20000, 0x30000, 0x40000, 0x50000, 0x60000, 0x80000, 0x100000, 0x140000, 0x180000, 0x1C0000,
   0x200000, 0x220000, 0x240000, 0x280000, 0x290000, 0x2A0000, 0x2B0000, 0x2C0000, 0x300000, 0x340000, 0x380000]

/-- The index of the block that holds an offset below 4 MiB. -/
def blockOf (off : Nat) : Nat := (blockBases.filter (· ≤ off)).length - 1

/-- The base of a block. -/
def blockBase (b : Nat) : Nat := blockBases.getD b 0

/-- The blocks of the AON island (R112, R70): CFG, PWR, SEQ, WIN, ADC, CAL, GAL, LCH, CHG. -/
def aonBlock (b : Nat) : Bool := [1, 2, 3, 4, 5, 6, 14, 15, 16].contains b

/-- The defined event bits of a block's EVT. -/
def evtMask (b : Nat) : Nat :=
  [0, 0x7, 0x7, 0x7FF, 0xFFFF, 0xF, 0x3, 0, 0x1, 0x7, 0x7FF, 0x7, 0x1F, 0x1, 0x3F, 0xF, 0x7F, 0x3, 0x7F, 0x7, 0x7, 0x1F, 0xFF].getD b 0

/-- Whether warm reset keeps a block's EVT, and its EVTEN. -/
def evtAon (b : Nat) : Bool := (aonBlock b && b != 5) || b == 12 || b == 22
def evtenAon (b : Nat) : Bool := aonBlock b && b != 5

/-- The common header (R70) of block b, at `base`: STAT, EVT, EVTEN, CLAMPCNT. -/
def headerRegs (b base : Nat) : List RegD :=
  let p := if b = 12 then Pres.jnl else if b = 16 then Pres.chg else Pres.always
  let ev := if evtMask b = 0 then [] else [FieldD.mk (Nat.log2 (evtMask b)) 0 .w1c (.val 0) .any (evtAon b)]
  let en := if evtMask b = 0 then [] else [FieldD.mk (Nat.log2 (evtMask b)) 0 .rw (.val 0) .any (evtenAon b)]
  [⟨base, 0, 1, 0, 1, p, [⟨31, 0, .ro, .live, .any, false⟩]⟩,
   ⟨base + 4, 0, 1, 0, 1, p, ev⟩,
   ⟨base + 8, 0, 1, 0, 1, p, en⟩,
   ⟨base + 12, 0, 1, 0, 1, p, [⟨15, 0, .rw, .val 0, .any, aonBlock b⟩]⟩]

/-- The header registers of the cores, each core's 64 KiB being a block of its own (R70). -/
def coreHeader : List RegD :=
  [⟨0x80000, 0x10000, 4, 0, 1, .core, [⟨31, 0, .ro, .live, .any, false⟩]⟩,
   ⟨0x80004, 0x10000, 4, 0, 1, .core, []⟩,
   ⟨0x80008, 0x10000, 4, 0, 1, .core, []⟩,
   ⟨0x8000C, 0x10000, 4, 0, 1, .core, [⟨15, 0, .rw, .val 0, .any, false⟩]⟩]

/-- Every descriptor of a block. -/
def descs (b : Nat) : List RegD :=
  if b = 0 then blockRegs 0
  else if b = 7 then coreHeader
  else headerRegs b (blockBase b) ++ blockRegs b

/-- The indices at which a family holds an offset. -/
def RegD.indexOf (d : RegD) (off : Nat) : Option (Nat × Nat) :=
  if off < d.off then none
  else
    let r := off - d.off
    let i := if d.count1 ≤ 1 then 0 else r / d.stride1
    let r' := r - i * d.stride1
    let j := if d.count2 ≤ 1 then 0 else r' / d.stride2
    if i < d.count1 ∧ j < d.count2 ∧ r' = j * d.stride2 then some (i, j) else none

/-- The first family of a list that holds an offset. -/
def findIn : List RegD → Nat → Option (RegD × Nat × Nat)
  | [], _ => none
  | d :: l, off =>
    match d.indexOf off with
    | some (i, j) => some (d, i, j)
    | none => findIn l off

/-- The register at an offset. -/
def findReg (off : Nat) : Option (RegD × Nat × Nat) :=
  if off < 0x400000 then findIn (descs (blockOf off)) off else none

/-- Instance i of a family with this presence is present in the variant. -/
def Pres.holds (p : Pres) (v : Variant) (i : Nat) : Bool :=
  match p with
  | .always => true
  | .core => decide (i < Variant.cores v)
  | .slot => decide (i < Variant.slots v)
  | .win => Variant.win v i
  | .lch => decide (i < Variant.latches v)
  | .jnl => Variant.hasJnl v
  | .chg => Variant.hasChg v
  | .cq => decide (i < Variant.rings v)
  | .src => Variant.bellSrc v i
  | .bank => decide (i < Variant.cores v) || decide (4 ≤ i)

/-! ### Reset values -/

/-- A field's value after reset; fields computed when read hold 0 in the register file. Slots follow the default table
of R166, WNOM the levels of R210; MEM_CFG before order 6 is log entry 6. -/
def ResetV.eval (r : ResetV) (v : Variant) (i : Nat) : Nat :=
  match r with
  | .val n => n
  | .live => 0
  | .banked => 0
  | .coreHold => if v = .f4 then 0b1110 else 0b0010
  | .wnom => [500, 542, 583, 625, 667, 708, 750, 792].getD i 0
  | .slotPgen => if i < 4 then 1 else 0
  | .slotUse => if i < 4 then 1 else 0
  | .slotUpstep => if i < 4 then i else 0
  | .slotDep => if 1 ≤ i ∧ i < 4 then 2 ^ (i - 1) else 0
  | .sdSlot => if i < 4 then 3 - i else 0x1F
  | .adcMask => packBits 24 (Variant.adcChan v)
  | .memEcc => 0
  | .memRate => 0
  | .memSize => 1
  | .linkRate => Variant.maxRate v
  | .linkWidth => Variant.maxWidth v

/-- The reset value of a register of a family. -/
def resetWord (d : RegD) (v : Variant) (i : Nat) : Nat :=
  d.fields.foldl (fun a f => a + f.reset.eval v i * 2 ^ f.lo) 0

/-- The reset value of the register at an offset; 0 where no register is defined or the instance is absent (R8). -/
def resetAt (v : Variant) (off : Nat) : Nat :=
  match findReg off with
  | some (d, i, _) => if d.pres.holds v i then resetWord d v i else 0
  | none => 0

/-! ### One unit of the block changed by a function -/

def State.updSeq (s : State) (f : Seq → Seq) : State := { s with seq := f s.seq }
def State.updPwr (s : State) (f : Pwr → Pwr) : State := { s with pwr := f s.pwr }
def State.updBel (s : State) (f : Bells → Bells) : State := { s with bel := f s.bel }
def State.updLink (s : State) (f : Link → Link) : State := { s with link := f s.link }
def State.updPump (s : State) (f : Pump → Pump) : State := { s with pump := f s.pump }
def State.updEng (s : State) (f : Engines → Engines) : State := { s with eng := f s.eng }
def State.updDram (s : State) (f : DramCtl → DramCtl) : State := { s with dram := f s.dram }
def State.updAdc (s : State) (f : Adc → Adc) : State := { s with adc := f s.adc }

def State.updGal (s : State) (f : Gal → Gal) : State := { s with gal := f s.gal }
def State.updChg (s : State) (f : Chg → Chg) : State := { s with chg := f s.chg }
def State.updJtag (s : State) (f : Jtag → Jtag) : State := { s with jtag := f s.jtag }
def State.updFlt (s : State) (f : Flt → Flt) : State := { s with flt := f s.flt }
def State.updClk (s : State) (f : Clk → Clk) : State := { s with clk := f s.clk }
def State.updUart (s : State) (u : Nat) (f : Uart → Uart) : State := { s with uarts := setAt s.uarts u (f (s.uarts.getD u Uart.reset)) }
def State.updLatch (s : State) (n : Nat) (f : LatchCh → LatchCh) : State :=
  { s with latch := setAt s.latch n (f (s.latch.getD n LatchCh.reset)) }

/-! ### Reading and writing registers -/

/-- The stored value of the register at an offset. -/
def State.reg (s : State) (off : Nat) : Nat :=
  match lookupKey s.regs off with
  | some w => w.toNat
  | none => resetAt s.variant off

/-- Set the stored value of a register; a register at its reset value is not listed. -/
def State.setReg (s : State) (off v : Nat) : State :=
  if v % 2 ^ 32 = resetAt s.variant off then { s with regs := eraseKey s.regs off }
  else { s with regs := insertKey s.regs off (BitVec.ofNat 32 v) }

/-- Field `f` of register `i` of its family. -/
def Fld.ix (f : Fld) (i : Nat) : Fld := { f with off := f.off + i * f.stride1, stride1 := f.stride2, stride2 := 0 }

/-- A field's stored value. -/
def State.get (s : State) (f : Fld) : Nat := bitsOf (s.reg f.off) f.hi f.lo

/-- A field read as a flag. -/
def State.flag (s : State) (f : Fld) : Bool := s.get f != 0

/-- Set one field. -/
def State.set (s : State) (f : Fld) (v : Nat) : State := s.setReg f.off (putBits (s.reg f.off) f.hi f.lo v)

/-- Set one field to a flag. -/
def State.put (s : State) (f : Fld) (b : Bool) : State := s.set f (ofBool b)

/-- Add to a counting field, saturating at its width. -/
def State.bump (s : State) (f : Fld) (n : Nat) : State :=
  s.set f (satTo (2 ^ (f.hi + 1 - f.lo) - 1) (s.get f + n))

/-- An occurrence sets its bit in blk_EVT (R29). -/
def State.event (s : State) (b n : Nat) : State := s.setReg (blockBase b + 4) (setBit (s.reg (blockBase b + 4)) n)

/-- A bit of blk_EVT. -/
def State.evt (s : State) (b n : Nat) : Bool := bit (s.reg (blockBase b + 4)) n

/-- Block b requests its bell source: some bit is set in both EVT and EVTEN (R30). -/
def State.blockRequests (s : State) (b : Nat) : Bool :=
  (s.reg (blockBase b + 4) &&& s.reg (blockBase b + 8)) != 0

/-! ### The clamp log (R82, R85, R86) -/

/-- Log causes (R86). -/
def clampRange : Nat := 0
def clampPair : Nat := 1
def clampAbsent : Nat := 2
def clampKind : Nat := 3
def clampBusy : Nat := 4

/-- Words of the clamp log. -/
def State.logWord (s : State) (k w : Nat) : Nat := s.get ((F.CFG_CLAMPLOG_WORD.ix k).ix w)

/-- Append a log entry (R85, R86). -/
def State.appendLog (s : State) (src cause block field loc written applied : Nat) : State :=
  let k := s.get F.CFG_CLAMPWR_NEXT
  let old := bit (s.logWord k 0) 31
  let app := if 2 ≤ cause then 0 else applied
  let w0 := 2 ^ 31 + src * 2 ^ 29 + cause * 2 ^ 26 + block * 2 ^ 21 + field
  let ws := [w0, loc, written % 2 ^ 32, app % 2 ^ 32, bitsOf s.tb.toNat 31 0, written / 2 ^ 32, app / 2 ^ 32, 0]
  let s := (List.range 8).foldl (fun s i => s.set ((F.CFG_CLAMPLOG_WORD.ix k).ix i) (ws.getD i 0)) s
  let s := (s.set F.CFG_CLAMPWR_NEXT ((k + 1) % 64)).bump F.CFG_CLAMPTOT_TOTAL 1
  let s := s.event 1 0
  if old then s.event 1 1 else s

/-- A clamp: counted in its block and logged (R82). A core's block is its own 64 KiB, which the location names; a wholly
absent block has no counter (R8). -/
def State.clamp (s : State) (src cause block field loc written applied : Nat) : State :=
  let cnt := if block = 7 then 0x8000C + bitsOf loc 19 16 * 0x10000 else blockBase block + 12
  let gone := (block = 12 && !Variant.hasJnl s.variant) || (block = 16 && !Variant.hasChg s.variant)
  let s := if gone then s else s.setReg cnt (satTo 65535 (s.reg cnt + 1))
  s.appendLog src cause block field loc written applied

/-- A refused register write, logged with cause BUSY, SRC 0 (R29 of its owning chapter). -/
def State.logBusy (s : State) (off field written : Nat) : State :=
  let b := blockOf off
  s.clamp 0 clampBusy b field (off - blockBase b) written 0

end Sys2Proof.Machine
end

