-- ==== Sys2Proof/Machine/Mem.lean ====
section
/-! DEFINITION. Physical memory: the address map (R282, R283), the bytes behind it, and reads and writes of them by the
cores and the engines. Memory is one sorted list of (address, byte) pairs over DRAM, backup SRAM and flash; host memory is a
second list, by host address. -/
namespace Sys2Proof.Machine

/-- The ranges of R282. -/
inductive Region
  | dram | link | flash | setup | doorbell | bsram | rom | unassigned
deriving DecidableEq, Repr

/-- The range of R282 a physical address lies in. -/
def regionOf (pa : Nat) : Region :=
  if pa < 0x0200000000 then .dram
  else if pa < 0x8000000000 then .unassigned
  else if pa < 0xC000000000 then .link
  else if pa < 0xE000000000 then .unassigned
  else if pa < 0xE010000000 then .flash
  else if pa < 0xF000000000 then .unassigned
  else if pa < 0xF000400000 then .setup
  else if pa < 0xF000420000 then .doorbell
  else if pa < 0xF001000000 then .unassigned
  else if pa < 0xF001010000 then .bsram
  else if pa < 0xFFFFFF0000 then .unassigned
  else if pa < 0x10000000000 then .rom
  else .unassigned

/-- The base of backup SRAM (R282). -/
def bsramBase : Nat := 0xF001000000
/-- The base of the memory-mapped flash (R282). -/
def flashBase : Nat := 0xE000000000
/-- The base of set-up space (R282). -/
def setupBase : Nat := 0xF000000000

/-- What an address that memory does not list reads as: backup SRAM is zeroed at cold reset (R112); DRAM and flash have
no value of their own there. -/
def unlisted (a : Nat) : Option Byte := if regionOf a = .bsram then some 0 else none

/-- Installed DRAM in bytes (R753). -/
def State.installed (s : State) : Nat := s.dram.usable * 2 ^ 28

/-- One byte of memory by physical address. DRAM, flash and the boot ROM read a free byte where nothing is listed. -/
def State.byte (s : State) (a : Nat) : Byte :=
  match lookupKey s.mem a with
  | some b => b
  | none =>
    match regionOf a with
    | .dram => Config.dramByte s.dramGen a
    | .flash => Config.flashByte s.flashGen (a - flashBase)
    | .rom => Config.romByte (a - 0xFFFFFF0000)
    | _ => 0

/-- Write one byte of memory; an entry equal to what an unlisted address reads as is removed. -/
def State.putByte (s : State) (a : Nat) (b : Byte) : State :=
  if unlisted a = some b then { s with mem := eraseKey s.mem a } else { s with mem := insertKey s.mem a b }

/-- Read `n` bytes of memory from `a` upwards. -/
def State.bytes (s : State) (a : Nat) : Nat → List Byte
  | 0 => []
  | n + 1 => s.byte a :: s.bytes (a + 1) n

/-- Write bytes of memory from `a` upwards. -/
def State.putBytes (s : State) (a : Nat) : List Byte → State
  | [] => s
  | b :: l => (s.putByte a b).putBytes (a + 1) l

/-- The memory list is in canonical form: addresses rise strictly, and no entry equals what an unlisted address reads. -/
def Memory.wf (m : List Host.Cell) : Bool := sortedKeys m && m.all (fun c => decide (unlisted c.1 ≠ some c.2))

/-! ### Host memory through the outbound window (R743) -/

/-- The host address of a physical address in the outbound window. -/
def State.hostAddr (s : State) (pa : Nat) : Nat :=
  s.get (F.HLK_OBSEG_HADDR.ix (bitsOf pa 37 36)) * 2 ^ 36 + bitsOf pa 35 0

/-- The device may send a request to this address: its segment is enabled, the link is up, in D0, and Bus Master
Enable is set (R743, R747, R751). -/
def State.linkSends (s : State) (pa : Nat) : Bool :=
  bit (s.get F.HLK_OBEN_EN) (bitsOf pa 37 36) && s.link.up && s.link.bme && s.link.dState == 0 && s.link.lp != 4

/-- One byte of host memory. -/
def State.hostByte (s : State) (h : Nat) : Byte :=
  match lookupKey s.host h with
  | some b => b
  | none => Config.hostByte h

def State.putHost (s : State) (h : Nat) : List Byte → State
  | [] => s
  | b :: l => { s with host := insertKey s.host h b }.putHost (h + 1) l

def State.hostBytes (s : State) (h : Nat) : Nat → List Byte
  | 0 => []
  | n + 1 => s.hostByte h :: s.hostBytes (h + 1) n

/-! ### Poison (R60 to R62, R743, R757, R766, R860) -/

/-- Segment n is fenced (R60). -/
def State.fenced (s : State) (n : Nat) : Bool := bit (s.get F.FLT_SEGSTAT_FENCED) n

/-- The line of 64 bytes at `a` holds only listed bytes. -/
def State.lineListed (s : State) (line : Nat) : Bool :=
  (List.range 64).all fun i => (lookupKey s.mem (line * 64 + i)).isSome

/-- A DRAM line is delivered as poison: an uncorrectable error (R757), or, with inline ECC, a line not written since
contents were lost, which the spec allows (R860). -/
def State.linePoison (s : State) (line : Nat) : Bool :=
  s.dram.eccBad.contains line ||
    (s.get F.MEM_CFG_ECC == 1 && !s.lineListed line && Config.dramPoison s.dramGen line)

/-- The segment that poisons an access of `n` bytes at `pa`, if one does: a fence on its path, the link, a DRAM line, or
the flash while it programs. -/
def State.poison (s : State) (pa n : Nat) : Option Nat :=
  match regionOf pa with
  | .dram =>
    if s.fenced 4 then some 4
    else if s.fenced 11 then some 11
    else if (List.range ((pa + n - 1) / 64 + 1 - pa / 64)).any (fun i => s.linePoison (pa / 64 + i)) then some 11
    else none
  | .link => if s.fenced 10 then some 10 else if s.linkSends pa then none else some 10
  | .flash => if s.fenced 11 then some 11 else if s.flashBusy then some 11 else none
  | .bsram => if s.fenced 12 then some 12 else none
  | _ => none

/-- The bytes an access reads, whatever its range. -/
def State.physBytes (s : State) (pa n : Nat) : List Byte :=
  if regionOf pa = .link then s.hostBytes (s.hostAddr pa) n else s.bytes pa n

/-- The bytes an access writes, whatever its range. -/
def State.physWrite (s : State) (pa : Nat) (l : List Byte) : State :=
  if regionOf pa = .link then s.putHost (s.hostAddr pa) l else s.putBytes pa l

/-- A read of flash while it programs sets FSP_EVT.RDBUSY (R766). -/
def State.flashReadEvent (s : State) (pa : Nat) : State :=
  if regionOf pa = .flash && s.flashBusy then s.event 19 1 else s

/-! ### Error banks (R796 to R798) -/

/-- Record an uncorrected error in bank `b`: written when no uncorrected record is held, else OVER is set. -/
def State.logError (s : State) (b type seg : Nat) (mce : Bool) (addr : Option Nat) : State :=
  if s.flag (F.FLT_BANK_STAT_VALID.ix b) && s.flag (F.FLT_BANK_STAT_UC.ix b) then s.put (F.FLT_BANK_STAT_OVER.ix b) true
  else
    let s := (((((s.put (F.FLT_BANK_STAT_VALID.ix b) true).put (F.FLT_BANK_STAT_UC.ix b) true).put
      (F.FLT_BANK_STAT_MCE.ix b) mce).set (F.FLT_BANK_STAT_TYPE.ix b) type).set (F.FLT_BANK_STAT_SEG.ix b) seg).put
      (F.FLT_BANK_STAT_OVER.ix b) false
    let s := (s.set (F.FLT_BANK_ADDRLO_ADDR.ix b) ((addr.getD 0) % 2 ^ 32)).set (F.FLT_BANK_ADDRHI_ADDR.ix b) ((addr.getD 0) / 2 ^ 32)
    let s := (s.put (F.FLT_BANK_ADDRHI_ADDRV.ix b) addr.isSome).set (F.FLT_BANK_TIME_TIME.ix b) (bitsOf s.tb.toNat 31 0)
    s.event 22 1

/-- Count a corrected error in bank `b` (R797, R798); it is recorded only when VALID is 0. -/
def State.logCorrected (s : State) (b type seg addr : Nat) : State :=
  let n := s.get (F.FLT_BANK_CECNT_COUNT.ix b)
  let s := s.bump (F.FLT_BANK_CECNT_COUNT.ix b) 1
  let s := if n + 1 = s.get F.FLT_CETHR_THRESH then s.event 22 2 else s
  if s.flag (F.FLT_BANK_STAT_VALID.ix b) then s
  else
    let s := (((s.put (F.FLT_BANK_STAT_VALID.ix b) true).put (F.FLT_BANK_STAT_UC.ix b) false).set
      (F.FLT_BANK_STAT_TYPE.ix b) type).set (F.FLT_BANK_STAT_SEG.ix b) seg
    let s := (s.set (F.FLT_BANK_ADDRLO_ADDR.ix b) (addr % 2 ^ 32)).set (F.FLT_BANK_ADDRHI_ADDR.ix b) (addr / 2 ^ 32)
    (s.put (F.FLT_BANK_ADDRHI_ADDRV.ix b) true).set (F.FLT_BANK_TIME_TIME.ix b) (bitsOf s.tb.toNat 31 0)

/-- A read of DRAM lines with a correctable error, ECC on: each is corrected and counted (R757, R797). -/
def State.eccFix (s : State) (pa n : Nat) : State :=
  if regionOf pa ≠ .dram ∨ s.get F.MEM_CFG_ECC ≠ 1 then s
  else
    let hit := s.dram.eccSoft.filter fun l => decide (pa / 64 ≤ l) && decide (l ≤ (pa + n - 1) / 64)
    let s := s.updDram fun d => { d with eccSoft := d.eccSoft.filter fun l => !hit.contains l }
    hit.foldl (fun s l => ((s.bump F.MEM_ECCCNT_COUNT 1).event 20 2).logCorrected 5 6 11 (64 * l)) s

/-! ### Frame keys (R531 to R537, R542) -/

/-- The access kinds of R519 and R535. -/
inductive Kind
  | read | write | fetch
deriving DecidableEq, Repr

def Kind.toNat : Kind → Nat
  | .read => 0
  | .write => 1
  | .fetch => 2

/-- The physical address of the key byte of the frame that holds `pa` (R536). -/
def State.keyAddr (s : State) (pa : Nat) : Nat := s.get F.KEY_BASE_BASE * 4096 + pa / 4096

/-- `pa` lies in the key store (R536). -/
def State.inKeyStore (s : State) (pa : Nat) : Bool :=
  let b := s.get F.KEY_BASE_BASE * 4096
  decide (b ≤ pa) && decide (pa < b + s.installed / 4096)

/-- The outcome of a frame-key check: allowed, or refused with cause 1 KEY or 2 HALL (R532, R535). -/
def keyCheck (key : Nat) (hall : Hall) (stair0 : Bool) (csKey : Nat) (k : Kind) : Option Nat :=
  if hall = .P ∧ bit key 7 then some 2
  else if stair0 then none
  else if csKey = key % 16 then none
  else if k = .write then some 1
  else if bit key 6 then some 1
  else none

/-- The key byte of a frame must be filled from the key store while segment 9 is fenced, which answers with poison (R61). -/
def State.keyPoison (s : State) (cache : List (Nat × List Byte)) (pa : Nat) : Bool :=
  s.fenced 9 && !cache.any (·.1 == pa / 4096 / 16)

/-- Look up the key byte of a frame in a key cache, filling the cache's entry of 16 frames on a miss; `cap` entries are
held, the oldest leaving first (R537, log entry 9). -/
def State.keyByte (s : State) (cache : List (Nat × List Byte)) (cap pa : Nat) : Nat × List (Nat × List Byte) :=
  let fr := pa / 4096
  match cache.find? (·.1 == fr / 16) with
  | some (_, l) => ((l.getD (fr % 16) 0).toNat, cache)
  | none =>
    let l := s.bytes (s.get F.KEY_BASE_BASE * 4096 + fr / 16 * 16) 16
    ((l.getD (fr % 16) 0).toNat, ((fr / 16, l) :: cache).take cap)

end Sys2Proof.Machine
end

