-- ==== Sys2Proof/Machine/Adc.lean ====
section
/-! DEFINITION. The monitor ADC: the scan list and its samples (R225 to R235) and snapshots (R236 to R243). -/
namespace Sys2Proof.Machine

/-- The physical address of snapshot slot n (R242). -/
def snapSlot (n : Nat) : Nat := bsramBase + 0xF000 + 0x200 * n

/-- HDR.VALID of snapshot slot n (R242, R243). -/
def State.snapValid (s : State) (n : Nat) : Bool := (s.byte (snapSlot n + 3)).getLsbD 7

/-- ADC_SNAPSTAT.VALID (R243). -/
def State.snapStat (s : State) : Nat := packBits 8 s.snapValid

/-- A slot is free when its VALID is 0 and no request holds it (R243); slot 7 is kept for COLLAPSE under KEEP7 (R237). -/
def State.snapFree (s : State) (kind n : Nat) : Bool :=
  !s.snapValid n && s.adc.snaps.all (fun r => r.slot != n) && (n != 7 || kind == 1 || !s.flag F.ADC_SNAPCFG_KEEP7)

/-- The slot a request of a kind (0 RAIL, 1 COLLAPSE, 2 SOFT) is given: the lowest free one (R236). -/
def State.snapAlloc (s : State) (kind : Nat) : Option Nat := (List.range 8).find? (s.snapFree kind)

/-- WIN_LIVE (R245). -/
def State.winLive (s : State) : Nat := s.wins.foldr (fun w a => a * 4 + w.out) 0

/-- Queue a snapshot in an allocated slot: a COLLAPSE goes before every RAIL and SOFT, and stops the one that is converting,
which is then LATE (R239). -/
def queueSnap (osc : Bool) (l : List SnapReq) (r : SnapReq) : List SnapReq :=
  if r.kind ≠ 1 then l ++ [r]
  else
    let l := match l with
      | h :: t => if h.kind ≠ 1 ∧ osc then { h with late := true } :: t else h :: t
      | [] => []
    l.filter (·.kind == 1) ++ [r] ++ l.filter (·.kind != 1)

/-- A snapshot request (R236): with no free slot SNAPNOSLOT is set and nothing is taken. -/
def State.requestSnap (s : State) (kind : Nat) (slot : Option Nat) (flt : List Nat) : State :=
  match slot with
  | none => s.event 5 3
  | some n =>
    let r : SnapReq := ⟨n, kind, s.get F.ADC_SNAPMASK_MASK, s.tb, flt, s.winLive, false⟩
    (s.updAdc fun q => { q with snaps := queueSnap s.pwr.osc24 s.adc.snaps r })

/-- A mean or a raw code, trimmed: round((mean - OFFSET / 16) × GAIN / 32,768), limited to 0 to 4,095 (R227). Halves
round up (log entry 11). -/
def State.adcTrimmed (s : State) (mean : Nat) : Nat :=
  let num : Int := (16 * (mean : Int) - signedOf 16 (s.get F.ADC_TRIMOFF_OFFSET)) * s.get F.ADC_TRIMGAIN_GAIN
  let q := (2 * num + 0x80000) / 0x100000
  if q < 0 then 0 else if 4095 < q then 4095 else q.toNat

/-- The mean of conversions, rounded to nearest with ties up (R227). -/
def meanOf (l : List Nat) : Nat := (2 * l.sum + l.length) / (2 * l.length)

/-- A sample word (R228). -/
def sampleWord (entry tag : Nat) (ovr settle : Bool) (chan code : Nat) : Nat :=
  entry * 2 ^ 24 + (tag % 16) * 2 ^ 20 + ofBool ovr * 2 ^ 18 + ofBool settle * 2 ^ 17 + chan * 2 ^ 12 + code

/-- The first entry from `i` to LAST that names a channel (R231). -/
def State.adcNextEntry (s : State) (i : Nat) : Option Nat :=
  (List.range 16).find? fun e => decide (i ≤ e) && decide (e ≤ s.get F.ADC_CTL_LAST) && s.get (F.ADC_ENTRY_CHAN.ix e) != 0x1F

/-- The end of a pass: PASS is set, the count rises, and the scan stops in MODE 0 (R231). -/
def State.adcPassEnd (s : State) : State :=
  let s := (s.updAdc fun q => { q with pass := s.adc.pass + 1 })
  let s := s.event 5 0
  if s.flag F.ADC_CTL_MODE then (s.updAdc fun q => { q with waitPass := true })
  else (s.updAdc fun q => { q with run := false, waitPass := false })

/-- Begin a pass at the first entry of the list. -/
def State.adcPassBegin (s : State) : State :=
  match s.adcNextEntry 0 with
  | some e => (s.updAdc fun q => { q with waitPass := false, entry := e, left := s.get (F.ADC_ENTRY_COUNT.ix e) + 1 })
  | none => s.adcPassEnd

/-- START (R231, R232): a scan that runs restarts and its pass count becomes 0. -/
def State.adcStart (s : State) : State :=
  let p := if s.adc.run then 0 else s.adc.pass
  (s.updAdc fun q => { q with run := true, waitPass := false, pass := p, prev := none, settle := 0 }).adcPassBegin

/-- STOP (R232). -/
def State.adcStop (s : State) : State := (s.updAdc fun q => { q with run := false, waitPass := false })

/-- A snapshot has the converter (R240): one is queued and the 24 MHz oscillator runs (R241). -/
def State.snapBusy (s : State) : Bool := !s.adc.snaps.isEmpty && s.pwr.osc24

/-- D of an ORDER code. -/
def orderD (o : Nat) : Nat := 2 ^ o

/-- A sample of the scan completes (R227 to R233): `raw` holds its conversions. The buffer takes the word unless it is
full; an entry that ends passes to the next, and the last ends the pass. -/
def State.adcSample (s : State) (raw : Nat → Nat) : State :=
  if !s.adc.run || s.adc.waitPass || s.snapBusy || s.pwr.cis ≠ .awake then s
  else
    let e := s.adc.entry
    let chan := s.get (F.ADC_ENTRY_CHAN.ix e)
    let gain := s.get (F.ADC_ENTRY_GAIN.ix e)
    let d := orderD (s.get (F.ADC_ENTRY_ORDER.ix e))
    let codes := (List.range d).map raw
    let change := match s.adc.prev with
      | none => max 2 d
      | some (c, g, o) => max (ofBool (c != chan)) (max (2 * ofBool (g != gain)) (if o = d then 0 else d))
    let settle := max change s.adc.settle
    let w := sampleWord e s.adc.pass (codes.any (· == 4095)) (decide (0 < settle)) chan (s.adcTrimmed (meanOf codes))
    let s := (s.updAdc fun q => { q with prev := some (chan, gain, d), settle := settle - 1 })
    let i := s.get F.ADC_WRIDX_IDX
    let s : State :=
      if (i + 1) % 64 = s.get F.ADC_RDIDX_IDX then s.event 5 1
      else
        let s := s.set (F.ADC_BUF_SAMPLE.ix i) w
        let s := s.set F.ADC_WRIDX_IDX ((i + 1) % 64)
        if i = 63 then s.put F.ADC_WRIDX_WRAP (!s.flag F.ADC_WRIDX_WRAP) else s
    if 1 < s.adc.left then (s.updAdc fun q => { q with left := s.adc.left - 1 })
    else match s.adcNextEntry (e + 1) with
      | some e' => (s.updAdc fun q => { q with entry := e', left := s.get (F.ADC_ENTRY_COUNT.ix e') + 1 })
      | none => s.adcPassEnd

/-- The samples of a snapshot: five words per channel of the mask in increasing order, each carrying SETTLE 0 (R238). -/
def State.snapWords (s : State) (mask : Nat) (code : Nat → Nat) : List Nat :=
  ((List.range 24).filter (bit mask)).flatMap fun ch =>
    (List.range 5).map fun i =>
      let c := code (ch * 5 + i)
      sampleWord 0 0 (c == 4095) false ch (s.adcTrimmed c)

/-- The 512 bytes of a snapshot slot (R242). -/
def State.snapImage (s : State) (r : SnapReq) (code : Nat → Nat) : List Byte :=
  let hdr := 2 ^ 31 + ofBool r.late * 2 ^ 30 + r.kind * 2 ^ 28 + r.mask
  let ws := s.snapWords r.mask code
  leBytes 4 hdr ++ leBytes 4 (s.adc.seqno + 1) ++ leBytes 8 r.time.toNat ++ (r.flt.flatMap (leBytes 4)) ++ leBytes 4 r.live
    ++ ws.flatMap (leBytes 4) ++ List.replicate (480 - 4 * ws.length) 0

/-- The snapshot that has the converter completes (R242); the first scan sample after it counts as a change of channel, gain
and order (R230). `code` gives the raw code of sample i of channel c at index 5c + i. -/
def State.snapComplete (s : State) (code : Nat → Nat) : State :=
  match s.adc.snaps with
  | [] => s
  | r :: l =>
    if !s.pwr.osc24 then s
    else
      let s' := s.putBytes (snapSlot r.slot) (s.snapImage r code)
      { s' with adc := { s.adc with snaps := l, seqno := s.adc.seqno + 1, prev := none } }.event 5 2

/-- Writing 1 to a bit of ADC_SNAPSTAT.VALID clears HDR.VALID of that slot (R243). -/
def State.snapClear (s : State) (mask : Nat) : State :=
  (List.range 8).foldl (fun s n =>
    if bit mask n then s.putByte (snapSlot n + 3) ((s.byte (snapSlot n + 3)) &&& 0x7F#8) else s) s

end Sys2Proof.Machine
end

