-- ==== Sys2Proof/Machine/Windows.lean ====
section
/-! DEFINITION. Sense windows: thresholds in force (R188, R192, R212), raw samples (R211, R224), the majority filter and its
output (R217 to R223). -/
namespace Sys2Proof.Machine

/-- The output of window n: 0 UNKNOWN, 1 BELOW, 2 INSIDE, 3 ABOVE. A window that does not exist is UNKNOWN. -/
def State.winOut (s : State) (n : Nat) : Nat := (s.wins.getD n Win.unknown).out

/-- The samples kept n and the agreement needed k of a FILT code (R218). -/
def filtN (f : Nat) : Nat := [1, 3, 3, 5, 5, 5, 7, 7, 7, 7, 9, 9, 9, 9, 9].getD f 9
def filtK (f : Nat) : Nat := [1, 2, 3, 3, 4, 5, 4, 5, 6, 7, 5, 6, 7, 8, 9].getD f 9

/-- A code × (200 + margin) / 200, rounded to nearest and limited to 0 to 1,023 (R188). -/
def trackCode (code : Nat) (m : Int) : Nat := satTo 1023 ((2 * (code : Int) * (200 + m) + 200) / 400).toNat

/-- The margin in force on slot n, in steps of 0.5% (R185). -/
def State.margin (s : State) (n : Nat) : Int := signedOf 6 (s.get (F.SEQ_SLOT_MARG_MARGIN.ix n))

/-- The thresholds of a tempo level: WNOM less and plus TOL, limited to 0 to 1,023 (R192). -/
def State.levelThresholds (s : State) (l : Nat) : Nat × Nat :=
  let w := s.get (F.SEQ_TEMPOLVL_WNOM.ix l)
  let tol := s.get F.SEQ_TEMPOSET_TOL
  (w - tol, satTo 1023 (w + tol))

/-- The thresholds of the tempo slot's window: both levels during SETTLE (R192). -/
def State.tempoThresholds (s : State) : Nat × Nat :=
  let (lo, hi) := s.levelThresholds s.seq.level
  match s.seq.settleFrom with
  | none => (lo, hi)
  | some l => let (lo', hi') := s.levelThresholds l; (min lo lo', max hi hi')

/-- The slots, lowest first, whose window is n. -/
def State.slotsOfWin (s : State) (n : Nat) : List Nat :=
  (List.range (Variant.slots s.variant)).filter fun m => s.get (F.SEQ_SLOT_CFG_WIN.ix m) == n

/-- Tempo control is enabled and slot m is its slot. -/
def State.isTempoSlot (s : State) (m : Nat) : Bool :=
  s.flag F.SEQ_TEMPOCTL_ENABLE && s.get F.SEQ_TEMPOCTL_SLOT == m

/-- The thresholds in force of window n, in the precedence of R212. -/
def State.winThresholds (s : State) (n : Nat) : Nat × Nat :=
  let l := s.slotsOfWin n
  if l.any s.isTempoSlot then s.tempoThresholds
  else
    let lo := s.get (F.WIN_LO_LO.ix n)
    let hi := s.get (F.WIN_HI_HI.ix n)
    match l.find? (fun m => s.margin m != 0 && s.flag (F.SEQ_SLOT_MCFG_MTRACK.ix m)) with
    | some m => (trackCode lo (s.margin m), trackCode hi (s.margin m))
    | none => (lo, hi)

/-- The thresholds SEQ_SLOTn_WEFF shows: those in force on the slot's window, zero for a slot without one (R188). -/
def State.slotWeff (s : State) (n : Nat) : Nat × Nat :=
  let w := s.get (F.SEQ_SLOT_CFG_WIN.ix n)
  if w < 16 then s.winThresholds w else (0, 0)

/-- One raw sample at an input voltage in nanovolts: each comparator's trim is subtracted from its input (R211, R224). -/
def State.winSample (s : State) (n nv : Nat) : Nat :=
  let (lo, hi) := s.winThresholds n
  let tl := signedOf 8 (s.get (F.WIN_TRIM_LOTRIM.ix n))
  let th := signedOf 8 (s.get (F.WIN_TRIM_HITRIM.ix n))
  if (nv : Int) - 75000 * tl < 1200000 * lo then 1
  else if 1200000 * (hi : Int) < (nv : Int) - 75000 * th then 3
  else 2

/-- The filter after one more raw sample (R217). -/
def Win.push (w : Win) (filt raw : Nat) : Win :=
  let l := (raw :: w.samples).take (filtN filt)
  let out := if filtK filt ≤ l.count raw then raw else w.out
  ⟨out, raw, l⟩

/-- Window n is sampled. -/
def State.winOn (s : State) (n : Nat) : Bool := Variant.win s.variant n && s.flag (F.WIN_CFG_ENABLE.ix n)

/-- Set window n. -/
def State.setWin (s : State) (n : Nat) (w : Win) : State := { s with wins := setAt s.wins n w }

/-- A write of WIN_CFGn took effect (R220, R221): clearing ENABLE empties the window, and a change of FILT refills the
stored samples with the output, or discards them while it is UNKNOWN. -/
def State.winConfigured (s : State) (n oldFilt : Nat) : State :=
  if !s.winOn n then s.setWin n Win.unknown
  else if s.get (F.WIN_CFG_FILT.ix n) = oldFilt then s
  else
    let w := s.wins.getD n Win.unknown
    s.setWin n { w with samples := if w.out = 0 then [] else List.replicate (filtN (s.get (F.WIN_CFG_FILT.ix n))) w.out }

/-- The windows of a tick group, sampled at input voltages in nanovolts; answers the windows whose output changed. -/
def State.winGroup (s : State) (g : Nat) (nv : Nat → Nat) : State × List Nat :=
  [0, 1, 2, 3].foldl (fun (a : State × List Nat) i =>
    let n := 4 * g + i
    if !a.1.winOn n then a
    else
      let w := a.1.wins.getD n Win.unknown
      let w' := w.push (a.1.get (F.WIN_CFG_FILT.ix n)) (s.winSample n (nv i))
      (a.1.setWin n w', if w'.out = w.out then a.2 else a.2 ++ [n])) (s, [])

/-- EVSEL: a change of window n into its output sets WIN_EVT bit n (R223). -/
def State.winEvent (s : State) (n : Nat) : State :=
  if bit (s.get (F.WIN_CFG_EVSEL.ix n)) (s.winOut n - 1) && s.winOut n != 0 then s.event 4 n else s

end Sys2Proof.Machine
end

