-- ==== Sys2Proof/Machine/Sequencer.lean ====
section
/-! DEFINITION. The rail sequencer: power-up runs, failures and their actions, shutdown and release runs, collapse, margins,
tempo control and Kraluny stepping (R156 to R209), and wake events (R146, R147). -/
namespace Sys2Proof.Machine

/-! ### Slots -/

def State.driven (s : State) : Nat := s.get F.SEQ_UPMASK_DRIVEN
def State.upSlots (s : State) : Nat := s.get F.SEQ_UPMASK_UP

/-- The slots present, as a mask. -/
def State.slotMask (s : State) : Nat := 2 ^ Variant.slots s.variant - 1

/-- The mask of slots that meet a test. -/
def State.slotsThat (s : State) (p : Nat → Bool) : Nat := packBits (Variant.slots s.variant) p

def State.inUse (s : State) (n : Nat) : Bool := s.flag (F.SEQ_SLOT_CFG_USE.ix n)
def State.dep (s : State) (n : Nat) : Nat := s.get (F.SEQ_SLOT_DEP_DEP.ix n)

/-- The transitive dependants of a set of slots, by repeated closure (R159). -/
def State.dependants (s : State) : Nat → Nat → Nat
  | 0, m => m
  | k + 1, m => s.dependants k (m ||| s.slotsThat (fun n => (s.dep n &&& m) != 0))

/-- The transitive dependants of slot n (R159), itself left out. -/
def State.dependantsOf (s : State) (n : Nat) : Nat := clrBit (s.dependants 16 (2 ^ n)) n

/-- The slot's conditions hold: PG high if PGEN, its window INSIDE if WINCHK (R157). -/
def State.slotGood (s : State) (n : Nat) : Bool :=
  (!s.flag (F.SEQ_SLOT_CFG_PGEN.ix n) || bit s.seq.pg n)
    && (!s.flag (F.SEQ_SLOT_CFG_WINCHK.ix n) || s.winOut (s.get (F.SEQ_SLOT_CFG_WIN.ix n)) == 2)

/-- The slot is discharged: PG low if PGEN, its window BELOW if WINCHK (R145, R176; log entry 12). -/
def State.slotLow (s : State) (n : Nat) : Bool :=
  (!s.flag (F.SEQ_SLOT_CFG_PGEN.ix n) || !bit s.seq.pg n)
    && (!s.flag (F.SEQ_SLOT_CFG_WINCHK.ix n) || s.winOut (s.get (F.SEQ_SLOT_CFG_WIN.ix n)) == 1)

/-- Losing a supply of the fabric powers the fabric off, and DRAM contents are then not kept (R167, R835). -/
def State.fabricLost (s : State) : State :=
  { s with pwr := { s.pwr with fabricUp := false, hostBoot := false, bootLen := 0 }, dramGen := s.dramGen + 1,
           mem := s.mem.filter (fun c => regionOf c.1 != Region.dram), dram := { s.dram with trained := false, selfRef := false } }

/-- Release slots: enables, margins and margin currents (R158, R179); the fabric falls with its own supplies. -/
def State.releaseSlots (s : State) (m : Nat) : State :=
  let s := (s.set F.SEQ_UPMASK_DRIVEN (andNot s.driven m)).set F.SEQ_UPMASK_UP (andNot s.upSlots m)
  let s := (List.range 16).foldl (fun s n =>
    if !bit m n then s
    else
      let k := s.get (F.SEQ_SLOT_MCFG_METHOD.ix n)
      let s := if 2 ≤ k ∧ s.margin n ≠ 0 then (s.updSeq fun q => { q with mdac := setAt s.seq.mdac (k - 2) 0 }) else s
      s.set (F.SEQ_SLOT_MARG_MARGIN.ix n) 0) s
  let s := (s.updSeq fun q => { q with ramping := andNot s.seq.ramping m })
  if m &&& s.pwr.fabricRails != 0 && s.pwr.fabricUp then s.fabricLost else s

/-! ### Fault records (R175, R209) -/

/-- Write the fault record; a request of kind RAIL or COLLAPSE asks for a snapshot, whose slot the record names. -/
def State.seqRecord (s : State) (cause slot released skipped : Nat) (snap : Option Nat) : State :=
  let ns : Option Nat := match snap with
    | some k => s.snapAlloc k
    | none => none
  let s := ((((((s.put F.SEQ_FLTREC0_VALID true).set F.SEQ_FLTREC0_SNAP (ns.getD 0)).put F.SEQ_FLTREC0_SNAPOK ns.isSome).set
    F.SEQ_FLTREC0_CAUSE cause).set F.SEQ_FLTREC0_STEP s.seq.step).set F.SEQ_FLTREC0_SLOT slot)
  let s := s.set F.SEQ_FLTREC1_TIME (bitsOf s.tb.toNat 31 0)
  let s := (s.set F.SEQ_FLTREC2_SKIPPED skipped).set F.SEQ_FLTREC2_RELEASED released
  match snap with
  | some k => s.requestSnap k ns [s.reg 0x30110, s.reg 0x30114, s.reg 0x30118]
  | none => s

/-! ### Release runs (R145, R173, R176) -/

/-- SEQ_SDn.SLOT. -/
def State.sdSlot (s : State) (i : Nat) : Nat := s.get (F.SEQ_SD_SLOT.ix i)

/-- The next entry from `i` on, before the first END, that names one of the slots and whose enable is driven. -/
def State.nextEntry (s : State) (slots : Nat) : Nat → Nat → Option Nat
  | 0, _ => none
  | k + 1, i =>
    if s.sdSlot i = 0x1F then none
    else if s.sdSlot i < 16 ∧ bit (slots &&& s.driven) (s.sdSlot i) then some i
    else s.nextEntry slots k (i + 1)

/-- The next entry of a release run. -/
def State.runEntry (s : State) (r : RelRun) : Option Nat := s.nextEntry r.slots (32 - r.idx) r.idx

/-- Every hot well cools when Cistern entry is committed (R592). -/
def State.hotNone (s : State) : State := s.updPump fun p => { p with hot := [], coldWait := [] }

/-- The release run at the head has ended: what its kind does then. -/
def State.relEnd (s : State) (k : RelKind) : State :=
  match k with
  | .down => (s.updSeq fun q => { q with state := .off, colArmed := false }).event 3 1
  | .cistern => (s.updPwr fun q => { q with cis := .asleep, fabricUp := false }).hotNone
  | .dependants => s
  | .restart => s

/-- When no entry is left, the slots that no entry names are released at once and the run ends (R173, R176, R145). -/
def State.relClose (s : State) : State :=
  match s.seq.rel with
  | [] => s
  | r :: l =>
    if r.wait || (s.runEntry r).isSome then s
    else ((s.updSeq fun q => { q with rel := l }).releaseSlots (r.slots &&& s.driven)).relEnd r.kind

/-- An entry of a Cistern release run commits entry: the fabric is powered down (R145). -/
def State.cisCommit (s : State) (k : RelKind) : State :=
  if k = .cistern then (s.updPwr fun q => { q with cis := .releasing, fabricUp := false }).hotNone else s

/-- The run at the head takes its next entry: its slot is released and, with WAITLOW, its discharge is awaited (R176). -/
def State.relStep (s : State) : State :=
  match s.seq.rel with
  | [] => s
  | r :: l =>
    if r.wait then s
    else
      let s := s.cisCommit r.kind
      match s.runEntry r with
      | none => s.relClose
      | some i =>
        let n := s.sdSlot i
        let s := s.releaseSlots (2 ^ n)
        let s := if s.flag (F.SEQ_SD_WAITLOW.ix i) && !s.slotLow n
          then (s.updSeq fun q => { q with rel := { r with idx := i, wait := true } :: l })
          else (s.updSeq fun q => { q with rel := { r with idx := i + 1, wait := false } :: l })
        s.relClose

/-- The discharge wait of the head run is over. -/
def State.relWaitOver (s : State) : State :=
  match s.seq.rel with
  | r :: l => if r.wait then (s.updSeq fun q => { q with rel := { r with idx := r.idx + 1, wait := false } :: l }).relClose else s
  | [] => s

/-- The head run's awaited slot is low: the run moves on (R176). -/
def State.relCheck (s : State) : State :=
  match s.seq.rel with
  | r :: _ => if r.wait && s.slotLow (s.sdSlot r.idx) then s.relWaitOver else s
  | [] => s

/-- DISCHTO elapses (R177). -/
def State.relTimeout (s : State) : State :=
  match s.seq.rel with
  | r :: _ => if r.wait then (if r.kind = .cistern then s else s.event 3 9).relWaitOver else s
  | [] => s

/-- The local shutdown run (R176, R178). -/
def State.shutdown (s : State) : State :=
  let r : RelRun := ⟨.down, s.driven, 0, false⟩
  ((s.updSeq fun q => { q with state := .down, ramping := 0, stepDone := false, kReady := false, rel := [r] }).updPwr fun q => { q with tableRun := false }).relClose

/-! ### Power-up runs (R160 to R165) -/

/-- A run takes part in Kraluny stepping (R197). -/
def State.kPart (s : State) : Bool := s.flag F.SEQ_KCFG_ENABLE

/-- The table is bad: a slot in use depends on one not in use, or whose up-step is not lower (R161). -/
def State.badTable (s : State) : Bool :=
  (List.range (Variant.slots s.variant)).any fun n => s.inUse n &&
    (List.range 16).any fun m => bit (s.dep n) m &&
      (!s.inUse m || decide (s.get (F.SEQ_SLOT_CFG_UPSTEP.ix n) ≤ s.get (F.SEQ_SLOT_CFG_UPSTEP.ix m)))

/-- The slots step k enables: in use, of that step, not up, no dependency failed in this run (R160). -/
def State.stepSlots (s : State) (k : Nat) : Nat :=
  let blocked := s.dependants 16 s.seq.failed
  s.slotsThat fun n => s.inUse n && s.get (F.SEQ_SLOT_CFG_UPSTEP.ix n) == k && !bit s.upSlots n && !bit blocked n

/-- The run ends: ON when every slot in use is up, else PARTIAL, and UPDONE (R164). -/
def State.runEnd (s : State) : State :=
  let st := if andNot (s.slotsThat s.inUse) s.upSlots = 0 then SeqState.on else SeqState.partial'
  ((s.updSeq fun q => { q with state := st, stepDone := false, kReady := false, ramping := 0 }).updPwr fun q => { q with tableRun := false }).event 3 0

/-- Drive the enables of a step. -/
def State.driveStep (s : State) (k : Nat) : State :=
  let m := s.stepSlots k
  let s := s.set F.SEQ_UPMASK_DRIVEN (s.driven ||| m)
  (s.updSeq fun q => { q with step := k, ramping := m, stepDone := decide (m = 0) })

/-- Begin the first step from `k` on that has a slot to enable, or end the run: steps with none take no time (R160). -/
def State.nextStep (s : State) : Nat → Nat → State
  | 0, _ => (s.updSeq fun q => { q with step := 31 }).runEnd
  | n + 1, k => if s.stepSlots k = 0 then s.nextStep n (k + 1) else s.driveStep k

/-- A slot up or failed may end the step: STEPDLY is then awaited (R160). -/
def State.stepCheck (s : State) : State :=
  if (s.seq.state = .up ∨ s.seq.state = .kwait) ∧ s.seq.ramping = 0 then (s.updSeq fun q => { q with stepDone := true }) else s

/-- A run starts: margins on slots with a dependant not yet up are removed (R187); a stepped run waits for its strobes
(R206); WIN15 already INSIDE arms the collapse rule (R180). -/
def State.runStart (s : State) : State :=
  let s := (List.range (Variant.slots s.variant)).foldl (fun s n =>
    if s.margin n ≠ 0 ∧ andNot (s.dependantsOf n) s.upSlots ≠ 0 then
      let k := s.get (F.SEQ_SLOT_MCFG_METHOD.ix n)
      let s := if 2 ≤ k then (s.updSeq fun q => { q with mdac := setAt s.seq.mdac (k - 2) 0 }) else s
      (s.set (F.SEQ_SLOT_MARG_MARGIN.ix n) 0).set (F.SEQ_SLOT_MARG_RESULT.ix n) 7
    else s) s
  let s := (s.updSeq fun q => { q with failed := 0, ramping := 0, stepDone := false, step := 0,
                                        colArmed := s.seq.colArmed || s.winOut 15 == 2 })
  if s.kPart then
    if s.seq.klead then (s.updSeq fun q => { q with state := .up, kReady := true })
    else (s.updSeq fun q => { q with state := .kwait })
  else (s.updSeq fun q => { q with state := .up }).nextStep 32 0

/-- SEQ_STEPCTL.GO (R161, R162), the caller having checked STATE (R163). -/
def State.seqGo (s : State) : State :=
  if s.badTable then (s.event 3 5).seqRecord 6 0x1F 0 0 none else s.runStart

/-- Restore the reset values of every SEQ_SLOTn and SEQ_SDn register (R162). -/
def State.restoreTable (s : State) : State :=
  { s with regs := s.regs.filter (fun r => !(decide (0x31000 ≤ r.1) && decide (r.1 < 0x32080))) }

/-- Order 3 of the start-up order (R121, R161, R162). -/
def State.orderThree (s : State) : State :=
  let s := (s.updPwr fun q => { q with tableRun := true })
  if s.badTable then ((s.event 3 5).seqRecord 6 0x1F 0 0 none).restoreTable.runStart else s.runStart

/-- Mark slots up. -/
def State.markUp (s : State) (m : Nat) : State :=
  let s := s.set F.SEQ_UPMASK_UP (s.upSlots ||| (m &&& s.driven))
  (s.updSeq fun q => { q with ramping := andNot s.seq.ramping m }).stepCheck

/-- Every driven slot not yet up whose conditions hold is up (R157). -/
def State.slotsCheck (s : State) : State :=
  let m := andNot s.driven s.upSlots &&& s.slotsThat s.slotGood
  if m = 0 then s else s.markUp m

/-! ### Failures (R168 to R175) -/

/-- Slot n fails with a cause: record, event, snapshot, then its fault action (R172 to R175); FAILABORT drives an abort
during a run (R205). -/
def State.failSlot (s : State) (n cause : Nat) : State :=
  let act := s.get (F.SEQ_SLOT_CFG_FAULTACT.ix n)
  let limited := act == 1 && s.get F.SEQ_RESTARTS_COUNT == s.get F.SEQ_FLTCFG_RETRIES
  let act := if limited then 0 else act
  let running := s.seq.state == .up || s.seq.state == .kwait
  let deps := s.dependantsOf n &&& s.slotsThat s.inUse
  let released := if act = 0 then (2 ^ n ||| (deps &&& s.driven)) else if act = 1 then s.driven else 0
  let skipped := if act = 0 then andNot deps s.driven else 0
  let s := if limited then s.event 3 10 else s
  let s := (s.event 3 2).seqRecord cause n released skipped (some 0)
  let s := (s.updSeq fun q => { q with failed := s.seq.failed ||| 2 ^ n, ramping := clrBit s.seq.ramping n })
  let s := s.set F.SEQ_UPMASK_UP (clrBit s.upSlots n)
  let s :=
    if act = 0 then
      let s := s.releaseSlots (2 ^ n)
      let m := deps &&& s.driven
      let r : RelRun := ⟨.dependants, m, 0, false⟩
      if m = 0 then s.stepCheck
      else ((s.updSeq fun q => { q with rel := s.seq.rel ++ [r] }).relClose).stepCheck
    else if act = 1 then
      let s := s.bump F.SEQ_RESTARTS_COUNT 1
      let r : RelRun := ⟨.restart, s.driven, 0, false⟩
      ((s.updSeq fun q => { q with state := .restart, ramping := 0, stepDone := false, kReady := false, rel := [r] }).updPwr fun q => { q with tableRun := false }).relClose
    else s.stepCheck
  if running && s.kPart && s.flag F.SEQ_KCFG_FAILABORT then (s.updSeq fun q => { q with kdrive := true, kline := false }) else s

/-- PG_EXTn goes low: an up slot with PGEN and DROPCHK fails with PGLOSS (R169); a discharge wait may end (R176). -/
def State.pgLow (s : State) (n : Nat) : State :=
  let s := (s.updSeq fun q => { q with pg := clrBit s.seq.pg n })
  let s := if bit s.upSlots n && s.flag (F.SEQ_SLOT_CFG_DROPCHK.ix n) && s.flag (F.SEQ_SLOT_CFG_PGEN.ix n)
    then s.failSlot n 1 else s
  s.relCheck

/-- PG_EXTn goes high (R157). -/
def State.pgHigh (s : State) (n : Nat) : State :=
  (s.updSeq fun q => { q with pg := setBit s.seq.pg n }).slotsCheck

/-! ### Input supply collapse (R180 to R184) -/

/-- A gate is turned off with ABORT: in any phase before order 6 (R708). -/
def Pulse.aborted (p : Pulse) : Pulse :=
  let ph := match p.phase with
    | .select => 0
    | .pullIn => 1
    | .hold => 2
    | .release => 3
    | .off => 4
  if p.phase = .off then p else { p with phase := .off, abort := true, fault := some (p.fault.getD ph) }

/-- CANCEL of channel n, or entry into COLLAPSED (R708). -/
def State.pulseAbort (s : State) (n : Nat) : State := s.updLatch n fun l => { l with pulse := l.pulse.map Pulse.aborted }

/-- WIN15 reports BELOW while the rule is armed (R181, R183, R205). -/
def State.collapse (s : State) : State :=
  let was := s.driven
  let s := ((s.updSeq fun q => { q with state := .collapsed, ramping := 0, stepDone := false, kReady := false, rel := [], pmb := [],
                                        settleFrom := none, mdac := [0, 0, 0, 0] }).updPwr fun q => { q with tableRun := false })
  let s := (List.range 4).foldl (fun s n => s.pulseAbort n) (s.releaseSlots was)
  let s := { s with dramGen := s.dramGen + 1, mem := s.mem.filter (fun c => regionOf c.1 != Region.dram) }
  let s := (s.event 3 3).seqRecord 4 0x1F 0 0 (some 1)
  if s.kPart then (s.updSeq fun q => { q with kdrive := true, kline := false }) else s

/-! ### Wake events (R146, R147) -/

/-- A wake source fires: before entry is committed it cancels entry (R146); after, it is pending for the wake (R148). -/
def State.wake (s : State) (src : Nat) : State :=
  if !bit (s.get F.PWR_WAKEEN_EN) src then s
  else match s.pwr.cis with
  | .entering =>
    { s with pwr := { s.pwr with cis := .awake }, seq := { s.seq with rel := s.seq.rel.filter (fun r => r.kind != RelKind.cistern) },
             dram := { s.dram with selfRef := false },
             cores := s.cores.map (fun (q : Core) => { q with asleep := false }) }.event 2 1
  | .releasing => (s.updPwr fun q => { q with wakePend := setBit s.pwr.wakePend src })
  | .asleep => (s.updPwr fun q => { q with wakePend := setBit s.pwr.wakePend src })
  | _ => s

/-! ### The consumers of a window change -/

/-- Window n changed its output: its event, a wake, and what the sequencer makes of it (R169, R171, R180, R181, R157). -/
def State.winChanged (s : State) (n : Nat) : State :=
  let s := s.winEvent n
  let s := if s.evt 4 n && bit (s.reg 0x40008) n then s.wake 1 else s
  let s := if n = 15 ∧ s.winOut 15 = 2 ∧ s.seq.state ≠ .off then (s.updSeq fun q => { q with colArmed := true }) else s
  if n = 15 ∧ s.winOut 15 = 1 ∧ s.seq.colArmed ∧ s.seq.state ≠ .collapsed then s.collapse
  else
    let s := (s.slotsOfWin n).foldl (fun s m =>
      let exempt := s.margin m != 0 && !s.flag (F.SEQ_SLOT_MCFG_MTRACK.ix m)
      if bit s.upSlots m && s.flag (F.SEQ_SLOT_CFG_DROPCHK.ix m) && s.flag (F.SEQ_SLOT_CFG_WINCHK.ix m) && !exempt then
        if s.winOut n = 1 then s.failSlot m 2 else if s.winOut n = 3 then s.failSlot m 3 else s
      else s) s
    s.relCheck.slotsCheck

/-- A tick of group g at input voltages in nanovolts (R211 to R223). -/
def State.winTick (s : State) (g : Nat) (nv : Nat → Nat) : State :=
  let (s, l) := s.winGroup g nv
  l.foldl (fun s n => s.winChanged n) s

/-! ### Margins (R185 to R189) -/

/-- Lower-numbered slots keep a margin DAC that two name (R210). -/
def State.dacTaken (s : State) (n : Nat) : Bool :=
  let k := s.get (F.SEQ_SLOT_MCFG_METHOD.ix n)
  decide (2 ≤ k) && (List.range n).any fun m => s.get (F.SEQ_SLOT_MCFG_METHOD.ix m) == k

/-- round(VNOM × (200 + MARGIN) / 200) (R185). -/
def marginVout (vnom : Nat) (m : Int) : Nat := ((2 * (vnom : Int) * (200 + m) + 200) / 400).toNat

/-- Why a margin request is refused: the RESULT code, in the order of R186. -/
def State.marginRefusal (s : State) (n : Nat) : Option Nat :=
  if (s.seq.state = .up ∨ s.seq.state = .down ∨ s.seq.state = .kwait ∨ s.seq.state = .restart)
      ∧ s.dependantsOf n &&& s.slotsThat s.inUse ≠ 0 then some 2
  else if !bit s.upSlots n then some 3
  else if s.isTempoSlot n then some 4
  else if s.get (F.SEQ_SLOT_MCFG_METHOD.ix n) = 0 || s.dacTaken n then some 5
  else none

/-- The margin `m` (6 bits, two's complement) takes effect on slot n. -/
def State.marginApplied (s : State) (n m : Nat) : State :=
  ((s.set (F.SEQ_SLOT_MARG_MARGIN.ix n) m).set (F.SEQ_SLOT_MARG_RESULT.ix n) 1).event 3 7

/-- A margin request on slot n, the value already clamped (R185, R186). A PMBus margin takes effect when the write is
acknowledged (R189). -/
def State.marginRequest (s : State) (n m : Nat) : State :=
  match s.marginRefusal n with
  | some r => (s.set (F.SEQ_SLOT_MARG_RESULT.ix n) r).event 3 6
  | none =>
    let k := s.get (F.SEQ_SLOT_MCFG_METHOD.ix n)
    if 2 ≤ k then
      let i := signedOf 6 m * s.get (F.SEQ_SLOT_MCFG_MSTEP.ix n)
      (s.updSeq fun q => { q with mdac := setAt s.seq.mdac (k - 2) i }).marginApplied n m
    else
      let c : PmbCmd := ⟨false, n, s.get (F.SEQ_SLOT_MCFG_PMBADDR.ix n), s.get (F.SEQ_SLOT_MCFG_PAGE.ix n),
        marginVout (s.get (F.SEQ_SLOT_VNOM_VNOM.ix n)) (signedOf 6 m) % 65536, m⟩
      (s.updSeq fun q => { q with pmb := s.seq.pmb ++ [c] })

/-- The sequencer owns I2C port 1 (R196). -/
def State.seqOwnsI2c (s : State) : Bool :=
  (List.range 16).any (fun n => s.get (F.SEQ_SLOT_MCFG_METHOD.ix n) == 1)
    || (s.flag F.SEQ_TEMPOCTL_ENABLE && s.flag F.SEQ_TEMPOCTL_MODE)

/-- The PMBus command in progress ends, acknowledged or not (R185, R189). -/
def State.pmbEnd (s : State) (ack : Bool) : State :=
  match s.seq.pmb with
  | [] => s
  | c :: l =>
    let s := (s.updSeq fun q => { q with pmb := l })
    if c.tempo then s
    else if ack then s.marginApplied c.slot c.margin
    else (s.set (F.SEQ_SLOT_MARG_RESULT.ix c.slot) 6).event 3 6

/-! ### Tempo control (R190 to R196) -/

/-- The level v, or the nearer of FLOOR and CEIL when it lies outside them. -/
def State.tempoClamp (s : State) (v : Nat) : Nat := max (s.get F.SEQ_TEMPOFLR_FLOOR) (min (s.get F.SEQ_TEMPOCEIL_CEIL) v)

/-- Command a level (R191): SETTLE starts, and in PMBus mode a VOUT_COMMAND goes before any queued margin command. -/
def State.commandLevel (s : State) (l : Nat) : State :=
  if l = s.seq.level then s
  else
    let n := s.get F.SEQ_TEMPOCTL_SLOT
    let c : PmbCmd := ⟨true, n, s.get (F.SEQ_SLOT_MCFG_PMBADDR.ix n), s.get (F.SEQ_SLOT_MCFG_PAGE.ix n),
      s.get (F.SEQ_TEMPOLVL_VOUT.ix l), 0⟩
    let cmds := if s.flag F.SEQ_TEMPOCTL_MODE ∧ n < 16 then
        (match s.seq.pmb with
          | h :: t => h :: (t.filter (·.tempo) ++ [c] ++ t.filter (fun x => !x.tempo))
          | [] => [c])
      else s.seq.pmb
    (s.updSeq fun q => { q with level := l, settleFrom := some s.seq.level, upCnt := 0, dnCnt := 0, pmb := cmds }).event 3 8

/-- While ENABLE is 0 the commanded level is MANUAL (R193). -/
def State.tempoManual (s : State) : State :=
  if s.flag F.SEQ_TEMPOCTL_ENABLE then s else s.commandLevel (s.tempoClamp (s.get F.SEQ_TEMPOCTL_MANUAL))

/-- VID[2:0]: the level in VID mode (R191). -/
def State.vid (s : State) : Nat := if s.flag F.SEQ_TEMPOCTL_MODE then 0 else s.seq.level

/-- A sample of the backlog at the end of PERIOD (R190). -/
def State.tempoSample (s : State) (backlog : Nat) : State :=
  let n := s.get F.SEQ_TEMPOCTL_SLOT
  if !s.flag F.SEQ_TEMPOCTL_ENABLE || s.seq.settleFrom.isSome || s.pwr.cis ≠ .awake || !bit s.upSlots n || decide (16 ≤ n)
      || !(s.seq.state = .on ∨ s.seq.state = .partial') then s
  else
    let u := if s.get F.SEQ_TEMPOUP_UP ≤ backlog then s.seq.upCnt + 1 else 0
    let d := if backlog ≤ s.get F.SEQ_TEMPODN_DN then s.seq.dnCnt + 1 else 0
    let s := (s.updSeq fun q => { q with upCnt := satTo 15 u, dnCnt := satTo 15 d })
    if s.get F.SEQ_TEMPOTIM_UPN ≤ u ∧ s.seq.level < s.get F.SEQ_TEMPOCEIL_CEIL then s.commandLevel (s.seq.level + 1)
    else if s.get F.SEQ_TEMPOTIM_DNN ≤ d ∧ s.get F.SEQ_TEMPOFLR_FLOOR < s.seq.level then s.commandLevel (s.seq.level - 1)
    else s

/-- SETTLE ends (R192). -/
def State.tempoSettled (s : State) : State := (s.updSeq fun q => { q with settleFrom := none, upCnt := 0, dnCnt := 0 })

/-! ### Kraluny stepping (R197 to R208) -/

/-- The leader drives its next strobe (R203). -/
def State.kStrobeStart (s : State) : State :=
  if s.kPart ∧ s.seq.klead ∧ s.seq.state = .up ∧ s.seq.kReady then
    (s.updSeq fun q => { q with kReady := false, kline := false })
  else s

/-- A strobe (R199 to R201): counted up to the 32nd, and starting its up-step in a stepped run. The device holds the line
when the step has slots to enable. -/
def State.kStrobe (s : State) : State :=
  if !s.kPart || s.pwr.cis == .asleep || s.pwr.cis == .releasing then s.wake 5
  else
    let k := s.get F.SEQ_KSTAT_STROBES
    if 32 ≤ k then s
    else
      let s := s.set F.SEQ_KSTAT_STROBES (k + 1)
      let s := (s.updSeq fun q => { q with kline := false })
      if s.seq.state = .kwait ∨ (s.seq.state = .up ∧ s.seq.klead) then
        let s := s.driveStep k
        s.put F.SEQ_KSTAT_HOLDING (s.seq.ramping != 0)
      else s

/-- STEPDLY after the step's slots are up or failed, the device releases the line (R201). -/
def State.kRelease (s : State) : State :=
  if s.seq.stepDone then { s.put F.SEQ_KSTAT_HOLDING false with seq := { s.seq with kline := !s.seq.kdrive } } else s

/-- The highest up-step of a slot in use. -/
def State.lastUsedStep (s : State) : Nat :=
  (List.range (Variant.slots s.variant)).foldl (fun a n => if s.inUse n then max a (s.get (F.SEQ_SLOT_CFG_UPSTEP.ix n)) else a) 0

/-- KSYNC high for 50 µs: the step is complete (R203, R206). -/
def State.kStepComplete (s : State) : State :=
  if !s.kPart || s.flag F.SEQ_KSTAT_HOLDING then s
  else
    let s := (s.updSeq fun q => { q with kline := true })
    if s.get F.SEQ_KSTAT_STROBES = 0 then s
    else if s.seq.state = .up ∧ s.seq.klead then
      if s.seq.step = s.get F.SEQ_KCFG_LAST then s.runEnd else (s.updSeq fun q => { q with kReady := true })
    else if s.seq.state = .kwait ∧ s.lastUsedStep ≤ s.seq.step then s.runEnd
    else s

/-- KSYNC high for 2 ms (R200). -/
def State.kCountReset (s : State) : State :=
  { s.set F.SEQ_KSTAT_STROBES 0 with seq := { s.seq with kline := true } }

/-- KSYNC low for 1 ms or longer (R200, R204). After a collapse nothing is driven and no run is started (log entry 13). -/
def State.kAbort (s : State) : State :=
  if !s.kPart then s
  else
    let s := (s.set F.SEQ_KSTAT_STROBES 0).put F.SEQ_KSTAT_HOLDING false
    let s := (s.bump F.SEQ_KSTAT_ABORTS 1).event 3 4
    let s := (s.updSeq fun q => { q with kdrive := false, kline := false })
    if s.seq.state = .collapsed then s
    else (s.seqRecord 5 0x1F 0 0 none).shutdown

/-- SEQ_STEPCTL.DOWN (R176, R178): a shutdown or restart under way goes on; after a collapse there is nothing left to release (log
entry 25). -/
def State.seqDown (s : State) : State :=
  match s.seq.state with
  | .down => s
  | .restart => s
  | .collapsed => s.event 3 1
  | _ => s.shutdown

/-- SEQ_STEPCTL.GO (R163). -/
def State.seqGoWrite (s : State) : State :=
  match s.seq.state with
  | .off => s.seqGo
  | .on => s.seqGo
  | .partial' => s.seqGo
  | _ => s.logBusy 0x30100 0 1

/-- SEQ_STEPCTL.ABORT (R205). -/
def State.seqAbort (s : State) : State :=
  if s.kPart then (s.updSeq fun q => { q with kdrive := true, kline := false }) else s.seqDown

end Sys2Proof.Machine
end

