-- ==== Sys2Proof/Machine/Bells.lean ====
section
/-! DEFINITION. The bell controller (R491 to R497) and messages to the host (R625, R746). -/
namespace Sys2Proof.Machine

/-- The present cores, as a mask. -/
def State.coreMask (s : State) : Nat := 2 ^ Variant.cores s.variant - 1

/-- Core c is present, not held in PWR_CORERST and not fenced: the eligibility of R63 and R493. -/
def State.coreFree (s : State) (c : Nat) : Bool :=
  decide (c < Variant.cores s.variant) && !bit (s.get F.PWR_CORERST_HOLD) c && !s.fenced c

/-- The lowest-numbered eligible core of a set. -/
def State.lowestFree (s : State) (m : Nat) : Option Nat := (List.range 4).find? fun c => bit m c && s.coreFree c

/-- The level and the cores of a source. -/
def State.belLevel (s : State) (src : Nat) : Nat := s.get (F.BEL_SRC_LEVEL.ix src)
def State.belCores (s : State) (src : Nat) : Nat := s.get (F.BEL_SRC_CORES.ix src)

/-- Insert into a sorted list without repeats. -/
def insertNat : List Nat → Nat → List Nat
  | [], a => [a]
  | x :: l, a => if a < x then a :: x :: l else if a = x then x :: l else x :: insertNat l a

/-- Source src becomes pending on a set of cores (R492). -/
def State.pendOn (s : State) (src m : Nat) : State :=
  let add (c : Nat) (l : List Nat) : List Nat :=
    if bit m c && decide (c < Variant.cores s.variant) then insertNat l src else l
  s.updBel fun b => { b with pend := (List.range 4).map fun c => add c (b.pend.getD c []) }

/-- A pending bit of a core is cleared. -/
def State.unpend (s : State) (src c : Nat) : State :=
  s.updBel fun b => { b with pend := setAt b.pend c ((b.pend.getD c []).filter (· != src)) }

/-- An edge source other than a cross-core bell fires (R493, R495); a fenced bell controller takes no request (R61). -/
def State.fireBell (s : State) (src : Nat) : State :=
  if s.belLevel src = 0 || s.fenced 8 then s
  else if !s.flag (F.BEL_SRC_DELIV.ix src) then s.pendOn src (s.belCores src)
  else match s.lowestFree (s.belCores src) with
    | some c => s.pendOn src (2 ^ c)
    | none => s.updBel fun b => { b with held := insertNat b.held src }

/-- Cross-core bell b fires to the cores of a BELL instruction (R493, R495). -/
def State.crossBell (s : State) (b m : Nat) : State := if s.belLevel b = 0 then s else s.pendOn b m

/-- Held firings are delivered as soon as a core for them exists (R493). -/
def State.deliverHeld (s : State) : State :=
  s.bel.held.foldl (fun s src =>
    match s.lowestFree (s.belCores src) with
    | some c => (s.pendOn src (2 ^ c)).updBel fun b => { b with held := b.held.filter (· != src) }
    | none => s) s

/-- A level source: the block events of a block (R491); a core's header has no events. -/
def levelBlock (src : Nat) : Option Nat := if 16 ≤ src ∧ src ≤ 38 ∧ src ≠ 23 then some (src - 16) else none

/-- Source src is requested on core c (R492, R493, R495); not by a fenced bell controller (log entry 32). -/
def State.requested (s : State) (src c : Nat) : Bool :=
  s.belLevel src != 0 && !s.fenced 8 &&
    match levelBlock src with
    | some b => s.blockRequests b &&
        (if s.flag (F.BEL_SRC_DELIV.ix src) then s.lowestFree (s.belCores src) == some c else bit (s.belCores src) c)
    | none => (s.bel.pend.getD c []).contains src

/-- The hall that owns a source (R498). -/
def State.belHall (s : State) (src : Nat) : Hall := hallOf (s.flag (F.BEL_SRC_HALL.ix src))

/-- The sources that may be requested on core c: the pending ones and the level ones. -/
def State.candidates (s : State) (c : Nat) : List Nat :=
  ((List.range 23).map (· + 16)).filter (fun src => src != 23) ++ s.bel.pend.getD c []

/-- Source src may be taken on core c in a hall at an ILEVEL (R496). -/
def State.takeable (s : State) (c : Nat) (h : Hall) (il src : Nat) : Bool :=
  s.requested src c &&
    match h, s.belHall src with
    | .P, .P => decide (il < s.belLevel src)
    | .P, .L => true
    | .L, .L => decide (il < s.belLevel src)
    | .L, .P => false

/-! ### Messages to the host -/

/-- The device may issue requests: link up, D0, Bus Master Enable (R747, R751). -/
def State.canSend (s : State) : Bool := s.link.up && s.link.bme && s.link.dState == 0 && !s.link.perst && s.link.lp != 4

/-- The MSI-X table entry v: address, data, masked (R746). -/
def State.msixAddr (s : State) (v : Nat) : Nat :=
  s.get ((F.HLK_MSIX_WORD.ix v).ix 0) + s.get ((F.HLK_MSIX_WORD.ix v).ix 1) * 2 ^ 32
def State.msixMasked (s : State) (v : Nat) : Bool := s.link.msixMask || bit (s.get ((F.HLK_MSIX_WORD.ix v).ix 3)) 0

/-- The pending bit of MSI-X entry v (R746). -/
def State.setPba (s : State) (v : Nat) (b : Bool) : State :=
  let f := F.HLK_PBA_PENDING.ix (v / 32)
  s.set f (withBit (s.get f) (v % 32) b)

/-- Send the message of MSI-X entry v, a posted write of its data; masked entries become pending (R625). A message that
cannot be sent is held (log entry 14). -/
def State.sendMsix (s : State) (v : Nat) : State :=
  if s.msixMasked v then s.setPba v true
  else if s.canSend then s.putHost (s.msixAddr v) (leBytes 4 (s.get ((F.HLK_MSIX_WORD.ix v).ix 2)))
  else s.updLink fun l => { l with msixWait := insertNat l.msixWait v }

/-- Send MSI vector v (R625). -/
def State.sendMsi (s : State) (v : Nat) : State :=
  if bit s.link.msiMask v || !s.canSend then s.updLink fun l => { l with msiPend := setBit l.msiPend v }
  else s.putHost s.link.msiAddr (leBytes 4 (s.link.msiData - s.link.msiData % 2 ^ s.link.msiLog + v))

/-- Send what a mask or a pause held back, as far as the settings now let it go. -/
def State.releaseMsgs (s : State) : State :=
  if !s.canSend then s
  else
    let w := s.link.msixWait
    let s := s.updLink fun l => { l with msixWait := [] }
    let s := w.foldl (fun s v => s.sendMsix v) s
    let s := if s.link.msix then
        (List.range 64).foldl (fun s i =>
          let m := s.get (F.HLK_PBA_PENDING.ix i)
          if m = 0 then s
          else (List.range 32).foldl (fun s j =>
            if bit m j && !s.msixMasked (i * 32 + j) then (s.setPba (i * 32 + j) false).sendMsix (i * 32 + j) else s) s) s
      else s
    if s.link.msi then
      (List.range 32).foldl (fun s v =>
        if bit s.link.msiPend v && !bit s.link.msiMask v then
          (s.updLink fun l => { l with msiPend := clrBit l.msiPend v }).sendMsi v else s) s
    else s

end Sys2Proof.Machine
end

