-- ==== Sys2Proof/Machine/Wells.lean ====
section
/-! DEFINITION. Wells: contexts and their cache (R548 to R558, R598 to R601), enabling and disabling (R559 to R563),
descriptor fetch and its checks (R565 to R577, R590, R862), doorbells and kicks (R579 to R586), and the accesses engines make
(R542, R543). -/
namespace Sys2Proof.Machine

/-! ### Accesses by engines -/

/-- The engines with a key cache of their own (R537). -/
inductive Eng
  | pump | journal | copy
deriving DecidableEq, Repr

def State.engKeys (s : State) : Eng → List (Nat × List Byte)
  | .pump => s.pump.keys
  | .journal => s.eng.jnlKeys
  | .copy => s.eng.cpyKeys

def State.setEngKeys (s : State) (e : Eng) (l : List (Nat × List Byte)) : State :=
  match e with
  | .pump => s.updPump fun p => { p with keys := l }
  | .journal => s.updEng fun q => { q with jnlKeys := l }
  | .copy => s.updEng fun q => { q with cpyKeys := l }

/-- Check the frames of an access, `k` of them from frame `f` on; an engine has no stair (R542), and the key store itself is
refused (R539). Answers the status of a refusal. -/
def State.engFrames (s : State) (e : Eng) (fkey : Nat) (h : Hall) (kind : Kind) : Nat → Nat → State × Option Nat
  | 0, _ => (s, none)
  | k + 1, f =>
    if s.keyPoison (s.engKeys e) (f * 4096) then (s.logError 7 7 9 false (some (f * 4096)), some 0x30)
    else
    let (key, l) := s.keyByte (s.engKeys e) 64 (f * 4096)
    let s := s.setEngKeys e l
    if s.inKeyStore (f * 4096) || (keyCheck key h false fkey kind).isSome then (s.event 9 1, some 0x13)
    else s.engFrames e fkey h kind k (f + 1)

/-- The key check of an engine access (R542, R543): DRAM only, while keys are enabled. -/
def State.engAllowed (s : State) (e : Eng) (fkey : Nat) (h : Hall) (pa n : Nat) (kind : Kind) : State × Option Nat :=
  if regionOf pa ≠ .dram ∨ ¬ s.flag F.KEY_CTL_ENABLE then (s, none)
  else s.engFrames e fkey h kind ((pa + n - 1) / 4096 + 1 - pa / 4096) (pa / 4096)

/-- The outcome of an engine's read or write: done, or a completion status: 0x13 KEY_VIOLATION, 0x30 POISON,
0x31 HOST_ABORT (R595). -/
inductive EngRes
  | ok (l : List Byte)
  | fail (status : Nat)
deriving DecidableEq, Repr

/-- The status of a poisoned access: through the link the failure is the host's (R743, R745), elsewhere a poison token,
recorded in bank 7 (R62, R796). -/
def State.engPoison (s : State) (pa seg : Nat) : State × EngRes :=
  if regionOf pa = .link ∧ ¬ s.fenced 10 then (s, .fail 0x31)
  else (s.logError 7 (if regionOf pa = .flash then 9 else 7) seg false (some pa), .fail 0x30)

/-- An engine's read of DRAM or the link outbound window. -/
def State.engRead (s : State) (e : Eng) (fkey : Nat) (h : Hall) (pa n : Nat) : State × EngRes :=
  match s.engAllowed e fkey h pa n .read with
  | (s, some st) => (s, .fail st)
  | (s, none) =>
    match s.poison pa n with
    | some seg => s.engPoison pa seg
    | none => (s.eccFix pa n, .ok (s.physBytes pa n))

/-- An engine's write. -/
def State.engWrite (s : State) (e : Eng) (fkey : Nat) (h : Hall) (pa : Nat) (l : List Byte) : State × EngRes :=
  match s.engAllowed e fkey h pa l.length .write with
  | (s, some st) => (s, .fail st)
  | (s, none) =>
    match s.poison pa l.length with
    | some seg => s.engPoison pa seg
    | none => (s.physWrite pa l, .ok [])

/-- A range lies wholly in installed DRAM; in the link outbound window. -/
def State.inDram (s : State) (pa n : Nat) : Bool := decide (pa + n ≤ s.installed)
def inLink (pa n : Nat) : Bool := decide (0x8000000000 ≤ pa) && decide (pa + n ≤ 0xC000000000)

/-! ### Contexts -/

/-- Bits [hi:lo] of long k of a context (R558). -/
def WellCtx.f (c : WellCtx) (k hi lo : Nat) : Nat := bitsOf (c.longs.getD k 0) hi lo

/-- Set bits [hi:lo] of long k; the image is then stale. -/
def WellCtx.put (c : WellCtx) (k hi lo v : Nat) : WellCtx :=
  ⟨setAt c.longs k (putBits (c.longs.getD k 0) hi lo v), true⟩

def WellCtx.cause (c : WellCtx) : Nat := c.f 0 27 24
def WellCtx.lch (c : WellCtx) : Nat := c.f 0 23 20
def WellCtx.coreset (c : WellCtx) : Nat := c.f 0 19 16
def WellCtx.fkey (c : WellCtx) : Nat := c.f 0 15 12
def WellCtx.cplmode (c : WellCtx) : Nat := c.f 0 11 11
def WellCtx.ckind (c : WellCtx) : Nat := c.f 0 10 8
def WellCtx.gen (c : WellCtx) : Nat := c.f 0 6 5
def WellCtx.hall (c : WellCtx) : Hall := hallOf (c.f 0 4 4 == 1)
def WellCtx.requeue (c : WellCtx) : Bool := c.f 0 3 3 == 1
def WellCtx.poll (c : WellCtx) : Bool := c.f 0 2 2 == 1 && c.gen == 3
def WellCtx.cq (c : WellCtx) : Nat := c.f 1 31 16
def WellCtx.cistern (c : WellCtx) : Nat := c.f 1 5 0
def WellCtx.size (c : WellCtx) : Nat := c.f 2 30 26
def WellCtx.base (c : WellCtx) : Nat := c.f 3 31 0 * 2 ^ 32 + c.f 2 25 0 * 64
def WellCtx.ci (c : WellCtx) : Nat := c.f 4 31 16
def WellCtx.pi (c : WellCtx) : Nat := c.f 4 15 0
def WellCtx.ephase (c : WellCtx) : Nat := c.f 5 0 0
def WellCtx.lease (c : WellCtx) : Nat := c.f 6 31 0

/-- Descriptors posted and not yet fetched: (PI - CI) modulo 2^16. -/
def WellCtx.posted (c : WellCtx) : Nat := (c.pi + 65536 - c.ci) % 65536
/-- Ring entries. -/
def WellCtx.entries (c : WellCtx) : Nat := 2 ^ c.size
/-- Bytes of a descriptor: 32 for Gen 1, 64 for Gen 2 and Gen 3 (R558). -/
def genBytes (g : Nat) : Nat := if g = 1 then 32 else 64
/-- The address of the descriptor at index x (R565, R568). -/
def WellCtx.slotAddr (c : WellCtx) (x : Nat) : Nat := c.base + genBytes c.gen * (x % c.entries)
/-- The phase expected at index x, from EPHASE at CI (R567). -/
def WellCtx.phaseAt (c : WellCtx) (x : Nat) : Nat :=
  (c.ephase + (c.ci % c.entries + (x + 65536 - c.ci) % 65536) / c.entries) % 2
/-- The ring lies in the link outbound window: the well is host-resident. -/
def WellCtx.hostResident (c : WellCtx) : Bool := regionOf c.base == .link

/-- Completion ring n is present in the variant (R1, R12). -/
def State.cqPresent (s : State) (n : Nat) : Bool := decide (n < Variant.rings s.variant)

/-- Every field of a context is legal and every reserved bit is zero (R553, R558, R631). -/
def State.ctxLegal (s : State) (c : WellCtx) : Bool :=
  (decide (c.lch < Variant.latches s.variant) || c.lch == 15)
  && c.coreset != 0 && andNot c.coreset (s.coreMask) == 0
  && decide (c.ckind ≤ 4) && decide (1 ≤ c.gen) && c.f 0 31 28 == 0
  && (decide (c.cq < 2048) || c.cq == 0xFFFF) && c.f 1 15 6 == 0
  && decide (4 ≤ c.size) && decide (c.size ≤ 16) && decide (c.f 3 31 0 ≤ 0xFF)
  && c.f 5 31 1 == 0 && decide (100 ≤ c.lease) && decide (c.lease ≤ 10000000)
  && c.f 7 31 16 == 0 && (c.longs.drop 10).all (· == 0)

/-- Bits of a context that the Pump keeps on chip, cleared in what is taken from the image (R550). -/
def onChipBits (k v : Nat) : Nat := if k = 0 then andNot v 0x83 else if k = 7 then v - v % 65536 else v

/-- The address of well w's context (R548). -/
def State.ctxAddr (s : State) (w : Nat) : Nat := s.get F.PMP_WTBASE_BASE * 4096 + 64 * w

/-- A context as its image in DRAM gives it. -/
def State.ctxImage (s : State) (w : Nat) : WellCtx :=
  ⟨(List.range 16).map fun k => onChipBits k (ofLe (s.bytes (s.ctxAddr w + 4 * k) 4)), false⟩

/-- The context of a well: the cached one when there is one (R601). -/
def State.ctx (s : State) (w : Nat) : WellCtx :=
  match s.pump.cache.find? (·.1 == w) with
  | some (_, c) => c
  | none => s.ctxImage w

/-- What the Pump keeps on chip for well w. -/
def WellOn.none : WellOn := ⟨false, false, false, Option.none⟩
def State.wellOn (s : State) (w : Nat) : WellOn := (lookupKey s.pump.wells w).getD WellOn.none
def State.setWell (s : State) (w : Nat) (o : WellOn) : State :=
  s.updPump fun p => { p with wells := if o = WellOn.none then eraseKey p.wells w else insertKey p.wells w o }

/-- QUEUED: descriptors fetched and not yet dispatched. INFL: jobs dispatched and not yet completed. -/
def State.queued (s : State) (w : Nat) : Nat := ((s.pump.fetched.filter (·.well == w)).map (·.ndesc)).sum
def State.infl (s : State) (w : Nat) : Nat := (s.pump.flight.filter (·.job.well == w)).length

/-- Host-resident wells are paused while the device may issue no request (R120, R747, R751). -/
def State.pausedCtx (s : State) (c : WellCtx) : Bool := c.hostResident && !s.canSend

/-- Long k of a context with the on-chip fields as they stand (R550). -/
def State.ctxLong (s : State) (w k : Nat) : Nat :=
  let c := s.ctx w
  let o := s.wellOn w
  let v := c.longs.getD k 0
  if k = 0 then v + ofBool o.enable + 2 * ofBool (o.enable && s.pausedCtx c) + 128 * ofBool o.draining
  else if k = 7 then v + satTo 255 (s.queued w) * 256 + satTo 255 (s.infl w)
  else v

/-- Write a context back to its image in DRAM (R550, R599). -/
def State.ctxStore (s : State) (w : Nat) : State :=
  s.putBytes (s.ctxAddr w) ((List.range 16).flatMap fun k => leBytes 4 (s.ctxLong w k))

/-- Pinned contexts are never evicted (R598). -/
def State.pinned (s : State) (w : Nat) : Bool :=
  decide (0 < s.queued w) || decide (0 < s.infl w) || s.pump.hot.contains w || s.pump.requeued.any (·.well == w)

/-- The cached contexts that are pinned (PMP_CCSTAT.PINNED). -/
def State.pinnedCount (s : State) : Nat := (s.pump.cache.filter (fun e => s.pinned e.1)).length

/-- Put a context at the most recently used place. -/
def State.cachePut (s : State) (w : Nat) (c : WellCtx) : State :=
  s.updPump fun p => { p with cache := (w, c) :: p.cache.filter (·.1 != w) }

/-- Change the cached context of a well. -/
def State.updCtx (s : State) (w : Nat) (f : WellCtx → WellCtx) : State := s.cachePut w (f (s.ctx w))

/-- When the cache is full, its least recently used unpinned context leaves, written back if its image is stale (R599). -/
def State.evict (s : State) : State :=
  if s.pump.cache.length < 512 then s
  else match s.pump.cache.reverse.find? (fun e => !s.pinned e.1) with
    | none => s
    | some (v, c) =>
      let s := if c.dirty then s.ctxStore v else s
      s.updPump fun p => { p with cache := p.cache.filter (·.1 != v) }

/-! ### Epoch settings a well adopts (R98, R105, R632) -/

/-- The new value an epoch gives well w for a KIND, the last entry deciding (R101). -/
def State.epValue (s : State) (w kind : Nat) : Option Nat :=
  (s.pump.epList.reverse.find? (fun e => e.1 == w && e.2.1 == kind)).map (·.2.2)

/-- Well w crosses into the epoch (R105, R108): it adopts its settings, PENDING falls, and the last one ends the epoch. -/
def State.cross (s : State) (w : Nat) : State :=
  if !s.pump.epPend.contains w then s
  else
    let set (s : State) (kind k hi lo : Nat) : State :=
      match s.epValue w kind with
      | some v => s.updCtx w fun c => c.put k hi lo v
      | none => s
    let s := set (set (set (set s 0 1 5 0) 1 1 31 16) 2 0 19 16) 3 6 31 0
    let left := s.pump.epPend.filter (· != w)
    let s := s.updPump fun p => { p with epPend := left }
    let s := s.set F.PMP_EPPEND_PENDING left.length
    let s := s.updPump fun p => { p with oldCis := p.oldCis.filter fun o => left.any fun x => (s.ctx x).cistern == o.cis }
    if left.isEmpty then ((s.set F.PMP_EPOCH_DONE (s.get F.PMP_EPOCH_CUR)).put F.PMP_EPOCH_BUSY false).event 10 0 else s

/-! ### Enabling and disabling -/

/-- Jobs of well w fetched and not dispatched. -/
def State.fetchedOf (s : State) (w : Nat) : List Job := s.pump.fetched.filter (·.well == w)

/-- Disable an enabled well (R561): its fetched jobs are discarded and CI and EPHASE set back; jobs in flight go on. A well
disabled while an epoch affects it counts as crossed (R107). -/
def State.wellOff (s : State) (w cause : Nat) : State :=
  if !(s.wellOn w).enable then s
  else
    let s := match s.fetchedOf w with
      | j :: _ => s.updCtx w fun c => (c.put 4 31 16 j.idx).put 5 0 0 j.phase
      | [] => s
    let s := s.updPump fun p => { p with fetched := p.fetched.filter (·.well != w), hot := p.hot.filter (· != w),
                                         coldWait := p.coldWait.filter (· != w) }
    let s := s.setWell w ⟨false, decide (0 < s.infl w), false, none⟩
    let s := s.updCtx w fun c => c.put 0 27 24 cause
    s.cross w

/-- Read a context into the cache (R599): a miss is counted, room made, and an enabled well whose context is out of range is
disabled with CORRUPT (R553). -/
def State.loadCtx (s : State) (w : Nat) : State :=
  match s.pump.cache.find? (·.1 == w) with
  | some (_, c) => s.cachePut w c
  | none =>
    let s := (s.bump F.PMP_CCMISS_COUNT 1).evict
    let c := s.ctxImage w
    let s := s.cachePut w c
    if (s.wellOn w).enable && !s.ctxLegal c then (s.wellOff w 4).event 10 4 else s

/-- A completion ring is required (R559). -/
def WellCtx.needsRing (c : WellCtx) : Bool := c.gen != 2 || c.cplmode == 1

/-- The first failing check of R559, as CAUSE. -/
def State.enableCause (s : State) (c : WellCtx) : Option Nat :=
  let n := genBytes c.gen * c.entries
  if !s.ctxLegal c then some 4
  else if c.ckind = 0 || (c.ckind = 2 && !Variant.hasJnl s.variant) || (c.ckind = 4 && c.lch == 15)
    || (c.ckind = 1 && (c.coreset &&& s.coreMask) == 0) || (c.needsRing && !s.cqPresent c.cq) then some 1
  else if !s.inDram c.base n && !inLink c.base n then some 2
  else if c.entries - 1 < c.posted then some 3
  else none

/-- A write of ENABLE = 1 to a well neither enabled nor draining, its other fields already applied (R559). -/
def State.wellEnable (s : State) (w : Nat) : State :=
  match s.enableCause (s.ctx w) with
  | some cause => s.updCtx w fun c => c.put 0 27 24 cause
  | none => (s.updCtx w fun c => c.put 0 27 24 0).setWell w ⟨true, false, false, none⟩

/-- DRAINING falls when INFL reaches 0 (R561). -/
def State.drainCheck (s : State) (w : Nat) : State :=
  let o := s.wellOn w
  if o.draining && s.infl w == 0 then s.setWell w { o with draining := false } else s

/-! ### The well table (R548, R549, R861) -/

/-- The bytes of the whole table. -/
def State.tableBytes (s : State) : Nat := 64 * Variant.wells s.variant

/-- ON = 1 (R549, R550). -/
def State.tableOn (s : State) : State :=
  if s.inDram (s.get F.PMP_WTBASE_BASE * 4096) s.tableBytes then
    (s.put F.PMP_WTCTL_ON true).updPump fun p => { p with wells := [], cache := [] }
  else s.event 10 5

/-- Every stale image is written back (R602, R861). -/
def State.ctxWriteAll (s : State) : State :=
  s.pump.cache.foldl (fun s e => if e.2.dirty then s.ctxStore e.1 else s) s

/-- ON = 0 (R861): refused with BUSY while a well is enabled or draining or a requeued job waits. -/
def State.tableOff (s : State) : State :=
  if s.pump.wells.any (fun e => e.2.enable || e.2.draining) || !s.pump.requeued.isEmpty then s.logBusy 0x180204 0 0
  else (s.ctxWriteAll.put F.PMP_WTCTL_ON false).updPump fun p => { p with cache := [] }

/-- The table is on and well w is present. -/
def State.wellThere (s : State) (w : Nat) : Bool := s.flag F.PMP_WTCTL_ON && decide (w < Variant.wells s.variant)

/-! ### Descriptor checks (R569 to R577) -/

/-- The long at an offset of descriptor bytes. -/
def longAt (l : List Byte) (o : Nat) : Nat := ofLe ((l.drop o).take 4)
/-- Eight bytes at an offset. -/
def quadAt (l : List Byte) (o : Nat) : Nat := ofLe ((l.drop o).take 8)

/-- The first failing check of one Gen 3 descriptor (R576, R577). -/
def gen3Status (d : List Byte) : Option Nat :=
  let w := longAt d 0
  let sgl := bit w 9
  let imm := bit w 10
  let nseg := bitsOf w 23 16
  let addr := quadAt d 0x10
  let len := longAt d 0x18
  if bitsOf w 15 11 ≠ 0 || bitsOf w 31 24 ≠ 0 || (imm && sgl) || (!sgl && nseg ≠ 0) || ofLe ((d.drop 0xE).take 2) ≠ 0
    || (imm && addr ≠ 0) || (sgl && (nseg == 1 || nseg == 2) && addr ≠ 0) then some 0x15
  else if (imm && decide (32 < len)) || (sgl && nseg == 0) then some 0x11
  else if sgl && decide (3 ≤ nseg) && addr % 16 ≠ 0 then some 0x12
  else none

/-- The zero fields of one Gen 2 descriptor (R572). -/
def gen2Zero (d : List Byte) : Bool :=
  bitsOf (longAt d 0) 15 10 == 0 && bitsOf (longAt d 0) 31 24 == 0 && longAt d 0x1C == 0

/-- The 64-byte pieces of a job's bytes. -/
def descPieces : Nat → List Byte → List (List Byte)
  | 0, _ => []
  | n + 1, l => l.take 64 :: descPieces n (l.drop 64)

/-- The status of the first failing check of a job (R569): generation, descriptors, bytes. -/
def jobStatus (gen n : Nat) (l : List Byte) : Option Nat :=
  if gen = 1 then (if ofLe ((l.drop 2).take 2) = 0 then none else some 0x15)
  else if gen = 2 then
    if !(descPieces n l).all gen2Zero then some 0x15
    else if bit (longAt (l.drop (64 * (n - 1))) 0) 9 then some 0x11
    else none
  else gen3Status l

/-- TAG and LTAG of a job, by generation (R571, R572, R576). -/
def Job.tag (j : Job) : Nat := if j.gen = 3 then longAt j.bytes 0x1C else longAt j.bytes 4
def Job.ltag (j : Job) : Nat := if j.gen = 3 then ofLe ((j.bytes.drop 8).take 6) else 0
/-- OP and PARAM. -/
def Job.op (j : Job) : Nat := longAt j.bytes 0 % 256
def Job.param (j : Job) : Nat := if j.gen = 1 then longAt j.bytes 0x1C else if j.gen = 2 then longAt j.bytes 0x14 else longAt j.bytes 4
/-- ADDR and LEN. -/
def Job.addr (j : Job) : Nat := if j.gen = 3 then quadAt j.bytes 0x10 else quadAt j.bytes 8
def Job.len (j : Job) : Nat := if j.gen = 2 then longAt j.bytes 0x10 else longAt j.bytes 0x18

/-! ### Fetch (R566 to R577, R590, R862) -/

/-- What reading a well's next job found. -/
inductive Fetched
  | job (j : Job)
  | stale
  | unposted
  | failed (cause : Nat)
deriving DecidableEq, Repr

/-- The disabling cause a failed read gives: KEY or READFAIL (R563, R862). -/
def readCause (status : Nat) : Nat := if status = 0x13 then 6 else 7

/-- Read the descriptors of a Gen 2 chain from index x on, `posted` of them available (R573, R574). -/
def State.readChain (s : State) (c : WellCtx) : Nat → Nat → Nat → State × (Option (List Byte × Nat) × Fetched)
  | 0, _, _ => (s, some ([], 0), .unposted)
  | k + 1, x, posted =>
    if posted = 0 then (s, none, .unposted)
    else match s.engRead .pump c.fkey c.hall (c.slotAddr x) 64 with
      | (s, .fail st) => (s, none, .failed (readCause st))
      | (s, .ok d) =>
        if !bit (longAt d 0) 8 then (s, none, .stale)
        else if bit (longAt d 0) 9 && k ≠ 0 then
          match s.readChain c k ((x + 1) % 65536) (posted - 1) with
          | (s, some (l, n), r) => (s, some (d ++ l, n + 1), r)
          | (s, none, r) => (s, none, r)
        else (s, some (d, 1), .unposted)

/-- The job that bytes at CI make, with the settings now in force (R106). -/
def WellCtx.mkJob (c : WellCtx) (w n : Nat) (l : List Byte) : Job :=
  ⟨w, c.ci, n, c.gen, c.ephase, c.hall, c.fkey, c.ckind, c.lch, c.coreset, c.cq, !c.needsRing, c.lease, l, l,
   jobStatus c.gen n l, 0⟩

/-- Read the job at CI. -/
def State.readJob (s : State) (w : Nat) : State × Fetched :=
  let c := s.ctx w
  if c.gen = 2 then
    match s.readChain c 8 c.ci c.posted with
    | (s, some (l, n), _) => (s, .job (c.mkJob w n l))
    | (s, none, r) => (s, r)
  else
    match s.engRead .pump c.fkey c.hall (c.slotAddr c.ci) (genBytes c.gen) with
    | (s, .fail st) => (s, .failed (readCause st))
    | (s, .ok l) =>
      if c.gen = 3 && ofBool (bit (longAt l 0) 8) ≠ c.ephase then (s, .stale) else (s, .job (c.mkJob w 1 l))

/-- CPLMODE 1 clears OWN of every descriptor when it is fetched (R575). -/
def State.clearOwn (s : State) (c : WellCtx) (x : Nat) (l : List Byte) : Nat → State
  | 0 => s
  | n + 1 =>
    let (s, _) := s.engWrite .pump c.fkey c.hall (c.slotAddr x) (leBytes 4 (clrBit (longAt l 0) 8))
    s.clearOwn c ((x + 1) % 65536) (l.drop 64) n

/-- A fetch from a Gen 3 well with POLL makes it hot, at most 64 wells at once (R592, R594). -/
def State.makeHot (s : State) (w : Nat) : State :=
  if !(s.ctx w).poll || s.pump.hot.contains w then s
  else if s.pump.hot.length < 64 then s.updPump fun p => { p with hot := p.hot ++ [w], coldWait := p.coldWait.filter (· != w) }
  else (s.updPump fun p => { p with coldWait := p.coldWait.filter (· != w) ++ [w] }).event 10 6

/-- CI passes a fetched job; EPHASE inverts at the wrap (R566, R567). -/
def State.takeJob (s : State) (j : Job) : State :=
  let c := s.ctx j.well
  let s := if j.gen = 2 ∧ ¬ j.inPlace then s.clearOwn c c.ci j.bytes j.ndesc else s
  let s := s.updCtx j.well fun c => ((c.put 4 31 16 ((c.ci + j.ndesc) % 65536)).put 5 0 0 (c.phaseAt ((c.ci + j.ndesc) % 65536))).put
    9 31 0 (c.f 9 31 0 + j.ndesc)
  let s := s.updPump fun p => { p with fetched := p.fetched ++ [j] }
  s.makeHot j.well

/-- A stale entry is found (R590): counted, and watched for re-reads. -/
def State.foundStale (s : State) (w : Nat) : State :=
  let o := s.wellOn w
  let s := s.bump F.PMP_STALECNT_COUNT 1
  match o.stale with
  | none => s.setWell w { o with stale := some 0 }
  | some n =>
    if n + 1 < s.get F.PMP_STALECFG_STALEMAX then s.setWell w { o with stale := some (n + 1) }
    else
      let s := s.setWell w { o with stale := none, stopped := true }
      (((s.put F.PMP_STALEREC_VALID true).set F.PMP_STALEREC_WELL w).set F.PMP_STALEREC_INDEX (s.ctx w).ci).event 10 3

/-- A well that may fetch: enabled, not paused, work posted, not stopped; one that an epoch affects fetches only once no job
of it is in flight (R105). -/
def State.mayFetch (s : State) (w : Nat) : Bool :=
  let o := s.wellOn w
  let c := s.ctx w
  s.wellThere w && o.enable && !s.pausedCtx c && decide (0 < c.posted) && !o.stopped && !s.fenced 5
    && !(s.pump.epPend.contains w && decide (0 < s.infl w))

/-- Fetch the next job of a well (R568): crossing first, then the read and what it found. -/
def State.fetch (s : State) (w : Nat) : State :=
  if !s.mayFetch w then s
  else
    let s := (s.loadCtx w).cross w
    if !s.mayFetch w then s
    else match s.readJob w with
      | (s, .job j) => (s.setWell w { s.wellOn w with stale := none }).takeJob j
      | (s, .stale) => s.foundStale w
      | (s, .unposted) => s.setWell w { s.wellOn w with stopped := true, stale := none }
      | (s, .failed cause) => (s.wellOff w cause).event 10 4

/-! ### Doorbells (R579 to R586) -/

/-- Source codes of PMP_DBREC (R597). -/
def srcDb : Src → Nat
  | .host => 0
  | .core _ .L => 1
  | .core _ .P => 2

/-- PMP_DBREC. -/
def State.dbRec (s : State) (src : Src) (reason w : Nat) : State :=
  (((s.put F.PMP_DBREC_VALID true).set F.PMP_DBREC_SRC (srcDb src)).set F.PMP_DBREC_REASON reason).set F.PMP_DBREC_WELL w

/-- A refused doorbell (R585). -/
def State.dbRefuse (s : State) (src : Src) (reason w : Nat) : State :=
  ((s.bump F.PMP_DBBAD_COUNT 1).event 10 2).dbRec src reason w

/-- Why a doorbell or kick is dropped (R583): 0 NOWELL, 2 HALL, 1 DISABLED. With the table off the owning hall is not known and
step 2 passes (log entry 15). -/
def State.dropReason (s : State) (src : Src) (w : Nat) : Option Nat :=
  if Variant.wells s.variant ≤ w then some 0
  else if s.flag F.PMP_WTCTL_ON ∧ (s.ctx w).hall = .L ∧ srcDb src ≠ 1 then some 2
  else if !s.flag F.PMP_WTCTL_ON || !(s.wellOn w).enable then some 1
  else none

/-- Fetching stopped on a stale entry resumes (R590). -/
def State.resume (s : State) (w : Nat) : State :=
  let o := s.wellOn w
  s.setWell w { o with stopped := false }

/-- The entry at index x of a Gen 3 well carries its expected phase. -/
def State.phaseMatches (s : State) (c : WellCtx) (x : Nat) : State × Bool :=
  match s.engRead .pump c.fkey c.hall (c.slotAddr x) 4 with
  | (s, .ok l) => (s, ofBool (bit (ofLe l) 8) == c.phaseAt x)
  | (s, .fail _) => (s, false)

/-- The scan of a kick (R586): `k` more entries at most from index x; answers one past the last match. -/
def State.kickScan (s : State) (c : WellCtx) : Nat → Nat → State × Nat
  | 0, x => (s, x)
  | k + 1, x =>
    match s.phaseMatches c x with
    | (s, true) => s.kickScan c k ((x + 1) % 65536)
    | (s, false) => (s, x)

/-- A kick of well w (R586): dropped kicks are only counted (R583). -/
def State.kick (s : State) (src : Src) (w : Nat) : State :=
  if 16384 ≤ w then s
  else match s.dropReason src w with
    | some _ => s.bump F.PMP_DBDROP_COUNT 1
    | none =>
      let s := s.loadCtx w
      let c := s.ctx w
      if c.gen ≠ 3 then s
      else
        let (s, x) := s.kickScan c (c.entries - 1 - c.posted) c.pi
        (s.updCtx w fun c => c.put 4 15 0 x).resume w

/-- A doorbell carrying a producer index q for a well that R583 lets pass (R584): accepted, or refused with INDEX. -/
def State.ring (s : State) (src : Src) (w q : Nat) : State × Bool :=
  let c := s.ctx w
  let d := (q + 65536 - c.ci) % 65536
  if c.posted ≤ d ∧ d ≤ c.entries - 1 then
    ((s.updCtx w fun c => (c.put 4 15 0 q).put 8 31 0 (c.f 8 31 0 + 1)).resume w, true)
  else (s.dbRefuse src 3 w, false)

/-- A dropped doorbell (R583). -/
def State.dbDrop (s : State) (src : Src) (reason w : Nat) : State :=
  ((s.bump F.PMP_DBDROP_COUNT 1).event 10 1).dbRec src reason w

/-- The part of a doorbell that carries a producer index: false when it is refused (R583 to R585). -/
def State.dbPi (s : State) (src : Src) (w v : Nat) : State × Bool :=
  match s.dropReason src w with
  | some r => (s.dbDrop src r w, true)
  | none =>
    let s := s.loadCtx w
    if (s.wellOn w).enable then s.ring src w (v % 65536) else (s.dbDrop src 1 w, true)

/-- The kicks a 64-bit doorbell of well w carries (R580). -/
def State.dbKicks (s : State) (src : Src) (w v : Nat) : State :=
  (List.range 16).foldl (fun s i => if bit v (48 + i) then s.kick src (w + 1 + i) else s) s

/-- A doorbell of well w in the 32-bit or 64-bit form (R580 to R586). A refused doorbell changes nothing else, so its kicks
are not made (R585). -/
def State.doorbell (s : State) (src : Src) (w : Nat) (quad : Bool) (v : Nat) : State :=
  if !quad then (s.dbPi src w v).1
  else if bitsOf v 47 17 ≠ 0 then s.dbRefuse src 4 w
  else if bit v 16 then (s.kick src w).dbKicks src w v
  else match s.dbPi src w v with
    | (s, true) => s.dbKicks src w v
    | (s, false) => s

/-- What a host read of the dword at BAR2 offset 8w returns (R582). -/
def State.bar2Read (s : State) (off : Nat) : Nat :=
  let w := off / 8
  if off % 8 ≠ 0 ∨ !s.wellThere w then 0
  else
    let c := s.ctx w
    let o := s.wellOn w
    c.ci + ofBool o.enable * 2 ^ 16 + ofBool (o.enable && s.pausedCtx c) * 2 ^ 17 + ofBool o.draining * 2 ^ 18

/-- Poll scan (R593): the entry at PI of each hot well is read and the well kicked on a match. -/
def State.pollScan (s : State) : State :=
  s.pump.hot.foldl (fun s w =>
    if (s.wellOn w).enable && !s.pausedCtx (s.ctx w) && decide ((s.ctx w).posted < (s.ctx w).entries - 1) then
      let c := s.ctx w
      match s.phaseMatches c c.pi with
      | (s, true) => s.kick (.core 0 .L) w
      | (s, false) => s
    else s) s

/-- A hot well cools (R592), and the longest-waiting cold well becomes hot; a cold well waits no longer once HOLD has passed without a fetch
(R594). -/
def State.pollCool (s : State) (w : Nat) : State :=
  if !s.pump.hot.contains w then s.updPump fun p => { p with coldWait := p.coldWait.filter (· != w) }
  else s.updPump fun p =>
    match p.coldWait with
    | x :: l => { p with hot := p.hot.filter (· != w) ++ [x], coldWait := l }
    | [] => { p with hot := p.hot.filter (· != w) }

/-- A hot well that is paused or not enabled cools (R592). -/
def State.hotCheck (s : State) : State :=
  (s.pump.hot.filter fun w => !(s.wellOn w).enable || s.pausedCtx (s.ctx w)).foldl (fun s w => s.pollCool w) s

end Sys2Proof.Machine
end

