-- ==== Sys2Proof/Machine/Pump.lean ====
section
/-! DEFINITION. The Pump: eligibility and deficit round-robin (R603 to R609), dispatch (R610 to R614), completion rings (R615 to
R626), job tokens as cores see them (R319 to R325), leases (R627 to R630), epochs (R101 to R110, R632) and the backlog (R634). -/
namespace Sys2Proof.Machine

/-! ### Completion rings -/

def State.cqBase (s : State) (n : Nat) : Nat := s.get (F.CQ_BASEHI_BASE.ix n) * 2 ^ 32 + s.get (F.CQ_BASELO_BASE.ix n) * 64
def State.cqSize (s : State) (n : Nat) : Nat := s.get (F.CQ_BASELO_SIZE.ix n)
def State.cqPi (s : State) (n : Nat) : Nat := s.get (F.CQ_IDX_PI.ix n)
def State.cqCi (s : State) (n : Nat) : Nat := s.get (F.CQ_IDX_CI.ix n)
def State.cqOn (s : State) (n : Nat) : Bool := s.flag (F.CQ_CTL_ENABLE.ix n)
def State.cqErr (s : State) (n : Nat) : Bool := s.flag (F.CQ_CTL_ERR.ix n)
/-- The bytes of an entry of ring n (R615). -/
def State.cqEntry (s : State) (n : Nat) : Nat := if s.flag (F.CQ_CTL_ESIZE.ix n) then 32 else 16
def State.cqHall (s : State) (n : Nat) : Hall := hallOf (s.flag (F.CQ_CTL_HALL.ix n))

/-- RSV: the jobs in flight that complete to ring n (R618). -/
def State.cqRsv (s : State) (n : Nat) : Nat := (s.pump.flight.filter fun f => !f.job.inPlace && f.job.cq == n).length

/-- The completion target of a job has room (R618). -/
def State.hasRoom (s : State) (j : Job) : Bool :=
  j.inPlace || (s.cqOn j.cq && !s.cqErr j.cq
    && decide ((s.cqPi j.cq + 65536 - s.cqCi j.cq) % 65536 + s.cqRsv j.cq < 2 ^ s.cqSize j.cq))

/-- CQ_EVT bit e of ring n, and CQ_EVTREC (R635). -/
def State.cqEvent (s : State) (e n : Nat) : State :=
  (((s.event 11 e).put F.CQ_EVTREC_VALID true).set F.CQ_EVTREC_EVENT e).set F.CQ_EVTREC_RING n

/-- A notification of ring n: UNN is cleared and the target told (R624, R625). -/
def State.notify (s : State) (n : Nat) : State :=
  let s := s.set (F.CQ_ST_UNN.ix n) 0
  let k := s.get (F.CQ_CTL_NKIND.ix n)
  if k = 1 then
    if s.link.msix then s.sendMsix (s.get (F.CQ_NOT_HVEC.ix n))
    else if s.link.msi then s.sendMsi (s.get (F.CQ_NOT_HVEC.ix n) % 2 ^ s.link.msiLog)
    else s.cqEvent 1 n
  else if k = 2 then s.fireBell (128 + s.get (F.CQ_NOT_IBELL.ix n))
  else s

/-- The bytes of a completion entry (R623). -/
def State.entryBytes (s : State) (j : Job) (d : Done) (n phase : Nat) : List Byte :=
  let st := d.status + j.gen * 2 ^ 8 + d.src * 2 ^ 10 + (j.ndesc - 1) * 2 ^ 16 + phase * 2 ^ 31
  let head := leBytes 4 j.tag ++ leBytes 4 d.result ++ leBytes 4 (j.idx + j.well * 2 ^ 16) ++ leBytes 4 st
  if s.cqEntry n = 16 then head
  else if j.gen = 1 then head ++ List.replicate 16 0
  else head ++ leBytes 6 j.ltag ++ [0, 0] ++ leBytes 4 (bitsOf s.tb.toNat 31 0) ++ leBytes 4 0

/-- PI of ring n passes an entry; PHASE inverts at the wrap (R620). -/
def State.cqAdvance (s : State) (n : Nat) : State :=
  let x := (s.cqPi n + 1) % 65536
  let s := s.set (F.CQ_IDX_PI.ix n) x
  if x % 2 ^ s.cqSize n = 0 then s.put (F.CQ_ST_PHASE.ix n) (!s.flag (F.CQ_ST_PHASE.ix n)) else s

/-- The flight has its completion written: it leaves, and its well may finish draining (R561, R621). -/
def State.flightGone (s : State) (i w : Nat) : State :=
  (s.updPump fun p => { p with flight := p.flight.eraseIdx i }).drainCheck w

/-- A completion to a ring cannot be made (R622). -/
def State.cqFail (s : State) (n : Nat) : State := (s.put (F.CQ_CTL_ERR.ix n) true).cqEvent 2 n

/-- Write the completion of flight i to its ring (R620 to R624): held while the ring is off, in error, or the device may send
nothing to it. -/
def State.writeToRing (s : State) (i : Nat) (j : Job) (d : Done) : State :=
  let n := j.cq
  let e := s.cqEntry n
  let a := s.cqBase n + e * (s.cqPi n % 2 ^ s.cqSize n)
  if !s.cqOn n || s.cqErr n then s
  else if inLink a e && !s.canSend then s
  else if !s.inDram a e && !inLink a e then s.cqFail n
  else if inLink a e && !bit (s.get F.HLK_OBEN_EN) (bitsOf a 37 36) then s.cqFail n
  else match s.engWrite .pump (s.get (F.CQ_CTL_FKEY.ix n)) (s.cqHall n) a (s.entryBytes j d n (s.get (F.CQ_ST_PHASE.ix n))) with
    | (s, .fail st) => if st = 0x13 then s.cqFail n else s
    | (s, .ok _) =>
      let s := ((s.cqAdvance n).bump (F.CQ_ST_UNN.ix n) 1).flightGone i j.well
      if s.get (F.CQ_MOD_MCOUNT.ix n) ≤ s.get (F.CQ_ST_UNN.ix n) then s.notify n else s

/-- Clear OWN in the descriptors of a Gen 2 job after its first (R575). -/
def State.clearLater (s : State) (j : Job) (c : WellCtx) : Nat → State
  | 0 => s
  | k + 1 =>
    let s := s.clearLater j c k
    let i := k + 1
    if i < j.ndesc then
      (s.engWrite .pump j.fkey j.hall (c.slotAddr (j.idx + i)) (leBytes 4 (clrBit (longAt (j.bytes.drop (64 * i)) 0) 8))).1
    else s

/-- Complete a Gen 2 job in place (R575): RESULT, then OWN of the later descriptors, and long 0 of the first one last. -/
def State.writeInPlace (s : State) (i : Nat) (j : Job) (d : Done) : State :=
  let c := s.ctx j.well
  if s.pausedCtx c then s
  else
    let (s, _) := s.engWrite .pump j.fkey j.hall (c.slotAddr j.idx + 0x18) (leBytes 4 d.result)
    let s := s.clearLater j c 7
    let (s, _) := s.engWrite .pump j.fkey j.hall (c.slotAddr j.idx)
      (leBytes 4 (putBits (clrBit (longAt j.bytes 0) 8) 23 16 d.status))
    s.flightGone i j.well

/-- The flights whose completion may be written next: done, and none done earlier to the same ring (R620). -/
def State.writable (s : State) : List (Nat × Flight) :=
  ((List.range s.pump.flight.length).zip s.pump.flight).filter fun e =>
    e.2.done.isSome && (e.2.job.inPlace || (s.pump.flight.take e.1).all fun f => f.done.isNone || f.job.inPlace || f.job.cq != e.2.job.cq)

/-- A finished job's completion is written: the k-th of those that may be (R608, R620). -/
def State.completionWrite (s : State) (k : Nat) : State :=
  if s.fenced 5 then s
  else match s.writable[k]? with
    | some (i, f) =>
      match f.done with
      | some d => if f.job.inPlace then s.writeInPlace i f.job d else s.writeToRing i f.job d
      | none => s
    | none => s

/-- The first flight that meets a test ends with an outcome; it takes its place among the finished in the order of ending
(R620). -/
def State.endFlight (s : State) (p : Flight → Bool) (d : Done) : State :=
  match s.pump.flight.find? (fun f => f.done.isNone && p f) with
  | none => s
  | some f => s.updPump fun q => { q with flight := q.flight.erase f ++ [{ f with done := some d }] }

/-- ENABLE = 1 of a disabled ring (R617, R622). -/
def State.cqEnable (s : State) (n : Nat) : State :=
  let s := ((s.put (F.CQ_CTL_ENABLE.ix n) true).setReg (F.CQ_IDX_CI.ix n).off 0).put (F.CQ_CTL_ERR.ix n) false
  s.put (F.CQ_ST_PHASE.ix n) true

/-- ENABLE = 0 of ring n is refused: entries reserved or an enabled well naming it, unless ERR is 1 (R617). -/
def State.cqHeld (s : State) (n : Nat) : Bool :=
  !s.cqErr n && (decide (0 < s.cqRsv n) || s.pump.wells.any fun e => e.2.enable && (s.ctx e.1).cq == n)

/-- A write of CI (R619). -/
def State.cqIndex (s : State) (n ci : Nat) : State :=
  if (s.cqPi n + 65536 - ci) % 65536 ≤ (s.cqPi n + 65536 - s.cqCi n) % 65536 then s.set (F.CQ_IDX_CI.ix n) ci else s.cqEvent 0 n

/-! ### Consumers (R604, R612) -/

/-- The inlet slots of core c for hall h that hold a live job. -/
def State.inletSlots (s : State) (c : Nat) (h : Hall) : List Nat :=
  s.pump.flight.filterMap fun f =>
    match f.loc with
    | .core c' h' slot _ _ _ => if c' = c ∧ h' = h ∧ f.done.isNone then some slot else none
    | _ => none

/-- The lowest free slot of an inlet. -/
def State.freeSlot (s : State) (c : Nat) (h : Hall) : Option Nat :=
  let l := s.inletSlots c h
  (List.range 8).find? fun i => !l.contains i

/-- The inlet area of hall h is on, and its base (R610). -/
def State.inletOn (s : State) : Hall → Bool
  | .L => s.flag F.PMP_INLBASEL_ON
  | .P => s.flag F.PMP_INLBASEP_ON
def State.inletBase (s : State) : Hall → Nat
  | .L => s.get F.PMP_INLBASEL_BASE * 4096
  | .P => s.get F.PMP_INLBASEP_BASE * 4096

/-- The physical address of a slot's descriptor copy (R610). -/
def State.copyAddr (s : State) (c : Nat) (h : Hall) (slot : Nat) : Nat := s.inletBase h + 0x1000 * c + 0x200 * slot

/-- The core that takes a job of a core set: eligible, with a free slot, fewest occupied slots, then lowest (R612). -/
def State.pickCore (s : State) (set : Nat) (h : Hall) : Option Nat :=
  let ok := (List.range 4).filter fun c => bit set c && s.coreFree c && (s.freeSlot c h).isSome
  ok.foldl (fun best c => match best with
    | none => some c
    | some b => if (s.inletSlots c h).length < (s.inletSlots b h).length then some c else some b) none

/-- Staging bytes in use and free (R642, R645). -/
def State.stagingUsed (s : State) : Nat := (s.get F.JNL_STWR_OFFSET + 0x8000 - s.get F.JNL_STFL_OFFSET) % 0x8000
def State.stagingFree (s : State) : Nat := 0x8000 - s.stagingUsed

/-- Some flight at a place has not ended. -/
def State.atLoc (s : State) (p : Loc → Bool) : Bool := s.pump.flight.any fun f => f.done.isNone && p f.loc

/-- A job in progress at the journal engine: being handled, or waiting for its records to be flushed (R642, R646, R657). -/
def Loc.atJournal : Loc → Bool
  | .journal | .durable _ | .flush _ => true
  | _ => false

/-- The lowest free copy lane (R659). -/
def State.freeLane (s : State) : Option Nat := (List.range 4).find? fun i => !s.atLoc (· == .copy i)

/-- A consumer kind can take a job now (R604, R642, R659). -/
def State.consumerFree (s : State) (kind set lch : Nat) (h : Hall) : Bool :=
  match kind with
  | 1 => s.inletOn h && (s.pickCore set h).isSome
  | 2 => decide (8192 ≤ s.stagingFree) && !s.atLoc Loc.atJournal && !s.fenced 6
  | 3 => s.freeLane.isSome && !s.fenced 7
  | 4 => !s.atLoc (· == .latch lch) && (s.latch.getD lch LatchCh.reset).pulse.isNone
  | _ => false

/-! ### Eligibility (R603) -/

/-- The requeued job of well w that waits first; the first fetched one. -/
def State.waitingJob (s : State) (w : Nat) : Option Job :=
  match s.pump.requeued.find? (·.well == w) with
  | some j => some j
  | none => s.pump.fetched.find? (·.well == w)

/-- The next job of the well could be dispatched: its consumer can take it and its completion has room. Before a fetch the
settings in force decide. -/
def State.targetFree (s : State) (w : Nat) : Bool :=
  match s.waitingJob w with
  | some j => (j.status.isSome || s.consumerFree j.ckind j.coreset j.lch j.hall) && s.hasRoom j
  | none =>
    let c := s.ctx w
    s.consumerFree c.ckind c.coreset c.lch c.hall && s.hasRoom (c.mkJob w 1 [])

/-- Well w is eligible (R603). -/
def State.eligible (s : State) (w : Nat) : Bool :=
  let o := s.wellOn w
  let c := s.ctx w
  o.enable && !s.pausedCtx c && o.stale.isNone && ((s.waitingJob w).isSome || s.mayFetch w) && decide (s.infl w < 255) && s.targetFree w

/-! ### Cisterns as the scheduler sees them (R605, R606, R632) -/

/-- The cistern number the scheduler uses: 2c + 1 for cistern c, 2c for its old settings while an epoch crosses. -/
def State.cisOf (s : State) (w : Nat) : Nat :=
  let c := (s.ctx w).cistern
  if s.pump.epPend.contains w && s.pump.oldCis.any (·.cis == c) then 2 * c else 2 * c + 1

def State.oldOf (s : State) (c : Nat) : Option OldCis := s.pump.oldCis.find? (·.cis == c)

def State.cisLevel (s : State) (id : Nat) : Nat :=
  if id % 2 = 0 then ((s.oldOf (id / 2)).map (·.level)).getD 0 else s.get (F.PMP_CIS_LEVEL.ix (id / 2))
def State.cisWeight (s : State) (id : Nat) : Nat :=
  if id % 2 = 0 then ((s.oldOf (id / 2)).map (·.weight)).getD 1 else s.get (F.PMP_CIS_WEIGHT.ix (id / 2))
def State.cisDef (s : State) (id : Nat) : Nat :=
  if id % 2 = 0 then ((s.oldOf (id / 2)).map (·.deficit)).getD 0 else s.get (F.PMP_CIS_DEF.ix (id / 2))
def State.setDef (s : State) (id v : Nat) : State :=
  if id % 2 = 0 then
    s.updPump fun p => { p with oldCis := p.oldCis.map fun o => if o.cis = id / 2 then { o with deficit := v } else o }
  else s.set (F.PMP_CIS_DEF.ix (id / 2)) v

/-- The eligible wells, in well number order, of the wells enabled. -/
def State.eligibleWells (s : State) : List Nat := (s.pump.wells.map (·.1)).filter s.eligible
def State.eligibleIn (s : State) (id : Nat) : List Nat := s.eligibleWells.filter fun w => s.cisOf w == id

/-- The lowest-numbered level with an eligible well (R605). -/
def State.activeLevel (s : State) : Option Nat :=
  let l := s.eligibleWells.map fun w => s.cisLevel (s.cisOf w)
  (List.range 4).find? fun v => l.contains v

/-- The next cistern of a level with an eligible well, from `i` on, wrapping. -/
def State.nextCis (s : State) (lvl i : Nat) : Option Nat :=
  let l := (s.eligibleWells.map s.cisOf).filter fun id => s.cisLevel id == lvl
  match (List.range 128).find? fun id => decide (i ≤ id) && l.contains id with
  | some id => some id
  | none => (List.range 128).find? fun id => l.contains id

/-- The next eligible well of a cistern after the last one served, in well number order (R606). -/
def State.nextWell (s : State) (id : Nat) : Option Nat :=
  let l := s.eligibleIn id
  match lookupKey s.pump.lastWell id with
  | none => l.head?
  | some x => match l.find? (fun w => decide (x < w)) with
    | some w => some w
    | none => l.head?

/-- End the visit of a level: the next decision starts after it. -/
def State.endVisit (s : State) (lvl id : Nat) : State :=
  s.updPump fun p => { p with levelAt := setAt p.levelAt lvl ((id + 1) % 128), arrived := setAt p.arrived lvl false }

/-! ### Dispatch (R568, R600, R612, R613) -/

/-- Add a flight. -/
def State.fly (s : State) (j : Job) (l : Loc) (d : Option Done) : State :=
  s.updPump fun p => { p with flight := p.flight ++ [⟨j, l, d⟩] }

/-- The issue count of a slot (R613). -/
def slotIndex (c : Nat) (h : Hall) (slot : Nat) : Nat := c * 16 + hallNat h * 8 + slot

/-- Place a core job: the copy is written, not key-checked, the issue count rises, and the token appears (R611 to R613). -/
def State.dispatchCore (s : State) (j : Job) (c slot : Nat) : State :=
  let s := s.physWrite (s.copyAddr c j.hall slot) j.copy
  let i := slotIndex c j.hall slot
  let tag := (s.pump.issue.getD i 0 + 1) % 256
  (s.updPump fun p => { p with issue := setAt p.issue i tag }).fly j (.core c j.hall slot tag false false) none

/-- Dispatch a job to its consumer; one that failed a check the Pump completes itself (R568). -/
def State.dispatch (s : State) (j : Job) : State :=
  match j.status with
  | some st => s.fly j .pump (some ⟨st, 0, 7⟩)
  | none =>
    match j.ckind with
    | 1 => match s.pickCore j.coreset j.hall with
      | some c => match s.freeSlot c j.hall with
        | some slot => s.dispatchCore j c slot
        | none => s
      | none => s
    | 2 => s.fly j .journal none
    | 3 => match s.freeLane with
      | some i => s.fly j (.copy i) none
      | none => s
    | 4 => s.fly j (.latch j.lch) none
    | _ => s

/-- Take the next job of a well out of those waiting. -/
def State.dropWaiting (s : State) (j : Job) : State :=
  if s.pump.requeued.any (· == j) then s.updPump fun p => { p with requeued := p.requeued.erase j }
  else s.updPump fun p => { p with fetched := p.fetched.erase j }

/-- A well may start work: its context is pinned already, or fewer than 448 are (R600). -/
def State.mayPin (s : State) (w : Nat) : Bool := s.pinned w || decide (s.pinnedCount < 448)

/-- One scheduling decision: visits go on until one job is dispatched or nothing is eligible (R605 to R609). -/
def State.schedule (s : State) : Nat → State
  | 0 => s
  | k + 1 =>
    match s.activeLevel with
    | none => s
    | some lvl =>
      let inVisit := s.pump.arrived.getD lvl false
      let at' := s.pump.levelAt.getD lvl 0
      match if inVisit then some at' else s.nextCis lvl at' with
      | none => s
      | some id =>
        let s := if inVisit then s else
          (s.setDef id (s.cisDef id + s.cisWeight id)).updPump fun p =>
            { p with levelAt := setAt p.levelAt lvl id, arrived := setAt p.arrived lvl true }
        match s.nextWell id with
        | none => ((s.setDef id 0).endVisit lvl id).schedule k
        | some w =>
          if !s.mayPin w then ((s.event 10 9).endVisit lvl id)
          else
            let s := s.loadCtx w
            let s := if (s.waitingJob w).isSome then s else s.fetch w
            match s.waitingJob w with
            | none => s.schedule k
            | some j =>
              if s.cisDef id < j.ndesc then (s.endVisit lvl id).schedule k
              else if !s.eligible w then s.schedule k
              else
                let s := (s.dropWaiting j).dispatch j
                let s := s.setDef id (s.cisDef id - j.ndesc)
                let s := s.updPump fun p => { p with lastWell := insertKey p.lastWell id w }
                if (s.eligibleIn id).isEmpty then (s.setDef id 0).endVisit lvl id else s

/-- The backlog (R634). -/
def State.backlog (s : State) : Nat :=
  let ws := s.pump.wells.filter fun e => e.2.enable && !s.pausedCtx (s.ctx e.1)
  satTo 65535 ((ws.map fun e => (s.ctx e.1).posted + s.queued e.1).sum + s.pump.requeued.length)

/-- PMP_STAT.QUIET: no job in flight and no unfetched descriptor in a device-resident well (R144, R635). -/
def State.pumpQuiet (s : State) : Bool :=
  s.pump.flight.isEmpty && s.pump.fetched.isEmpty && s.pump.requeued.isEmpty
    && s.pump.wells.all fun e => !e.2.enable || (s.ctx e.1).hostResident || (s.ctx e.1).posted == 0

/-! ### Job tokens (R319 to R325) -/

/-- The token of a core job (R319). -/
def jobToken (j : Job) (slot tag : Nat) : Nat := j.well + slot * 2 ^ 14 + j.gen * 2 ^ 17 + tag * 2 ^ 24

/-- The flight is a token waiting in the inlet of core c for hall h. -/
def Flight.inInlet (f : Flight) (c : Nat) (h : Hall) : Bool :=
  f.done.isNone && match f.loc with
    | .core c' h' _ _ taken _ => c' == c && h' == h && !taken
    | _ => false

/-- The oldest token in the inlet, with the address of its copy, and the state in which it is taken. -/
def State.takeToken (s : State) (c : Nat) (h : Hall) : Option (Nat × Nat × State) :=
  match s.pump.flight.find? (·.inInlet c h) with
  | none => none
  | some f =>
    match f.loc with
    | .core _ _ slot tag _ e =>
      let f' : Flight := { f with loc := .core c h slot tag true e }
      some (jobToken f.job slot tag, s.copyAddr c h slot,
        s.updPump fun p => { p with flight := p.flight.map fun g => if g = f then f' else g })
    | _ => none

/-- The flight holds a live token of a slot of core c for hall h with a tag (R324). -/
def Flight.isToken (f : Flight) (c : Nat) (h : Hall) (slot tag : Nat) : Bool :=
  f.done.isNone && match f.loc with
    | .core c' h' slot' tag' _ _ => c' == c && h' == h && slot' == slot && tag' == tag
    | _ => false

/-- JOBDONE with a token and a result word: accepted only for a live token whose zero fields are zero (R323, R324). -/
def State.jobDone (s : State) (c : Nat) (h : Hall) (tok res : Nat) : State × Bool :=
  let slot := bitsOf tok 16 14
  let tag := bitsOf tok 31 24
  let d : Done := ⟨bitsOf res 7 0, bitsOf res 39 8, c⟩
  if bitsOf tok 47 32 ≠ 0 ∨ bitsOf tok 23 20 ≠ 0 then (s, false)
  else if s.pump.flight.any (·.isToken c h slot tag) then (s.endFlight (·.isToken c h slot tag) d, true)
  else (s, false)

/-! ### Leases (R627 to R630) -/

/-- The flight occupies a slot of core c for hall h. -/
def Flight.inSlot (f : Flight) (c : Nat) (h : Hall) (slot : Nat) : Bool :=
  f.done.isNone && match f.loc with
    | .core c' h' slot' _ _ _ => c' == c && h' == h && slot' == slot
    | _ => false

/-- A lease expires (R628). -/
def State.leaseExpire (s : State) (c : Nat) (h : Hall) (slot : Nat) : State :=
  match s.pump.flight.find? (·.inSlot c h slot) with
  | none => s
  | some f =>
    match f.loc with
    | .core _ _ _ tag taken false =>
      let f' : Flight := { f with loc := .core c h slot tag taken true }
      let s := s.updPump fun p => { p with flight := p.flight.map fun g => if g = f then f' else g }
      let s := ((s.put F.PMP_LEASEREC_VALID true).set F.PMP_LEASEREC_WELL f.job.well).set F.PMP_LEASEREC_TAG tag
      (((s.set F.PMP_LEASEREC_HALL (hallNat h)).set F.PMP_LEASEREC_CORE c).set F.PMP_LEASEREC_SLOT slot).event 10 7
    | _ => s

/-- Revoke the lease of a slot (R630): requeued, with a REQUEUED completion, or abandoned. Answers PMP_REVOKE.RES. -/
def State.revokeSlot (s : State) (c : Nat) (h : Hall) (slot : Nat) : State × Nat :=
  match s.pump.flight.find? (·.inSlot c h slot) with
  | none => (s, 3)
  | some f =>
    let can := (s.wellOn f.job.well).enable && (s.ctx f.job.well).requeue
    if can && decide (f.job.requeues < s.get F.PMP_LEASECFG_REQMAX) then
      let copy := s.physBytes (s.copyAddr c h slot) f.job.bytes.length
      let s := s.endFlight (·.inSlot c h slot) ⟨0x21, 0, 7⟩
      (s.updPump fun p => { p with requeued := p.requeued ++ [{ f.job with requeues := f.job.requeues + 1, copy := copy }] }, 1)
    else
      let s := s.endFlight (·.inSlot c h slot) ⟨0x20, 0, 7⟩
      (if can then s.event 10 8 else s, 0)

/-- PMP_REVOKE with GO (R629): refused while the lease has not expired, or when no live token has this tag. -/
def State.revokeReq (s : State) (c : Nat) (h : Hall) (slot tag : Nat) : State :=
  let f := s.pump.flight.find? (·.isToken c h slot tag)
  match f with
  | none => s.set F.PMP_REVOKE_RES 3
  | some f =>
    match f.loc with
    | .core _ _ _ _ _ true => let (s, r) := s.revokeSlot c h slot; s.set F.PMP_REVOKE_RES r
    | _ => s.set F.PMP_REVOKE_RES 2

/-- Revoke every job of core c in a hall (R117, R119). -/
def State.revokeCore (s : State) (c : Nat) (h : Hall) : State :=
  (List.range 8).foldl (fun s slot => (s.revokeSlot c h slot).1) s

/-- PMP_INSTc.LIVE and EXP of a hall (R628, R635). -/
def State.instLive (s : State) (c : Nat) (h : Hall) : Nat :=
  packBits 8 fun slot => s.pump.flight.any (·.inSlot c h slot)
def State.instExp (s : State) (c : Nat) (h : Hall) : Nat :=
  packBits 8 fun slot => s.pump.flight.any fun f => f.inSlot c h slot &&
    match f.loc with
    | .core _ _ _ _ _ e => e
    | _ => false

/-! ### Epochs (R100 to R110, R631, R632) -/

/-- The list as read: target, KIND, value, in order. -/
def epEntry (q : Nat) : Nat × Nat × Nat := (bitsOf q 63 48, bitsOf q 47 44, bitsOf q 31 0)

/-- Read the change list; the index of the first entry that cannot be read ends it (R101, R102). -/
def State.epRead (s : State) : Nat → Nat → Option (List (Nat × Nat × Nat)) × Nat
  | 0, i => (some [], i)
  | k + 1, i =>
    let a := s.get F.PMP_EPLBASE_BASE * 4096 + 8 * i
    if !s.inDram a 8 || (s.poison a 8).isSome then (none, i)
    else match s.epRead k (i + 1) with
      | (some l, n) => (some (epEntry (ofLe (s.bytes a 8)) :: l), n)
      | (none, n) => (none, n)

/-- The value of an entry as its KIND clamps it (R631). -/
def State.epClamp (s : State) (kind v : Nat) : Nat :=
  match kind with
  | 0 => satTo 63 v
  | 1 => if v < 2048 ∨ v = 0xFFFF then v else 0xFFFF
  | 2 => let m := v &&& s.coreMask; if m = 0 then 1 else m
  | 3 => if v < 100 then 100 else satTo 10000000 v
  | 4 => if v < 1 then 1 else satTo 64 v
  | _ => satTo 3 v

/-- Check one entry (R101): the entry to apply, if any, and the state with what it logs. A later entry with the same target
and KIND silences it. -/
def State.epCheck (s : State) (i : Nat) (e : Nat × Nat × Nat) (later : List (Nat × Nat × Nat)) : State × List (Nat × Nat × Nat) :=
  let (t, k, v) := e
  if later.any fun x => x.1 == t && x.2.1 == k then (s, [])
  else if 6 ≤ k then (s.clamp 2 clampKind 10 k i v 0, [])
  else if k ≤ 3 ∧ Variant.wells s.variant ≤ t then (s.clamp 2 clampAbsent 10 k i v 0, [])
  else if 4 ≤ k ∧ 63 < t then (s.clamp 2 clampRange 10 k i v 0, [])
  else if k = 1 ∧ v < 2048 ∧ ¬ s.cqPresent v then (s.clamp 2 clampAbsent 10 k i v 0, [])
  else
    let v' := s.epClamp k v
    (if v' = v then s else s.clamp 2 clampRange 10 k i v v', [(t, k, v')])

/-- Check the whole list in order. -/
def State.epCheckAll (s : State) : Nat → List (Nat × Nat × Nat) → State × List (Nat × Nat × Nat)
  | _, [] => (s, [])
  | i, e :: l =>
    let (s, a) := s.epCheck i e l
    let (s, b) := s.epCheckAll (i + 1) l
    (s, a ++ b)

/-- The wells an epoch affects (R103): named by an entry, or enabled or draining in a cistern an entry names, the cistern being
the one the list leaves them in. -/
def State.epAffected (s : State) (l : List (Nat × Nat × Nat)) : List Nat :=
  let named := (l.filter (fun e => decide (e.2.1 ≤ 3))).map (·.1)
  let ciss := (l.filter (fun e => decide (4 ≤ e.2.1))).map (·.1)
  let byCis := (s.pump.wells.map (·.1)).filter fun w =>
    let c := match l.reverse.find? (fun e => e.1 == w && e.2.1 == 0) with
      | some e => e.2.2
      | none => (s.ctx w).cistern
    ((s.wellOn w).enable || (s.wellOn w).draining) && ciss.contains c
  (named ++ byCis).foldl insertNat []

/-- The cistern settings of the list take effect for wells that have crossed; the old ones stay for those that have not (R632). -/
def State.epCisterns (s : State) (l : List (Nat × Nat × Nat)) (aff : List Nat) : State :=
  let ciss := ((l.filter (fun e => decide (4 ≤ e.2.1))).map (·.1)).foldl insertNat []
  ciss.foldl (fun s c =>
    let o : OldCis := ⟨c, s.get (F.PMP_CIS_LEVEL.ix c), s.get (F.PMP_CIS_WEIGHT.ix c), s.get (F.PMP_CIS_DEF.ix c)⟩
    let s := if aff.any fun w => (s.ctx w).cistern == c then
        (s.updPump fun p => { p with oldCis := p.oldCis ++ [o] }).set (F.PMP_CIS_DEF.ix c) 0 else s
    let s := match l.reverse.find? (fun e => e.1 == c && e.2.1 == 4) with
      | some e => s.set (F.PMP_CIS_WEIGHT.ix c) e.2.2
      | none => s
    match l.reverse.find? (fun e => e.1 == c && e.2.1 == 5) with
      | some e => s.set (F.PMP_CIS_LEVEL.ix c) e.2.2
      | none => s) s

/-- PMP_EPOCH.GO (R101 to R104). An epoch that affects no well ends at once (R108). -/
def State.epochGo (s : State) : State :=
  if s.flag F.PMP_EPOCH_BUSY then s.logBusy 0x180100 24 1
  else match s.epRead (s.get F.PMP_EPLCNT_COUNT) 0 with
    | (none, i) => (s.clamp 2 clampRange 10 0 i 0 0).put F.PMP_EPOCH_LISTERR true
    | (some l, _) =>
      let (s, l) := s.epCheckAll 0 l
      let aff := s.epAffected l
      let s := (s.put F.PMP_EPOCH_LISTERR false).set F.PMP_EPOCH_CUR ((s.get F.PMP_EPOCH_CUR + 1) % 256)
      let s := s.epCisterns l aff
      let s := (s.updPump fun p => { p with epPend := aff, epList := l }).set F.PMP_EPPEND_PENDING aff.length
      if aff.isEmpty then (s.set F.PMP_EPOCH_DONE (s.get F.PMP_EPOCH_CUR)).event 10 0 else s.put F.PMP_EPOCH_BUSY true

/-- The walk reaches an affected well: it crosses when no job of it is in flight (R105). -/
def State.wellCross (s : State) (w : Nat) : State :=
  if s.pump.epPend.contains w ∧ s.infl w = 0 then (s.loadCtx w).cross w else s

end Sys2Proof.Machine
end

