-- ==== Sys2Proof/Machine/Journal.lean ====
section
/-! DEFINITION. The journal engine (R636 to R658) and the copy engine (R659 to R664). -/
namespace Sys2Proof.Machine

/-! ### What the engines share -/

/-- The inline bytes of a Gen 2 or Gen 3 descriptor. -/
def Job.inline (j : Job) : List Byte := (j.bytes.drop 0x20).take 32
/-- SGL, IMM and NSEG of a Gen 3 descriptor. -/
def Job.sgl (j : Job) : Bool := j.gen == 3 && bit (longAt j.bytes 0) 9
def Job.imm (j : Job) : Bool := j.gen == 3 && bit (longAt j.bytes 0) 10
def Job.nseg (j : Job) : Nat := bitsOf (longAt j.bytes 0) 23 16

/-- A contiguous range: address, bytes. -/
abbrev Range := Nat × Nat

/-- The entries of a scatter list (R578): `none` when one breaks the rules. -/
def scatterEntries : Nat → List Byte → Option (List Range)
  | 0, _ => some []
  | n + 1, l =>
    if bitsOf (longAt l 8) 31 24 ≠ 0 ∨ longAt l 8 = 0 ∨ longAt l 12 ≠ 0 then none
    else (scatterEntries n (l.drop 16)).map fun r => (quadAt l 0, longAt l 8) :: r

/-- Check a list against the descriptor's LEN (R578): the ranges, or a status. -/
def scatterCheck (n len : Nat) (l : List Byte) : List Range ⊕ Nat :=
  match scatterEntries n l with
  | none => .inr 0x15
  | some r => if (r.map (·.2)).sum = len then .inl r else .inr 0x11

/-- A range the engines may reach: wholly in installed DRAM or wholly in the link outbound window. -/
def State.reachable (s : State) (r : Range) : Bool := s.inDram r.1 r.2 || inLink r.1 r.2

/-- The source ranges of a job whose scatter list, if it has one, is read from memory (R577, R578). -/
def State.sourceRanges (s : State) (e : Eng) (j : Job) : State × (List Range ⊕ Nat) :=
  if !j.sgl then (s, .inl (if j.len = 0 then [] else [(j.addr, j.len)]))
  else if j.nseg ≤ 2 then (s, scatterCheck j.nseg j.len j.inline)
  else if !s.reachable (j.addr, 16 * j.nseg) then (s, .inr 0x12)
  else match s.engRead e j.fkey j.hall j.addr (16 * j.nseg) with
    | (s, .fail st) => (s, .inr st)
    | (s, .ok l) => (s, scatterCheck j.nseg j.len l)

/-- Read ranges in order. -/
def State.readRanges (s : State) (e : Eng) (fkey : Nat) (h : Hall) : List Range → State × EngRes
  | [] => (s, .ok [])
  | (a, n) :: r =>
    if !s.reachable (a, n) then (s, .fail 0x12)
    else match s.engRead e fkey h a n with
      | (s, .fail st) => (s, .fail st)
      | (s, .ok l) => match s.readRanges e fkey h r with
        | (s, .ok l') => (s, .ok (l ++ l'))
        | (s, .fail st) => (s, .fail st)

/-! ### The chain head (R638, R639) -/

/-- JNL_HEADCTL.VALID. -/
def State.headValid (s : State) : Bool := s.flag F.JNL_HEADCTL_VALID
/-- The SEQ of the head. -/
def State.headSeq (s : State) : Nat := s.get F.JNL_HEADSEQH_SEQ * 2 ^ 32 + s.get F.JNL_HEADSEQL_SEQ
/-- The 32 bytes that eight registers of a family hold, byte 4k in [7:0] of register k. -/
def State.bytes32 (s : State) (f : Fld) : List Byte := (List.range 8).flatMap fun k => leBytes 4 (s.get (f.ix k))
/-- The hash of the head. -/
def State.headHash (s : State) : List Byte := s.bytes32 F.JNL_HEADHASH_HASH

/-- Set the head. -/
def State.setHead (s : State) (seq : Nat) (hash : List Byte) : State :=
  let s := (s.set F.JNL_HEADSEQL_SEQ (seq % 2 ^ 32)).set F.JNL_HEADSEQH_SEQ (seq / 2 ^ 32)
  let s := (List.range 8).foldl (fun s k => s.set (F.JNL_HEADHASH_HASH.ix k) (longAt hash (4 * k))) s
  s.put F.JNL_HEADCTL_VALID true

/-- JNL_HEADCTL.SEED (R639): applied between jobs and while VALID is 0, else logged with cause BUSY. -/
def State.journalSeed (s : State) : State :=
  if s.headValid || s.atLoc Loc.atJournal then s.logBusy 0x200104 0 1
  else s.setHead (s.get F.JNL_SEEDSEQH_SEQ * 2 ^ 32 + s.get F.JNL_SEEDSEQL_SEQ) (s.bytes32 F.JNL_SEEDHASH_HASH)

/-- JNL_MACCTL.CLEAR. -/
def State.macClear (s : State) : State :=
  ((List.range 8).foldl (fun s k => s.set (F.JNL_MACKEY_KEY.ix k) 0) s).put F.JNL_MACCTL_LOADED false

/-! ### Records (R636, R637) -/

/-- The header of a record, bytes 0x00 to 0x3F. -/
def recHeader (len flags rtype seq plen time ltag : Nat) (prev : List Byte) : List Byte :=
  leBytes 2 0xCE4A ++ leBytes 2 len ++ [1] ++ leBytes 1 flags ++ leBytes 2 rtype ++ leBytes 6 seq ++ leBytes 2 plen
    ++ leBytes 8 time ++ leBytes 6 ltag ++ [0, 0] ++ prev

/-- The next multiple of 8. -/
def pad8 (n : Nat) : Nat := (n + 7) / 8 * 8

/-- A record: header, payload padded with zeros, HASH, and MAC under a key when one is given. Its HASH beside it. -/
def mkRecord (key : Option (List Byte)) (rtype seq time ltag : Nat) (prev payload : List Byte) : List Byte × List Byte :=
  let p := pad8 payload.length
  let len := (if key.isSome then 128 else 96) + p
  let body := recHeader len (ofBool key.isSome) rtype seq payload.length time ltag prev ++ payload
    ++ List.replicate (p - payload.length) 0
  let hash := sha256 body
  match key with
  | some k => (body ++ hash ++ hmac256 k hash, hash)
  | none => (body ++ hash, hash)

/-- A pad marker (R637). -/
def padMarker (n : Nat) : List Byte := leBytes 2 0xCE50 ++ leBytes 2 n ++ leBytes 4 0

/-- Where a record of `len` bytes goes in a ring of `size` bytes from offset `wr`, with the bytes a pad marker fills before it
(R644, R650). -/
def placeAt (size wr len : Nat) : Nat × Nat := if size - wr < len then (0, size - wr) else (wr, 0)

/-! ### Append (R640 to R642, R657) -/

/-- DURABLE is in effect (R646): AUTO is STAGED while the cell is present. -/
def State.durable (s : State) : Bool :=
  s.get F.JNL_CFG_MODE == 1 || (s.get F.JNL_CFG_MODE == 2 && !s.chg.present)

/-- An APPEND asks for a MAC. -/
def State.wantsMac (s : State) (j : Job) : Bool := bit j.param 16 || s.flag F.JNL_CFG_MACALL

/-- The checks of an APPEND in order (R657). -/
def State.appendStatus (s : State) (j : Job) : Option Nat :=
  if 2 ^ 17 ≤ j.param then some 0x15
  else if 1 < j.ndesc then some 0x11
  else if (if s.wantsMac j then 3968 else 4000) < j.len then some 0x11
  else if j.hall = .P then some 0x43
  else if !s.headValid then some 0x40
  else if s.wantsMac j && !s.flag F.JNL_MACCTL_LOADED then some 0x41
  else none

/-- The journal's job in progress. -/
def State.journalJob (s : State) : Option Job :=
  (s.pump.flight.find? fun f => f.done.isNone && f.loc == .journal).map (·.job)

/-- The journal's job ends with a status and a result. -/
def State.journalEnds (s : State) (status result : Nat) : State := s.endFlight (fun f => f.loc == .journal) ⟨status, result, 4⟩

/-- The journal's job goes on, waiting for its flush; the engine takes no other meanwhile (R642). -/
def State.journalWaits (s : State) (l : Loc) : State :=
  s.updPump fun p => { p with flight := p.flight.map fun f => if f.done.isNone && f.loc == .journal then { f with loc := l } else f }

/-- The payload of an APPEND (R656). -/
def State.payload (s : State) (j : Job) : State × EngRes :=
  if (j.gen = 2 ∧ j.addr = 0 ∧ j.len ≤ 32) ∨ j.imm then (s, .ok (j.inline.take j.len))
  else match s.sourceRanges .journal j with
    | (s, .inr st) => (s, .fail st)
    | (s, .inl r) => s.readRanges .journal j.fkey j.hall r

/-- Stage and commit a record (R640 items 3 to 6, R641, R644, R646). -/
def State.commit (s : State) (j : Job) (payload : List Byte) : State :=
  let key := if s.wantsMac j then some (s.bytes32 F.JNL_MACKEY_KEY) else none
  let seq := (s.headSeq + 1) % 2 ^ 48
  let (rec, hash) := mkRecord key (j.param % 65536) seq s.tb.toNat j.ltag s.headHash payload
  let (at', pad) := placeAt 0x8000 (s.get F.JNL_STWR_OFFSET) rec.length
  let s := if pad = 0 then s else s.putBytes (bsramBase + s.get F.JNL_STWR_OFFSET) (padMarker pad)
  let s := s.putBytes (bsramBase + at') rec
  let s := (s.set F.JNL_STWR_OFFSET ((at' + rec.length) % 0x8000)).setHead seq hash
  if s.durable then s.journalWaits (.durable seq) else s.journalEnds 0 (seq % 2 ^ 32)

/-- APPEND: the journal's job in progress is handled, unless it is a FLUSH (R640, R657). -/
def State.append (s : State) : State :=
  match s.journalJob with
  | none => s
  | some j =>
    if j.op = 2 then s
    else if j.op ≠ 1 then s.journalEnds 0x10 0
    else match s.appendStatus j with
      | some st => (if st = 0x40 then s.event 12 4 else s).journalEnds st 0
      | none =>
        match s.payload j with
        | (s, .fail st) => s.journalEnds st 0
        | (s, .ok l) => if s.fenced 12 then s.journalEnds 0x30 0 else s.commit j l

/-- FLUSH: the journal's job in progress is handled when it is one (R657). -/
def State.flushJob (s : State) : State :=
  match s.journalJob with
  | none => s
  | some j =>
    if j.op ≠ 2 then s
    else if j.param ≠ 0 then s.journalEnds 0x15 0
    else if j.len ≠ 0 ∨ 1 < j.ndesc then s.journalEnds 0x11 0
    else
      let seq := if s.headValid then s.headSeq else 0
      if s.get F.JNL_STFL_OFFSET = s.get F.JNL_STWR_OFFSET then s.journalEnds 0 (seq % 2 ^ 32) else s.journalWaits (.flush seq)

/-! ### Flushing (R649 to R654) -/

/-- The record or pad marker at a staging offset: its bytes, and whether it is a record. -/
def State.staged_ (s : State) (off : Nat) : List Byte × Bool :=
  let h := s.bytes (bsramBase + off) 4
  (s.bytes (bsramBase + off) (ofLe (h.drop 2)), ofLe (h.take 2) == 0xCE4A)

/-- JNL_DBASE. -/
def State.dbase (s : State) : Nat := s.get F.JNL_DBASEHI_BASE * 2 ^ 32 + s.get F.JNL_DBASELO_BASE * 4096
/-- Bytes of the destination. -/
def State.dsize (s : State) : Nat := 2 ^ s.get F.JNL_DBASEHI_SIZE

/-- A write to flash by PP (R652, R765): a programmed bit does not return to 1 (log entry 19). -/
def State.flashProgram (s : State) (off : Nat) : List Byte → State
  | [] => s
  | b :: l => (s.putByte (flashBase + off) (s.byte (flashBase + off) &&& b)).flashProgram (off + 1) l

/-- Flash contents are no longer known (log entry 19). -/
def State.flashLost (s : State) : State :=
  { s with flashGen := s.flashGen + 1, mem := s.mem.filter fun c => regionOf c.1 != Region.flash }

/-- Set the batch. -/
def State.setBatch (s : State) (b : Option Batch) : State := s.updEng fun q => { q with batch := b }

/-- The destination has no room: DESTFULL (R650, R652). -/
def State.destFull (s : State) : State := (s.event 12 3).updEng fun q => { q with destFull := true }

/-- Write bytes to the host ring. -/
def State.ringPut (s : State) (off : Nat) (l : List Byte) : State := s.physWrite (s.dbase + off) l

/-- Copy one record to a HOST destination (R650): `none` when it does not fit between DWR and DRD. -/
def State.toHost (s : State) (rec : List Byte) : Option State :=
  let size := s.dsize - 16
  let wr := s.get F.JNL_DWR_OFFSET
  let (at', pad) := placeAt size wr rec.length
  let used := (wr + size - s.get F.JNL_DRD_OFFSET) % size
  if size ≤ used + pad + rec.length then none
  else
    let s := if pad = 0 then s else s.ringPut wr (padMarker pad)
    some ((s.ringPut at' rec).set F.JNL_DWR_OFFSET ((at' + rec.length) % size))

/-- Copy one record to a FLASH destination (R652): `none` when it does not fit below the region's end. -/
def State.toFlash (s : State) (rec : List Byte) : Option State :=
  let wr := s.get F.JNL_DWR_OFFSET
  if s.dsize < wr + rec.length then none
  else some ((s.flashProgram (s.dbase + wr) rec).set F.JNL_DWR_OFFSET (wr + rec.length))

/-- The batch copies what is in staging from `pos` to its end, `n` items at most. -/
def State.batchCopy (s : State) : Nat → State
  | 0 => s
  | n + 1 =>
    match s.eng.batch with
    | none => s
    | some b =>
      if b.pos = b.stEnd then s
      else
        let (l, isRec) := s.staged_ b.pos
        let next (s : State) : State := s.setBatch (some { b with pos := (b.pos + l.length) % 0x8000 })
        if l.isEmpty then s
        else if !isRec then (next s).batchCopy n
        else match if s.get F.JNL_CFG_DEST = 1 then s.toHost l else s.toFlash l with
          | some s => (next (s.updEng fun q => { q with destFull := false })).batchCopy n
          | none => s.destFull

/-- The batch fails: FLUSHFAIL, the records staying in staging (R652). -/
def State.batchFail (s : State) : State := ({ s.setBatch none with flashBusy := false }.event 12 2)

/-- The flash region lies in installed flash (R652). -/
def State.regionInFlash (s : State) : Bool := decide (s.dbase + s.dsize ≤ 2 ^ s.get F.FSP_CFG_SIZE)

/-- A flush batch starts, or one that waited or was paused goes on (R649 to R652). `ok`: every program of a FLASH destination
verified. -/
def State.flushBatch (s : State) (ok : Bool) : State :=
  let dest := s.get F.JNL_CFG_DEST
  if s.fenced 6 || dest = 0 || !Variant.hasJnl s.variant then s
  else
    let s := if s.eng.batch.isSome || s.get F.JNL_STFL_OFFSET = s.get F.JNL_STWR_OFFSET then s
      else s.setBatch (some ⟨s.get F.JNL_STWR_OFFSET, s.headSeq, s.get F.JNL_STFL_OFFSET⟩)
    if s.eng.batch.isNone then s
    else if dest = 1 then (if s.linkSends s.dbase then s.batchCopy 512 else s)
    else if !s.regionInFlash then s.batchFail
    else if !ok then s.flashLost.batchFail
    else ({ s with flashBusy := true }).batchCopy 512

/-- The durable APPENDs and the FLUSHes up to a SEQ complete (R646, R657). -/
def State.releaseFlushed (s : State) (seq : Nat) : Nat → State
  | 0 => s
  | n + 1 =>
    let upTo : Flight → Bool := fun f => match f.loc with
      | .durable q => decide (q ≤ seq)
      | .flush q => decide (q ≤ seq)
      | _ => false
    match s.pump.flight.find? (fun f => f.done.isNone && upTo f) with
    | none => s
    | some f =>
      let q := match f.loc with
        | .durable q => q
        | .flush q => q
        | _ => 0
      (s.endFlight upTo ⟨0, q % 2 ^ 32, 4⟩).releaseFlushed seq n

/-- The batch completes once it has copied everything (R649, R650): the progress word, JNL_STFL, FLUSHED. -/
def State.flushed (s : State) : State :=
  match s.eng.batch with
  | none => s
  | some b =>
    if b.pos ≠ b.stEnd then s
    else
      let host := s.get F.JNL_CFG_DEST = 1
      if host ∧ ¬ s.linkSends s.dbase then s
      else
        let s := if host then s.ringPut (s.dsize - 16) (leBytes 6 b.lastSeq ++ [0, 0] ++ leBytes 4 (s.get F.JNL_DWR_OFFSET) ++ leBytes 4 0) else s
        let s := ({ s.setBatch none with flashBusy := false }.set F.JNL_STFL_OFFSET b.stEnd).event 12 0
        s.releaseFlushed b.lastSeq s.pump.flight.length

/-- The oldest job waiting to be flushed runs out of JNL_FLTO (R647, R657). -/
def State.flushTimeout (s : State) : State :=
  let waits : Flight → Bool := fun f => match f.loc with
    | .durable _ => true
    | .flush _ => true
    | _ => false
  match s.pump.flight.find? (fun f => f.done.isNone && waits f) with
  | none => s
  | some f =>
    let q := match f.loc with
      | .durable q => q
      | .flush q => q
      | _ => 0
    (s.event 12 2).endFlight waits ⟨0x42, q % 2 ^ 32, 4⟩

/-- The records from JNL_STFL to JNL_STWR (R655). -/
def State.unflushed (s : State) : Nat → Nat → Nat
  | 0, _ => 0
  | n + 1, off =>
    if off = s.get F.JNL_STWR_OFFSET then 0
    else
      let (l, isRec) := s.staged_ off
      if l.isEmpty then 0 else ofBool isRec + s.unflushed n ((off + l.length) % 0x8000)

/-- What a warm reset does to the journal (R655). -/
def State.journalReplay (s : State) : State :=
  if !Variant.hasJnl s.variant then s
  else
    let n := s.unflushed 512 (s.get F.JNL_STFL_OFFSET)
    let s := s.set F.JNL_REPLAY_COUNT n
    if 0 < n ∧ s.get F.JNL_CFG_DEST ≠ 0 then s.event 12 1 else s

/-! ### The copy engine -/

/-- The destination of a copy job (R660). -/
def Job.dest (j : Job) : Nat := if j.gen = 1 then quadAt j.bytes 0x10 else quadAt j.bytes 0x20

/-- The first checks of a copy job (R660, R661), before its list is read. -/
def copyStatus (j : Job) : Option Nat :=
  if j.op ≠ 1 ∧ j.op ≠ 2 then some 0x10
  else if (if j.op = 1 then j.param else j.param / 256) ≠ 0 || j.imm || (j.sgl && decide (j.nseg ≤ 2)) then some 0x15
  else if j.len = 0 ∨ 2 ^ 24 ≤ j.len ∨ 1 < j.ndesc then some 0x11
  else none

/-- Two ranges share a byte. -/
def overlaps (a b : Range) : Bool := decide (a.1 < b.1 + b.2) && decide (b.1 < a.1 + a.2)

/-- The ranges of a copy are ones the engine takes (R661). -/
def State.copyRangesOk (s : State) (src : List Range) (dst : Range) : Bool :=
  s.reachable dst && src.all s.reachable && (s.inDram dst.1 dst.2 || (!src.isEmpty && src.all fun r => s.inDram r.1 r.2)) && !src.any (overlaps dst)

/-- The first `n` bytes of ranges, and what is left. -/
def splitRanges : List Range → Nat → List Range × List Range
  | [], _ => ([], [])
  | (a, l) :: r, n =>
    if n = 0 then ([], (a, l) :: r)
    else if l ≤ n then
      let (x, y) := splitRanges r (n - l)
      ((a, l) :: x, y)
    else ([(a, n)], (a + n, l - n) :: r)

/-- Run bursts (R663): `k` at most, the fill byte if there is one, source, destination, bytes left, bytes written. Answers a status,
`none` when bursts remain, and RESULT. -/
def State.bursts (s : State) (j : Job) (fill : Option Byte) : Nat → List Range → Nat → Nat → Nat → State × Option Nat × Nat
  | 0, _, _, left, done => (s, if left = 0 then some 0 else none, done)
  | k + 1, src, dst, left, done =>
    if left = 0 then (s, some 0, done)
    else
      let n := min left (64 - dst % 64)
      let (now, rest) := splitRanges src n
      let (s, r) := match fill with
        | some b => (s, EngRes.ok (List.replicate n b))
        | none => s.readRanges .copy j.fkey j.hall now
      match r with
      | .fail st => (s, some st, done)
      | .ok l => match s.engWrite .copy j.fkey j.hall dst l with
        | (s, .fail st) => (s, some st, done)
        | (s, .ok _) => s.bursts j fill k rest (dst + n) (left - n) (done + n)

/-- The bursts a job takes at most. -/
def Job.burstCount (j : Job) : Nat := j.len / 64 + 2

/-- The job of a lane. -/
def State.laneJob (s : State) (i : Nat) : Option Job :=
  (s.pump.flight.find? fun f => f.done.isNone && f.loc == .copy i).map (·.job)

/-- The job of lane i ends. -/
def State.laneEnds (s : State) (i status result : Nat) : State := s.endFlight (fun f => f.loc == .copy i) ⟨status, result, 5⟩

/-- Run the job of lane i for at most `k` bursts; a job with bursts left then stops with CPY_TIMEOUT (R664). -/
def State.runLane (s : State) (i k : Nat) (j : Job) : State :=
  match copyStatus j with
  | some st => s.laneEnds i st 0
  | none =>
    let (s, r) := if j.op = 2 then (s, Sum.inl []) else s.sourceRanges .copy j
    match r with
    | .inr st => s.laneEnds i st 0
    | .inl src =>
      if !s.copyRangesOk src (j.dest, j.len) then s.laneEnds i 0x12 0
      else
        let fill := if j.op = 2 then some (BitVec.ofNat 8 j.param) else none
        match s.bursts j fill k src j.dest j.len 0 with
        | (s, some st, n) => s.laneEnds i st n
        | (s, none, n) => (s.event 13 0).laneEnds i 0x40 n

/-- COPY: the job of lane i runs to its end, unless it is a FILL. -/
def State.copyJob (s : State) (i : Nat) : State :=
  match s.laneJob i with
  | none => s
  | some j => if j.op = 2 then s else s.runLane i j.burstCount j

/-- FILL: the job of lane i runs to its end when it is a FILL. -/
def State.fillJob (s : State) (i : Nat) : State :=
  match s.laneJob i with
  | none => s
  | some j => if j.op = 2 then s.runLane i j.burstCount j else s

/-- The job of lane i has run CPY_CFG.TO ms, `k` bursts of it done (R664). -/
def State.copyTimeout (s : State) (i k : Nat) : State :=
  match s.laneJob i with
  | none => s
  | some j => s.runLane i k j

end Sys2Proof.Machine
end

