-- ==== Sys2Proof/Machine/Latch.lean ====
section
/-! DEFINITION. Latch pulses (R700 to R718) and the charger (R719 to R736). What the device senses arrives with the command. -/
namespace Sys2Proof.Machine

/-! ### Pulses -/

/-- The phase code of R710. -/
def PulsePhase.code : PulsePhase → Nat
  | .select => 0
  | .pullIn => 1
  | .hold => 2
  | .release => 3
  | .off => 4

/-- The gate may be on: pull-in, hold and release. -/
def PulsePhase.gated : PulsePhase → Bool
  | .pullIn => true
  | .hold => true
  | .release => true
  | _ => false

/-- Channel n holds a pulse. -/
def State.pulse (s : State) (n : Nat) : Option Pulse := (s.latch.getD n LatchCh.reset).pulse

/-- A pulse begins: order 1 of R702, with the profile values then in force (R703). -/
def State.pulseStart (s : State) (n door k : Nat) (gallery : Bool) : State :=
  let g (f : Fld) : Nat := s.get ((f.ix n).ix k)
  let p : Pulse := ⟨door, k, gallery, g F.LCH_IPULL_IPULL, g F.LCH_IHOLD_IHOLD, g F.LCH_TIME_TPULL, g F.LCH_TIME_THOLD,
    g F.LCH_REL_TBLANK, g F.LCH_REL_TCOMP, g F.LCH_REL_TREL, g F.LCH_REL_RAMP == 1, .select, false, false, false, false, false, false,
    none, 0, 0, 0⟩
  s.updLatch n fun _ => ⟨some p, door, none⟩

/-- Change the pulse of channel n. -/
def State.updPulse (s : State) (n : Nat) (f : Pulse → Pulse) : State := s.updLatch n fun l => { l with pulse := l.pulse.map f }

/-- Take in what was sensed, while the gate is on. -/
def Pulse.sensed (p : Pulse) (x : Sense) : Pulse :=
  if p.phase.gated then { p with peak := max p.peak (max x.peak.toNat x.current.toNat), current := x.current.toNat, duty := x.duty.toNat }
  else p

/-- The present target (R702). -/
def Pulse.target (p : Pulse) : Nat := if p.phase = .hold then p.ihold else p.ipull

/-- The supply check (R702 order 2): pull-in, or order 6 with NOSTART. -/
def State.supplyCheck (s : State) (n : Nat) : State :=
  let v := s.get (F.LCH_CFG_VWIN.ix n)
  let ok := s.flag (F.LCH_CFG_ENABLE.ix n) && (v == 0x1F || s.winOut v == 2)
  s.updPulse n fun p =>
    if p.phase ≠ .select then p
    else if ok then { p with phase := .pullIn } else { p with phase := .off, nostart := true, fault := some 0 }

/-- Order 5: the gate goes off, or the target ramps down (R702). -/
def Pulse.toRelease (p : Pulse) : Pulse := { p with phase := if p.ramp then .release else .off, armed := false }

/-- TPULL ends: hold, or release when THOLD is 0 (R702 order 4). -/
def Pulse.pullEnds (p : Pulse) : Pulse :=
  if p.phase ≠ .pullIn then p else if p.thold = 0 then p.toRelease else { p with phase := .hold }

/-- THOLD ends (R702 order 5). -/
def Pulse.holdEnds (p : Pulse) : Pulse := if p.phase = .hold then p.toRelease else p

/-- The compliance rule is armed (R705). -/
def Pulse.arm (p : Pulse) : Pulse := if p.phase = .pullIn ∨ p.phase = .hold then { p with armed := true } else p

/-- The compliance rule acts (R705). -/
def Pulse.complies (p : Pulse) : Pulse :=
  if p.armed ∧ p.duty = 98 ∧ 10 * p.current < 9 * p.target ∧ ¬ p.comply then
    { p with comply := true, fault := some (p.fault.getD p.phase.code) } else p

/-- The open rule acts at its decision time (R706). -/
def Pulse.opens (p : Pulse) : Pulse :=
  if p.phase = .pullIn ∧ 5 * p.peak ≤ p.ipull then
    { p with opened := true, phase := .off, fault := some (p.fault.getD p.phase.code) } else p

/-- The short rule acts (R707). -/
def Pulse.shorts (p : Pulse) : Pulse :=
  if p.phase.gated ∧ 3 * p.ipull < 2 * p.current then
    { p with short := true, phase := .off, fault := some (p.fault.getD p.phase.code) } else p

/-- The outcome of a pulse (R709). -/
def Pulse.status (p : Pulse) : Nat :=
  if p.short then 0x42 else if p.opened then 0x41 else if p.comply || p.nostart || p.abort then 0x40 else 0

/-- The RESULT word (R710). -/
def Pulse.result (p : Pulse) : Nat :=
  ofBool p.comply * 2 ^ 31 + ofBool p.nostart * 2 ^ 30 + ofBool p.abort * 2 ^ 29 + p.fault.getD 4 * 2 ^ 24 + p.profile * 2 ^ 21
    + p.door * 2 ^ 16 + satTo 4095 p.peak

/-- Order 6 ends (R702, R715, R717): the outcome is recorded, the channel is free, and a well job completes. -/
def State.pulseEnd (s : State) (n : Nat) : State :=
  match s.pulse n with
  | none => s
  | some p =>
    if p.phase ≠ .off ∧ p.phase ≠ .release then s
    else
      let st := p.status
      let s := s.updLatch n fun l => { l with pulse := none, outcome := some st }
      let s := s.set (F.LCH_LAST_RESULT.ix n) p.result
      let s := ((s.put (F.LCH_LASTST_VALID.ix n) true).put (F.LCH_LASTST_SRC.ix n) p.gallery).set (F.LCH_LASTST_STATUS.ix n) st
      let s := s.bump (F.LCH_CNT_PULSES.ix n) 1
      let s := if st = 0 then s else (s.bump (F.LCH_CNT_NOTOK.ix n) 1).event 15 n
      if p.gallery then s else s.endFlight (fun f => f.loc == .latch n) ⟨st, p.result, 6⟩

/-- The checks of a latch job (R713, R714). -/
def latchStatus (j : Job) : Option Nat :=
  let w := longAt j.bytes 0
  if j.op ≠ 1 then some 0x10
  else if andNot j.param 0x71F ≠ 0 || j.addr ≠ 0 || j.len ≠ 0 || (j.gen == 1 && (bitsOf w 15 8 ≠ 0 || quadAt j.bytes 0x10 ≠ 0))
    || (j.gen == 3 && (j.sgl || j.imm || j.nseg ≠ 0)) then some 0x15
  else if 1 < j.ndesc then some 0x11
  else none

/-- LATCH_PULSE_JOB: the job of channel n is checked and starts its pulse (R713 to R715). -/
def State.latchJob (s : State) (n : Nat) : State :=
  match s.pump.flight.find? fun f => f.done.isNone && f.loc == .latch n with
  | none => s
  | some f =>
    if (s.pulse n).isSome then s
    else match latchStatus f.job with
      | some st => s.endFlight (fun f => f.loc == .latch n) ⟨st, 0, 6⟩
      | none => s.pulseStart n (bitsOf f.job.param 4 0) (bitsOf f.job.param 10 8) false

/-! ### The charger -/

/-- Take in a measurement (R738). -/
def State.chgMeas (s : State) (m : Meas) : State :=
  ((s.updChg fun q => { q with vbat := m.vbat.toNat, ntc := m.ntc.toNat }).set F.CHG_MEAS_VBAT m.vbat.toNat).set
    F.CHG_MEAS_CURRENT m.current.toNat

/-- VCV and VPRE in mV. -/
def State.vcv (s : State) : Nat := [4100, 4200, 3600].getD (s.get F.CHG_CFG_CHEM) 3600
def State.vpre (s : State) : Nat := if s.flag F.CHG_CFG_PRESEL then 2500 else 3000

/-- The NTC code allows charging (R726). -/
def State.ntcOk (s : State) : Bool := decide (s.get F.CHG_NTC_HOT < s.chg.ntc) && decide (s.chg.ntc < s.get F.CHG_NTC_COLD)

/-- Enter a state other than SUSPEND and FAULT. -/
def State.chgTo (s : State) (st : Nat) : State := s.updChg fun q => { q with state := st, scause := 0, fcause := 0 }

/-- Enter SUSPEND with a cause. -/
def State.chgSuspend (s : State) (cause : Nat) : State :=
  (s.updChg fun q => { q with state := 6, scause := cause, fcause := 0 }).event 16 6

/-- Enter FAULT with a cause. -/
def State.chgFault (s : State) (cause : Nat) : State :=
  (s.updChg fun q => { q with state := 7, fcause := cause, scause := 0 }).event 16 3

/-- A charge begins (R721). -/
def State.chgBegin (s : State) : State :=
  let s := (s.set F.CHG_ELAPSED_MINUTES 0).updClk fun q => { q with minute := 0 }
  if !s.ntcOk then s.chgSuspend 1 else if s.chg.vbat < s.vpre then s.chgTo 2 else s.chgTo 3

/-- SUSPEND ends (R728): the NTC check, then the phase that VBAT selects. -/
def State.chgResume (s : State) : State :=
  if !s.ntcOk then s.chgSuspend 1 else if s.chg.vbat < s.vpre then s.chgTo 2 else if s.chg.vbat < s.vcv then s.chgTo 3 else s.chgTo 4

/-- PRECHARGE, CC or CV. -/
def State.charging (s : State) : Bool := decide (2 ≤ s.chg.state) && decide (s.chg.state ≤ 4)

/-- ENABLE goes to 1 (R720). -/
def State.chgEnable (s : State) : State :=
  if s.chg.state ≠ 0 then s
  else if s.chg.oncell then (s.updChg fun q => { q with present := true }).chgSuspend 2
  else (s.chgTo 1).updChg fun q => { q with present := false, probes := 0 }

/-- ENABLE goes to 0 (R720). -/
def State.chgDisable (s : State) : State := (s.chgTo 0).updChg fun q => { q with present := false, probes := 0 }

/-- The cell counts as removed (R730). -/
def State.chgRemove (s : State) (cause : Nat) : State :=
  let st := s.chg.state
  let s := ((s.put F.CHG_REMREC_VALID true).set F.CHG_REMREC_CAUSE cause).set F.CHG_REMREC_STATE st
  let s := s.set F.CHG_REMTIME_TIME (bitsOf s.tb.toNat 31 0)
  ((s.chgTo 1).updChg fun q => { q with present := false, probes := 0 }).event 16 0

/-- The removal conditions of R729 but the failed probe: 1 VBATRISE, 2 NTCOPEN, 3 COLLAPSE. -/
def State.removalHolds (s : State) (cause : Nat) : Bool :=
  let q := s.chg
  !q.oncell && match cause with
    | 1 => q.state == 3 && decide (s.vcv + 150 < q.vbat)
    | 2 => decide (2 ≤ q.state) && decide (993 ≤ q.ntc)
    | _ => (q.state == 2 || q.state == 3) && decide (q.vbat < s.vcv)

/-- A removal condition occurs. -/
def State.chgRemoval (s : State) (cause : Nat) : State := if s.removalHolds cause then s.chgRemove cause else s

/-- PRECHARGE ends at VPRE + 100 mV (R722). -/
def State.chgPreDone (s : State) : State := if s.chg.state = 2 ∧ s.vpre + 100 ≤ s.chg.vbat then s.chgTo 3 else s
/-- 30 minutes in PRECHARGE (R722). -/
def State.chgPreTimeout (s : State) : State := if s.chg.state = 2 then s.chgFault 2 else s
/-- CC ends at VCV (R723). -/
def State.chgCcDone (s : State) : State := if s.chg.state = 3 ∧ s.vcv ≤ s.chg.vbat then s.chgTo 4 else s
/-- CV ends when the current has stayed below TERM% of ICC (R724). -/
def State.chgDone (s : State) : State :=
  if s.chg.state = 4 ∧ 10 * s.get F.CHG_MEAS_CURRENT < s.get F.CHG_CFG_TERM * s.get F.CHG_ICC_ICC then (s.chgTo 5).event 16 2 else s
/-- Recharge (R725). -/
def State.chgRecharge (s : State) : State := if s.chg.state = 5 ∧ 100 * s.chg.vbat < 97 * s.vcv then s.chgBegin else s
/-- The NTC code leaves the window (R726). -/
def State.chgNtcOut (s : State) : State := if s.charging && !s.ntcOk then s.chgSuspend 1 else s
/-- The NTC code returns inside the hysteresis (R726, R728). -/
def State.chgNtcIn (s : State) : State :=
  if s.chg.state = 6 ∧ s.chg.scause = 1 ∧ s.get F.CHG_NTC_HOT + 16 < s.chg.ntc ∧ s.chg.ntc + 16 < s.get F.CHG_NTC_COLD then s.chgResume
  else s
/-- The safety timer reaches TIMER hours (R727). -/
def State.chgTimeout (s : State) : State :=
  if s.charging then (s.set F.CHG_ELAPSED_MINUTES (60 * s.get F.CHG_CFG_TIMER)).chgFault 1 else s
/-- CLEARFAULT (R728). -/
def State.chgClear (s : State) : State := if s.chg.state = 7 then s.chgBegin else s

/-- A probe over which VBAT rose by `rise` mV (R731). -/
def State.chgProbe (s : State) (rise : Nat) : State :=
  let q := s.chg
  let ok := decide (rise ≤ 150) && decide (q.vbat < s.vcv) && decide (q.ntc < 993)
  if q.oncell then s
  else if q.state = 1 then
    if !ok then s.updChg fun q => { q with probes := 0 }
    else if q.probes < 2 then s.updChg fun q => { q with probes := q.probes + 1 }
    else ((s.updChg fun q => { q with probes := 0, present := true }).event 16 1).chgBegin
  else if (q.state = 5 ∨ (q.state = 6 ∧ q.scause = 1) ∨ q.state = 7) ∧ !ok then s.chgRemove 4
  else s

/-- VAON is taken from the cell (R732, R733, R833). -/
def State.onCell (s : State) : State :=
  if s.chg.oncell || !Variant.hasChg s.variant then s
  else
    let s := (s.updChg fun q => { q with oncell := true }).event 16 4
    if s.chg.state = 0 then s else (s.updChg fun q => { q with present := true }).chgSuspend 2

/-- VAON is taken from VAONIN again (R732, R733). -/
def State.offCell (s : State) : State :=
  if !s.chg.oncell then s
  else
    let s := (s.updChg fun q => { q with oncell := false }).event 16 5
    if s.chg.state = 6 ∧ s.chg.scause = 2 then s.chgResume else s

end Sys2Proof.Machine
end

