-- ==== Sys2Proof/Machine/Gallery.lean ====
section
/-! DEFINITION. The Gallery event engine (R666 to R699). One operation per instruction; a sweep fetches the active bank and runs
them. -/
namespace Sys2Proof.Machine

/-! ### Banks (R688 to R690) -/

/-- Long `off` of the image of a bank. -/
def State.galLong (s : State) (bank off : Nat) : Nat := s.get ((F.GAL_BANK_WORD.ix bank).ix off)
/-- LEN of a bank; TCFGn, ECFGn; the carry declarations. -/
def State.galLen (s : State) (b : Nat) : Nat := bitsOf (s.galLong b 1) 10 0
def State.galTcfg (s : State) (b n : Nat) : Nat := s.galLong b (8 + n)
def State.galEcfg (s : State) (b n : Nat) : Nat := s.galLong b (72 + n)
def State.galTcarry (s : State) (b n : Nat) : Bool := bit (s.galLong b (2 + n / 32)) (n % 32)
def State.galEcarry (s : State) (b n : Nat) : Bool := bit (s.galLong b 4) n

/-- Timebase counts of a UNIT (R671). -/
def unitCounts (u : Nat) : Nat := [240, 24000, 2400000, 24000000].getD u 240

/-- An input address 0x000 to 0x0FF is listed in R675. -/
def inputOk (a : Nat) : Bool :=
  decide (a ≤ 0x90) || (decide (0x98 ≤ a) && decide (a ≤ 0x9B)) || a == 0xFF

/-- A bit address is listed in R675. -/
def bitAddrOk (a : Nat) : Bool :=
  if a < 0x100 then inputOk a else decide (a ≤ 0x1E2)

/-- The first failure of an instruction: a reason of R690. -/
def galInsFault (w : Nat) : Option Nat :=
  let op := bitsOf w 31 26
  let zero (m : Nat) (r : Option Nat) : Option Nat := if andNot w (0xFC000000 ||| m) ≠ 0 then some 4 else r
  if op = 0 ∨ op = 8 ∨ op = 0x3F then zero 0 none
  else if 1 ≤ op ∧ op ≤ 7 then zero 0x3FF0000 (if bitAddrOk (bitsOf w 25 16) then none else some 6)
  else if op = 0x10 ∨ op = 0x11 ∨ op = 0x12 ∨ op = 0x23 then zero 0x3F00000 (if bitsOf w 25 20 < 32 then none else some 5)
  else if op = 0x14 ∨ op = 0x16 then zero 0x3F00000 none
  else if op = 0x15 then none
  else if op = 0x20 then zero 0x3FF0000 none
  else if op = 0x21 then zero 0x3F00003 none
  else if op = 0x22 then zero 1 none
  else if op = 0x24 then zero 0xF00000 none
  else if op = 0x30 ∨ op = 0x31 then zero 0xFF (if bitsOf w 7 0 = 0 then some 7 else none)
  else some 4

/-- A header long with bits that must be zero, or a reserved INPUT (R688, R690). -/
def galHeaderFault (off w : Nat) : Bool :=
  if off = 1 then decide (2048 ≤ w)
  else if 2 ≤ off ∧ off ≤ 4 then false
  else if 8 ≤ off ∧ off < 72 then decide (2 ^ 26 ≤ w)
  else if 72 ≤ off ∧ off < 104 then decide (1024 ≤ w) || !inputOk (w % 256)
  else w ≠ 0

/-- The first failure of a bank in image order: reason and long offset (R690). -/
def State.galCheck (s : State) (b : Nat) : Option (Nat × Nat) :=
  let len := s.galLen b
  if s.galLong b 0 ≠ 0x4C414751 then some (1, 0)
  else if len = 0 ∨ 1024 < len then some (2, 1)
  else match ((List.range 127).map (· + 1)).find? fun o => galHeaderFault o (s.galLong b o) with
    | some o => some (3, o)
    | none =>
      match (List.range len).find? fun i => (galInsFault (s.galLong b (128 + i))).isSome with
      | some i => some ((galInsFault (s.galLong b (128 + i))).getD 0, 128 + i)
      | none => none

/-- An input names an absent unit (R676). -/
def State.inputAbsent (s : State) (a : Nat) : Bool :=
  if a < 0x40 then !Variant.win s.variant (a / 4)
  else if 0x80 ≤ a ∧ a < 0x90 then decide (Variant.latches s.variant ≤ (a - 0x80) / 4)
  else if 0x98 ≤ a ∧ a ≤ 0x9B then !Variant.hasChg s.variant
  else false

/-- The long at an image offset refers to an absent window, channel or the charger (R690). -/
def State.refAbsent (s : State) (off w : Nat) : Bool :=
  if 72 ≤ off ∧ off < 104 then decide (bitsOf w 9 8 ≠ 0) && s.inputAbsent (w % 256)
  else if off < 128 then false
  else
    let op := bitsOf w 31 26
    if 1 ≤ op ∧ op ≤ 7 then decide (bitsOf w 25 16 < 0x100) && s.inputAbsent (bitsOf w 25 16)
    else op == 0x20 && decide (Variant.latches s.variant ≤ bitsOf w 25 24)

/-- GAL_ABSREC (R687, R690). -/
def State.absRec (s : State) (run : Bool) (off : Nat) : State :=
  ((((s.event 14 4).put F.GAL_ABSREC_VALID true).put F.GAL_ABSREC_RUN run).set F.GAL_ABSREC_OFFSET off)

/-- The first reference of a bank that passed its check to an absent unit. -/
def State.galAbsents (s : State) (b : Nat) : State :=
  match (List.range (128 + s.galLen b)).find? fun o => s.refAbsent o (s.galLong b o) with
  | some o => s.absRec false o
  | none => s

/-! ### The bits (R675) -/

/-- An input bit as it stands now (R675, R676). -/
def State.inputNow (s : State) (a : Nat) : Bool :=
  if s.inputAbsent a then false
  else if a < 0x40 then s.winOut (a / 4) == a % 4
  else if a < 0x80 then bit (s.get (F.GPIO_IN_MASK.ix ((a - 0x40) / 32))) ((a - 0x40) % 32)
  else if a < 0x90 then
    let l := s.latch.getD ((a - 0x80) / 4) LatchCh.reset
    if a % 4 = 0 then l.pulse.isSome else l.outcome == some (0x3F + a % 4)
  else if a = 0x90 then s.seq.kline
  else if a = 0x98 then s.chg.present
  else if a = 0x99 then s.charging
  else if a = 0x9A then s.chg.state == 6 || s.chg.state == 7
  else if a = 0x9B then s.chg.oncell
  else false

/-- The device is in the Cistern state: entry is committed and the fabric not yet released. -/
def State.inCistern (s : State) : Bool := s.pwr.cis == .releasing || s.pwr.cis == .asleep || s.pwr.cis == .waking

def GTimer.isExpired : GTimer → Bool
  | .expired => true
  | _ => false
def GTimer.isRunning : GTimer → Bool
  | .running _ => true
  | _ => false

/-- A bit as an instruction reads it: inputs from the snapshot, the rest as it stands in the sweep (R668). -/
def State.galBit (s : State) (a : Nat) : Bool :=
  if a < 0x100 then bit s.gal.snap a
  else if a < 0x120 then bit s.gal.edges (a - 0x100)
  else if a < 0x140 then bit (s.get F.GAL_ESTAT_LAST) (a - 0x120)
  else if a < 0x180 then (s.gal.timers.getD (a - 0x140) .idle).isExpired
  else if a < 0x1C0 then (s.gal.timers.getD (a - 0x180) .idle).isRunning
  else if a < 0x1E0 then bit (s.get F.GAL_FLAGS_GF) (a - 0x1C0)
  else if a = 0x1E0 then true
  else if a = 0x1E1 then s.inCistern
  else if a = 0x1E2 then s.gal.first
  else false

/-! ### Instructions (R677 to R687) -/

/-- The index passes the instruction and those skipped. -/
def State.galPass (s : State) (k : Nat) : State := s.updGal fun g => { g with idx := g.idx + 1 + k }
def State.setAcc (s : State) (b : Bool) : State := s.updGal fun g => { g with acc := b }

/-- A test instruction: ACC becomes a function of ACC and bit A. -/
def State.galTest (s : State) (f : Bool → Bool → Bool) (a : Nat) : State := (s.setAcc (f s.gal.acc (s.galBit a))).galPass 0

/-- SETF, CLRF and STF. -/
def State.galFlag (s : State) (n : Nat) (b : Bool) : State := s.set F.GAL_FLAGS_GF (withBit (s.get F.GAL_FLAGS_GF) n b)
def State.galSetf (s : State) (n : Nat) : State := (if s.gal.acc then s.galFlag n true else s).galPass 0
def State.galClrf (s : State) (n : Nat) : State := (if s.gal.acc then s.galFlag n false else s).galPass 0
def State.galStf (s : State) (n : Nat) : State := (s.galFlag n s.gal.acc).galPass 0

/-- Set timer n. -/
def State.setTimer (s : State) (n : Nat) (t : GTimer) : State := s.updGal fun g => { g with timers := setAt g.timers n t }

/-- Start timer n with a count (R672). -/
def State.timerStart (s : State) (n count : Nat) : State :=
  s.setTimer n (.running (s.tb.toNat + count * unitCounts (bitsOf (s.galTcfg s.gal.bank n) 25 24)))
def State.galTstart (s : State) (n : Nat) : State :=
  (if s.gal.acc then s.timerStart n (bitsOf (s.galTcfg s.gal.bank n) 23 0) else s).galPass 0
def State.galTstarti (s : State) (n count : Nat) : State := (if s.gal.acc then s.timerStart n count else s).galPass 0
def State.galTstop (s : State) (n : Nat) : State := (if s.gal.acc then s.setTimer n .idle else s).galPass 0

/-- Channel c has a pulse or a job in progress (R679). -/
def State.latchBusy (s : State) (c : Nat) : Bool := (s.pulse c).isSome || s.atLoc (· == .latch c)

/-- PULSE (R679, R687). -/
def State.galPulse (s : State) (c door k : Nat) : State :=
  (if !s.gal.acc then s
   else if Variant.latches s.variant ≤ c then (s.absRec true s.gal.idx).setAcc false
   else if s.latchBusy c then s.setAcc false
   else (s.pulseStart c door k true).setAcc true).galPass 0

/-- GPO (R680). -/
def State.galGpo (s : State) (n mode : Nat) : State :=
  let f := F.GPIO_OUT_MASK.ix (n / 32)
  let old := bit (s.get f) (n % 32)
  let v := if mode = 3 then s.gal.acc else if !s.gal.acc then old else if mode = 0 then false else if mode = 1 then true else !old
  (s.set f (withBit (s.get f) (n % 32) v)).galPass 0

/-- WAKE (R681). -/
def State.galWake (s : State) (h : Hall) : State :=
  (if !s.gal.acc || s.pwr.cis == .awake || !bit (s.get F.PWR_WAKEEN_EN) 0 then s
   else (s.updPwr fun p => { p with wakeGalL := p.wakeGalL || h == .L }).wake 0).galPass 0

/-- BELL (R682). -/
def State.galBell (s : State) (n : Nat) : State :=
  (if !s.gal.acc then s
   else if s.pwr.fabricUp then s.fireBell (64 + n)
   else s.set F.GAL_BELLPEND_MASK (setBit (s.get F.GAL_BELLPEND_MASK) n)).galPass 0

/-- POST (R683). -/
def State.galPost (s : State) (t : Nat) : State :=
  (if !s.gal.acc then s
   else if s.gal.queue.length < 16 then (s.updGal fun g => { g with queue := g.queue ++ [t] }).setAcc true
   else (s.event 14 5).setAcc false).galPass 0

def State.galSkip (s : State) (on : Bool) (k : Nat) : State := s.galPass (if s.gal.acc = on then k else 0)

/-- END: no instruction follows. -/
def State.galEnd (s : State) : State := s.updGal fun g => { g with idx := 1024 }

/-- One instruction word of a checked bank. -/
def State.galIns (s : State) (w : Nat) : State :=
  let a := bitsOf w 25 16
  let n := bitsOf w 25 20
  match bitsOf w 31 26 with
  | 0x01 => s.galTest (fun _ b => b) a
  | 0x02 => s.galTest (fun _ b => !b) a
  | 0x03 => s.galTest (fun x b => x && b) a
  | 0x04 => s.galTest (fun x b => x && !b) a
  | 0x05 => s.galTest (fun x b => x || b) a
  | 0x06 => s.galTest (fun x b => x || !b) a
  | 0x07 => s.galTest (fun x b => x != b) a
  | 0x08 => (s.setAcc (!s.gal.acc)).galPass 0
  | 0x10 => s.galSetf n
  | 0x11 => s.galClrf n
  | 0x12 => s.galStf n
  | 0x14 => s.galTstart n
  | 0x15 => s.galTstarti n (bitsOf w 19 0)
  | 0x16 => s.galTstop n
  | 0x20 => s.galPulse (bitsOf w 25 24) (bitsOf w 23 19) (bitsOf w 18 16)
  | 0x21 => s.galGpo n (bitsOf w 1 0)
  | 0x22 => s.galWake (hallOf (bit w 0))
  | 0x23 => s.galBell n
  | 0x24 => s.galPost (bitsOf w 23 20)
  | 0x30 => s.galSkip true (bitsOf w 7 0)
  | 0x31 => s.galSkip false (bitsOf w 7 0)
  | 0x3F => s.galEnd
  | _ => s.galPass 0

/-! ### Sweeps (R666 to R669) -/

/-- Edge detectors sampled from the snapshot (R673, R695). -/
def State.galEdges (s : State) : State :=
  let last := s.get F.GAL_ESTAT_LAST
  let lvl (n : Nat) : Bool := bit s.gal.snap (bitsOf (s.galEcfg s.gal.bank n) 7 0)
  let edge (n : Nat) : Bool :=
    let l := bit last n
    !bit s.gal.fresh n && match bitsOf (s.galEcfg s.gal.bank n) 9 8 with
      | 1 => !l && lvl n
      | 2 => l && !lvl n
      | 3 => l != lvl n
      | _ => false
  (s.updGal fun g => { g with edges := packBits 32 edge, fresh := 0 }).set F.GAL_ESTAT_LAST (packBits 32 lvl)

/-- A running timer whose deadline the timebase has reached is expired (R672). -/
def GTimer.mark (tb : Nat) : GTimer → GTimer
  | .running d => if d ≤ tb then .expired else .running d
  | t => t

/-- The tick of a sweep's first instruction (R667). -/
def State.sweepBegin (s : State) : State :=
  let snap := packBits 256 s.inputNow
  let s := (s.updGal fun g => { g with snap := snap, acc := false, idx := 0, timers := g.timers.map (GTimer.mark s.tb.toNat) }).galEdges
  s.set F.GAL_SWEEPCNT_COUNT ((s.get F.GAL_SWEEPCNT_COUNT + 1) % 2 ^ 32)

/-- Run the program from the index on, `n` instructions at most. -/
def State.sweepRun (s : State) : Nat → State
  | 0 => s
  | n + 1 => if s.galLen s.gal.bank ≤ s.gal.idx then s else (s.galIns (s.galLong s.gal.bank (128 + s.gal.idx))).sweepRun n

/-! ### Exchange and loading (R690 to R698) -/

/-- Timer n is RUNNING or EXPIRED. -/
def State.timerLive (s : State) (n : Nat) : Bool :=
  let t := s.gal.timers.getD n .idle
  t.isRunning || t.isExpired

/-- Slots are treated and the report written (R691, R695 to R697): `carryT`, `carryE` say which slots keep their state, `forcedT`,
`forcedE` which were forced to reset. -/
def State.galReport (s : State) (carryT carryE forcedT forcedE : Nat → Bool) : State :=
  let cancel (n : Nat) : Bool := s.timerLive n && !carryT n
  let s := (s.set (F.GAL_TCANCEL_MASK.ix 0) (packBits 32 cancel)).set (F.GAL_TCANCEL_MASK.ix 1) (packBits 32 fun n => cancel (32 + n))
  let s := (s.set (F.GAL_TFORCED_MASK.ix 0) (packBits 32 forcedT)).set (F.GAL_TFORCED_MASK.ix 1) (packBits 32 fun n => forcedT (32 + n))
  let s := s.set F.GAL_EFORCED_MASK (packBits 32 forcedE)
  (s.updGal fun g => { g with
    timers := (List.range 64).map (fun n => if carryT n then g.timers.getD n .idle else .idle)
    fresh := packBits 32 (fun n => !carryE n || bit g.fresh n)
    first := true }).event 14 0

/-- The exchange (R694 to R697). -/
def State.galExchange (s : State) : State :=
  if !s.gal.swapPend then s
  else
    let o := s.gal.bank
    let b := 1 - o
    let sameT (n : Nat) : Bool := bitsOf (s.galTcfg o n) 25 24 == bitsOf (s.galTcfg b n) 25 24
    let sameE (n : Nat) : Bool := bitsOf (s.galEcfg o n) 7 0 == bitsOf (s.galEcfg b n) 7 0
    (s.galReport (fun n => s.galTcarry b n && sameT n) (fun n => s.galEcarry b n && sameE n)
      (fun n => s.galTcarry b n && !sameT n) (fun n => s.galEcarry b n && !sameE n)).updGal fun g =>
      { g with bank := b, swapPend := false }

/-- A due sweep (R666 to R669): `missed` due times passed while the sweep before it ran. A pending exchange takes effect at its end
(R694). -/
def State.gallerySweep (s : State) (missed : Nat) : State :=
  if !s.gal.run then s
  else
    let s := if missed = 0 then s else (s.event 14 2).bump F.GAL_OVRCNT_COUNT missed
    let s := (s.sweepBegin.sweepRun 1024).updGal fun g => { g with first := false }
    s.galExchange

/-- A running timer reaches its deadline at a sweep start (R672). -/
def State.timerExpiry (s : State) (n : Nat) : State :=
  if !s.gal.run then s else s.setTimer n ((s.gal.timers.getD n .idle).mark s.tb.toNat)

/-- GAL_CTL.START (R691): the check begins, or BUSY. -/
def State.galStart (s : State) (b : Nat) : State :=
  if s.gal.run || s.gal.check.isSome then s.logBusy 0x240100 0 1
  else s.updGal fun g => { g with check := some (true, b) }

/-- GAL_CTL.SWAP (R694, R698): the check begins, or BUSY; with RUN 0 there is nothing to exchange. -/
def State.galSwap (s : State) (b : Nat) : State :=
  if s.gal.swapPend || s.gal.check.isSome then s.logBusy 0x240100 2 1
  else if !s.gal.run then s
  else s.updGal fun g => { g with check := some (false, b) }

/-- GAL_CTL.STOP (R692): the engine ends; a swap is cancelled. -/
def State.galStop (s : State) : State :=
  s.updGal fun g => { g with run := false, swapPend := false, check := match g.check with
    | some (true, b) => some (true, b)
    | _ => none }

/-- A refused bank (R690). -/
def State.galRefuse (s : State) (reason off : Nat) : State :=
  (((s.event 14 1).put F.GAL_LOADREC_VALID true).set F.GAL_LOADREC_REASON reason).set F.GAL_LOADREC_OFFSET off

/-- The check ends (R690, R691, R694). -/
def State.galCheckDone (s : State) : State :=
  match s.gal.check with
  | none => s
  | some (start, b) =>
    let s := s.updGal fun g => { g with check := none }
    if !start ∧ b = s.gal.bank then s.galRefuse 8 0
    else match s.galCheck b with
      | some (r, off) => s.galRefuse r off
      | none =>
        let s := s.galAbsents b
        if start then
          let s := s.galReport (fun _ => false) (fun _ => false) (fun _ => false) (fun _ => false)
          (s.updGal fun g => { g with run := true, bank := b }).set F.GAL_SWEEPCNT_COUNT 0
        else s.updGal fun g => { g with swapPend := true }

/-- A bank whose words may not be written now (R689). -/
def State.bankHeld (s : State) (b : Nat) : Bool :=
  (s.gal.run && (s.gal.bank == b || s.gal.swapPend)) || match s.gal.check with
    | some (_, b') => b' == b
    | none => false

/-! ### Template posting (R684, R685) -/

/-- The bytes of template t as written at index x of a well (R684). -/
def State.templateBytes (s : State) (c : WellCtx) (t : Nat) : List Byte :=
  let long (k : Nat) : Nat := s.get ((F.GAL_TPL_LONG.ix t).ix k)
  let w0 := if c.gen = 2 then clrBit (setBit (long 0) 8) 9 else if c.gen = 3 then putBits (long 0) 8 8 (c.phaseAt c.pi) else long 0
  let l := leBytes 4 w0 ++ ((List.range 15).flatMap fun k => leBytes 4 (long (k + 1)))
  l.take (genBytes c.gen)

/-- An entry is discarded (R685). -/
def State.postFail (s : State) (reason t w : Nat) : State :=
  ((((s.event 14 3).put F.GAL_POSTREC_VALID true).set F.GAL_POSTREC_REASON reason).set F.GAL_POSTREC_TEMPLATE t).set F.GAL_POSTREC_WELL w

/-- OWN of the slot at PI, which a Gen 2 well with CPLMODE 0 must have clear (R684). -/
def State.slotOwned (s : State) (c : WellCtx) : State × Bool :=
  if c.gen ≠ 2 ∨ c.cplmode = 1 then (s, false)
  else match s.engRead .pump c.fkey c.hall (c.slotAddr c.pi) 4 with
    | (s, .ok l) => (s, bit (ofLe l) 8)
    | (s, .fail _) => (s, false)

/-- Deliver the entry at the head of the post queue (R684, R685), while the fabric runs. -/
def State.postDeliver (s : State) : State :=
  match s.gal.queue with
  | [] => s
  | t :: q =>
    if !s.pwr.fabricUp || s.fenced 5 then s
    else
      let s := s.updGal fun g => { g with queue := q }
      let w := s.get (F.GAL_TPLCTL_WELL.ix t)
      if w = 0x7FFF || Variant.wells s.variant ≤ w then s.postFail 0 t w
      else if !s.wellThere w || !(s.wellOn w).enable then s.postFail 1 t w
      else
        let s := s.loadCtx w
        let c := s.ctx w
        if !(s.wellOn w).enable || s.pausedCtx c then s.postFail 1 t w
        else if c.hostResident then s.postFail 2 t w
        else
          let (s, own) := s.slotOwned c
          if c.entries - 1 < (c.pi + 1 + 65536 - c.ci) % 65536 || own then s.postFail 3 t w
          else match s.engWrite .pump c.fkey c.hall (c.slotAddr c.pi) (s.templateBytes c t) with
            | (s, .fail _) => s.postFail 4 t w
            | (s, .ok _) => (s.ring (.core 0 .L) w ((c.pi + 1) % 65536)).1

/-- GAL_TSTATn (R699). -/
def State.galTstat (s : State) (n : Nat) : Nat :=
  match s.gal.timers.getD n .idle with
  | .idle => 0
  | .expired => 2 ^ 24
  | .running d =>
    let u := unitCounts (bitsOf (s.galTcfg s.gal.bank n) 25 24)
    2 ^ 25 + satTo (2 ^ 24 - 1) ((d - s.tb.toNat + u - 1) / u)

end Sys2Proof.Machine
end

