-- ==== Sys2Proof/Machine/Ports.lean ====
section
/-! DEFINITION. The host link's power states and errors (R739 to R752), the DRAM controller (R753 to R762), flash commands (R763 to
R767), UARTs, I²C, GPIO (R768 to R780) and the RTC (R782, R783). -/
namespace Sys2Proof.Machine

/-! ### Link -/

/-- A machine check falls due on a core (R793). -/
def State.machineCheck (s : State) (c : Nat) (m : McDue) : State :=
  if h : c < 4 then { s with cores := s.cores.set c { s.cores[c] with due := { s.cores[c].due with mc := s.cores[c].due.mc ++ [m] } } } else s

/-- LINK_UP: the link trains at a rate and width within HLK_CFG (R120, R752). -/
def State.linkUp (s : State) (rate width : Nat) : State :=
  let r := max 1 (min rate (s.get F.HLK_CFG_MAXRATE))
  let w := if width < 2 then 1 else if width < 4 ∨ s.get F.HLK_CFG_MAXWIDTH < 4 then min 2 (s.get F.HLK_CFG_MAXWIDTH) else 4
  (s.updLink fun l => { l with up := true, perst := false, lp := 0, dState := 0, rate := r, width := w, wakeN := false }).event 21 0

/-- LINK_DOWN (R743): HLK_EVT.LINKDOWN. -/
def State.linkDown (s : State) : State :=
  if s.link.up then (s.updLink fun l => { l with up := false, rate := 0, width := 0, lp := 0 }).event 21 1 else s

/-- The D-state changes (R747). -/
def State.dState (s : State) (d : Nat) : State :=
  if s.link.dState = d then s else (s.updLink fun l => { l with dState := d }).event 21 3

/-- PME (R748): signalled while PME_En is 1; WAKE# is asserted in D3cold, with PERST# asserted. -/
def State.pme (s : State) : State :=
  if s.link.pmeEn then s.updLink fun l => { l with pmeStat := true, wakeN := l.wakeN || l.perst } else s

/-- PME_Turn_Off (R749): L2/L3 Ready. -/
def State.pmeTurnOff (s : State) : State := if s.link.up then s.updLink fun l => { l with lp := 4 } else s

/-- ASPM L1 after 32 µs of idle (R750). -/
def State.aspmL1 (s : State) : State :=
  if s.link.up && s.link.aspm && s.link.lp == 0 then
    s.updLink fun l => { l with lp := if bit l.l1ss 1 then 3 else if bit l.l1ss 0 then 2 else 1 }
  else s

/-- A host request fails (R745): AER, HLK_EVT.CTO and its count for a timeout, the record of bank 6, and poison or HOST_ABORT. -/
def State.hostFail (s : State) (r : Requester) (k : HostFail) : State :=
  let s := if k = .timeout then
      ((s.event 21 4).bump F.HLK_CTOCNT_COUNT 1).updLink fun l => { l with aer := setBit l.aer 1 }
    else s.updLink fun l => { l with aer := setBit l.aer 0 }
  match r with
  | .core c => (s.logError 6 8 10 true none).machineCheck c.val ⟨2, 10, none⟩
  | .journal => (s.logError 6 8 10 false none).journalEnds 0x31 0
  | .lane i => (s.logError 6 8 10 false none).laneEnds i.val 0x31 0
  | .pump w => ((s.logError 6 8 10 false none).wellOff w.toNat 7).event 10 4

/-- CONFIGURATION_WRITE. -/
def State.cfgWrite (s : State) (w : CfgWrite) : State :=
  match w with
  | .command b => s.updLink fun l => { l with bme := b }
  | .timeout v => s.updLink fun l => { l with cto := v.toNat }
  | .msi on log a d => s.updLink fun l =>
      { l with msi := on, msiLog := log.val, msiAddr := a.toNat - a.toNat % 4, msiData := d.toNat }
  | .msiMask m => s.updLink fun l => { l with msiMask := m.toNat }
  | .msix on m => s.updLink fun l => { l with msix := on, msixMask := m }
  | .pme en c => s.updLink fun l => { l with pmeEn := en, pmeStat := l.pmeStat && !c }
  | .power d => s.dState (if d then 3 else 0)
  | .aspm b => s.updLink fun l => { l with aspm := b }
  | .l1ss v => s.updLink fun l => { l with l1ss := v.toNat }
  | .payload a b => s.updLink fun l => { l with mps := min 2 a.val, mrrs := b.val }

/-- The completion timeout in µs (R745). -/
def State.completionTimeout (s : State) : Nat :=
  match s.link.cto with
  | 1 => 75
  | 2 => 5000
  | 5 => 32000
  | 6 => 128000
  | _ => 16000

/-! ### DRAM -/

/-- Usable DRAM of a SIZE and ECC, in units of 256 MiB (R753). -/
def usableOf (size ecc : Nat) : Nat := let c := 4 * 2 ^ size; if ecc = 1 then c - c / 8 else c

/-- The 168 bytes of a training (R755): CONFIG and the bytes the layout gives a meaning, the rest zero. -/
def trainImage (cfg : Nat) (code : Nat → Byte) : List Byte :=
  let lane (k : Nat) : List Byte := ((List.range 20).map fun i => code (8 + 32 * k + i)) ++ List.replicate 12 0
  let chan (c : Nat) : List Byte := ((List.range 10).map fun i => code (0x88 + 16 * c + i)) ++ List.replicate 6 0
  leBytes 4 cfg ++ [code 4, code 5, 0, 0] ++ ((List.range 4).flatMap lane) ++ ((List.range 2).flatMap chan)

/-- Put a training image in MEM_TRAINBUF, with its temperature in MEM_TRAINTEMP. -/
def State.putTraining (s : State) (l : List Byte) : State :=
  let s := (List.range 42).foldl (fun s k => s.set (F.MEM_TRAINBUF_WORD.ix k) (longAt l (4 * k))) s
  s.set F.MEM_TRAINTEMP_TEMP (ofLe ((l.drop 4).take 2))

/-- MEM_CFG as a register value. -/
def State.memCfg (s : State) : Nat := s.get F.MEM_CFG_ECC * 2 ^ 8 + s.get F.MEM_CFG_RATE * 2 ^ 4 + s.get F.MEM_CFG_SIZE

/-- A full training (R754, R762): the codes it finds are free. -/
def State.train (s : State) : State :=
  let n := s.freeCtr
  ({ s with freeCtr := n + 1 }).putTraining (trainImage s.memCfg (Config.trainByte n))

/-- RETRAIN (R762), keeping DRAM contents. -/
def State.retrain (s : State) : State := if s.dram.trained then s.train else s

/-- A temperature check (R756): far from the training point DQ and DQS are trained anew at this temperature. -/
def State.tempCheck (s : State) (code : Nat) : State :=
  let t := s.get F.MEM_TRAINTEMP_TEMP
  -- 40 °C is 40 / 0.15 codes (R226)
  if !s.dram.trained || s.dram.selfRef || (15 * (code - t + (t - code)) ≤ 4000) then s
  else
    let n := s.freeCtr
    let keep (i : Nat) : Byte := BitVec.ofNat 8 (s.get (F.MEM_TRAINBUF_WORD.ix (i / 4)) / 2 ^ (8 * (i % 4)))
    let code' (i : Nat) : Byte := if i = 4 then BitVec.ofNat 8 code else if i = 5 then BitVec.ofNat 8 (code / 256)
      else if i < 0x88 then Config.trainByte n i else keep i
    (({ s with freeCtr := n + 1 }).putTraining (trainImage s.memCfg code')).event 20 1

/-- A scrub pass (R758, R798). -/
def State.scrub (s : State) : State :=
  if s.get F.MEM_CFG_ECC ≠ 1 ∨ s.get F.MEM_SCRUB_PERIOD = 0 then s
  else
    let s := s.eccFix 0 s.installed
    s.dram.eccBad.foldl (fun s l => s.logError 5 6 11 false (some (64 * l))) s

/-- DRAM leaves self-refresh (R759). -/
def State.selfRefreshExit (s : State) : State :=
  if s.pwr.osc24 then s.updDram fun d => { d with selfRef := false, ready := true } else s

/-! ### Flash commands (R765 to R767) -/

/-- FSP_BUF as bytes. -/
def State.fspBuf (s : State) : List Byte := (List.range 64).flatMap fun k => leBytes 4 (s.get (F.FSP_BUF_BYTES.ix k))

/-- FSP_CMD.GO, the other fields already applied. A command other than a read and WREN occupies the flash until it ends. -/
def State.flashGo (s : State) : State :=
  if s.flag F.FSP_CMDSTAT_BUSY then s.logBusy 0x2C0108 31 1
  else
    let c := s.reg 0x2C0108
    let idle := bit c 28 || c % 256 == s.get F.FSP_OPC_WREN
    ({ s with flashCmd := some ⟨c, s.get F.FSP_ADDR_OFFSET, s.fspBuf⟩, flashBusy := s.flashBusy || !idle }).put F.FSP_CMDSTAT_BUSY true

/-- A flash command ends (R767): `ok` unless RDSR bit 0 did not clear in time, `data` what a read returned. PP programs; what any
other command did to the contents is the flash's (log entry 19). -/
def State.flashDone (s : State) (ok : Bool) (data : List Byte) : State :=
  match s.flashCmd with
  | none => s
  | some c =>
    let len := bitsOf c.cmd 24 16
    let s := ({ s with flashCmd := none, flashBusy := s.eng.batch.isSome && s.get F.JNL_CFG_DEST == 2 }).put F.FSP_CMDSTAT_BUSY false
    let s : State :=
      if bit c.cmd 28 then
        let l := data.take len ++ (s.fspBuf.drop len)
        (List.range 64).foldl (fun s k => s.set (F.FSP_BUF_BYTES.ix k) (longAt l (4 * k))) s
      else if c.cmd % 256 = s.get F.FSP_OPC_WREN then s
      else if c.cmd % 256 = s.get F.FSP_OPC_PP ∧ bit c.cmd 29 ∧ ok then
        if c.addr + len ≤ 2 ^ s.get F.FSP_CFG_SIZE then s.flashProgram c.addr (c.data.take len) else s.flashLost
      else s.flashLost
    if ok then s.event 19 0 else s.event 19 2

/-! ### UARTs (R768 to R771) -/

def State.uart (s : State) (u : Nat) : Uart := s.uarts.getD u Uart.reset

/-- PRT_EVT (R780). -/
def State.portEvent (s : State) (n : Nat) : State := s.event 18 n

/-- Set bits of UARTu_ERR. -/
def State.uartErr (s : State) (u m : Nat) : State := s.set (F.UART_ERR_ERR.ix u) (s.get (F.UART_ERR_ERR.ix u) ||| m)

/-- Begin the next frame when the UART is enabled, has one, and flow control lets it (R769). -/
def State.uartStart (s : State) (u : Nat) : State :=
  let q := s.uart u
  let rs485 := s.flag (F.UART_CTL_RS485.ix u)
  let held := !rs485 && s.flag (F.UART_CTL_FLOW.ix u) && q.ctsHigh
  if s.flag (F.UART_CTL_ENABLE.ix u) && !q.sending && !q.tx.isEmpty && !held then
    s.updUart u fun q => { q with sending := true, de := rs485 }
  else s

/-- A write of UARTu_TXDATA (R770). -/
def State.uartTx (s : State) (u data : Nat) : State :=
  if (s.uart u).tx.length < 64 then (s.updUart u fun q => { q with tx := q.tx ++ [data] }).uartStart u
  else (s.uartErr u 1).portEvent u

/-- A write of n to UARTu_RXPOP (R770). -/
def State.uartPop (s : State) (u n : Nat) : State := s.updUart u fun q => { q with rx := q.rx.drop n }

/-- A received frame (R769, R770). -/
def State.uartRx (s : State) (u data : Nat) (fe pe brk : Bool) : State :=
  let q := s.uart u
  if !s.flag (F.UART_CTL_ENABLE.ix u) || (q.de && !s.flag (F.UART_CTL_ECHO.ix u)) then s
  else if 64 ≤ q.rx.length then (s.uartErr u 2).portEvent u
  else
    let e := data % 2 ^ s.get (F.UART_CFG_BITS.ix u) + ofBool fe * 2 ^ 12 + ofBool pe * 2 ^ 13 + ofBool brk * 2 ^ 14 + 2 ^ 15
    let s := (s.updUart u fun q => { q with rx := q.rx ++ [e] }).uartErr u (4 * ofBool fe + 8 * ofBool pe)
    if fe || pe || brk then s.portEvent u else s

/-- A frame has been sent, CTSu_N being `cts` (R769): its entry is free, the next begins, or the burst ends. -/
def State.uartSent (s : State) (u : Nat) (cts : Bool) : State :=
  if !(s.uart u).sending then s
  else
    let s := (s.updUart u fun q => { q with tx := q.tx.drop 1, sending := false, ctsHigh := cts }).uartStart u
    if (s.uart u).sending then s else s.updUart u fun q => { q with de := false }

/-- RTSu_N is deasserted under flow control (R769). -/
def State.rtsHigh (s : State) (u : Nat) : Bool :=
  !s.flag (F.UART_CTL_RS485.ix u) && s.flag (F.UART_CTL_FLOW.ix u) && decide (56 ≤ (s.uart u).rx.length)

/-! ### I²C (R772 to R776) -/

/-- The transfer under way on port p. -/
def State.xfer (s : State) (p : Nat) : Option I2cXfer := s.i2c.getD p none

/-- Set the transfer of port p; I2Cp_STAT.BUSY follows it. -/
def State.setXfer (s : State) (p : Nat) (x : Option I2cXfer) : State :=
  ({ s with i2c := setAt s.i2c p x }).put (F.I2C_STAT_BUSY.ix p) x.isSome

/-- A transfer ends with a RESULT and the bytes done; PRT_EVT takes its bit (R780). -/
def State.i2cResult (s : State) (p res done : Nat) : State :=
  (((s.setXfer p none).set (F.I2C_STAT_RESULT.ix p) res).set (F.I2C_STAT_DONE.ix p) done).portEvent (4 + p)

/-- I2Cp_BUF as bytes. -/
def State.i2cBuf (s : State) (p : Nat) : List Nat :=
  (List.range 32).map fun i => bitsOf (s.get ((F.I2C_BUF_BYTES.ix p).ix (i / 4))) (8 * (i % 4) + 7) (8 * (i % 4))

/-- The bytes a GO sends (R773): address, WLEN bytes, and the read address when RLEN is above 0. -/
def State.i2cSent (s : State) (p : Nat) : List Nat :=
  let a := s.get (F.I2C_CMD_ADDR.ix p)
  let w := s.get (F.I2C_CMD_WLEN.ix p)
  let r := s.get (F.I2C_CMD_RLEN.ix p)
  (if w = 0 ∧ 0 < r then [] else (2 * a) :: (s.i2cBuf p).take w) ++ (if 0 < r then [2 * a + 1] else [])

/-- A GO on port p, the other fields applied, `owner` false when a lease lock binds the port to another source (R773, R775, R811). -/
def State.i2cGo (s : State) (p : Nat) (owner : Bool) : State :=
  if (s.xfer p).isSome then s.logBusy (0x2B2004 + 0x100 * p) 31 1
  else if p = 1 ∧ s.seqOwnsI2c then s.i2cResult p 6 0
  else if !owner then s.i2cResult p 7 0
  else s.setXfer p (some ⟨false, s.i2cSent p, s.get (F.I2C_CMD_RLEN.ix p), []⟩)

/-- A write of RECOVER: bus recovery begins (R774). -/
def State.i2cRecover (s : State) (p : Nat) : State :=
  if (s.xfer p).isSome then s.logBusy (0x2B2004 + 0x100 * p) 30 1 else s.setXfer p (some ⟨false, [], 0, []⟩)

/-- A PMBus command as transfers (R776): PAGE unless it is 0x1F, then VOUT_COMMAND, each with PEC when set. -/
def State.pmbTransfers (s : State) (c : PmbCmd) : List (List Nat) :=
  let pec (l : List Nat) : List Nat := if s.flag (F.I2C_CFG_PEC.ix 1) then l ++ [crc8 l] else l
  (if c.page = 0x1F then [] else [pec [2 * c.addr, 0x00, c.page]]) ++ [pec [2 * c.addr, 0x21, c.vout % 256, c.vout / 256 % 256]]

/-- The sequencer's next command starts when port 1 is free (R196, R775). -/
def State.i2cSeq (s : State) : State :=
  match s.seq.pmb with
  | [] => s
  | c :: _ =>
    if (s.xfer 1).isSome then s
    else match s.pmbTransfers c with
      | t :: l => s.setXfer 1 (some ⟨true, t, 0, l⟩)
      | [] => s

/-- A transfer on port p ends: result, bytes done, and the bytes a read brought (R773, R774, R776). -/
def State.i2cEnd (s : State) (p res done : Nat) (data : List Nat) : State :=
  match s.xfer p with
  | none => s
  | some x =>
    let s : State :=
      if x.rlen = 0 ∨ x.seqr then s
      else
        let old := s.i2cBuf p
        let l := (List.range 32).map fun i => if i < x.rlen ∧ i < data.length then data.getD i 0 else old.getD i 0
        (List.range 8).foldl (fun s k => s.set ((F.I2C_BUF_BYTES.ix p).ix k)
          (l.getD (4 * k) 0 + l.getD (4 * k + 1) 0 * 2 ^ 8 + l.getD (4 * k + 2) 0 * 2 ^ 16 + l.getD (4 * k + 3) 0 * 2 ^ 24)) s
    let s := s.i2cResult p res done
    if !x.seqr then s
    else if res ≠ 0 then s.pmbEnd false
    else match x.more with
      | t :: l => s.setXfer p (some ⟨true, t, 0, l⟩)
      | [] => s.pmbEnd true

/-! ### GPIO (R778 to R780, R836) -/

/-- The level of a pin as an input: 0 while its bank's supply is down. -/
def State.setPin (s : State) (n : Nat) (b : Bool) : State :=
  let f := F.GPIO_IN_MASK.ix (n / 32)
  s.set f (withBit (s.get f) (n % 32) b)

/-- GPIO bank b is supplied. -/
def State.bankOn (s : State) (b : Nat) : Bool := s.bankUp.getD (2 + b) true

/-- Pin n changes level (R779). -/
def State.gpioEdge (s : State) (n : Nat) (lvl : Bool) : State :=
  let was := bit (s.get (F.GPIO_IN_MASK.ix (n / 32))) (n % 32)
  if !s.bankOn (n / 16) then s
  else
    let s := s.setPin n lvl
    let sel := bitsOf (s.get (F.GPIO_EDGECFG_SEL.ix (n / 16))) (2 * (n % 16) + 1) (2 * (n % 16))
    if was = lvl || !bit sel (if lvl then 0 else 1) then s
    else
      let f := F.GPIO_EDGE_MASK.ix (n / 32)
      let s := s.set f (setBit (s.get f) (n % 32))
      if bit (s.get (F.GPIO_EDGEEN_MASK.ix (n / 32))) (n % 32) then (s.portEvent 6).wake 2 else s

/-- A monitored supply crosses 1.4 V (R836): 0 VIO18, 1 VIO33, 2 to 5 VIOG0 to VIOG3, whose pins then read 0 or their levels. -/
def State.bankSupply (s : State) (k : Nat) (up : Bool) (levels : Nat) : State :=
  let s := { s with bankUp := setAt s.bankUp k up }
  if k < 2 then s
  else (List.range 16).foldl (fun s i => s.setPin (16 * (k - 2) + i) (up && bit levels i)) s

/-! ### RTC (R782, R783) -/

/-- A write of TMB_RTCSEC: no alarm (R782, R783). -/
def State.rtcWrite (s : State) (v : Nat) : State := (s.set F.TMB_RTCSEC_SEC v).set F.TMB_RTCSUB_SUB 0

/-- RTCSEC takes a value by counting: the alarm fires when it becomes equal to RTCALM (R783). -/
def State.rtcReach (s : State) (v : Nat) : State :=
  let s := (s.set F.TMB_RTCSEC_SEC (v % 2 ^ 32)).set F.TMB_RTCSUB_SUB 0
  if s.flag F.TMB_RTCCTL_ALMEN ∧ s.get F.TMB_RTCSEC_SEC = s.get F.TMB_RTCALM_ALM then (s.event 17 0).wake 3 else s

/-- ALARM: the count reaches RTCALM (R783). -/
def State.alarm (s : State) : State := if s.flag F.TMB_RTCCTL_ALMEN then s.rtcReach (s.get F.TMB_RTCALM_ALM) else s

end Sys2Proof.Machine
end

