-- ==== Sys2Proof/Machine/Recovery.lean ====
section
/-! DEFINITION. Lease locks and what they bind (R802 to R814), the requests of FLT_UNFENCE (R800), and the service of the device
watchdog (R815, R816). -/
namespace Sys2Proof.Machine

/-! ### Owners and bindings -/

/-- SRC and CORE of a source (R806, R819, R820): 0 host, 1 Hall L, 2 Hall P. -/
def srcId : Src → Nat × Nat
  | .host => (0, 0)
  | .core c .L => (1, c.val)
  | .core c .P => (2, c.val)

def State.llHeld (s : State) (n : Nat) : Bool := s.flag (F.LL_STAT_HELD.ix n)
def State.llOwner (s : State) (n : Nat) : Nat × Nat := (s.get (F.LL_STAT_SRC.ix n), s.get (F.LL_STAT_CORE.ix n))

/-- The lock that governs a resource (R814): the lowest-numbered that binds it, free or held. KIND as LLn_CFG.BIND codes it: 1 an I²C
port, 2 the journal engine, 3 a well; `part` the port or the well. -/
def State.governs (s : State) (kind part : Nat) : Option Nat :=
  (List.range 64).find? fun n => s.get (F.LL_CFG_BIND.ix n) == kind &&
    match kind with
    | 1 => s.get (F.LL_BIND_FIRST.ix n) == part
    | 2 => true
    | _ => decide (s.get (F.LL_BIND_FIRST.ix n) ≤ part) && decide (part < s.get (F.LL_BIND_FIRST.ix n) + s.get (F.LL_BIND_COUNT.ix n))

/-- A resource is bound by a held lock whose owner is another source (R811 to R813). -/
def State.boundAway (s : State) (src : Src) (kind part : Nat) : Bool :=
  match s.governs kind part with
  | some n => s.llHeld n && s.llOwner n != srcId src
  | none => false

/-! ### Revocation (R802, R805, R811 to R813) -/

/-- Lock n reaches the state that a revocation leaves: free, TAINT 1, GEN advanced (R802). -/
def State.llFreed (s : State) (n : Nat) : State :=
  let s := ((s.put (F.LL_STAT_HELD.ix n) false).put (F.LL_STAT_TAINT.ix n) true).set (F.LL_STAT_GEN.ix n) ((s.get (F.LL_STAT_GEN.ix n) + 1) % 256)
  (s.updFlt fun f => { f with revoking := f.revoking.filter (· != n) }).event 22 5

/-- Port p has a transfer in progress that software started. -/
def State.softXfer (s : State) (p : Nat) : Bool :=
  match s.xfer p with
  | some x => !x.seqr
  | none => false

/-- The journal engine is left by its owner (R812): an APPEND not committed is abandoned, a staged JNL_DBASELO discarded. -/
def State.journalRevoked (s : State) : State :=
  let s := match s.journalJob with
    | some j => if j.op = 2 then s else s.journalEnds 0x20 0
    | none => s
  { s with staged := eraseKey s.staged 0x200220 }

/-- The wells of a binding are disabled (R813), those that lock n governs. -/
def State.wellsRevoked (s : State) (n : Nat) : State :=
  (s.pump.wells.map (·.1)).foldl (fun s w => if s.governs 3 w = some n then s.wellOff w 0 else s) s

/-- Revoke lock n. A port with a software transfer in progress holds it HELD until the transfer has stopped (R805, R811). -/
def State.llRevoke (s : State) (n : Nat) : State :=
  let p := s.get (F.LL_BIND_FIRST.ix n)
  match s.get (F.LL_CFG_BIND.ix n) with
  | 0 => s.llFreed n
  | 1 => if s.governs 1 p = some n ∧ s.softXfer p then s.updFlt fun f => { f with revoking := insertNat f.revoking n } else s.llFreed n
  | 2 => (if s.governs 2 0 = some n then s.journalRevoked else s).llFreed n
  | _ => (s.wellsRevoked n).llFreed n

/-- A transfer on port p ends (R773, R774). One that a revocation stopped reads RESULT 7 LEASE, and the revocation completes
(R811). -/
def State.i2cFinish (s : State) (p res done : Nat) (data : List Nat) : State :=
  let stopped := s.flt.revoking.filter fun n => s.get (F.LL_BIND_FIRST.ix n) == p
  if stopped.isEmpty || !s.softXfer p then s.i2cEnd p res done data
  else stopped.foldl (fun s n => s.llFreed n) (s.i2cEnd p 7 done data)

/-- The locks that a party holds, those being revoked left out. -/
def State.locksOf (s : State) (party : Nat × Nat → Bool) : List Nat :=
  (List.range 64).filter fun n => s.llHeld n && party (s.llOwner n) && !s.flt.revoking.contains n

/-- Revoke every lock that a party holds, expired or not (R810, R817). -/
def State.llRevokeAll (s : State) (party : Nat × Nat → Bool) : State := (s.locksOf party).foldl (fun s n => s.llRevoke n) s

/-! ### Operations (R806 to R808) -/

/-- A source and ticket are those of the owner of lock n, which is held and not being revoked. -/
def State.llOwns (s : State) (src : Src) (n ticket : Nat) : Bool :=
  s.llHeld n && !s.flt.revoking.contains n && s.llOwner n == srcId src && s.get (F.LL_STAT_TICKET.ix n) == ticket

def State.llAcquire (s : State) (src : Src) (n ticket : Nat) : State :=
  if s.llHeld n then s
  else
    let s := ((s.put (F.LL_STAT_HELD.ix n) true).set (F.LL_STAT_SRC.ix n) (srcId src).1).set (F.LL_STAT_CORE.ix n) (srcId src).2
    ((s.set (F.LL_STAT_TICKET.ix n) ticket).set (F.LL_STAT_GEN.ix n) ((s.get (F.LL_STAT_GEN.ix n) + 1) % 256)).put (F.LL_STAT_EXPIRED.ix n) false
def State.llRenew (s : State) (src : Src) (n ticket : Nat) : State :=
  if s.llOwns src n ticket then s.put (F.LL_STAT_EXPIRED.ix n) false else s
def State.llRelease (s : State) (src : Src) (n ticket : Nat) : State :=
  if s.llOwns src n ticket then s.put (F.LL_STAT_HELD.ix n) false else s
def State.llRevokeReq (s : State) (n gen : Nat) : State :=
  if s.llHeld n && s.flag (F.LL_STAT_EXPIRED.ix n) && !s.flt.revoking.contains n && s.get (F.LL_STAT_GEN.ix n) == gen then s.llRevoke n else s
def State.llClearTaint (s : State) (src : Src) (n ticket : Nat) : State :=
  if s.llOwns src n ticket then s.put (F.LL_STAT_TAINT.ix n) false else s

/-- An operation of LLn_CTL, the written word `v` (R806, R820). -/
def State.llCtl (s : State) (src : Src) (n v : Nat) : State :=
  match bitsOf v 31 28 with
  | 1 => s.llAcquire src n (bitsOf v 15 0)
  | 2 => s.llRenew src n (bitsOf v 15 0)
  | 3 => s.llRelease src n (bitsOf v 15 0)
  | 4 => s.llRevokeReq n (bitsOf v 23 16)
  | 5 => s.llClearTaint src n (bitsOf v 15 0)
  | _ => s

/-- Lock n expires (R807). -/
def State.llExpire (s : State) (n : Nat) : State :=
  if s.llHeld n && !s.flag (F.LL_STAT_EXPIRED.ix n) && !s.flt.revoking.contains n then (s.put (F.LL_STAT_EXPIRED.ix n) true).event 22 4 else s

/-- FLT_LLEXP: EXPIRED of locks 32k to 32k + 31 (R819). -/
def State.llExp (s : State) (k : Nat) : Nat := packBits 32 fun i => s.flag (F.LL_STAT_EXPIRED.ix (32 * k + i))

/-! ### Unfence requests (R800) -/

/-- FLT_UNFENCE.GO with SEG: accepted, or refused with RES 1 NOTFENCED, 3 NEEDRESET or 2 NOTHELD. -/
def State.unfence (s : State) (seg : Nat) : State :=
  if !s.fenced seg then s.set F.FLT_UNFENCE_RES 1
  else if seg = 4 ∨ seg = 5 ∨ seg = 11 ∨ seg = 12 then s.set F.FLT_UNFENCE_RES 3
  else if seg < 4 ∧ ¬ bit (s.get F.PWR_CORERST_HOLD) seg then s.set F.FLT_UNFENCE_RES 2
  else s.updFlt fun f => { f with unfencing := insertNat f.unfencing seg }

/-! ### Watchdogs (R470 to R474, R784, R815, R816) -/

/-- Restart WDL, WDP or WDD at PERIOD. -/
def State.wdlRestart (s : State) : State :=
  (s.set F.TMB_WDLCNT_MS (s.get F.TMB_WDLCFG_PERIOD)).updFlt fun f => { f with wdlOnce := false }
def State.wdpRestart (s : State) : State := s.set F.TMB_WDPCNT_MS (s.get F.TMB_WDPCFG_PERIOD)
def State.wddRestart (s : State) : State := (s.set F.TMB_WDDCNT_MS (s.get F.TMB_WDDCFG_PERIOD)).put F.TMB_WDDCNT_GRACE false

/-- A write of TMB_WDDKICK (R815): the second half after the first restarts the count. -/
def State.wddKick (s : State) (v : Nat) : State :=
  let half := s.flt.wddHalf
  let s := s.updFlt fun f => { f with wddHalf := v == 0xA5A5 }
  if half && v == 0x5A5A && s.flag F.TMB_WDDCFG_ENABLE then s.wddRestart else s

end Sys2Proof.Machine
end

