-- ==== Sys2Proof/Machine/Reset.lean ====
section
/-! DEFINITION. Resets (R112 to R120, R860): what each kind clears and keeps. -/
namespace Sys2Proof.Machine

/-- Cause bits of PWR_RSTCAUSE (R155). -/
def causeCold : Nat := 0
def causeResetn : Nat := 1
def causeSoft : Nat := 2
def causeSeq : Nat := 3
def causeMains : Nat := 4
def causeFault : Nat := 5
def causeWdog : Nat := 6

/-- A reset by which DRAM contents and the DRAM configuration are kept (R115, R761). -/
def keepsDram (cause : Nat) : Bool := cause == causeSoft || cause == causeFault || cause == causeWdog

/-! ### Registers -/

/-- Warm reset keeps a field: AON fields, and the MEM registers of R761. -/
def keepsField (cause off : Nat) (f : FieldD) : Bool :=
  f.aon || (keepsDram cause && (off == 0x300100 || off == 0x30010C || off == 0x300110 || (decide (0x301000 ≤ off) && decide (off < 0x3010A8))))

/-- The registers after a warm reset (R112, R97). -/
def State.warmRegs (s : State) (cause : Nat) : List (Nat × Long) :=
  s.regs.filterMap fun r =>
    match findReg r.1 with
    | none => none
    | some (d, _, _) =>
      let base := resetAt s.variant r.1
      let v := d.fields.foldl (fun a f => if keepsField cause r.1 f then putBits a f.hi f.lo (bitsOf r.2.toNat f.hi f.lo) else a) base
      if v = base then none else some (r.1, BitVec.ofNat 32 v)

def State.regsWarm (s : State) (cause : Nat) : State := { s with regs := s.warmRegs cause }

/-- The HLK block after a link reset: AON fields are kept (R752). -/
def State.hlkReset (s : State) : State :=
  { s with regs := s.regs.filter fun r => !(decide (0x340000 ≤ r.1) && decide (r.1 < 0x380000)) || r.1 == 0x340128 }

/-! ### DRAM and the caches -/

/-- Dirty lines are discarded (R112, R119): the cells of lines that a cache alone held become free. -/
def State.linesLost (s : State) : State :=
  { s with freeCtr := s.freeCtr + 1
           mem := s.mem.map fun c =>
             if regionOf c.1 = .dram ∧ Config.lineLost s.freeCtr (c.1 / 64) = true then (c.1, Config.staleByte s.freeCtr c.1) else c }

/-- DRAM contents become undefined (R860). -/
def State.dramLost (s : State) : State :=
  { s with dramGen := s.dramGen + 1, mem := s.mem.filter fun c => regionOf c.1 != Region.dram
           dram := { s.dram with trained := false, selfRef := false, ready := true, eccBad := [], eccSoft := [] } }

/-! ### The link (R120) -/

/-- The H island and HLK are reset; what D3cold needs of PME is kept (R748). -/
def State.hReset (s : State) (perst : Bool) : State :=
  let bar4 := s.flag F.HLK_CFG_BAR4EN
  let s := s.llRevokeAll fun o => o.1 == 0
  let s := s.hlkReset.updLink fun l => { Link.reset with perst := perst, bar4 := bar4, pmeEn := l.pmeEn, pmeStat := l.pmeStat, wakeN := l.wakeN }
  s.put F.HLK_CFG_BAR4EN (decide (2 ≤ s.get F.PWR_BOOTSTAT_BOOTSEL))

/-- A link reset: a hot reset received from the host, or PERST# asserted. -/
def State.linkReset (s : State) (hot : Bool) : State := if hot then (s.hReset false).event 21 2 else s.hReset true

/-! ### Waking rails (R148 step 2) -/

/-- The slots of PWR_CISRAILS whose enables are not driven. -/
def State.cisReleased (s : State) : Nat := andNot (s.get F.PWR_CISRAILS_SLOTS) s.driven

/-- The lowest up-step among the slots still to be driven. -/
def State.cisStep (s : State) : Option Nat :=
  (List.range 32).find? fun k => (List.range 16).any fun n => bit s.cisReleased n && s.get (F.SEQ_SLOT_CFG_UPSTEP.ix n) == k

/-- Drive the next up-step once every slot of PWR_CISRAILS already driven has its power-good high. -/
def State.cisAdvance (s : State) : State :=
  if andNot (s.get F.PWR_CISRAILS_SLOTS &&& s.driven) s.seq.pg ≠ 0 then s
  else match s.cisStep with
    | none => s
    | some k =>
      let m := packBits 16 fun n => bit s.cisReleased n && s.get (F.SEQ_SLOT_CFG_UPSTEP.ix n) == k
      (s.set F.SEQ_UPMASK_DRIVEN (s.driven ||| m)).updSeq fun q => { q with ramping := q.ramping ||| m }

/-- The Cistern state ends: a release run of R145 still in progress ends, and rails are driven again. -/
def State.cisLeave (s : State) (ph : CisPhase) : State :=
  ((s.updSeq fun q => { q with rel := q.rel.filter fun r => r.kind != .cistern }).updPwr fun p => { p with cis := ph }).cisAdvance

/-! ### Warm reset (R112, R114 to R116, R655, R718, R810) -/

/-- The link and what it was told of power management stay at a warm reset; the H island comes up anew (log entry 22). -/
def Link.warm (l : Link) : Link := { Link.reset with perst := l.perst, pmeEn := l.pmeEn, pmeStat := l.pmeStat, wakeN := l.wakeN }

/-- The scan ends; snapshots go on (R246). -/
def Adc.warm (q : Adc) : Adc := { q with run := false, waitPass := false, entry := 0, left := 0, pass := 0, prev := none, settle := 0 }

/-- Only a transfer of the sequencer goes on. -/
def i2cWarm (x : Option I2cXfer) : Option I2cXfer := x.bind fun t => if t.seqr then some t else none

/-- The ports: what the sequencer runs on port 1 goes on. -/
def State.portsWarm (s : State) : State :=
  { s with flashBusy := false, flashCmd := none, uarts := s.uarts.map (fun u => { Uart.reset with ctsHigh := u.ctsHigh }), i2c := s.i2c.map i2cWarm }

/-- The Pump, engines, bells, fault recovery and staged values. -/
def State.unitsWarm (s : State) : State :=
  { s with staged := [], bel := Bells.reset, pump := Pump.reset, eng := Engines.reset, flt := Flt.reset }

/-- The cores. TMB_TBHI as captured for each is kept (R785). -/
def State.coresWarm (s : State) : State := { s with cores := s.cores.map fun q => { Core.reset with tbHi := q.tbHi } }

/-- The units that a warm reset resets, beside registers: cores, Pump, engines, bells, HLK, ports, the ADC scan and fault recovery. A
flash command cut short leaves contents unknown. -/
def State.warmUnits (s : State) : State :=
  ((((((if s.flashBusy then s.flashLost else s).portsWarm).unitsWarm).coresWarm).updLink Link.warm).updAdc Adc.warm).updPwr fun p =>
    { p with fabricUp := false, hostBoot := false, bootLen := 0 }

/-- ADC trims are those of the calibration store (R246, R248). -/
def State.adcTrims (s : State) : State :=
  ((s.set F.ADC_TRIMOFF_OFFSET (s.pwr.adcTrim.getD 0 0)).set F.ADC_TRIMGAIN_GAIN (s.pwr.adcTrim.getD 1 0x8000)).set
    F.ADC_TRIMTEMP_TEMP (s.pwr.adcTrim.getD 2 0)

/-- What the AON island does at a warm reset: the trims, the busy bits of what runs on, the tempo level (R195), the replay count. -/
def State.warmAon (s : State) : State :=
  let s := (s.adcTrims.put F.ID_OTPSTAT_BUSY s.pwr.otpBusy.isSome).put (F.I2C_STAT_BUSY.ix 1) (s.xfer 1).isSome
  ((s.commandLevel (s.tempoClamp 4)).tempoManual).journalReplay

/-- A warm reset with a cause. SEQ and MAINS enter the start-up order at its step 3 (R116); a reset in the Cistern state has its rails
driven again, for step 4 (log entry 22). -/
def State.warmReset (s : State) (cause : Nat) : State :=
  if !s.pwr.aonUp then s
  else
    let s := if keepsDram cause && !s.fenced 5 && !s.fenced 11 && s.flag F.PMP_WTCTL_ON then s.ctxWriteAll else s
    let s := if cause = causeSoft ∧ ¬ s.fenced 4 then s else if keepsDram cause then s.linesLost else s.dramLost
    let s := if keepsDram cause then s.updDram fun d => { d with selfRef := d.trained, ready := !d.trained } else s
    let s := (s.regsWarm cause).warmUnits
    let s := (s.set F.PWR_RSTCAUSE_CAUSE (setBit (s.get F.PWR_RSTCAUSE_CAUSE) cause)).warmAon
    let s := if s.pwr.cis = .awake ∨ s.pwr.cis = .entering then s.updPwr fun p => { p with cis := .awake } else s.cisLeave .awake
    if cause = causeSeq ∨ cause = causeMains then s.orderThree else s

/-! ### Cold reset (R112, R113) -/

/-- The variant that OTP gives at a cold reset (R3, R130): a code that names no variant leaves it as it was (log entry 26). -/
def State.otpVariant (s : State) : Variant :=
  match (Variant.part s.variant ||| ((lookupKey s.pwr.otp 2).getD 0).toNat) % 256 with
  | 1 => .f4
  | 2 => .d2
  | 3 => .b2
  | _ => s.variant

/-- Cold reset asserted: what non-volatile memory, the board and host memory hold is kept. A calibration store in progress leaves its
target bank invalid (R143). -/
def State.coldReset (s : State) : State :=
  let cut (b : Nat) (l : List (Nat × Byte)) : List (Nat × Byte) :=
    if s.pwr.calBusy ∧ s.pwr.calActive ≠ some b ∧ (s.pwr.calActive.isSome ∨ b = 0) then [] else l
  { State.reset with
    pending := s.pending, variant := s.otpVariant, freeCtr := s.freeCtr
    mem := s.mem.filter fun c => regionOf c.1 == Region.flash
    host := s.host, dramGen := s.dramGen + 1, flashGen := if s.flashBusy then s.flashGen + 1 else s.flashGen
    dram := { DramCtl.reset with mr8 := s.dram.mr8 }
    bankUp := s.bankUp
    pwr := { Pwr.reset with otp := s.pwr.otp, bank0 := cut 0 s.pwr.bank0, bank1 := cut 1 s.pwr.bank1, fabricRails := s.pwr.fabricRails } }

/-- VBAT below VPRE for 10 ms while VAON is taken from the cell: the cell LDO stops, and VAON falls (R734). -/
def State.cellStop (s : State) : State := if s.chg.oncell then s.coldReset else s

/-! ### Hall P reset (R117, R562, R810) -/

/-- A core stopped in Hall P: its Hall P registers scrubbed, Hall P Reset with cause STOPPED due. -/
def Core.stopP (q : Core) : Core :=
  { q with w := Vector.replicate 31 0, f := Vector.replicate 32 0, da := Core.reset.da, fcsw := 0, fpNew := 0
           due := { q.due with hallPStop := true } }

/-- The Hall P bank takes its reset values. -/
def Core.resetP (q : Core) : Core := { q with crP := [], sp := (((q.sp.set 4 0).set 5 0).set 6 0).set 7 0 }

/-- Step 2 of R117 on every core. -/
def State.coresStop (s : State) : State :=
  { s with cores := s.cores.mapFinIdx fun i q _ => (if s.coreFree i && q.csw.getLsbD 18 then q.stopP else q).resetP }

/-- PWR_RSTCTL.HALLP, up to step 4 of R117. -/
def State.hallPReset (s : State) : State :=
  let s := (s.put F.PWR_HALLPCTL_ENABLE false).put F.PWR_HALLPCTL_BUSY true
  let s := s.coresStop
  let s := (s.pump.wells.map (·.1)).foldl (fun s w => if (s.ctx w).hall = .P then s.wellOff w 5 else s) s
  let s := (List.range 4).foldl (fun s c => s.revokeCore c .P) s
  s.llRevokeAll fun o => o.1 == 2

/-- The flight is an engine job in progress on a Hall P well. -/
def Flight.engineP (f : Flight) : Bool :=
  f.done.isNone && f.job.hall == .P && match f.loc with
    | .core _ _ _ _ _ _ => false
    | .pump => false
    | _ => true

/-- Step 5 of R117, once steps 2 to 4 are complete. -/
def State.hallPDone (s : State) : State :=
  if s.flag F.PWR_HALLPCTL_BUSY && !s.pump.flight.any Flight.engineP && !(s.cores.toList.any fun q => q.due.hallPStop)
      && !(s.flt.revoking.any fun n => (s.llOwner n).1 == 2) then
    (s.put F.PWR_HALLPCTL_BUSY false).event 2 2
  else s

end Sys2Proof.Machine
end

