-- ==== Sys2Proof/Machine/Ops.lean ====
section
/-! DEFINITION. The shared operations of a core: registers and CSW fields, control registers (R464 to R468, R507, R546),
translation (R508 to R525), access checks (R282 to R284, R532 to R535, R539), the store buffer (R427 to R437), held windows
(R499 to R503), and taking an exception (R475 to R488). -/
namespace Sys2Proof.Machine

/-! ### Cores and their registers -/

/-- Core c of the block. -/
def State.core (s : State) (c : CoreId) : Core := s.cores[c]

/-- Replace core c. -/
def State.setCore (s : State) (c : CoreId) (k : Core) : State := { s with cores := s.cores.set c k }

/-- Change core c by a function. -/
def State.updCore (s : State) (c : CoreId) (f : Core → Core) : State := s.setCore c (f (s.core c))

/-- The fields of CSW (R264). -/
def cswHall (v : Word) : Hall := hallOf (v.getLsbD 18)
def cswStair (v : Word) : Nat := bitsOf v.toNat 17 16
def cswIlevel (v : Word) : Nat := bitsOf v.toNat 15 12
def cswKey (v : Word) : Nat := bitsOf v.toNat 11 8
def cswTe (v : Word) : Bool := v.getLsbD 20
def cswUopen (v : Word) : Bool := v.getLsbD 19
def cswHeld (v : Word) : Bool := v.getLsbD 21
def cswDot (v : Word) : Bool := v.getLsbD 5
def cswDo (v : Word) : Bool := v.getLsbD 4
def cswN (v : Word) : Bool := v.getLsbD 3
def cswZ (v : Word) : Bool := v.getLsbD 2
def cswC (v : Word) : Bool := v.getLsbD 1
def cswV (v : Word) : Bool := v.getLsbD 0

/-- CSW with bits [hi:lo] set. -/
def cswSet (v : Word) (hi lo x : Nat) : Word := BitVec.ofNat 48 (putBits v.toNat hi lo x)

def Core.hall (k : Core) : Hall := cswHall k.csw
def Core.stair (k : Core) : Nat := cswStair k.csw

/-- The index of the stack pointer of a hall and stair (R259). -/
def spIndex (h : Hall) (t : Nat) : Fin 8 := Fin.ofNat 8 (hallNat h * 4 + t % 4)

/-- The stack pointer of a hall and stair. -/
def Core.spOf (k : Core) (h : Hall) (t : Nat) : Word := k.sp[spIndex h t]
def Core.setSp (k : Core) (h : Hall) (t : Nat) (v : Word) : Core := { k with sp := k.sp.set (spIndex h t) v }

/-- Read a W register: W0 is zero, W31 the stack pointer of the current hall and stair (R257, R259). -/
def Core.rd (k : Core) (r : RegNo) : Word :=
  if r.val = 0 then 0 else if h : r.val < 31 then k.w[r.val] else k.spOf k.hall k.stair

/-- Write a W register; a write to W0 is discarded (R257). -/
def Core.wr (k : Core) (r : RegNo) (v : Word) : Core :=
  if r.val = 0 then k else if h : r.val < 31 then { k with w := k.w.set r.val v } else k.setSp k.hall k.stair v

/-- A register pair Wn, Wn+1 is named by an even n from 2 to 28 (R254). -/
def pairOk (r : RegNo) : Bool := r.val % 2 == 0 && decide (2 ≤ r.val) && decide (r.val ≤ 28)

/-- The other register of a pair. -/
def RegNo.succ (r : RegNo) : RegNo := Fin.ofNat 32 (r.val + 1)

/-- The 96-bit value of a pair: the low half in the even register (R254). -/
def Core.rdPair (k : Core) (r : RegNo) : Nat := (k.rd r).toNat + (k.rd (RegNo.succ r)).toNat * 2 ^ 48

/-- Write a pair. -/
def Core.wrPair (k : Core) (r : RegNo) (v : Nat) : Core :=
  (k.wr r (BitVec.ofNat 48 v)).wr (RegNo.succ r) (BitVec.ofNat 48 (v / 2 ^ 48))

/-! ### Control registers -/

/-- The control registers of a bank, sparse. -/
def Core.bank (k : Core) : Hall → List (Nat × Word)
  | .L => k.crL
  | .P => k.crP

def Core.setBank (k : Core) (h : Hall) (l : List (Nat × Word)) : Core :=
  match h with
  | .L => { k with crL := l }
  | .P => { k with crP := l }

/-- A control register's reset value (R467, R507, R546). -/
def crReset (h : Hall) (i : Nat) : Word :=
  match i with
  | 0x088 => 255
  | 0x089 => 64
  | 0x08C => 16
  | 0x00C => if h = .P then 0x40000#48 else 0
  | 0x00D => if h = .P then 0x40000#48 else 0
  | 0x00E => if h = .P then 0x40000#48 else 0
  | _ => 0

/-- The bits a control register stores, with the highest stair that may read it and write it; `none` where no register
is defined (R466, R467, R507, R546). -/
def crInfo (h : Hall) (i : Nat) : Option (Nat × Nat × Nat) :=
  if i < 4 then some (2 ^ 48 - 1, 1, if i < 2 then 0 else 1)
  else if 0x008 ≤ i ∧ i ≤ 0x00A then some (2 ^ 48 - 4, 1, 0)
  else if 0x00C ≤ i ∧ i ≤ 0x00E then some (0x17FF3F, 1, 0)
  else if 0x010 ≤ i ∧ i ≤ 0x012 then some (0xFF, 1, 0)
  else if 0x014 ≤ i ∧ i ≤ 0x016 then some (2 ^ 48 - 1, 1, 0)
  else if 0x018 ≤ i ∧ i ≤ 0x01A then some (0xFFFFFFFFF0, 1, 0)
  else if 0x01C ≤ i ∧ i ≤ 0x01E then some (0xFF, 1, 0)
  else if i = 0x020 then some (if h = .P then 0 else 0xFFFFFFFFF0, 1, 0)
  else if i = 0x021 then some (if h = .P then 0 else 0x7F, 1, 0)
  else if i = 0x022 then some (if h = .P then 0 else 0x171F3F, 1, 0)
  else if i = 0x023 then some (0, 1, 1)
  else if 0x040 ≤ i ∧ i ≤ 0x057 then some (2 ^ 48 - 4, 1, 0)
  else if 0x060 ≤ i ∧ i ≤ 0x077 then some (0xFFFF, 1, 0)
  else if i = 0x080 ∨ i = 0x081 then some (0xFFFFFFFFF000, 1, 0)
  else if i = 0x082 then some (0x1F1F, 1, 0)
  else if i = 0x083 then some (0x13FFE, 1, 0)
  else if i = 0x084 then some (0xFFFE, 1, 0)
  else if i = 0x085 then some (0xFFFFFFFFFFF0, 0, 0)
  else if i = 0x086 then some (2 ^ 48 - 1, 0, 0)
  else if i = 0x087 then some (1, 0, 0)
  else if 0x088 ≤ i ∧ i ≤ 0x08B then some (0xFF, 1, 0)
  else if i = 0x08C then some (0x7F, 1, 0)
  else if i = 0x08D then some (0xFFFF3F, 1, 1)
  else if i = 0x100 then some (0xFFFFFFF000, 1, 0)
  else if i = 0x101 then some (0xFFFF, 1, 0)
  else none

/-- Read a control register of a bank; SP0 to SP3 are the stack pointers (R467). -/
def Core.cr (k : Core) (h : Hall) (i : Nat) : Word :=
  if i < 4 then k.spOf h i
  else match lookupKey (k.bank h) i with
    | some v => v
    | none => crReset h i

/-- What a control register holds once a value is written to it: bits the table marks as zero are stored as zero, and in the Hall P bank
RETCSW.HALL reads 1 (R467). -/
def storedCr (h : Hall) (i : Nat) (v : Word) : Word :=
  let m : Word := match crInfo h i with
    | some (m, _, _) => BitVec.ofNat 48 m
    | none => 0
  if i < 4 then v else (v &&& m) ||| (if h = .P ∧ 0x00C ≤ i ∧ i ≤ 0x00E then 0x40000#48 else 0)

/-- Store a control register (R467, R468). -/
def Core.setCr (k : Core) (h : Hall) (i : Nat) (v : Word) : Core :=
  if i < 4 then k.setSp h i v
  else if storedCr h i v = crReset h i then k.setBank h (eraseKey (k.bank h) i)
  else k.setBank h (insertKey (k.bank h) i (storedCr h i v))

/-- The indices of the control registers the device itself uses. -/
def crRETPC (t : Nat) : Nat := 0x008 + t
def crRETCSW (t : Nat) : Nat := 0x00C + t
def crRDEPTH (t : Nat) : Nat := 0x010 + t
def crENTRYSP (t : Nat) : Nat := 0x014 + t
def crGTBASE (t : Nat) : Nat := 0x018 + t
def crGTCOUNT (t : Nat) : Nat := 0x01C + t
def crPASSBASE : Nat := 0x020
def crPASSCOUNT : Nat := 0x021
def crPSAVEFCSW : Nat := 0x022
def crWDKICK : Nat := 0x023
def crVBASE (t : Nat) : Nat := 0x080 + t
def crEXCFG : Nat := 0x082
def crDELEGX : Nat := 0x083
def crDELEGI : Nat := 0x084
def crRSP : Nat := 0x085
def crSFSP : Nat := 0x086
def crSFSTAT : Nat := 0x087
def crHOLDMAX (t : Nat) : Nat := 0x088 + t
def crHOLDSTAT : Nat := 0x08D
def crTROOT : Nat := 0x100
def crSTAG : Nat := 0x101

/-! ### Exceptions as data -/

/-- An event to be entered: vector, CAUSE, INFO, fault address when FAV is 1, the OP of the instruction when the rule
gives one (R479), and whether the rule sends it to Hall L rather than to the executing hall (R475). -/
structure Exc where
  vec : Nat
  cause : Nat
  info : Nat
  fa : Option Word
  opc : Option Nat
  toL : Bool
deriving DecidableEq, Repr

/-- An exception of the executing hall without a fault address. -/
def Exc.plain (vec cause info : Nat) : Exc := ⟨vec, cause, info, none, none, false⟩

/-- An exception with a fault address. -/
def Exc.at (vec cause info fa : Nat) : Exc := ⟨vec, cause, info, some (BitVec.ofNat 48 fa), none, false⟩

/-- The instruction class that raised the exception. -/
def Exc.ofClass (e : Exc) (op : Nat) : Exc := { e with opc := some op }

/-- A POISON machine check at an instruction (R62, R793, R794). -/
def Exc.poison (seg pa : Nat) : Exc := ⟨0x14, 2, seg, some (BitVec.ofNat 48 pa), some 0, true⟩

/-- Illegal Instruction, Privileged Instruction. -/
def Exc.illegal : Exc := Exc.plain 1 0 0
def Exc.privileged : Exc := Exc.plain 2 0 0

/-! ### Translation -/

/-- What an access is made with: hall, stair, key, TE and UOPEN. -/
structure Ctx where
  hall : Hall
  stair : Nat
  key : Nat
  te : Bool
  uopen : Bool
deriving DecidableEq, Repr

/-- The context of the running code. -/
def Core.ctx (k : Core) : Ctx := ⟨k.hall, k.stair, cswKey k.csw, cswTe k.csw, cswUopen k.csw⟩

/-- The context of an exception entry into stair t of hall h: TE and KEY of EXCFG (R483). -/
def Core.entryCtx (k : Core) (h : Hall) (t : Nat) : Ctx :=
  let x := (k.cr h crEXCFG).toNat
  if t = 0 then ⟨h, 0, bitsOf x 3 0, bit x 4, false⟩ else ⟨h, t, bitsOf x 11 8, bit x 12, false⟩

/-- The outcome of a translation or an access check: a physical address with its memory type, or an exception. -/
inductive XRes
  | ok (pa : Nat) (mt : Nat)
  | fault (e : Exc)
deriving DecidableEq, Repr

/-- Table and leaf levels: the lowest VA bit the index of a level uses, and the size a leaf maps (R509). -/
def levelShift (lvl : Nat) : Nat := 12 + 9 * (lvl - 1)

/-- Translation Fault (R519). -/
def xFault (cause lvl : Nat) (k : Kind) (va : Nat) : Exc := Exc.at 6 cause (lvl + 16 * k.toNat) va

/-- The effective memory type of an access (R514, R437): 0 WB, 1 WT, 2 device-ordered, 3 device-weak. -/
def effType (pa mt : Nat) : Nat :=
  match regionOf pa with
  | .setup => 2
  | .link => if mt ≤ 1 then 2 else mt
  | .bsram => if mt = 0 then 1 else mt
  | .flash => if mt = 0 then 1 else mt
  | _ => mt

/-- The memory type with TE 0 (R282). -/
def typeTe0 (pa : Nat) : Nat :=
  match regionOf pa with
  | .link => 2
  | .setup => 2
  | .doorbell => 2
  | .bsram => 1
  | .flash => 1
  | _ => 0

/-- The check of R511 on a valid entry: true when it is refused with cause RESERVED. -/
def pteReserved (lvl pte : Nat) : Bool :=
  bitsOf pte 47 40 != 0 || (bit pte 1 && lvl == 1) || (!bit pte 1 && lvl == 4)
  || (!bit pte 1 && (decide (4 ≤ bitsOf pte 11 9) || (bit pte 3 && !bit pte 2)
      || (lvl == 2 && bitsOf pte 20 12 != 0) || (lvl == 3 && bitsOf pte 29 12 != 0)))

/-- The checks of R516 and R515 on a leaf, first failure: cause of the Translation Fault. `atomic` needs R and W. -/
def leafRefuses (x : Ctx) (k : Kind) (atomic : Bool) (flags pa : Nat) : Option Nat :=
  let user := decide (2 ≤ x.stair)
  let u := bit flags 5
  if user && !u then some 6
  else if !user && u && k == .fetch then some 8
  else if !user && u && !x.uopen then some 7
  else match k with
    | .read => if bit flags 2 then none else some 3
    | .write => if atomic && !bit flags 2 then some 3 else if bit flags 3 then none else some 4
    | .fetch => if !bit flags 4 || decide (2 ≤ effType pa (bitsOf flags 11 9)) then some 5 else none

/-- A leaf covers an address under the tag rules of R523. -/
def TlbLeaf.hits (e : TlbLeaf) (h : Hall) (tag va : Nat) : Bool :=
  e.hall == h && (bit e.flags 6 || e.tag == tag) && va / 2 ^ levelShift e.level == e.va / 2 ^ levelShift e.level

/-- The longest walk-cache entry for an address: the lowest level first. -/
def walkStart (l : List WalkEntry) (h : Hall) (tag va root : Nat) : Nat × Nat :=
  let hit (lvl : Nat) := l.find? fun e => e.level == lvl && e.hall == h && e.tag == tag
    && va / 2 ^ levelShift lvl == e.va / 2 ^ levelShift lvl
  match hit 2 with
  | some e => (1, e.table)
  | none => match hit 3 with
    | some e => (2, e.table)
    | none => match hit 4 with
      | some e => (3, e.table)
      | none => (4, root)

/-- The walk from a table at a level (R509 to R512, R518, R520): a leaf with A set, or an exception. Table entries and
the leaf passed on the way are buffered by the caller. -/
def walk (s : State) (x : Ctx) (k : Kind) (tag va : Nat) : Nat → Nat → List WalkEntry → State × List WalkEntry × (Exc ⊕ TlbLeaf)
  | 0, _, wc => (s, wc, .inl (xFault 2 1 k va))
  | lvl + 1, table, wc =>
    let l := lvl + 1
    let ea := table + 8 * bitsOf va (levelShift l + 8) (levelShift l)
    if s.installed < ea + 8 then (s, wc, .inl (xFault 9 l k va))
    else if x.hall = .P ∧ s.flag F.KEY_CTL_ENABLE ∧ bit (s.byte (s.keyAddr ea)).toNat 7 then (s, wc, .inl (xFault 10 l k va))
    else match s.poison ea 8 with
      | some seg => (s, wc, .inl (Exc.poison seg ea))
      | none =>
        let pte := ofLe (s.bytes ea 8)
        if !bit pte 0 then (s, wc, .inl (xFault 1 l k va))
        else if pteReserved l pte then (s, wc, .inl (xFault 2 l k va))
        else if bit pte 1 then
          let t := bitsOf pte 39 12 * 4096
          walk s x k tag va lvl t (⟨x.hall, tag, l, va, t⟩ :: wc)
        else
          let pte' := setBit pte 7
          let s := if bit pte 7 then s else s.putBytes ea (leBytes 8 pte')
          (s, wc, .inr ⟨x.hall, tag, l, va, bitsOf pte 39 12 * 4096, bitsOf pte' 11 0, ea⟩)

/-- The capacities of the buffers (R523): 32 + 48 + 1,536 leaves, 24 table pointers. -/
def tlbCap : Nat := 1616
def wcacheCap : Nat := 24

/-- A leaf and the table pointers passed on the way to it are buffered, the oldest leaving first (R523). -/
def Core.buffer (q : Core) (e : TlbLeaf) (wc : List WalkEntry) : Core :=
  { q with tlb := (e :: q.tlb).take tlbCap, wcache := (wc ++ q.wcache).take wcacheCap }

/-- Table pointers are buffered. -/
def Core.bufferPtrs (q : Core) (wc : List WalkEntry) : Core := { q with wcache := (wc ++ q.wcache).take wcacheCap }

/-- A leaf leaves the buffer. -/
def Core.dropLeaf (q : Core) (e : TlbLeaf) : Core := { q with tlb := q.tlb.filter fun e' => e' != e }

/-- An access uses a buffered leaf: its permissions, and the address it maps to. A permission fault removes it (R515, R516, R525). -/
def useLeaf (s : State) (c : CoreId) (x : Ctx) (va : Nat) (k : Kind) (atomic : Bool) (e : TlbLeaf) : State × XRes :=
  let pa := e.pa + va % 2 ^ levelShift e.level
  match leafRefuses x k atomic e.flags pa with
  | some cause => (s.updCore c fun q => q.dropLeaf e, .fault (xFault cause e.level k va))
  | none => (s, .ok pa (effType pa (bitsOf e.flags 11 9)))

/-- What follows a walk for an address that no leaf covers. -/
def afterWalk (c : CoreId) (x : Ctx) (va : Nat) (k : Kind) (atomic : Bool) (r : State × List WalkEntry × (Exc ⊕ TlbLeaf)) : State × XRes :=
  match r.2.2 with
  | .inl e => (r.1.updCore c fun q => q.bufferPtrs r.2.1, .fault e)
  | .inr e => useLeaf (r.1.updCore c fun q => q.buffer e r.2.1) c x va k atomic e

/-- What follows the walk of a write whose buffered leaf `old` has D 0 (R521). -/
def afterRewalk (c : CoreId) (x : Ctx) (va : Nat) (k : Kind) (atomic : Bool) (old : TlbLeaf) (r : State × List WalkEntry × (Exc ⊕ TlbLeaf)) :
    State × XRes :=
  match r.2.2 with
  | .inl e => (r.1, .fault e)
  | .inr e => useLeaf (r.1.updCore c fun q => (q.dropLeaf old).buffer e r.2.1) c x va k atomic e

/-- Translate one address for an access (R508 to R525). A buffered leaf is used where one covers the address; a write
through a buffered leaf with D 0 reads the leaf again (R521); a permission fault from a buffered leaf removes it (R525). -/
def translate (s : State) (c : CoreId) (x : Ctx) (va : Nat) (k : Kind) (atomic : Bool) : State × XRes :=
  if !x.te then
    if 2 ^ 40 ≤ va then (s, .fault (Exc.at 4 1 (ofBool (k == .write)) va)) else (s, .ok va (typeTe0 va))
  else
    let q := s.core c
    let tag := (q.cr x.hall crSTAG).toNat
    let root := (q.cr x.hall crTROOT).toNat
    match q.tlb.find? (·.hits x.hall tag va) with
    | some e =>
      if k = .write ∧ ¬ bit e.flags 8 then afterRewalk c x va k atomic e (walk s x k tag va 4 root [])
      else useLeaf s c x va k atomic e
    | none =>
      let p := walkStart q.wcache x.hall tag va root
      afterWalk c x va k atomic (walk s x k tag va p.1 p.2 [])

/-- Set D, and A with it, in the leaf a write uses (R521, R522). -/
def markDirty (s : State) (c : CoreId) (x : Ctx) (va : Nat) : State :=
  if !x.te then s
  else
    let q := s.core c
    match q.tlb.find? (·.hits x.hall (q.cr x.hall crSTAG).toNat va) with
    | none => s
    | some e =>
      if bit e.flags 8 then s
      else
        let s := s.putBytes e.pte (leBytes 8 (setBit (setBit (ofLe (s.bytes e.pte 8)) 8) 7))
        s.updCore c fun q => { q with tlb := q.tlb.map fun a => if a = e then { a with flags := setBit a.flags 8 } else a }

/-! ### Access checks -/

/-- The access kinds the map grants a hall in a range: read, write, fetch (R282, R283). -/
def granted (v : Variant) (h : Hall) (pa : Nat) : Bool × Bool × Bool :=
  match regionOf pa with
  | .dram => (true, true, true)
  | .link => (true, true, false)
  | .flash => if h = .L then (true, false, true) else (false, false, false)
  | .setup => (true, true, false)
  | .rom => if h = .L then (true, false, true) else (false, false, false)
  | .bsram =>
    let o := pa - bsramBase
    if o < 0x8000 then (if h = .L then (if Variant.hasJnl v then (true, false, false) else (true, true, true)) else (false, false, false))
    else if o < 0x9000 then (true, true, true)
    else if o < 0xF000 then (if h = .L then (true, true, true) else (false, false, false))
    else (if h = .L then (true, true, false) else (false, false, false))
  | _ => (false, false, false)

/-- Bus Error cause of an access, if any, in the order of R284: 1 RANGE, 2 HALL, 3 KIND. The doorbell range is reached by
BELLW only, so any other access there is of a kind not granted. -/
def State.busCause (s : State) (h : Hall) (pa : Nat) (k : Kind) : Option Nat :=
  let (r, w, f) := granted s.variant h pa
  if regionOf pa = .unassigned then some 1
  else if regionOf pa = .doorbell then some 3
  else if !(r || w || f) then some 2
  else if !(match k with | .read => r | .write => w | .fetch => f) then some 3
  else if regionOf pa = .dram ∧ s.installed ≤ pa then some 1
  else if regionOf pa = .flash ∧ flashBase + 2 ^ s.get F.FSP_CFG_SIZE ≤ pa then some 1
  else none

/-- CFG_DENYREC takes a denial: source (0 host, 1 Hall P core, 2 Hall L core), cause (0 PERM, 1 WIDTH), offset (R79). -/
def State.denyRec (s : State) (src cause off : Nat) : State :=
  let b := blockOf off
  ((((s.put F.CFG_DENYREC_VALID true).set F.CFG_DENYREC_SRC src).set F.CFG_DENYREC_CAUSE cause).set
    F.CFG_DENYREC_BLOCK b).set F.CFG_DENYREC_OFFSET (off - blockBase b)

/-- Check one piece of an access after its translation to `pa` with memory type `mt`: the map, the width of a set-up access, the frame key
(R299 items 4 and 5). `n` is the size of the whole access. -/
def checkPhys (s : State) (c : CoreId) (x : Ctx) (va n : Nat) (k : Kind) (atomic : Bool) (pa mt : Nat) : State × Option Exc :=
  let store := ofBool (k == .write)
  match s.busCause x.hall pa k with
  | some cause => (s, some (Exc.at 4 cause store va))
  | none =>
    if regionOf pa = .setup ∧ (n ≠ 4 ∨ pa % 4 ≠ 0) then
      let off := pa - setupBase
      (s.denyRec (if x.hall = .P then 1 else 2) 1 off, some (Exc.at 5 1 (blockOf off) va))
    else if atomic ∧ 2 ≤ mt then (s, some (Exc.at 4 3 store va))
    else if regionOf pa ≠ .dram ∨ ¬ s.flag F.KEY_CTL_ENABLE then (s, none)
    else if s.inKeyStore pa ∧ x.hall = .P then (s, some (Exc.at 4 2 store va))
    else if s.inKeyStore pa ∧ k = .write then (s, some (Exc.at 4 3 store va))
    else if s.keyPoison (s.core c).keys pa then (s.logError c.val 7 9 true (some pa), some (Exc.poison 9 pa))
    else
      let (key, cache) := s.keyByte (s.core c).keys 256 pa
      let s := s.updCore c fun q => { q with keys := cache }
      match keyCheck key x.hall (x.stair == 0) x.key k with
      | none => (s, none)
      | some cause => (s, some (Exc.at 7 cause (key % 16 + x.key * 16 + k.toNat * 256 + bitsOf key 6 6 * 1024) va))

/-- One piece of an access, which lies in one page: address, bytes, the size of the whole access (0 for a storage operand, which no
set-up access may be), kind. -/
structure Piece where
  va : Nat
  len : Nat
  size : Nat
  kind : Kind
deriving DecidableEq, Repr

/-- One checked part of an access: virtual and physical address, size, memory type. -/
structure Part where
  va : Nat
  pa : Nat
  len : Nat
  mt : Nat
deriving DecidableEq, Repr

/-- An error that a walk met is recorded for the core (R796). -/
def logWalk (s : State) (c : CoreId) (e : Exc) : State :=
  if e.vec = 0x14 then s.logError c.val 7 e.info true (e.fa.map BitVec.toNat) else s

/-- Translate every piece: the first fault of R299 item 3. -/
def translateAll (s : State) (c : CoreId) (x : Ctx) (atomic : Bool) : List Piece → State × (Exc ⊕ List (Piece × Nat × Nat))
  | [] => (s, .inr [])
  | p :: ps =>
    match translate s c x p.va p.kind atomic with
    | (s, .fault e) => (logWalk s c e, .inl e)
    | (s, .ok pa mt) =>
      match translateAll s c x atomic ps with
      | (s, .inl e) => (s, .inl e)
      | (s, .inr l) => (s, .inr ((p, pa, mt) :: l))

/-- Check translated pieces in order. -/
def checkEach (s : State) (c : CoreId) (x : Ctx) (atomic : Bool) : List (Piece × Nat × Nat) → State × Option Exc
  | [] => (s, none)
  | (p, pa, mt) :: l =>
    match checkPhys s c x p.va p.size p.kind atomic pa mt with
    | (s, some e) => (s, some e)
    | (s, none) => checkEach s c x atomic l

/-- Check every piece of an instruction's accesses whole, the exception of R299's order first: translation, then the map and keys, then
set-up space. Nothing is performed (R300). -/
def checkAll (s : State) (c : CoreId) (x : Ctx) (atomic : Bool) (ps : List Piece) : State × (Exc ⊕ List Part) :=
  match translateAll s c x atomic ps with
  | (s, .inl e) => (s, .inl e)
  | (s, .inr l) =>
    match checkEach s c x atomic (l.filter fun e => regionOf e.2.1 != .setup) with
    | (s, some e) => (s, .inl e)
    | (s, none) =>
      match checkEach s c x atomic (l.filter fun e => regionOf e.2.1 == .setup) with
      | (s, some e) => (s, .inl e)
      | (s, none) => (s, .inr (l.map fun e => ⟨e.1.va, e.2.1, e.1.len, e.2.2⟩))

/-- The pieces of `n` bytes at `va`, split where a multiple of `cut` lies within them. -/
def splitPieces (va n cut size : Nat) (k : Kind) : List Piece :=
  let n1 := min n (cut - va % cut)
  if n1 = n then [⟨va, n, size, k⟩] else [⟨va, n1, size, k⟩, ⟨(va + n1) % 2 ^ 48, n - n1, size, k⟩]

/-- Check an access of `n` bytes at `va` whole, part by part in ascending order; `cut` is the size below which a
boundary splits it (64 for a word, R252; 4,096 for the rest). No part is performed (R300). -/
def checkAccess (s : State) (c : CoreId) (x : Ctx) (va n cut : Nat) (k : Kind) (atomic : Bool) : State × (Exc ⊕ List Part) :=
  checkAll s c x atomic (splitPieces va n cut n k)

/-! ### The store buffer (R427 to R437) -/

/-- The store buffer holds 32 entries (11_pipeline_ordering.md, At a glance). -/
def sbCap : Nat := 32

/-- Perform a store on memory. One that meets a poison token is dropped, and a POISON machine check is due on the core,
imprecise to the store (R62, R794); the consumer's bank records it (R796). -/
def performStore (s : State) (c : CoreId) (e : SbEntry) : State :=
  match s.poison e.addr e.bytes.length with
  | none => s.physWrite e.addr e.bytes
  | some seg =>
    (s.logError c.val 7 seg true (some e.addr)).updCore c fun q =>
      { q with due := { q.due with mc := q.due.mc ++ [⟨2, seg, some (BitVec.ofNat 48 e.addr)⟩] } }

/-- The oldest store leaves the buffer and becomes globally visible (R427). -/
def drainOne (s : State) (c : CoreId) : State :=
  match (s.core c).sb with
  | [] => s
  | e :: l => performStore (s.updCore c fun q => { q with sb := l }) c e

/-- `n` stores leave the buffer in order. -/
def drainN (s : State) (c : CoreId) : Nat → State
  | 0 => s
  | n + 1 => drainN (drainOne s c) c n

/-- Every store leaves the buffer. -/
def drainAll (s : State) (c : CoreId) : State := drainN s c (s.core c).sb.length

/-- Two stores lie in one line of 64 bytes. -/
def SbEntry.sameLine (e f : SbEntry) : Bool := e.addr / 64 == f.addr / 64

/-- The entry at index k may leave: a device-weak store passes stores to other lines, and is passed by them; the rest leave in
program order (R427, R436). -/
def mayLeave (l : List SbEntry) (k : Nat) : Bool :=
  match l[k]? with
  | none => false
  | some e => (l.take k).all fun f => (f.weak || e.weak) && !f.sameLine e

/-- The entry at index k leaves the buffer, if it may. -/
def drainAt (s : State) (c : CoreId) (k : Nat) : State :=
  let l := (s.core c).sb
  match l[k]? with
  | some e => if mayLeave l k then performStore (s.updCore c fun q => { q with sb := l.take k ++ l.drop (k + 1) }) c e else s
  | none => s

/-- How many of the oldest entries reach up to the youngest device-weak one. -/
def lastWeak : List SbEntry → Nat
  | [] => 0
  | e :: l => if lastWeak l > 0 then lastWeak l + 1 else if e.weak then 1 else 0

/-- Every device-weak store leaves the buffer, with those before it. -/
def drainWeak (s : State) (c : CoreId) : State := drainN s c (lastWeak (s.core c).sb)

/-- A store writes some byte of the range. -/
def SbEntry.touches (e : SbEntry) (pa n : Nat) : Bool := decide (e.addr < pa + n) && decide (pa < e.addr + e.bytes.length)

/-- A store writes every byte of the range. -/
def SbEntry.covers (e : SbEntry) (pa n : Nat) : Bool := decide (e.addr ≤ pa) && decide (pa + n ≤ e.addr + e.bytes.length)

/-- How many of the oldest entries reach up to the youngest that touches the range. -/
def lastTouch : List SbEntry → Nat → Nat → Nat
  | [], _, _ => 0
  | e :: l, pa, n =>
    let r := lastTouch l pa n
    if r > 0 then r + 1 else if e.touches pa n then 1 else 0

/-- The result of reading memory: bytes, or the segment named by a poison token. -/
inductive RdRes
  | ok (l : List Byte)
  | poison (seg : Nat)
deriving DecidableEq, Repr

/-- What the store buffer supplies to a read: the bytes of the youngest store that touches it, when that store writes every byte (R429). -/
def forwarded (l : List SbEntry) (pa n : Nat) : Option (List Byte) :=
  match l[lastTouch l pa n - 1]? with
  | none => none
  | some e => if 0 < lastTouch l pa n ∧ e.covers pa n then some ((e.bytes.drop (pa - e.addr)).take n) else none

/-- A read of physical memory, whatever its range. -/
def readPhys (s : State) (c : CoreId) (p : Part) : State × RdRes :=
  match s.poison p.pa p.len with
  | some seg => ((s.flashReadEvent p.pa).logError c.val 7 seg true (some p.pa), .poison seg)
  | none => (s.eccFix p.pa p.len, .ok (s.physBytes p.pa p.len))

/-- A performed read of one part (R429, R430, R435): the youngest older store that writes every byte supplies it; where
older stores write only some of them, they become visible first; device-ordered reads wait for every earlier store. -/
def readPart (s : State) (c : CoreId) (p : Part) : State × RdRes :=
  let s := if p.mt = 2 then drainAll s c else s
  match forwarded (s.core c).sb p.pa p.len with
  | some l => (s, .ok l)
  | none => readPhys (drainN s c (lastTouch (s.core c).sb p.pa p.len)) c p

/-- A retired store of one part: buffered for WB, WT and device-weak memory, the oldest leaving first when the buffer is
full (R428); device-ordered stores are performed at once after every earlier access (R435). -/
def writePart (s : State) (c : CoreId) (x : Ctx) (p : Part) (l : List Byte) : State :=
  let s := markDirty s c x p.va
  if p.mt = 2 then performStore (drainAll s c) c ⟨p.pa, l, false⟩
  else
    let s := if sbCap ≤ (s.core c).sb.length then drainOne s c else s
    s.updCore c fun q => { q with sb := q.sb ++ [⟨p.pa, l, p.mt == 3⟩] }

/-- Read the parts of a checked access in order. -/
def readParts (s : State) (c : CoreId) : List Part → State × RdRes
  | [] => (s, .ok [])
  | p :: ps =>
    match readPart s c p with
    | (s, .poison seg) => (s, .poison seg)
    | (s, .ok l) =>
      match readParts s c ps with
      | (s, .poison seg) => (s, .poison seg)
      | (s, .ok l') => (s, .ok (l ++ l'))

/-- Write the parts of a checked access in order. -/
def writeParts (s : State) (c : CoreId) (x : Ctx) : List Part → List Byte → State
  | [], _ => s
  | p :: ps, l => writeParts (writePart s c x p (l.take p.len)) c x ps (l.drop p.len)

/-- The physical address a poisoned access names. -/
def partsPa (ps : List Part) : Nat :=
  match ps with
  | [] => 0
  | p :: _ => p.pa

/-- Check and read `n` bytes. -/
def loadBytes (s : State) (c : CoreId) (x : Ctx) (va n cut : Nat) (k : Kind) : State × (Exc ⊕ List Byte) :=
  match checkAccess s c x va n cut k false with
  | (s, .inl e) => (s, .inl e)
  | (s, .inr ps) =>
    match readParts s c ps with
    | (s, .poison seg) => (s, .inl (Exc.poison seg (partsPa ps)))
    | (s, .ok l) => (s, .inr l)

/-- Check and write bytes; nothing is written when a check fails. -/
def storeBytes (s : State) (c : CoreId) (x : Ctx) (va cut : Nat) (l : List Byte) : State × Option Exc :=
  match checkAccess s c x va l.length cut .write false with
  | (s, .inl e) => (s, some e)
  | (s, .inr ps) => (writeParts s c x ps l, none)

/-! ### Held windows (R499 to R503) -/

/-- End an open held window with an END code: OVR and COUNT are recorded for codes 1 to 4 (R501). -/
def endHold (s : State) (c : CoreId) (code : Nat) : State :=
  s.updCore c fun q =>
    match q.hold with
    | none => q
    | some h =>
      let v := (q.cr q.hall crHOLDSTAT).toNat
      let v := putBits v 3 1 code
      let v := if 1 ≤ code ∧ code ≤ 4 then putBits (putBits v 0 0 1) 15 8 h.count else v
      { q.setCr q.hall crHOLDSTAT (BitVec.ofNat 48 v) with hold := none, csw := cswSet q.csw 21 21 0 }

/-- At an instruction boundary a window whose count limit is reached ends: COUNT when n is within HOLDMAX, else MAX
(R501, R502). -/
def boundary (s : State) (c : CoreId) : State :=
  match (s.core c).hold with
  | none => s
  | some h => if h.limit ≤ h.count then endHold s c (if h.n ≤ h.limit then 1 else 2) else s

/-! ### Taking an exception (R475 to R488) -/

/-- OP of the long at an address, read as a fetch of the running code would; 0 where it cannot be read (log entry 10). -/
def opAt (s : State) (c : CoreId) (pc : Word) : Nat :=
  match translate s c (s.core c).ctx pc.toNat .fetch false with
  | (_, .ok pa _) => bitsOf (ofLe (s.bytes pa 4)) 31 26
  | (_, .fault _) => 0

/-- The syndrome (R479). -/
def syndrome (e : Exc) (opc : Nat) (csw : Word) : Word :=
  BitVec.ofNat 48 (e.vec * 2 ^ 42 + opc * 2 ^ 36 + ofBool e.fa.isSome * 2 ^ 35 + cswStair csw * 2 ^ 32
    + hallNat (cswHall csw) * 2 ^ 31 + e.cause * 2 ^ 16 + e.info)

/-- The 48 bytes of a frame (R484). -/
def frameBytes (pc csw w1 w2 w3 w30 fa syn : Word) : List Byte :=
  [pc, cswSet csw 21 21 0, w1, w2, w3, w30, fa, syn].flatMap fun v => leBytes 6 v.toNat

/-- What an entry saves: PC, CSW, and W1, W2, W3, W30 as the frame shows them (zero for a STOPPED Hall P, R490). -/
structure Saved where
  pc : Word
  csw : Word
  w1 : Word
  w2 : Word
  w3 : Word
  w30 : Word
deriving DecidableEq, Repr

/-- The running code as an entry saves it. -/
def Core.saved (q : Core) (pc : Word) : Saved := ⟨pc, q.csw, q.rd 1, q.rd 2, q.rd 3, q.rd 30⟩

/-- ILEVEL on entry (R485). -/
def entryIlevel (vec old : Nat) : Nat :=
  if 0x31 ≤ vec ∧ vec ≤ 0x3F then vec - 0x30 else if 0x11 ≤ vec ∧ vec ≤ 0x16 then 15 else old

/-- CSW on entry into stair t of hall h (R483 order 5). -/
def entryCsw (old : Word) (x : Ctx) (il : Nat) : Word :=
  let v := cswSet old 18 18 (hallNat x.hall)
  let v := cswSet v 17 16 x.stair
  let v := cswSet v 20 20 (ofBool x.te)
  let v := cswSet v 11 8 x.key
  let v := cswSet v 15 12 il
  let v := cswSet v 19 19 0
  cswSet v 21 21 0

/-- Why an entry failed: CAUSE of the Stack Fault (1 PUSH, 2 SPALIGN, 3 VFETCH) and its fault address (R480, R483). -/
structure PushFail where
  cause : Nat
  fa : Option Word
deriving DecidableEq, Repr

/-- The vector's first instruction is fetched from `pa`. A poison token makes a POISON machine check due; at a machine check's own
vector it causes the fault reset (R64, R795). -/
def vectorFetched (s : State) (c : CoreId) (vec pa : Nat) : State :=
  match s.poison pa 4 with
  | none => s
  | some seg =>
    let s := s.logError c.val 7 seg true (some pa)
    if vec = 0x14 then s.warmReset causeFault
    else s.updCore c fun q => { q with due := { q.due with mc := q.due.mc ++ [⟨2, seg, some (BitVec.ofNat 48 pa)⟩] } }

/-- Steps 1 to 5 of R483 with the frame at `base` - 48: check the frame whole, check the vector fetch, write the frame,
and switch. The stack pointer of (h, t) becomes the frame's address; the registers of the frame come from `sv`. -/
def enterAt (s : State) (c : CoreId) (x : Ctx) (base : Word) (vec il : Nat) (sv : Saved) (fa syn : Word) : State × Option PushFail :=
  let a := base - 48#48
  let va := ((s.core c).cr x.hall (crVBASE x.stair) + BitVec.ofNat 48 (64 * vec)).toNat
  match checkAccess s c x a.toNat 48 4096 .write false with
  | (s, .inl e) => (s, some ⟨1, e.fa⟩)
  | (s, .inr ps) =>
    match checkAccess s c x va 4 4096 .fetch false with
    | (s, .inl e) => (s, some ⟨3, e.fa⟩)
    | (s, .inr vps) =>
      let s := writeParts s c x ps (frameBytes sv.pc sv.csw sv.w1 sv.w2 sv.w3 sv.w30 fa syn)
      let s := s.updCore c fun q =>
        let q := q.setSp x.hall x.stair a
        { q with w := (q.w.set 1 syn).set 2 fa, csw := entryCsw sv.csw x il, pc := BitVec.ofNat 48 va,
                 asleep := false, jobWait := false, hold := none }
      (vectorFetched s c vec (partsPa vps), none)

/-- An event being entered, with all that its frame needs. -/
structure Entry where
  exc : Exc
  opc : Nat
  saved : Saved
deriving DecidableEq, Repr

/-- The fault address a frame holds: zero when FAV is 0 (R480). -/
def Entry.fa (n : Entry) : Word := n.exc.fa.getD 0

/-- Steps of R483 into stair t of hall h; on failure the Stack Fault of R487 onto the reserve stack; on its failure
`lock` with the reason that FLT_LOCKREC0.WHY gives (R488, R819). -/
def enterOr (lock : State → Nat → State) (s : State) (c : CoreId) (h : Hall) (t : Nat) (n : Entry) : State :=
  let q := s.core c
  let sp := q.spOf h t
  let syn := syndrome n.exc n.opc n.saved.csw
  let r := if sp.toNat % 16 ≠ 0 then (s, some ⟨2, none⟩)
    else enterAt s c (q.entryCtx h t) sp n.exc.vec (entryIlevel n.exc.vec (cswIlevel n.saved.csw)) n.saved n.fa syn
  match r with
  | (s, none) => s
  | (s, some pf) =>
    let q := s.core c
    let rsp := q.cr h crRSP
    if (q.cr h crSFSTAT).toNat % 2 = 1 then lock s 1
    else if rsp.toNat % 16 ≠ 0 then lock s 2
    else
      let s := s.updCore c fun q => q.setCr h crSFSP (q.spOf h 0)
      let sf : Exc := ⟨0x11, pf.cause, n.exc.vec, pf.fa, some n.opc, false⟩
      match enterAt s c (q.entryCtx h 0) rsp 0x11 15 n.saved (pf.fa.getD 0) (syndrome sf n.opc n.saved.csw) with
      | (s, none) => s.updCore c fun q => q.setCr h crSFSTAT 1
      | (s, some pf2) => lock s (if pf2.cause = 1 then 3 else 4)

/-- The lockup record (R799). -/
def lockRec (s : State) (c : CoreId) (h : Hall) (why vec : Nat) : State :=
  let s := ((((s.put F.FLT_LOCKREC0_VALID true).set F.FLT_LOCKREC0_HALL (hallNat h)).set F.FLT_LOCKREC0_CORE c.val).set
    F.FLT_LOCKREC0_WHY why).set F.FLT_LOCKREC0_VEC vec
  (s.set F.FLT_LOCKREC1_TIME (bitsOf s.tb.toNat 31 0)).event 22 3


/-- Entry into Hall L: a lockup of Hall L is recorded and causes the fault reset of all cores (R488). -/
def enterL (s : State) (c : CoreId) (t : Nat) (n : Entry) : State :=
  enterOr (fun s why => (lockRec s c .L why n.exc.vec).warmReset causeFault) s c .L t n

/-- Entry into Hall P: a lockup of Hall P is recorded and enters Hall L stair 0 through Hall P Lockup, with the frame of
the failed entry (R488). -/
def enterP (s : State) (c : CoreId) (t : Nat) (n : Entry) : State :=
  enterOr (fun s why =>
    enterL (lockRec s c .P why n.exc.vec) c 0 { n with exc := ⟨0x13, 0, n.exc.vec, none, none, true⟩ }) s c .P t n

/-- Enter stair t of hall h. -/
def enterHall (s : State) (c : CoreId) (h : Hall) (t : Nat) (n : Entry) : State :=
  match h with
  | .L => enterL s c t n
  | .P => enterP s c t n

/-- Vectors a hall may delegate to stair 1 (R475). -/
def delegable (v : Nat) : Bool := (decide (1 ≤ v) && decide (v ≤ 0xD)) || v == 0x10

/-- The target stair of an exception in hall h that arises at stair p (R477). -/
def targetStair (q : Core) (h : Hall) (vec p : Nat) : Nat :=
  if delegable vec && decide (1 ≤ p) && bit (q.cr h crDELEGX).toNat vec then 1 else 0

/-- Take an exception with a saved PC: an open window ends, by EXIT or, for the events of R482, FORCED; the target hall
and stair follow R475 and R477; then the entry of R483. -/
def takeException (s : State) (c : CoreId) (e : Exc) (pc : Word) : State :=
  let s := endHold s c (if 0x14 ≤ e.vec ∧ e.vec ≤ 0x16 then 4 else 5)
  let q := s.core c
  let h := if e.toL then .L else q.hall
  enterHall s c h (targetStair q h e.vec q.stair) ⟨e, e.opc.getD (opAt s c pc), q.saved pc⟩

end Sys2Proof.Machine
end

