-- ==== Sys2Proof/Machine/Containment.lean ====
section
/-! DEFINITION. Core hold and release (R119), stalls, drains and unfences (R54 to R64, R800, R801), and the expiries of the watchdogs
(R472 to R474, R784, R815 to R818). -/
namespace Sys2Proof.Machine

/-! ### Core hold and release (R119) -/

/-- A core's state after a reset of it; TMB_TBHI as captured for it is kept (R785). -/
def Core.held (q : Core) : Core := { Core.reset with tbHi := q.tbHi }

/-- A bit of PWR_CORERST.HOLD is set: the core's stores and dirty lines reach memory unless it is fenced, its tokens and locks are
revoked (R119, R810). -/
def coreHold (s : State) (c : CoreId) : State :=
  let s := if s.fenced c.val then s.linesLost else drainAll s c
  let s := (s.revokeCore c.val .L).revokeCore c.val .P
  let s := s.llRevokeAll fun o => o.1 != 0 && o.2 == c.val
  s.updCore c Core.held

/-- The address in PWR_COREENT_LO and PWR_COREENT_HI. -/
def State.coreEntry (s : State) : Nat := s.get F.PWR_COREENT_HI_ADDR * 2 ^ 31 + s.get F.PWR_COREENT_LO_ADDR

/-- The bit is cleared: the core starts in Hall L stair 0. -/
def coreRelease (s : State) (c : CoreId) : State := s.updCore c fun q => { q.held with pc := BitVec.ofNat 48 s.coreEntry }

/-- PWR_CORERST.HOLD was written; `old` is its value before. -/
def coreHolds (s : State) (old : Nat) : State :=
  (List.finRange 4).foldl (fun s c =>
    let now := bit (s.get F.PWR_CORERST_HOLD) c.val
    if Variant.cores s.variant ≤ c.val ∨ now = bit old c.val then s else if now then coreHold s c else coreRelease s c) s

/-! ### Stalls (R57 to R64) -/

/-- The segment exists (Variants of the fabric chapter). -/
def State.segPresent (s : State) (n : Nat) : Bool :=
  decide (n < 13) && (decide (4 ≤ n) || decide (n < Variant.cores s.variant)) && (n != 6 || Variant.hasJnl s.variant)

/-- FLT_SEGSTAT.PENDING: the segments that hold a request between commands, the engines with a job in progress (R55). -/
def State.segPending (s : State) : Nat :=
  ofBool (s.atLoc Loc.atJournal) * 2 ^ 6 + ofBool ((List.range 4).any fun i => s.atLoc (· == .copy i)) * 2 ^ 7

/-- What a drain does to the jobs of an engine (R62). -/
def State.drainJobs (s : State) (n : Nat) : State :=
  if n = 6 then s.endFlight (fun f => Loc.atJournal f.loc) ⟨0x30, 0, 4⟩
  else if n = 7 then (List.range 4).foldl (fun s i => s.laneEnds i 0x30 0) s
  else s

/-- The record of a stall (R60 step 4). -/
def State.stallRecord (s : State) (n drained : Nat) : State :=
  let s := ((s.put F.FLT_STALLREC0_VALID true).set F.FLT_STALLREC0_DRAINED (satTo 255 drained)).set F.FLT_STALLREC0_SEG n
  ((s.set F.FLT_STALLREC1_TIME (bitsOf s.tb.toNat 31 0)).bump F.FLT_DRAINCNT_COUNT 1).event 22 0

/-- A machine check on the core of R63, or the fault reset when there is none (R64). -/
def State.stallCheck (s : State) (cls n : Nat) : State :=
  match s.lowestFree 15 with
  | some c => s.machineCheck c ⟨cls, n, none⟩
  | none => s.warmReset causeFault

/-- A stall is declared in segment n, `drained` handshakes of which were completed with poison (R60). -/
def State.stall (s : State) (n drained : Nat) : State :=
  if !s.segPresent n || s.fenced n || !s.pwr.fabricUp then s
  else
    let s := (s.set F.FLT_SEGSTAT_FENCED (setBit (s.get F.FLT_SEGSTAT_FENCED) n)).drainJobs n
    (s.stallRecord n drained).stallCheck 1 n

/-! ### Unfences (R800, R801) -/

/-- Empty every key cache. -/
def State.keysEmptied (s : State) : State :=
  (({ s with cores := s.cores.map fun (q : Core) => { q with keys := [] } } : State).updPump fun p => { p with keys := [] }).updEng fun e =>
    { e with jnlKeys := [], cpyKeys := [] }

/-- The effect of returning segment n to service. -/
def State.segReturn (s : State) (n : Nat) : State :=
  if h : n < 4 then s.linesLost.updCore ⟨n, h⟩ Core.held
  else if n = 8 then s.updBel fun b => { b with pend := [[], [], [], []] }
  else if n = 9 then s.keysEmptied
  else if n = 10 then s.hReset s.link.perst
  else s

/-- An accepted unfence completes. -/
def State.unfenced (s : State) (n : Nat) : State :=
  if !s.flt.unfencing.contains n then s
  else
    let s := (s.segReturn n).updFlt fun f => { f with unfencing := f.unfencing.filter (· != n) }
    ((s.set F.FLT_SEGSTAT_FENCED (clrBit (s.get F.FLT_SEGSTAT_FENCED) n)).set F.FLT_UNFENCE_RES 0).event 22 7

/-! ### Watchdogs -/

/-- The watchdogs count: not in the Cistern state, nor while a core is halted under TMB_DBGFRZ.FRZ (R474, R784, R818). -/
def State.wdRuns (s : State) : Bool :=
  s.pwr.aonUp && !s.inCistern && !(s.flag F.TMB_DBGFRZ_FRZ && s.cores.toList.any (·.halted))

/-- An event of R481 falls due on a core. -/
def State.dueOn (s : State) (c : Nat) (f : Due → Due) : State :=
  if h : c < 4 then s.updCore ⟨c, h⟩ fun q => { q with due := f q.due } else s

/-- WDL expires (R473). -/
def State.wdlExpire (s : State) : State :=
  if !s.flag F.TMB_WDLCFG_ENABLE || !s.wdRuns then s
  else
    let s := s.event 17 1
    match s.flt.wdlOnce, s.lowestFree 15 with
    | false, some c =>
      (s.wdlRestart.updFlt fun f => { f with wdlOnce := true }).dueOn c fun d => { d with watchdog := true }
    | _, _ => s.warmReset causeWdog

/-- WDP expires (R472): bell source 44 fires. -/
def State.wdpExpire (s : State) : State :=
  if !s.flag F.TMB_WDPCFG_ENABLE || !s.wdRuns || !s.flag F.PWR_HALLPCTL_ENABLE then s
  else (s.set F.TMB_WDPCNT_MS 0).fireBell 44

/-- The inlet slots with live jobs of the halls in SCOPE (R817). -/
def State.leasesOf (s : State) (halls : List Hall) : Nat :=
  (halls.map fun h => ((List.range 4).map fun c => (s.inletSlots c h).length).sum).sum

/-- Order 1 and 2 of R817. -/
def State.wddRevoke (s : State) : State :=
  let scope := s.get F.TMB_WDDCFG_SCOPE
  let halls := if scope = 1 then [Hall.P] else if scope = 2 then [Hall.P, Hall.L] else []
  let party (o : Nat × Nat) : Bool := scope == 2 || (scope == 1 && o.1 != 1)
  let locks := (s.locksOf party).length
  let leases := s.leasesOf halls
  let s := s.llRevokeAll party
  let s := halls.foldl (fun s h => (List.range 4).foldl (fun s c => s.revokeCore c h) s) s
  let s := ((s.put F.TMB_WDDREC_VALID true).put F.TMB_WDDREC_STAGE2 false).set F.TMB_WDDREC_LOCKS locks
  (s.set F.TMB_WDDREC_LEASES (satTo 65535 leases)).event 22 6

/-- The second stage: a warm reset, recorded (R817 order 5). -/
def State.wddStage2 (s : State) : State := (s.put F.TMB_WDDREC_STAGE2 true).warmReset causeWdog

/-- WDD reaches zero (R817). -/
def State.wddExpire (s : State) : State :=
  if !s.flag F.TMB_WDDCFG_ENABLE || !s.wdRuns || s.flag F.TMB_WDDCNT_GRACE then s
  else
    let s := s.wddRevoke
    match s.lowestFree 15 with
    | some c =>
      ((s.dueOn c fun d => { d with devWatchdog := true }).set F.TMB_WDDCNT_MS (s.get F.TMB_WDDCFG_GRACE)).put F.TMB_WDDCNT_GRACE true
    | none => s.wddStage2

/-- GRACE elapses without service (R817). -/
def State.wddGrace (s : State) : State :=
  if s.flag F.TMB_WDDCFG_ENABLE && s.flag F.TMB_WDDCNT_GRACE && s.wdRuns then s.wddStage2 else s

end Sys2Proof.Machine
end

