-- ==== Sys2Proof/Machine/Setup.lean ====
section
/-! DEFINITION. Set-up space (R68 to R97): what a read returns, who may write, and what a write of a register does to its
fields: clamping, staging, refusal, the clamp log. What a write makes a unit do is in RegisterWrite. -/
namespace Sys2Proof.Machine

/-! ### Legal values (R80 to R83) -/

/-- A mask with the bits outside `ok` cleared; the cause when any was set. -/
def maskCheck (ok cause w : Nat) : Nat × Option Nat := (w &&& ok, if andNot w ok = 0 then none else some cause)

/-- A value that names one instance: legal when present or the none encoding, else `none'`, ABSENT when it names an absent instance
(R12). -/
def oneCheck (present : Nat → Bool) (total none' w : Nat) : Nat × Option Nat :=
  if w = none' ∨ (w < total ∧ present w = true) then (w, none)
  else (none', some (if w < total then clampAbsent else clampRange))

/-- The nearer bound of a range. -/
def nearCheck (lo hi w : Nat) : Nat × Option Nat :=
  if w < lo then (lo, some clampRange) else if hi < w then (hi, some clampRange) else (w, none)

/-- The value applied for `w` written to a field of the register at `off`, `word` being the whole word written and `n` the field's
width, and the cause of the clamp (R80, R86). -/
def Legal.check (l : Legal) (s : State) (off word n w : Nat) : Nat × Option Nat :=
  match l with
  | .any => (w, none)
  | .near lo hi => nearCheck lo hi w
  | .dflt lo hi v => if w < lo ∨ hi < w then (v, some clampRange) else (w, none)
  | .keep m => maskCheck m clampRange w
  | .mult k => (w - w % k, if w % k = 0 then none else some clampRange)
  | .signed k =>
    let x := signedOf n w
    if x < -(k : Int) then (ofInt n (-(k : Int)), some clampRange)
    else if (k : Int) < x then (ofInt n k, some clampRange) else (w, none)
  | .cores => maskCheck s.coreMask clampAbsent w
  | .slotsPg =>
    let pg := s.slotsThat fun k => s.flag (F.SEQ_SLOT_CFG_PGEN.ix k)
    if andNot w s.slotMask ≠ 0 then (w &&& pg, some clampAbsent) else maskCheck pg clampRange w
  | .slotOrNone => oneCheck (fun k => decide (k < Variant.slots s.variant)) 16 0x1F w
  | .winOrNone => oneCheck (Variant.win s.variant) 16 0x1F w
  | .sdSlot => if w = 0x1F then (w, none) else oneCheck (fun k => decide (k < Variant.slots s.variant)) 16 0x1E w
  | .slotDepMask =>
    let own := 2 ^ ((off - F.SEQ_SLOT_DEP_DEP.off) / 0x20)
    let ok := andNot s.slotMask own
    if andNot w s.slotMask ≠ 0 then (w &&& ok, some clampAbsent) else maskCheck ok clampRange w
  | .adcMask => maskCheck (packBits 24 (Variant.adcChan s.variant)) clampAbsent w
  | .adcGain =>
    if 20 ≤ word % 32 ∧ word % 32 ≤ 23 then if w = 0 then (1, some clampRange) else (w, none)
    else if w = 0 then (0, none) else (0, some clampRange)
  | .adcChan => oneCheck (Variant.adcChan s.variant) 24 0x1F w
  | .belHall => if off = F.BEL_SRC_HALL.off + 4 * 44 ∧ w ≠ 0 then (0, some clampRange) else (w, none)
  | .well => oneCheck (fun k => decide (k < Variant.wells s.variant)) 16384 0x7FFF w
  | .fspDiv => nearCheck (if word % 4 = 2 ∨ word % 4 = 3 then 1 else 2) 200 w
  | .memEcc => nearCheck 0 1 w
  | .memRate => nearCheck 0 3 w
  | .memSize => nearCheck 1 3 w
  | .linkRate => nearCheck 1 (Variant.maxRate s.variant) w
  | .linkWidth =>
    if w = 1 ∨ w = 2 ∨ (w = 4 ∧ Variant.maxWidth s.variant = 4) then (w, none)
    else (if w = 0 then 1 else min (if w < 4 then 2 else 4) (Variant.maxWidth s.variant), some clampRange)
  | .bar4 => nearCheck 0 (s.installed / 2 ^ 24 - 1) w
  | .llBind => if w = 2 ∧ !Variant.hasJnl s.variant then (0, some clampAbsent) else (w, none)
  | .llCount => nearCheck 1 (Variant.wells s.variant) w
  | .llFirst =>
    if s.get (F.LL_CFG_BIND.ix ((off - F.LL_BIND_FIRST.off) / 0x10)) = 1 then if w ≤ 1 then (w, none) else (0, some clampRange)
    else if w < Variant.wells s.variant then (w, none) else (0, some clampAbsent)
  | .i2cPec => if F.I2C_CFG_PEC.off = off ∧ w = 1 then (0, some clampRange) else (w, none)

/-! ### blk_STAT (R28, R70) -/

/-- The link is low for R144: in L1.2, not trained, or in D3cold. -/
def State.linkLow (s : State) : Bool := !s.link.up || s.link.lp == 3 || s.link.perst

/-- PWR_STAT (R155): CORESLEEP and COREHELD show present cores. -/
def State.pwrStat (s : State) : Nat :=
  let asleep := packBits 4 (fun c => (s.cores.toList.getD c Core.reset).asleep) &&& s.coreMask
  asleep * 2 ^ 12 + (s.get F.PWR_CORERST_HOLD &&& s.coreMask) * 2 ^ 8 + ofBool s.linkLow * 2 ^ 6 + ofBool s.pumpQuiet * 2 ^ 5
    + s.get F.PWR_HALLPCTL_ENABLE * 2 ^ 4 + s.pwr.lifecycle % 4

/-- SEQ_STAT.STATE (R210). -/
def SeqState.code : SeqState → Nat
  | .off => 0
  | .up => 1
  | .on => 2
  | .partial' => 3
  | .down => 4
  | .collapsed => 5
  | .kwait => 6
  | .restart => 7

/-- SEQ_STAT (R210). -/
def State.seqStat (s : State) : Nat :=
  (s.seq.level % 8) * 2 ^ 12 + ofBool s.seq.colArmed * 2 ^ 11 + ofBool s.seq.kline * 2 ^ 10 + ofBool s.seq.klead * 2 ^ 9
    + (s.seq.step % 32) * 2 ^ 4 + s.seq.state.code

/-- The image of a calibration bank: a byte never programmed reads 0xFF (log entry 23). -/
def State.calByte (s : State) (b o : Nat) : Byte := (lookupKey (if b = 0 then s.pwr.bank0 else s.pwr.bank1) o).getD 0xFF#8
def State.calBytes (s : State) (b : Nat) (l : List Nat) : List Byte := l.map (s.calByte b)
def State.calLong (s : State) (b o : Nat) : Nat := ofLe (s.calBytes b ((List.range 4).map (o + ·)))

/-- A bank is valid: MAGIC and CRC match (R138). -/
def State.calValid (s : State) (b : Nat) : Bool :=
  s.calLong b 0x1FF0 == 0xCA1B5A7E && s.calLong b 0x1FF8 == crc32 (s.calBytes b (List.range 0x1FF8))

/-- CAL_STAT (R143): the same bits at the header's offset and at 0x60104. -/
def State.calStat (s : State) : Nat :=
  match s.pwr.calActive with
  | none => 8 + 4 * ofBool s.pwr.calBusy + 2 * ofBool (s.calValid 1)
  | some b => 4 * ofBool s.pwr.calBusy + 2 * ofBool (s.calValid (1 - b)) + b % 2

/-- CHG_STAT (R738). -/
def State.chgStat (s : State) : Nat :=
  let q := s.chg
  ofBool q.oncell * 2 ^ 18 + ofBool (decide (2 ≤ q.state) && decide (q.state ≤ 4)) * 2 ^ 17 + ofBool q.present * 2 ^ 16
    + q.scause % 4 * 2 ^ 12 + q.fcause % 4 * 2 ^ 8 + q.state % 8

/-- blk_STAT of a present block. -/
def State.stat (s : State) (b : Nat) : Nat :=
  match b with
  | 1 => s.get F.CFG_ACCLOCK_LOCK
  | 2 => s.pwrStat
  | 3 => s.seqStat
  | 4 => packBits 16 fun n => s.winOut n == 1 || s.winOut n == 3
  | 5 => ofBool s.snapBusy * 2 ^ 9 + ofBool s.adc.run * 2 ^ 8 + s.adc.entry % 16
  | 6 => s.calStat
  | 9 => 2 * s.get F.KEY_CTL_LOCK + s.get F.KEY_CTL_ENABLE
  | 10 => 4 * s.get F.PMP_INLBASEP_ON + 2 * s.get F.PMP_INLBASEL_ON + ofBool s.pumpQuiet
  | 12 => 8 * ofBool s.eng.destFull + 4 * ofBool s.eng.batch.isSome + 2 * ofBool s.durable + ofBool s.headValid
  | 13 => packBits 4 fun i => s.atLoc (· == .copy i)
  | 14 => s.gal.bank % 2 * 2 ^ 8 + ofBool s.gal.check.isSome * 2 ^ 5 + ofBool s.gal.swapPend * 2 ^ 4 + ofBool s.gal.run
  | 15 => packBits (Variant.latches s.variant) s.latchBusy
  | 16 => s.chgStat
  | 20 => s.dram.usable % 256 * 2 ^ 8 + ofBool s.dram.trained * 4 + ofBool s.dram.selfRef * 2 + ofBool (s.get F.MEM_CFG_ECC == 1)
  | 21 => s.link.dState % 4 * 2 ^ 20 + s.link.width % 16 * 2 ^ 16 + s.link.rate % 8 * 2 ^ 12 + ofBool s.link.bme * 2 ^ 9 + ofBool s.link.up * 2 ^ 8
  | 22 => s.get F.FLT_LOCKREC0_VALID * 2 ^ 16 + packBits 8 (fun b => s.flag (F.FLT_BANK_STAT_VALID.ix b)) * 2 ^ 8
  | _ => 0

/-! ### Fields computed when read -/

/-- OTP word n (R130); VARIANT reads the code of the part. -/
def State.otpWord (s : State) (n : Nat) : Nat :=
  ((lookupKey s.pwr.otp n).getD 0).toNat ||| (if n = 2 then Variant.part s.variant % 256 else 0)

/-- BEL_PENDc_w (R498): the edge sources pending on core c. -/
def State.belPend (s : State) (c w : Nat) : Nat := packBits 32 fun i => (s.bel.pend.getD c []).contains (32 * w + i)

/-- The window bank of a source (R554). -/
def State.wsel (s : State) (src : Src) : Nat := s.pump.wsel.getD (srcDb src) 0x7FFF

/-- A value staged for RING0 of a well stands under this key. -/
def ringKey (w : Nat) : Nat := 0x400000 + w

/-- Long k of a context as a window reads it (R555, R558, R89). -/
def State.wctxRead (s : State) (src : Src) (k : Nat) : Nat :=
  let w := s.wsel src
  if !s.flag F.PMP_WTCTL_ON || w == 0x7FFF then 0
  else if k = 2 then
    match lookupKey s.staged (ringKey w) with
    | some v => v.toNat % 2 ^ 31 + 2 ^ 31
    | none => s.ctxLong w 2
  else s.ctxLong w k

/-- PMP_INSTc (R635). -/
def State.instWord (s : State) (c : Nat) : Nat :=
  s.instExp c .P % 256 * 2 ^ 24 + s.instLive c .P % 256 * 2 ^ 16 + s.instExp c .L % 256 * 2 ^ 8 + s.instLive c .L % 256

/-- LCH_LIVEn (R737). -/
def State.latchLive (s : State) (n : Nat) : Nat :=
  match (s.latch.getD n LatchCh.reset).pulse with
  | some p => p.phase.code * 2 ^ 24 + p.duty % 128 * 2 ^ 16 + p.current % 4096
  | none => 0

/-- FLT_SELF (R819). -/
def selfWord (src : Src) : Nat := (srcId src).1 * 2 ^ 28 + (srcId src).2 * 2 ^ 24

/-- The capture of TMB_TBHI of a source (R781). -/
def State.tbHiOf (s : State) : Src → Nat
  | .host => s.clk.hostTbHi.toNat
  | .core c _ => (s.core c).tbHi.toNat

/-- Live registers of the blocks ID to KEY. -/
def State.liveLow (s : State) (off : Nat) : Option Nat :=
  if off = 0 then some (Variant.part s.variant)
  else if 0x10 ≤ off ∧ off < 0x20 then some (Variant.cap s.variant ((off - 0x10) / 4))
  else if off = 0x20 then some Config.pciIds.toNat
  else if off = 0x24 then some Config.jtagId.toNat
  else if 0x800 ≤ off ∧ off < 0x1000 then some (s.otpWord ((off - 0x800) / 4))
  else if 0x31000 ≤ off ∧ off < 0x31200 ∧ off % 0x20 = 0x14 then
    let w := s.slotWeff ((off - 0x31000) / 0x20)
    some (w.2 * 2 ^ 16 + w.1)
  else if off = 0x40100 then some (s.winLive)
  else if off = 0x40104 then some (s.wins.foldr (fun w a => a * 4 + w.raw) 0)
  else if off = 0x50114 then some s.snapStat
  else if off = 0x60104 then some s.calStat
  else if off = 0x60108 then some (match s.pwr.calActive with | some b => s.calLong b 0x1FF4 | none => 0)
  else if 0x70000 ≤ off ∧ off < 0x72000 then some (match s.pwr.calActive with | some b => s.calLong b (off - 0x70000) | none => 0)
  else if 0x103000 ≤ off ∧ off < 0x103100 then some (s.belPend ((off - 0x103000) / 0x40) (off % 0x40 / 4))
  else none

/-- Live registers of the blocks PMP to FLT. -/
def State.liveHigh (s : State) (src : Src) (off : Nat) : Option Nat :=
  if off = 0x180300 then some (s.wsel src)
  else if 0x180340 ≤ off ∧ off < 0x180380 then some (s.wctxRead src ((off - 0x180340) / 4))
  else if off = 0x180400 then some (s.pinnedCount % 1024 * 2 ^ 16 + s.pump.cache.length % 1024)
  else if off = 0x180408 then some s.backlog
  else if 0x180420 ≤ off ∧ off < 0x180430 then some (s.instWord ((off - 0x180420) / 4))
  else if 0x1C1000 ≤ off ∧ off < 0x1D1000 ∧ off % 0x20 = 0x18 then
    some (putBits (s.reg off) 25 16 (satTo 1023 (s.cqRsv ((off - 0x1C1000) / 0x20))))
  else if off = 0x240150 then some s.gal.queue.length
  else if 0x240200 ≤ off ∧ off < 0x240300 then some (s.galTstat ((off - 0x240200) / 4))
  else if 0x280100 ≤ off ∧ off < 0x280180 ∧ off % 0x20 = 0x14 then some (s.latchLive ((off - 0x280100) / 0x20))
  else if off = 0x2A0100 then some (bitsOf s.tb.toNat 31 0)
  else if off = 0x2A0104 then some (s.tbHiOf src)
  else if 0x2B1000 ≤ off ∧ off < 0x2B1400 ∧ off % 0x100 = 0x0C then some ((s.uart ((off - 0x2B1000) / 0x100)).rx.headD 0)
  else if 0x2B1000 ≤ off ∧ off < 0x2B1400 ∧ off % 0x100 = 0x14 then
    let q := s.uart ((off - 0x2B1000) / 0x100)
    some (q.rx.length * 2 ^ 16 + q.tx.length)
  else if off = 0x2B2108 then some (withBit (s.reg off) 30 s.seqOwnsI2c)
  else if off = 0x380104 then some (putBits (s.reg off) 28 16 s.segPending)
  else if off = 0x380130 then some (selfWord src)
  else if off = 0x380140 ∨ off = 0x380144 then some (s.llExp ((off - 0x380140) / 4))
  else none

/-- The block whose STAT register stands at an offset, a core's header left out. -/
def statBlock (off : Nat) : Option Nat :=
  let b := blockOf off
  if b ≠ 0 ∧ b ≠ 7 ∧ off = blockBase b then some b else none

/-- The offset is that of a STAT register of the common header. -/
def isStat (off : Nat) : Bool := (statBlock off).isSome || (decide (0x80000 ≤ off) && decide (off < 0xC0000) && off % 0x10000 == 0)

/-- The bits of a register that read as stored: WO fields read zero (R25). -/
def readMask (d : RegD) : Nat := d.fields.foldl (fun a f => if f.acc = .wo then a else a + (2 ^ (f.hi + 1 - f.lo) - 1) * 2 ^ f.lo) 0

/-- The value a read returns (R8, R25, R69, R89). -/
def State.readReg (s : State) (src : Src) (off : Nat) : Nat :=
  match findReg off with
  | none => 0
  | some (d, i, _) =>
    if !d.pres.holds s.variant i then if isStat off then 2 ^ 31 else 0
    else match statBlock off with
      | some b => s.stat b
      | none =>
        match (if off < 0x180000 then s.liveLow off else s.liveHigh src off) with
        | some v => v % 2 ^ 32
        | none =>
          match lookupKey s.staged off with
          | some v => v.toNat % 2 ^ 31 + 2 ^ 31
          | none => s.reg off &&& readMask d

/-- A read by a source, aligned: TMB_TBLO captures the upper half of the timebase (R781); nothing else changes (R74). -/
def State.setupRead (s : State) (src : Src) (off : Nat) : State × Nat :=
  let hi : Long := BitVec.ofNat 32 (s.tb.toNat / 2 ^ 32)
  let v := s.readReg src off
  if off = 0x2A0100 then
    match src with
    | .host => (s.updClk fun q => { q with hostTbHi := hi }, v)
    | .core c _ => (s.updCore c fun q => { q with tbHi := hi }, v)
  else (s, v)

/-! ### Who may write (R76 to R79) -/

/-- SRC of CFG_DENYREC (R79). -/
def denySrc : Src → Nat
  | .host => 0
  | .core _ .P => 1
  | .core _ .L => 2

/-- A denied write (R77, R78): recorded, and an event for the host. The exception of a Hall P core is its own. -/
def State.deny (s : State) (src : Src) (cause off : Nat) : State :=
  let s := s.denyRec (denySrc src) cause off
  match src with
  | .host => s.event 1 2
  | .core _ _ => s

/-- The register at an offset is lease lock n's at offset k of its four. -/
def llReg (off : Nat) : Option (Nat × Nat) :=
  if 0x381000 ≤ off ∧ off < 0x381400 then some ((off - 0x381000) / 0x10, off % 0x10) else none

/-- The masks permit a write (R76). -/
def State.granted (s : State) (src : Src) (off : Nat) : Bool :=
  match src with
  | .core _ .L => true
  | .host => bit (s.get F.CFG_HOSTACC_GRANT) (blockOf off)
  | .core _ .P => bit (s.get F.CFG_HALLPACC_GRANT) (blockOf off)

/-- A write is permitted: by the masks, or as the owning chapter says in their place (R76, R629, R651, R791, R804, R809, R815). -/
def State.permitted (s : State) (src : Src) (off v : Nat) : Bool :=
  match src with
  | .core _ .L => true
  | _ =>
    match llReg off with
    | some (n, 0) =>
      bitsOf v 31 28 != 4 && (match src with
        | .host => s.flag (F.LL_CFG_HOSTOK.ix n)
        | .core _ _ => s.flag (F.LL_CFG_HALLPOK.ix n))
    | some (_, 8) => false
    | some (_, 12) => false
    | _ =>
      if (0x2A0200 ≤ off ∧ off < 0x2A0210) ∨ off = 0x2B4000 ∨ off = 0x180430 then false
      else if off = 0x20022C ∧ src = .host then s.get F.JNL_CFG_DEST == 1
      else s.granted src off

/-! ### Refused and ignored writes -/

/-- What a permitted write of a present register does to its fields: all are written; the write is refused with BUSY, logged at the
field whose lowest bit is given; fields are refused so, the others written; fields are ignored and counted nowhere. -/
inductive Guard
  | free
  | busy (lo : Nat)
  | busyOnly (los : List Nat)
  | ignore (los : List Nat)
deriving DecidableEq, Repr

/-- Well w belongs to cistern c and is enabled or draining (R633). -/
def State.cisInUse (s : State) (c : Nat) : Bool :=
  s.pump.wells.any fun e => (e.2.enable || e.2.draining) && s.cisOf e.1 == c

/-- Writes of CQ_CTLn (R617). -/
def State.cqGuard (s : State) (src : Src) (n v : Nat) : Guard :=
  let r := s.reg (0x1C1000 + 0x20 * n)
  let v := if (match src with | .core _ .L => false | _ => true) then setBit v 2 else v
  let diff := [(1, 1), (2, 2), (7, 4), (9, 8)].filter fun f => bitsOf v f.1 f.2 != bitsOf r f.1 f.2
  if bitsOf r 0 0 = 0 then .free
  else match diff with
    | f :: _ => .busy f.2
    | [] => if bitsOf v 0 0 = 0 ∧ s.cqHeld n then .busy 0 else .free

/-- Writes of a ring's base members while it is enabled (R617): those that would change the pair. -/
def State.cqBaseGuard (s : State) (n off v : Nat) : Guard :=
  if !s.flag (F.CQ_CTL_ENABLE.ix n) then .free
  else if off % 0x20 = 4 then
    let r := s.readReg .host off
    if bitsOf v 25 0 = bitsOf r 25 0 ∧ bitsOf v 30 26 = bitsOf r 30 26 then .free else .busy 0
  else if v % 256 = s.reg off % 256 ∧ (lookupKey s.staged (off - 4)).isNone then .free else .busy 0

/-- The journal registers that a lease lock guards (R812). -/
def jnlLocked (off : Nat) : Bool :=
  [0x200100, 0x200104, 0x200140, 0x200144, 0x2001A0, 0x200210, 0x200214, 0x200220, 0x200224, 0x20022C].contains off
    || (decide (0x200160 ≤ off) && decide (off < 0x2001A0))

/-- Writes of the JNL block (R665, R812). -/
def State.jnlGuard (s : State) (src : Src) (off v : Nat) : Guard :=
  if jnlLocked off && s.boundAway src 2 0 then .busy 0
  else if s.eng.batch.isNone then .free
  else if off = 0x200220 ∨ off = 0x200224 then .busy 0
  else if off = 0x200100 ∧ bitsOf v 9 8 ≠ s.get F.JNL_CFG_DEST then .busyOnly [8]
  else .free

/-- The guard of every register. -/
def State.guard (s : State) (src : Src) (off v : Nat) : Guard :=
  if off = 0x10100 ∨ off = 0x10104 then if s.flag F.CFG_ACCLOCK_LOCK then .ignore [0] else .free
  else if off = 0x60100 ∨ (0x74000 ≤ off ∧ off < 0x76000) then
    if s.pwr.calBusy ∧ (off ≠ 0x60100 ∨ bit v 0) then .busy 0 else .free
  else if off = 0x140100 ∨ off = 0x140104 then if s.flag F.KEY_CTL_LOCK then .ignore [0] else .free
  else if off = 0x180200 then if s.flag F.PMP_WTCTL_ON then .busy 0 else .free
  else if 0x181000 ≤ off ∧ off < 0x181100 then if s.cisInUse ((off - 0x181000) / 4) then .busy 0 else .free
  else if 0x1C1000 ≤ off ∧ off < 0x1D1000 then
    let n := (off - 0x1C1000) / 0x20
    if off % 0x20 = 0 then s.cqGuard src n v
    else if off % 0x20 = 4 ∨ off % 0x20 = 8 then s.cqBaseGuard n off v else .free
  else if 0x200000 ≤ off ∧ off < 0x220000 then s.jnlGuard src off v
  else if 0x250000 ≤ off ∧ off < 0x254000 then if s.bankHeld ((off - 0x250000) / 0x2000) then .busy 0 else .free
  else if off = 0x2A0130 then if 2 ≤ s.pwr.lifecycle then .ignore [0] else .free
  else if off = 0x2A0200 then
    if s.flag F.TMB_WDDCFG_ENABLE then
      .busyOnly ((if bitsOf v 23 16 = s.get F.TMB_WDDCFG_GRACE then [] else [16]) ++ (if bitsOf v 25 24 = s.get F.TMB_WDDCFG_SCOPE then [] else [24]))
    else .free
  else if off = 0x2B2000 ∨ off = 0x2B2100 then if s.boundAway src 1 ((off - 0x2B2000) / 0x100) then .busy 0 else .free
  else if off = 0x300100 then
    if s.pwr.fabricUp then
      .busyOnly ((if bitsOf v 1 0 = s.get F.MEM_CFG_SIZE then [] else [0]) ++ (if bitsOf v 9 8 = s.get F.MEM_CFG_ECC then [] else [8]))
    else .free
  else match llReg off with
    | some (n, 8) => if s.llHeld n then .busy 0 else .free
    | some (n, 12) => if s.llHeld n then .busy 0 else .free
    | _ => .free

/-! ### Writing fields (R25, R80 to R82) -/

/-- A write as its fields apply it: the register's new value, the written word with each field as applied, and the clamps: field,
cause, written, applied. -/
structure Applied where
  word : Nat
  eff : Nat
  logs : List (Nat × Nat × Nat × Nat)
deriving DecidableEq, Repr

/-- One more field of a write; a field of a pair waits for its commit. -/
def Applied.field (a : Applied) (s : State) (off v : Nat) (f : FieldD) : Applied :=
  let w := bitsOf v f.hi f.lo
  let (x, cause) := f.legal.check s off v (f.hi + 1 - f.lo) w
  let logs := match cause with
    | some c => a.logs ++ [(f.lo, c, w, x)]
    | none => a.logs
  match f.acc with
  | .rw => ⟨putBits a.word f.hi f.lo x, putBits a.eff f.hi f.lo x, logs⟩
  | .wo => ⟨a.word, putBits a.eff f.hi f.lo x, logs⟩
  | .w1c => { a with word := putBits a.word f.hi f.lo (andNot (bitsOf a.word f.hi f.lo) w) }
  | .w1s => { a with word := putBits a.word f.hi f.lo (bitsOf a.word f.hi f.lo ||| w) }
  | _ => a

/-- The fields of a register that a write reaches, with those left out. -/
def State.applyFields (s : State) (off v : Nat) (d : RegD) (out : List Nat) : Applied :=
  (d.fields.filter fun f => !out.contains f.lo).foldl (fun a f => a.field s off v f) ⟨s.reg off, v, []⟩

/-- Log the clamps of a register write (SRC 0). -/
def State.logAll (s : State) (off : Nat) (l : List (Nat × Nat × Nat × Nat)) : State :=
  let b := blockOf off
  l.foldl (fun s e => s.clamp 0 e.2.1 b e.1 (off - blockBase b) e.2.2.1 e.2.2.2) s

/-- A field a write can reach. -/
def FieldD.writable (f : FieldD) : Bool := f.acc != .ro

/-- The field of a register at a bit, and the lowest writable one. -/
def RegD.fieldAt (d : RegD) (lo : Nat) : Option FieldD := d.fields.find? (·.lo == lo)
def RegD.lowest (d : RegD) : Option FieldD :=
  (d.fields.filter FieldD.writable).foldl (fun best f => match best with
    | none => some f
    | some g => if f.lo < g.lo then some f else some g) none

/-- A write refused with BUSY: one entry, at the field given or the lowest writable field (log entry 24). -/
def State.logRefused (s : State) (off v : Nat) (d : RegD) (lo : Nat) : State :=
  match d.fieldAt lo with
  | some f => s.logAll off [(f.lo, clampBusy, bitsOf v f.hi f.lo, 0)]
  | none =>
    match d.lowest with
    | some f => s.logAll off [(f.lo, clampBusy, bitsOf v f.hi f.lo, 0)]
    | none => s

/-! ### Paired fields (R89 to R97) -/

/-- The fields of an access code, clamped. -/
def clampFields (s : State) (off v : Nat) (d : RegD) (acc : Acc) : Applied :=
  (d.fields.filter fun f => f.acc == acc).foldl (fun a f =>
    let w := bitsOf v f.hi f.lo
    let (x, cause) := f.legal.check s off v (f.hi + 1 - f.lo) w
    { a with word := putBits a.word f.hi f.lo x, logs := match cause with
      | some c => a.logs ++ [(f.lo, c, w, x)]
      | none => a.logs }) ⟨v, v, []⟩

/-- The greatest multiple of `m` units not above a base held in two parts: what is left of the low part. -/
def alignLow (lo m : Nat) : Nat := lo - lo % m

/-- The relation of the pair that the closing register at `off` ends: the two words after it (R111, R194, R210, R213, R615, R665,
R737). -/
def pairRel (s : State) (off o c : Nat) : Nat × Nat :=
  if off = 0x30148 then (if c % 8 < o % 8 then putBits o 2 0 c else o, c)
  else if off = 0x30150 then (if c % 65536 ≤ o % 65536 then putBits o 15 0 (c % 65536 - 1) else o, c)
  else if 0x41000 ≤ off ∧ off < 0x41100 then (o, if c % 1024 < o % 1024 then putBits c 9 0 o else c)
  else if 0x1C1000 ≤ off ∧ off < 0x1D1000 then
    let e := if s.flag (F.CQ_CTL_ESIZE.ix ((off - 0x1C1000) / 0x20)) then 32 else 16
    (putBits o 25 0 (alignLow (bitsOf o 25 0) (min (e * 2 ^ bitsOf o 30 26) 4096 / 64)), c)
  else if off = 0x200224 then
    let sz := 2 ^ bitsOf c 20 16 / 4096
    (putBits o 19 0 (bitsOf o 19 0 - min (bitsOf o 19 0) ((bitsOf c 7 0 * 2 ^ 20 + bitsOf o 19 0) % sz)), c)
  else if 0x281000 ≤ off ∧ off < 0x281400 then (o, if o % 1024 < c % 1024 then putBits c 9 0 o else c)
  else (o, c)

/-- The fields of an access code that differ between two words, as PAIR clamps. -/
def pairLogs (d : RegD) (acc : Acc) (x y : Nat) : List (Nat × Nat × Nat × Nat) :=
  (d.fields.filter fun f => f.acc == acc && bitsOf x f.hi f.lo != bitsOf y f.hi f.lo).map fun f =>
    (f.lo, clampPair, bitsOf x f.hi f.lo, bitsOf y f.hi f.lo)

/-- The opening member of the pair that a closing register ends lies four bytes below it. -/
def State.commitPair (s : State) (off v : Nat) (d : RegD) : State :=
  let o := off - 4
  match findReg o with
  | none => s
  | some (od, _, _) =>
    let opening := match lookupKey s.staged o with
      | some w => w.toNat
      | none => s.reg o
    let a := clampFields s o opening od .rws
    let b := clampFields s off v d .rwk
    let (x, y) := pairRel s off a.word b.word
    let keep (dd : RegD) (acc : Acc) (old new : Nat) : Nat :=
      (dd.fields.filter fun f => f.acc == acc).foldl (fun r f => putBits r f.hi f.lo (bitsOf new f.hi f.lo)) old
    let s : State := { s with staged := eraseKey s.staged o }
    let s := (s.setReg o (keep od .rws (s.reg o) x)).setReg off (keep d .rwk (s.reg off) y)
    (((s.logAll o a.logs).logAll off b.logs).logAll o (pairLogs od .rws a.word x)).logAll off (pairLogs d .rwk b.word y)

/-- Stage an opening member (R89, R94). -/
def State.stage (s : State) (off v : Nat) : State :=
  { s with staged := insertKey s.staged off (BitVec.ofNat 32 (v % 2 ^ 31)) }

end Sys2Proof.Machine
end

