-- ==== Sys2Proof/Machine/NonVolatile.lean ====
section
/-! DEFINITION. The OTP block (R130 to R135) and the calibration store (R136 to R143). -/
namespace Sys2Proof.Machine

/-! ### OTP -/

/-- The words that may be programmed in lifecycle SECURED (R134): LIFECYCLE, ROLLBACK and USER. -/
def otpOpen (n : Nat) : Bool := n == 3 || (decide (0x10 ≤ n) && decide (n ≤ 0x13)) || decide (0x100 ≤ n)

/-- ID_OTPPROG.GO with an index (R133 to R135). -/
def State.otpProgram (s : State) (n : Nat) : State :=
  if s.flag F.ID_OTPSTAT_BUSY || (s.pwr.lifecycle == 2 && !otpOpen n) then s.put F.ID_OTPSTAT_ERR true
  else (s.put F.ID_OTPSTAT_BUSY true).updPwr fun p => { p with otpBusy := some (n, BitVec.ofNat 32 (s.get F.ID_OTPDATA_DATA)) }

/-- The operation ends; the bits of `stuck` did not take. Bits are only ever set. -/
def State.otpDone (s : State) (stuck : Long) : State :=
  match s.pwr.otpBusy with
  | none => s
  | some (n, v) =>
    let old : Long := (lookupKey s.pwr.otp n).getD 0
    let new := old ||| (v &&& ~~~stuck)
    let s := (s.put F.ID_OTPSTAT_BUSY false).updPwr fun p =>
      { p with otpBusy := none, otp := if new = 0 then p.otp else insertKey p.otp n new }
    if new &&& v = v then s else s.put F.ID_OTPSTAT_ERR true

/-! ### Calibration store -/

/-- The SEQ of the active bank (R136). -/
def State.calSeq (s : State) : Option Nat := s.pwr.calActive.map fun b => s.calLong b 0x1FF4

/-- The bank the next store writes (R141). -/
def State.calTarget (s : State) : Nat :=
  match s.pwr.calActive with
  | some b => 1 - b
  | none => 0

/-- A bank's contents. -/
def State.setBank (s : State) (b : Nat) (l : List (Nat × Byte)) : State :=
  s.updPwr fun p => if b = 0 then { p with bank0 := l } else { p with bank1 := l }

/-- CAL_CTL.STORE (R141, R143): the target is erased, or the store is refused at the last SEQ. -/
def State.calStore (s : State) : State :=
  if s.calSeq = some 0xFFFFFFFE then s.event 6 1
  else (s.setBank s.calTarget []).updPwr fun p => { p with calBusy := true }

/-- The CAL buffer (R143). -/
def State.calBuf (s : State) : List Byte := (List.range 2044).flatMap fun k => leBytes 4 (s.get (F.CAL_BUF_WORD.ix k))

/-- The image a store programs (R136, R141). -/
def State.calNew (s : State) : List Byte :=
  let seq := match s.calSeq with
    | some n => n + 1
    | none => 1
  let l := s.calBuf ++ leBytes 4 0xCA1B5A7E ++ leBytes 4 seq
  l ++ leBytes 4 (crc32 l) ++ leBytes 4 0xFFFFFFFF

/-- Bytes as a bank holds them: an erased byte is not listed. -/
def bankOf (l : List Byte) : List (Nat × Byte) := ((List.range l.length).zip l).filter fun e => e.2 != 0xFF#8

/-- The store ends, verified or not (R141). What a store that failed left in its target is free. -/
def State.calDone (s : State) (ok : Bool) : State :=
  if !s.pwr.calBusy then s
  else
    let t := s.calTarget
    if ok then
      ((s.setBank t (bankOf s.calNew)).updPwr fun p => { p with calBusy := false, calActive := some t }).event 6 0
    else
      let l := bankOf ((List.range 0x2000).map (Config.calByte s.freeCtr))
      let s : State := { s.setBank t l with freeCtr := s.freeCtr + 1 }
      (s.updPwr fun p => { p with calBusy := false }).event 6 1

/-- Whether a bank is valid, and the bank that a cold reset makes active (R138). -/
def State.calPick (s : State) : Option Nat :=
  match s.calValid 0, s.calValid 1 with
  | false, false => none
  | true, false => some 0
  | false, true => some 1
  | true, true => if s.calLong 0 0x1FF4 < s.calLong 1 0x1FF4 then some 1 else some 0

/-- The records of a list of bytes: TYPE and payload (R139). -/
def calRecords : Nat → List Byte → List (Nat × List Byte)
  | 0, _ => []
  | n + 1, l =>
    let ty := ofLe (l.take 2)
    let len := ofLe ((l.drop 2).take 2)
    if l.length < 4 ∨ ty = 0xFFFF then [] else (ty, (l.drop 4).take len) :: calRecords n (l.drop (4 + (len + 3) / 4 * 4))

/-- The records of the active bank. -/
def State.calList (s : State) : List (Nat × List Byte) :=
  match s.pwr.calActive with
  | some b => calRecords 2044 (s.calBytes b (List.range 8176))
  | none => []

end Sys2Proof.Machine
end

