-- ==== Sys2Proof/Machine/RegisterWrite.lean ====
section
/-! DEFINITION. A write of set-up space from permission to effect: the context windows (R554 to R559), and what a write of each
register makes its unit do. -/
namespace Sys2Proof.Machine

/-! ### Context windows -/

/-- The writable fields of long k of a well context (R558). -/
def ctxFields (k : Nat) : List (Nat × Nat) :=
  match k with
  | 0 => [(23, 20), (19, 16), (15, 12), (11, 11), (10, 8), (6, 5), (4, 4), (3, 3), (2, 2)]
  | 1 => [(31, 16), (5, 0)]
  | 2 => [(30, 26), (25, 0)]
  | 3 => [(31, 0)]
  | 4 => [(31, 16), (15, 0)]
  | 5 => [(0, 0)]
  | 6 => [(31, 0)]
  | _ => []

/-- The value applied to a context field, and the cause of a clamp (R558, R631); `own` is false for the host and Hall P, whose HALL is
always applied as 1 (R556). -/
def State.ctxCheck (s : State) (own : Bool) (k lo w : Nat) : Nat × Option Nat :=
  match k, lo with
  | 0, 20 => oneCheck (fun n => decide (n < Variant.latches s.variant)) 4 15 w
  | 0, 16 =>
    let m := w &&& s.coreMask
    (if m = 0 then 1 else m, if w = 0 then some clampRange else if m = w then none else some clampAbsent)
  | 0, 8 => if 4 < w then (0, some clampRange) else (w, none)
  | 0, 5 => nearCheck 1 3 w
  | 0, 4 => if own then (w, none) else (1, if w = 0 then some clampRange else none)
  | 1, 16 => oneCheck s.cqPresent 2048 0xFFFF w
  | 2, 26 => nearCheck 4 16 w
  | 3, 0 => nearCheck 0 0xFF w
  | 6, 0 => nearCheck 100 10000000 w
  | _, _ => (w, none)

/-- A clamp of a context field (SRC 1): FIELD counts from the start of the context (R86). -/
def State.ctxClamp (s : State) (w k lo cause written applied : Nat) : State :=
  s.clamp 1 cause 10 (32 * k + lo) w written applied

/-- Write fields of long k of well w, each clamped and logged on its own. -/
def State.ctxWrite (s : State) (own : Bool) (w k v : Nat) : List (Nat × Nat) → State
  | [] => s
  | (hi, lo) :: l =>
    let x := s.ctxCheck own k lo (bitsOf v hi lo)
    let s := s.updCtx w fun c => c.put k hi lo x.1
    let s := match x.2 with
      | some cause => s.ctxClamp w k lo cause (bitsOf v hi lo) x.1
      | none => s
    s.ctxWrite own w k v l

/-- Commit RING0 and RING1 (R91, R558). -/
def State.ringCommit (s : State) (w v : Nat) : State :=
  let open' := match lookupKey s.staged (ringKey w) with
    | some x => x.toNat
    | none => s.ctxLong w 2
  let s : State := { s with staged := eraseKey s.staged (ringKey w) }
  let s := (s.ctxWrite true w 2 open' (ctxFields 2)).ctxWrite true w 3 v (ctxFields 3)
  let c := s.ctx w
  let lo := c.f 2 25 0
  let lo' := alignLow lo (min (64 * 2 ^ c.size) 4096 / 64)
  if lo' = lo then s else (s.updCtx w fun c => c.put 2 25 0 lo').ctxClamp w 2 0 clampPair lo lo'

/-- CTL.ENABLE as written (R557, R559, R561). -/
def State.ctxEnable (s : State) (w : Nat) (b : Bool) : State :=
  let o := s.wellOn w
  if b then if o.draining then s.ctxClamp w 0 0 clampBusy 1 0 else if o.enable then s else s.wellEnable w
  else s.wellOff w 0

/-- Fields of a running well keep their values: each that differs is logged (R557). -/
def State.ctxRefuse (s : State) (own : Bool) (w k v : Nat) : State :=
  let cur := match k, lookupKey s.staged (ringKey w) with
    | 2, some x => x.toNat
    | _, _ => s.ctxLong w k
  (ctxFields k).foldl (fun s f =>
    let x := if k = 0 ∧ f.2 = 4 ∧ !own then 1 else bitsOf v f.1 f.2
    if x = bitsOf cur f.1 f.2 then s else s.ctxClamp w k f.2 clampBusy (bitsOf v f.1 f.2) 0) s

/-- Stage RING0 of a well. -/
def State.stageRing (s : State) (w v : Nat) : State := { s with staged := insertKey s.staged (ringKey w) (BitVec.ofNat 32 (v % 2 ^ 31)) }

/-- A write of PMP_WCTXk: the state, and whether it was denied (R555 to R559, R813). -/
def State.windowWrite (s : State) (src : Src) (k v : Nat) : State × Bool :=
  let w := s.wsel src
  let own := match src with
    | .core _ .L => true
    | _ => false
  if !s.flag F.PMP_WTCTL_ON || w == 0x7FFF then (s, false)
  else
    let s := s.loadCtx w
    if !own && (s.ctx w).hall == .L then (s, true)
    else if s.boundAway src 3 w then
      match (ctxFields k).getLast? with
      | some f =>
        let lo := if k = 0 then 0 else f.2
        (s.ctxClamp w k lo clampBusy (bitsOf v (if k = 0 then 0 else f.1) lo) 0, false)
      | none => (s, false)
    else
      let o := s.wellOn w
      let s :=
        if o.enable || o.draining then s.ctxRefuse own w k v
        else if k = 2 then s.stageRing w v
        else if k = 3 then s.ringCommit w v
        else s.ctxWrite own w k v (ctxFields k)
      (if k = 0 then s.ctxEnable w (bit v 0) else s, false)

/-! ### What a write makes its unit do -/

/-- CFG_CLAMPCTL.CLEAR (R87). -/
def State.logClear (s : State) : State :=
  let s := (List.range 512).foldl (fun s k => s.setReg (0x10800 + 4 * k) 0) s
  (s.set F.CFG_CLAMPWR_NEXT 0).set F.CFG_CLAMPTOT_TOTAL 0

/-- Triggers of one write act from the lowest bit up (log entry 24). -/
def State.trig (s : State) (eff n : Nat) (f : State → State) : State := if bit eff n then f s else s

/-- SEQ_SLOTn_MARG.MARGIN: a request; the field shows the margin in force (R185). -/
def State.marginWrite (s : State) (n old : Nat) : State :=
  let m := s.get (F.SEQ_SLOT_MARG_MARGIN.ix n)
  (s.set (F.SEQ_SLOT_MARG_MARGIN.ix n) (old % 64)).marginRequest n m

/-- KEY_CTL.ENABLE (R537, R538). -/
def State.keyEnable (s : State) (old : Nat) : State :=
  let on := s.flag F.KEY_CTL_ENABLE
  if on = bit old 0 then s
  else if !on then s.keysEmptied
  else if s.inDram (s.get F.KEY_BASE_BASE * 4096) (s.installed / 4096) then s.keysEmptied
  else (s.put F.KEY_CTL_ENABLE false).event 9 0

/-- PMP_WTCTL.ON (R549, R861). -/
def State.tableWrite (s : State) (old : Nat) : State :=
  let on := s.flag F.PMP_WTCTL_ON
  if on = bit old 0 then s
  else if on then (s.put F.PMP_WTCTL_ON false).tableOn
  else (s.put F.PMP_WTCTL_ON true).tableOff

/-- PMP_INLBASEL and PMP_INLBASEP (R610). -/
def State.inletWrite (s : State) (on base : Fld) : State :=
  if s.flag on && !s.inDram (s.get base * 4096) 0x4000 then (s.put on false).event 10 10 else s

/-- CQ_CTLn: ENABLE of a disabled ring (R617); HALL as the host or Hall P writes it is 1 (R616). -/
def State.cqWrite (s : State) (src : Src) (n old eff : Nat) : State :=
  let own := match src with
    | .core _ .L => true
    | _ => false
  let s := if own || bit eff 2 then s else (s.put (F.CQ_CTL_HALL.ix n) true).clamp 0 clampRange 11 2 (0x1000 + 0x20 * n) 0 1
  if s.flag (F.CQ_CTL_ENABLE.ix n) && !bit old 0 then s.cqEnable n else s

/-- CQ_IDXn.CI (R619). -/
def State.cqIdxWrite (s : State) (n old : Nat) : State :=
  let ci := s.get (F.CQ_IDX_CI.ix n)
  (s.set (F.CQ_IDX_CI.ix n) (old / 65536)).cqIndex n ci

/-- A committed JNL_DBASE pair (R665): the offsets begin at 0, in a destination that is not full. -/
def State.dbaseWrite (s : State) : State :=
  ((s.set F.JNL_DWR_OFFSET 0).set F.JNL_DRD_OFFSET 0).updEng fun q => { q with destFull := false }

/-- CHG_CFG.ENABLE. -/
def State.chgWrite (s : State) (old : Nat) : State :=
  let on := s.flag F.CHG_CFG_ENABLE
  if on = bit old 0 then s else if on then s.chgEnable else s.chgDisable

/-- A watchdog's configuration: a write of PERIOD restarts a running count (R784, R816). -/
def State.wdlWrite (s : State) : State := if s.flag F.TMB_WDLCFG_ENABLE then s.wdlRestart else s
def State.wdpWrite (s : State) : State := if s.flag F.TMB_WDPCFG_ENABLE then s.wdpRestart else s
def State.wddWrite (s : State) : State := if s.flag F.TMB_WDDCFG_ENABLE then s.wddRestart else s

/-- Writing 1 to VALID clears a bank's record, not its CECNT (R819). -/
def State.bankClear (s : State) (b : Nat) : State :=
  let o := 0x380200 + 0x20 * b
  (((s.setReg o 0).setReg (o + 4) 0).setReg (o + 8) 0).setReg (o + 12) 0

/-- PMP_REVOKE.GO (R629). -/
def State.revokeWrite (s : State) : State :=
  s.revokeReq (s.get F.PMP_REVOKE_CORE) (hallOf (s.flag F.PMP_REVOKE_HALL)) (s.get F.PMP_REVOKE_SLOT) (s.get F.PMP_REVOKE_TAG)

/-- BEL_PENDc_w (R492). -/
def State.pendClear (s : State) (c w eff : Nat) : State :=
  (List.range 32).foldl (fun s i => if bit eff i then s.unpend (32 * w + i) c else s) s

/-- HLK_PME.PME, which Hall L writes (R748). -/
def State.pmeWrite (s : State) (src : Src) : State :=
  match src with
  | .core _ .L => s.pme
  | _ => s

/-- Blocks ID to KEY; `old` is the register's word before, `eff` the word written with each field as applied. -/
def State.hookLow (s : State) (off old eff : Nat) : State :=
  if off = 0x100 then s.trig eff 31 fun s => s.otpProgram (eff % 512)
  else if off = 0x10208 then s.trig eff 0 State.logClear
  else if off = 0x20104 then (s.trig eff 1 State.hallPReset).trig eff 0 fun s => s.warmReset causeSoft
  else if off = 0x2010C then coreHolds s (old % 16)
  else if off = 0x30100 then ((s.trig eff 0 State.seqGoWrite).trig eff 1 State.seqDown).trig eff 2 State.seqAbort
  else if off = 0x30140 ∨ off = 0x30148 then s.tempoManual
  else if 0x31000 ≤ off ∧ off < 0x31200 ∧ off % 0x20 = 0x10 then s.marginWrite ((off - 0x31000) / 0x20) old
  else if 0x41000 ≤ off ∧ off < 0x41100 ∧ off % 0x10 = 8 then s.winConfigured ((off - 0x41000) / 0x10) (bitsOf old 11 8)
  else if off = 0x50100 then
    ((s.trig eff 0 State.adcStart).trig eff 1 State.adcStop).trig eff 2 fun s => s.requestSnap 2 (s.snapAlloc 2) [0, 0, 0]
  else if off = 0x50114 then s.snapClear (eff % 256)
  else if off = 0x60100 then s.trig eff 0 State.calStore
  else if 0x103000 ≤ off ∧ off < 0x103100 then s.pendClear ((off - 0x103000) / 0x40) (off % 0x40 / 4) eff
  else if off = 0x140104 then s.keyEnable old
  else s

/-- Blocks PMP to GAL. -/
def State.hookMid (s : State) (src : Src) (off old eff : Nat) : State :=
  if off = 0x180100 then s.trig eff 24 State.epochGo
  else if off = 0x180204 then s.tableWrite old
  else if off = 0x180410 then s.inletWrite F.PMP_INLBASEL_ON F.PMP_INLBASEL_BASE
  else if off = 0x180414 then s.inletWrite F.PMP_INLBASEP_ON F.PMP_INLBASEP_BASE
  else if off = 0x180430 then s.trig eff 31 State.revokeWrite
  else if 0x1C1000 ≤ off ∧ off < 0x1D1000 ∧ off % 0x20 = 0 then s.cqWrite src ((off - 0x1C1000) / 0x20) old eff
  else if 0x1C1000 ≤ off ∧ off < 0x1D1000 ∧ off % 0x20 = 0xC then s.cqIdxWrite ((off - 0x1C1000) / 0x20) old
  else if off = 0x200104 then s.trig eff 0 State.journalSeed
  else if 0x200180 ≤ off ∧ off < 0x2001A0 then
    let s := s.setReg off eff
    if off = 0x20019C then s.put F.JNL_MACCTL_LOADED true else s
  else if off = 0x2001A0 then s.trig eff 1 State.macClear
  else if off = 0x200224 then s.dbaseWrite
  else if off = 0x240100 then
    ((s.trig eff 0 fun s => s.galStart (bitsOf eff 8 8)).trig eff 1 State.galStop).trig eff 2 fun s => s.galSwap (bitsOf eff 8 8)
  else if off = 0x240144 then s.set F.GAL_FLAGS_GF (s.get F.GAL_FLAGS_GF ||| eff)
  else if off = 0x240148 then s.set F.GAL_FLAGS_GF (andNot (s.get F.GAL_FLAGS_GF) eff)
  else s

/-- Blocks LCH to FLT. -/
def State.hookHigh (s : State) (src : Src) (off old eff : Nat) : State :=
  if 0x280100 ≤ off ∧ off < 0x280180 ∧ off % 0x20 = 8 then s.trig eff 0 fun s => s.pulseAbort ((off - 0x280100) / 0x20)
  else if off = 0x290100 then s.chgWrite old
  else if off = 0x29010C then s.trig eff 0 State.chgClear
  else if off = 0x2A0110 then s.rtcWrite eff
  else if off = 0x2A0120 then s.wdlWrite
  else if off = 0x2A0124 then s.wdpWrite
  else if off = 0x2A0200 then s.wddWrite
  else if off = 0x2A0204 then s.wddKick eff
  else if 0x2B1000 ≤ off ∧ off < 0x2B1400 then
    let u := (off - 0x2B1000) / 0x100
    if off % 0x100 = 4 then s.uartStart u
    else if off % 0x100 = 8 then s.uartTx u (eff % 512)
    else if off % 0x100 = 0x10 then s.uartPop u (eff % 128) else s
  else if off = 0x2B2004 ∨ off = 0x2B2104 then
    let p := (off - 0x2B2000) / 0x100
    (s.trig eff 30 fun s => s.i2cRecover p).trig eff 31 fun s => s.i2cGo p (!s.boundAway src 1 p)
  else if off = 0x2C0108 then s.trig eff 31 State.flashGo
  else if off = 0x300104 then s.trig eff 0 State.retrain
  else if off = 0x340124 then s.trig eff 0 fun s => s.pmeWrite src
  else if off = 0x380114 then s.trig eff 31 fun s => s.unfence (s.get F.FLT_UNFENCE_SEG)
  else if 0x380200 ≤ off ∧ off < 0x380300 ∧ off % 0x20 = 0 then s.trig eff 31 fun s => s.bankClear ((off - 0x380200) / 0x20)
  else match llReg off with
    | some (n, 0) => s.llCtl src n eff
    | _ => s

/-- What a write of the register at an offset makes its unit do. -/
def State.hook (s : State) (src : Src) (off old eff : Nat) : State :=
  if off < 0x180000 then s.hookLow off old eff
  else if off < 0x280000 then s.hookMid src off old eff
  else s.hookHigh src off old eff

/-! ### A permitted write -/

/-- PMP_WSEL is banked by source (R554). -/
def State.wselWrite (s : State) (src : Src) (d : RegD) (v : Nat) : State :=
  let a := s.applyFields 0x180300 v d []
  (s.updPump fun p => { p with wsel := setAt p.wsel (srcDb src) (bitsOf a.eff 14 0) }).logAll 0x180300 a.logs

/-- Write the fields of a register at once, log the clamps, and do what the write asks (R81). -/
def State.regApply (s : State) (src : Src) (off v : Nat) (d : RegD) (out : List Nat) : State :=
  let old := s.reg off
  let a := s.applyFields off v d out
  ((s.setReg off a.word).logAll off a.logs).hook src off old a.eff

/-- A write of a present register. -/
def State.regPresent (s : State) (src : Src) (off v : Nat) (d : RegD) : State :=
  if off = 0x180300 then s.wselWrite src d v
  else match s.guard src off v with
    | .busy lo => s.logRefused off v d lo
    | .busyOnly [] => s.regApply src off v d []
    | .busyOnly (l :: ls) => (s.regApply src off v d (l :: ls)).logRefused off v d l
    | .ignore los => s.regApply src off v d los
    | .free =>
      if d.fields.any (fun f => f.acc == .rws) then s.stage off v
      else if d.fields.any (fun f => f.acc == .rwk) then (s.commitPair off v d).hook src off (s.reg off) v
      else s.regApply src off v d []

/-- A write that is permitted (R10, R69): nothing at an undefined offset; one entry for an absent instance with a writable field. -/
def State.regWrite (s : State) (src : Src) (off v : Nat) : State :=
  match findReg off with
  | none => s
  | some (d, i, _) =>
    if d.pres.holds s.variant i then s.regPresent src off v d
    else match d.lowest with
      | some f => s.clamp 0 clampAbsent (blockOf off) f.lo (off - blockBase (blockOf off)) v 0
      | none => s

/-- A 32-bit write by a source: the state, and whether it was denied (R77, R78, R556, R616). -/
def State.setupWrite (s : State) (src : Src) (off v : Nat) : State × Bool :=
  let own := match src with
    | .core _ .L => true
    | _ => false
  if !s.permitted src off v then (s.deny src 0 off, true)
  else if 0x180340 ≤ off ∧ off < 0x180380 then
    let (t, denied) := s.windowWrite src ((off - 0x180340) / 4) v
    if denied then (t.deny src 0 off, true) else (t, false)
  else if 0x1C1000 ≤ off ∧ off < 0x1D1000 ∧ !own ∧ s.cqPresent ((off - 0x1C1000) / 0x20) ∧ s.cqHall ((off - 0x1C1000) / 0x20) = .L then
    (s.deny src 0 off, true)
  else (s.regWrite src off v, false)

end Sys2Proof.Machine
end

