-- ==== Sys2Proof/Machine/Power.lean ====
section
/-! DEFINITION. The start-up order and the boot ROM (R121 to R132, R754), and the Cistern state (R144 to R153, R51). -/
namespace Sys2Proof.Machine

/-! ### Orders 1 and 2: AON release (R121, R138 to R140, R248) -/

/-- A register write by the calibration store: what Hall L's would do. -/
def State.calWrite (s : State) (off v : Nat) : State := s.regWrite (.core 0 .L) off v

/-- A TRIM record (R248); one of another LENGTH is logged with RANGE in block 6. -/
def State.applyTrim (s : State) (l : List Byte) : State :=
  if l.length ≠ 40 then s.clamp 0 clampRange 6 0 0 l.length 0
  else
    let s := (List.range 16).foldl (fun s n => s.calWrite (0x4100C + 0x10 * n) (ofLe ((l.drop (2 * n)).take 2))) s
    let s := ((s.calWrite 0x50120 (ofLe ((l.drop 0x20).take 2))).calWrite 0x50124 (ofLe ((l.drop 0x22).take 2))).calWrite 0x50128
      (ofLe ((l.drop 0x24).take 2))
    s.updPwr fun p => { p with adcTrim := [s.get F.ADC_TRIMOFF_OFFSET, s.get F.ADC_TRIMGAIN_GAIN, s.get F.ADC_TRIMTEMP_TEMP] }

/-- The blocks a SETUP pair may name (R140): the AON blocks but CAL. -/
def setupBlock (b : Nat) : Bool := aonBlock b && b != 6

/-- The pairs of a SETUP record (R140). -/
def State.applySetup (s : State) : Nat → List Byte → State
  | 0, _ => s
  | n + 1, l =>
    if l.length < 8 then s
    else
      let off := ofLe (l.take 4)
      let v := ofLe ((l.drop 4).take 4)
      let b := blockOf off
      let s := if off < 0x400000 ∧ setupBlock b = true then s.calWrite off v
        else s.clamp 0 clampKind b 0 ((off - blockBase b) % 2 ^ 32) v 0
      s.applySetup n (l.drop 8)

/-- The records of the active bank. -/
def State.applyRecords (s : State) : List (Nat × List Byte) → State
  | [] => s
  | (ty, l) :: r =>
    (if ty = 1 then s.applyTrim l else if ty = 3 then s.applySetup 1022 l else s).applyRecords r

/-- Orders 1 to 3, KLEAD being sampled (R113, R121, R198). -/
def State.aonRelease (s : State) (klead : Bool) : State :=
  if s.pwr.aonUp then s
  else
    let s := s.updPwr fun p => { p with aonUp := true, osc24 := true, calActive := s.calPick }
    let s := s.updSeq fun q => { q with klead := klead }
    (s.applyRecords s.calList).orderThree

/-! ### Order 6: DRAM (R754, R755) -/

/-- The first DRAMTRAIN record of LENGTH 168. -/
def State.trainRecord (s : State) : Option (List Byte) := (s.calList.find? fun r => r.1 == 2 && r.2.length == 168).map (·.2)

/-- MEM_CFG as order 6 sets it. -/
def State.setMemCfg (s : State) (size rate ecc : Nat) : State :=
  ((s.set F.MEM_CFG_SIZE size).set F.MEM_CFG_RATE rate).set F.MEM_CFG_ECC ecc

/-- DRAM is usable at its configuration. -/
def State.dramUp (s : State) : State :=
  s.updDram fun d => { d with trained := true, selfRef := false, ready := true, usable := usableOf (s.get F.MEM_CFG_SIZE) (s.get F.MEM_CFG_ECC) }

/-- A full training at the die temperature `temp`. -/
def State.trainAt (s : State) (temp : Nat) : State :=
  let n := s.freeCtr
  let code (i : Nat) : Byte := if i = 4 then BitVec.ofNat 8 temp else if i = 5 then BitVec.ofNat 8 (temp / 256) else Config.trainByte n i
  ({ s with freeCtr := n + 1 }).putTraining (trainImage s.memCfg code)

/-- The die temperature code lies within 40 °C of a training's (R226, R756). -/
def tempNear (a b : Nat) : Bool := decide (15 * (a - b + (b - a)) ≤ 4000)

/-- Order 6, the die temperature read as `temp`: whether the record found is usable (log entry 27), and the training. -/
def State.orderSix (s : State) (temp : Nat) : State :=
  if s.dram.trained then s.dramUp
  else match s.trainRecord with
    | some l =>
      let c := longAt l 0
      if c % 4 = s.dram.mr8 ∧ bitsOf c 9 8 ≤ 1 then
        let s := s.setMemCfg (c % 4) (bitsOf c 5 4) (bitsOf c 9 8)
        (if tempNear temp (ofLe ((l.drop 4).take 2)) then s.putTraining l else s.trainAt temp).dramUp
      else (((s.setMemCfg s.dram.mr8 0 0).trainAt temp).event 20 0).dramUp
    | none => (((s.setMemCfg s.dram.mr8 0 0).trainAt temp).event 20 0).dramUp

/-! ### Boot images (R123 to R132) -/

/-- A field of a header. -/
def hdr (l : List Byte) (o n : Nat) : Nat := ofLe ((l.drop o).take n)
def hdrBytes (l : List Byte) (o n : Nat) : List Byte := (l.drop o).take n

/-- Lifecycle codes of PWR_STAT from LIFECYCLE bits [2:0] (R131). -/
def lifecycleOf (n : Nat) : Nat :=
  match n % 8 with
  | 0 => 0
  | 1 => 1
  | 3 => 2
  | _ => 3

/-- OTP bytes. -/
def State.otpBytes (s : State) (o n : Nat) : List Byte := (((List.range 512).flatMap fun k => leBytes 4 (s.otpWord k)).drop o).take n

/-- The code that refuses a header before its payload is copied, in the order magic, fields, load range (R127, R128). -/
def State.headerCode (s : State) (l : List Byte) (host : Bool) : Option Nat :=
  let len := hdr l 8 4
  let load := hdr l 0xC 8
  if hdrBytes l 0 4 ≠ [0x51#8, 0x4C#8, 0x34#8, 0x38#8] then some 0x10
  else if hdr l 4 2 ≠ 1 ∨ hdr l 6 2 ≠ 0x100 ∨ len < 4 ∨ 8388352 < len ∨ len % 4 ≠ 0 ∨ len ≤ hdr l 0x14 4 ∨ hdr l 0x14 4 % 4 ≠ 0
      ∨ 128 < hdr l 0x18 1 ∨ (hdrBytes l 0x19 7).any (· != 0) ∨ (hdrBytes l 0xC0 64).any (· != 0)
      ∨ ¬ onCurve (ofBe (hdrBytes l 0x40 32)) (ofBe (hdrBytes l 0x60 32)) then some 0x11
  else if load % 4096 ≠ 0 ∨ ¬ s.inDram load len ∨ (host ∧ load < 0x1000000) then some 0x16
  else none

/-- The code that refuses an image whose payload has been copied: key hash, signature, payload hash, rollback, as the lifecycle
requires (R128, R132). -/
def State.imageCode (s : State) (l payload : List Byte) : Option Nat :=
  let lc := s.pwr.lifecycle
  if lc ≠ 0 ∧ sha256 (hdrBytes l 0x40 64) ≠ s.otpBytes 0x20 32 then some 0x12
  else if lc ≠ 0 ∧ ¬ ecdsaOk (ofBe (hdrBytes l 0x40 32)) (ofBe (hdrBytes l 0x60 32)) (ofBe (hdrBytes l 0x80 32)) (ofBe (hdrBytes l 0xA0 32))
      (sha256 (hdrBytes l 0 0x80)) then some 0x13
  else if sha256 payload ≠ hdrBytes l 0x20 32 then some 0x14
  else if lc = 2 ∧ hdr l 0x18 1 < (s.otpBytes 0x40 16).foldl (fun a b => a + popCount 8 b.toNat) 0 then some 0x15
  else none

/-- PWR_BOOTSTAT.CODE and SOURCE. -/
def State.bootCode (s : State) (code : Nat) : State := s.set F.PWR_BOOTSTAT_CODE code

/-- No image starts: core 0 sleeps with Cistern entry disallowed (R129). -/
def State.bootSleep (s : State) : State :=
  (s.put F.PWR_CISCTL_ALLOW false).updCore 0 fun q => { q with asleep := true }

/-- A core entering code in Hall L stair 0 at an address with W1, W2 and W3 (R122, R148). -/
def Core.entered (q : Core) (pc w1 w2 w3 : Nat) : Core :=
  { q.held with pc := BitVec.ofNat 48 pc
                w := ((q.held.w.set 1 (BitVec.ofNat 48 w1)).set 2 (BitVec.ofNat 48 w2)).set 3 (BitVec.ofNat 48 w3) }

/-- Order 9 (R122). -/
def State.bootEnter (s : State) (l : List Byte) (source : Nat) : State :=
  let s := ((s.bootCode 1).set F.PWR_BOOTSTAT_SOURCE source).set F.PWR_BOOTSTAT_ROLLBACK (hdr l 0x18 1)
  let s := s.updPwr fun p => { p with bootLen := hdr l 8 4, hostBoot := false }
  s.updCore 0 fun q => q.entered (hdr l 0xC 8 + hdr l 0x14 4) (hdr l 0xC 8) (hdr l 8 4) (s.reg 0x20140)

/-- Load and check one image at a memory address (R126, R128): entered, or its code recorded and false. -/
def State.bootImage (s : State) (base source : Nat) : State × Bool :=
  let l := s.bytes base 256
  match s.headerCode l (source == 2) with
  | some code => (s.bootCode code, false)
  | none =>
    let s := s.putBytes (hdr l 0xC 8) (s.bytes (base + 256) (hdr l 8 4))
    match s.imageCode l (s.bytes (hdr l 0xC 8) (hdr l 8 4)) with
    | some code => (s.bootCode code, false)
    | none => (s.bootEnter l source, true)

/-- The sources BOOTSEL and BOOTOPT leave, in order: 0 slot A, 1 slot B, 2 the host (R123, R124). -/
def State.bootSources (s : State) (sel : Nat) : List Nat :=
  let opt := s.otpWord 0x14
  (([[0, 1], [0, 1], [2], [0, 1, 2]] : List (List Nat)).getD sel []).filter fun n => (n != 2 || !bit opt 0) && (n != 1 || !bit opt 1)

/-- The boot ROM tries the sources left; `profile` is whether the flash has the xSPI profile table that XSPI8 needs (R763). -/
def State.bootTry (s : State) (sel : Nat) (profile : Bool) : List Nat → State
  | [] => s.bootSleep
  | 2 :: _ => s.updPwr fun p => { p with hostBoot := true }
  | n :: r =>
    let (t, ok) := if sel = 1 ∧ !profile then (s.bootCode 0x10, false) else s.bootImage (flashBase + 0x800000 * n) n
    if ok then t else t.bootTry sel profile r

/-- FSP as the boot ROM sets it for a source of flash (R763). -/
def State.bootFlash (s : State) (sel : Nat) (profile : Bool) : State :=
  if sel = 1 ∧ profile then (s.set F.FSP_CFG_MODE 2).set F.FSP_CFG_DIV 2 else s

/-- The fabric may be released: its supplies are up and no power-up table is running (R121, R167). -/
def State.fabricReady (s : State) : Bool :=
  s.pwr.aonUp && !s.pwr.fabricUp && !s.pwr.tableRun && andNot s.pwr.fabricRails s.upSlots == 0 && s.pwr.cis == .awake

/-- BOOTSEL sampled (R121 order 4, R752). -/
def State.bootSampled (s : State) (sel : Nat) : State :=
  let s := ((s.set F.PWR_BOOTSTAT_BOOTSEL sel).put F.HLK_CFG_BAR4EN (decide (2 ≤ sel))).updLink fun l => { l with bar4 := decide (2 ≤ sel) }
  s.updPwr fun p => { p with fabricUp := true, lifecycle := lifecycleOf (s.otpWord 3) }

/-- Orders 4 to 9: BOOTSEL, whether DRAM trains, the die temperature, and the flash's profile table. -/
def State.fabricRelease (s : State) (sel : Nat) (dramOk : Bool) (temp : Nat) (profile : Bool) : State :=
  if !s.fabricReady then s
  else
    let s := s.bootSampled sel
    if !dramOk && !s.dram.trained then (s.bootCode 0x22).bootSleep
    else
      let s := s.orderSix temp
      if s.pwr.lifecycle = 3 then (s.bootCode 0x20).bootSleep
      else (s.bootFlash sel profile).bootTry sel profile (s.bootSources sel)

/-- The start word of the mailbox is written (R125): the image the host left at BAR4 offset 0 is checked, and PWR_BOOTSTAT reported. -/
def State.hostMailbox (s : State) (v : Nat) : State :=
  if !s.pwr.hostBoot then s
  else
    let s := s.putBytes 0xFFFFC4 (leBytes 4 v)
    if v ≠ 1 then s
    else
      let (s, ok) := s.bootImage 0 2
      let s := s.putBytes 0xFFFFC8 (leBytes 4 (s.reg 0x20140))
      if ok then s else (s.updPwr fun p => { p with hostBoot := false }).bootSleep

/-! ### Cistern entry (R144, R145) -/

/-- A present core is asleep, held or fenced. -/
def State.coreIdle (s : State) (c : Nat) : Bool :=
  decide (Variant.cores s.variant ≤ c) || bit (s.get F.PWR_CORERST_HOLD) c || s.fenced c ||  ((s.cores.toList.getD c Core.reset).asleep && !(s.cores.toList.getD c Core.reset).halted)

/-- A bell source is requested on a sleeping core. -/
def State.bellWaits (s : State) : Bool :=
  (List.range 4).any fun c => decide (c < Variant.cores s.variant) && s.coreFree c && (s.candidates c).any fun b => s.requested b c

/-- The conditions of R144. -/
def State.cisternReady (s : State) : Bool :=
  s.pwr.fabricUp && s.pwr.cis == .awake && s.flag F.PWR_CISCTL_ALLOW && (List.range 4).all s.coreIdle && !s.bellWaits && s.pumpQuiet
    && s.linkLow && !s.pwr.hostBoot

/-- The M island stops with DRAM in self-refresh, and the T island changes source (R145). -/
def State.cisternSources (s : State) : State :=
  (s.updDram fun d => { d with selfRef := d.trained, ready := !d.trained }).updPwr fun p =>
    { p with cis := .entering, tsrc32 := true, tacc := 0, osc24 := s.flag F.PWR_CISCTL_XT24ON, wakePend := 0, wakeGalL := false }

/-- Entry begins. -/
def State.cisternEntry (s : State) : State :=
  if !s.cisternReady then s
  else
    let r : RelRun := ⟨.cistern, s.get F.PWR_CISRAILS_SLOTS &&& s.driven, 0, false⟩
    (s.cisternSources.updSeq fun q => { q with rel := q.rel ++ [r] }).relClose

/-! ### Wake (R146 to R152) -/

/-- Step 1 and 2 of R148. -/
def State.cisternWake (s : State) : State :=
  if s.pwr.wakePend = 0 ∨ (s.pwr.cis ≠ .releasing ∧ s.pwr.cis ≠ .asleep) then s
  else
    let s := (s.set F.PWR_WAKESRC_SRC s.pwr.wakePend).set F.PWR_WAKETIME_TIME (bitsOf s.tb.toNat 31 0)
    (s.event 2 0).cisLeave .waking

/-- Every power-good input of the slots of PWR_CISRAILS is high, and all are driven. -/
def State.wakeReady (s : State) : Bool :=
  s.pwr.cis == .waking && andNot (s.get F.PWR_CISRAILS_SLOTS) (s.driven &&& s.seq.pg) == 0

/-- The hall a wake begins in (R151, R152): Hall L when a recorded source routes to it. -/
def State.wokenHall (s : State) : Hall :=
  let src := s.get F.PWR_WAKESRC_SRC
  let route := 2 * s.get F.PWR_WAKEROUTE_ROUTE
  if (bit src 0 && s.pwr.wakeGalL) || andNot (andNot src 1) route ≠ 0 || !s.flag F.PWR_HALLPCTL_ENABLE then .L else .P

/-- Core 0 at the wake vector (R148 step 4, R152). -/
def State.wakeCore (s : State) : State :=
  let w1 := s.get F.PWR_WAKESRC_SRC
  match s.wokenHall with
  | .L => s.updCore 0 fun q => q.entered (bsramBase + 4 * s.get F.PWR_WAKEVECL_VEC) w1 s.pwr.bootLen (s.reg 0x20140)
  | .P => s.updCore 0 fun q => { q.entered (bsramBase + 4 * s.get F.PWR_WAKEVECP_VEC) w1 0 0 with csw := 0x4F000#48 }

/-- Cores lose their state in the Cistern state; cores but core 0 are held (R148). -/
def State.coresLost (s : State) : State :=
  ({ s with cores := s.cores.map Core.held }).set F.PWR_CORERST_HOLD (s.coreMask - 1)

/-- The Gallery bells that were held fire (R682). -/
def State.bellsReleased (s : State) : State :=
  let m := s.get F.GAL_BELLPEND_MASK
  ((List.range 32).foldl (fun s n => if bit m n then s.fireBell (64 + n) else s) s).set F.GAL_BELLPEND_MASK 0

/-- Steps 3 and 4 of R148; the watchdogs start again (R474). -/
def State.wakeRelease (s : State) : State :=
  if !s.wakeReady then s
  else
    let s := s.coresLost.wakeCore
    let s := s.updPwr fun p => { p with cis := .awake, fabricUp := true, wakePend := 0, wakeGalL := false }
    s.wdlWrite.wdpWrite.wddWrite.bellsReleased

/-- The T island changes back to 24 MHz (R51). -/
def State.sourceReturn (s : State) : State :=
  if s.pwr.tsrc32 && s.pwr.osc24 && (s.pwr.cis == .awake || s.pwr.cis == .waking) then
    s.updPwr fun p => { p with tsrc32 := false, tacc := 0 }
  else s

/-- The 24 MHz oscillator reaches its first valid cycle. -/
def State.oscillatorUp (s : State) : State := if s.pwr.aonUp then s.updPwr fun p => { p with osc24 := true } else s

end Sys2Proof.Machine
end

