-- ==== Sys2Proof/Machine/Debug.lean ====
section
/-! DEFINITION. The JTAG port: boundary scan (R786 to R788, R826, R828, R836) and debug access (R789 to R792). -/
namespace Sys2Proof.Machine

/-! ### Balls with cells (R828): ball k of the list owns cells 3k, 3k + 1 and 3k + 2 -/

/-- The supply a ball stands on: 0 VIO18, 1 VIO33, 2 to 5 VIOG0 to VIOG3, none VAON (R825). -/
def ballBank (k : Nat) : Option Nat :=
  if k < 64 then some (2 + k / 16)
  else if k < 84 then some 1
  else if k < 96 then some 0
  else if k < 139 then none
  else some 1

/-- A ball of an absent unit (R826). -/
def State.ballAbsent (s : State) (k : Nat) : Bool :=
  if 107 ≤ k ∧ k < 123 then decide (Variant.slots s.variant ≤ k - 107)
  else if 123 ≤ k ∧ k < 139 then decide (Variant.slots s.variant ≤ k - 123)
  else if 139 ≤ k ∧ k < 159 then decide (Variant.latches s.variant ≤ (k - 139) / 5)
  else if 159 ≤ k then decide (Variant.latches s.variant ≤ k - 159) else false

/-- The ball's supply is up. -/
def State.ballOn (s : State) (k : Nat) : Bool :=
  match ballBank k with
  | some b => s.bankUp.getD b true
  | none => true

/-- Balls that only receive: RXD, CTS, PERST#, RESET_N, the straps and PG_EXTn (R825). -/
def inputOnly (k : Nat) : Bool :=
  [65, 67, 69, 71, 73, 75, 77, 79, 96, 99, 100, 101, 102].contains k || (decide (107 ≤ k) && decide (k < 123))

/-- Balls that stay under functional control in SECURED and RETIRED (R788): KSYNC, VID, EN_EXTn, DSELn, LGATEn. -/
def ballGuarded (k : Nat) : Bool := k == 103 || (decide (104 ≤ k) && decide (k < 107)) || decide (123 ≤ k)

/-- What the device itself puts on a ball: data and enable. The balls whose level is a waveform are free (log entry 18). -/
def State.ballOut (s : State) (k : Nat) : Bool × Bool :=
  if k < 64 then (bit (s.get (F.GPIO_OUT_MASK.ix (k / 32))) (k % 32), bit (s.get (F.GPIO_DIR_MASK.ix (k / 32))) (k % 32))
  else if inputOnly k then (false, false)
  else if k = 97 then (false, s.link.wakeN)
  else if k = 103 then (false, s.seq.kdrive)
  else if 104 ≤ k ∧ k < 107 then (bit s.vid (k - 104), s.pwr.aonUp)
  else if 123 ≤ k ∧ k < 139 then (true, bit s.driven (k - 123))
  else if 139 ≤ k ∧ k < 159 then (bit (s.latch.getD ((k - 139) / 5) LatchCh.reset).door ((k - 139) % 5), s.pwr.aonUp)
  else (Config.ballLevel s.freeCtr (3 * k + 1), Config.ballLevel s.freeCtr (3 * k + 2))

/-- What drives a ball: `none` when undriven (R786, R788, R826, R836). -/
def State.ballDrive (s : State) (k : Nat) : Option Bool :=
  let own := s.ballOut k
  let fun' := if own.2 then some own.1 else none
  if s.ballAbsent k || !s.ballOn k then none
  else if ballGuarded k && decide (2 ≤ s.pwr.lifecycle) then fun'
  else if s.jtag.ir = 0 ∨ s.jtag.ir = 3 then
    if inputOnly k then none else if s.jtag.cells.getLsbD (3 * k + 2) then some (s.jtag.cells.getLsbD (3 * k + 1)) else none
  else if s.jtag.ir = 4 then none
  else fun'

/-- Capture-DR of the boundary-scan register: input cells take the level at the ball, output cells what the device puts there. -/
def State.scanCapture (s : State) (pins : BitVec 163) : BitVec 489 :=
  BitVec.ofNat 489 (packBits 489 fun i =>
    let k := i / 3
    if i % 3 = 0 then !s.ballAbsent k && s.ballOn k && pins.getLsbD k
    else if i % 3 = 1 then (s.ballOut k).1 else (s.ballOut k).2)

/-- Load an instruction (R786). -/
def State.jtagIr (s : State) (ir : Nat) : State := s.updJtag fun j => { j with ir := ir }

/-- Load an instruction and scan the boundary register once: capture, then update with what was shifted in. -/
def State.jtagScan (s : State) (ir : Nat) (pins : BitVec 163) (cells : BitVec 489) : State :=
  let s := s.jtagIr ir
  let cap := s.scanCapture pins
  ({ s with freeCtr := s.freeCtr + 1 }).updJtag fun j => { j with captured := cap, cells := cells }

/-- The word IDCODE captures (R787). -/
def State.idcode (s : State) : Nat :=
  let dev := match s.variant with
    | .f4 => 0x4801
    | .d2 => 0x4802
    | .b2 => 0x4803
  bitsOf (s.reg 4) 7 4 * 2 ^ 28 + dev * 2 ^ 12 + bitsOf Config.jtagId.toNat 11 1 * 2 + 1

/-! ### Debug access (R789 to R791) -/

/-- Operations on targets of a hall are permitted (R791). -/
def State.debugAllowed (s : State) (h : Hall) : Bool :=
  match s.pwr.lifecycle with
  | 0 => true
  | 1 => true
  | 2 => match h with
    | .P => s.flag F.DBG_CTL_PEN
    | .L => s.flag F.DBG_CTL_LEN
  | _ => false

/-- STATUS codes (R789). -/
def dbgOk : Nat := 0
def dbgBusy : Nat := 1
def dbgDenied : Nat := 2
def dbgFault : Nat := 3

def State.dbgResult (s : State) (status data : Nat) : State :=
  s.updJtag fun j => { j with status := status, data := BitVec.ofNat 32 data }

/-- A memory access may be made with the rights of a hall at stair 0 (R284, R447, R532, R539). -/
def State.dbgMemOk (s : State) (h : Hall) (pa : Nat) (k : Kind) : Bool :=
  (s.busCause h pa k).isNone &&
    (regionOf pa != .dram || !s.flag F.KEY_CTL_ENABLE ||
      (!(s.inKeyStore pa && (h == .P || k == .write)) &&
        (keyCheck (s.byte (s.get F.KEY_BASE_BASE * 4096 + pa / 4096)).toNat h true 0 k).isNone))

/-- The source of a set-up access made through the port: core 0 in the hall named (log entry 28). -/
def dbgSrc (h : Hall) : Src := .core 0 h

/-- A memory read or write of a long (R789). -/
def State.dbgMem (s : State) (h : Hall) (pa : Nat) (wr : Option Nat) : State :=
  let k := if wr.isSome then Kind.write else Kind.read
  if !s.dbgMemOk h pa k then s.dbgResult dbgFault 0
  else if regionOf pa = .setup then
    match wr with
    | none => s.dbgResult dbgOk (s.readReg (dbgSrc h) (pa - setupBase))
    | some v =>
      let (t, denied) := s.setupWrite (dbgSrc h) (pa - setupBase) v
      t.dbgResult (if denied then dbgFault else dbgOk) 0
  else match s.poison pa 4, wr with
    | some _, _ => s.dbgResult dbgFault 0
    | none, none => s.dbgResult dbgOk (ofLe (s.physBytes pa 4))
    | none, some v => (s.physWrite pa (leBytes 4 v)).dbgResult dbgOk 0

/-- DCTL (R790, R792): a halt request stands until the core executes in the named hall; RESUME and STEP act on a halted core. -/
def Core.dctl (q : Core) (h : Hall) (v : Nat) : Core :=
  let q := if bit v 0 then { q with haltReq := some h } else q
  if bit v 1 ∧ q.halted then { q with halted := false, stepOne := false }
  else if bit v 2 ∧ q.halted then { q with halted := false, stepOne := true } else q

/-- DSTAT. -/
def Core.dstat (q : Core) : Nat := ofBool q.halted + q.stair * 2 + hallNat q.hall * 16

/-- A half of a 48-bit register. -/
def halfOf (w : Word) (high : Bool) : Nat := if high then w.toNat / 2 ^ 32 else w.toNat % 2 ^ 32
def withHalf (w : Word) (high : Bool) (v : Nat) : Word :=
  BitVec.ofNat 48 (if high then w.toNat % 2 ^ 32 + v % 65536 * 2 ^ 32 else w.toNat / 2 ^ 32 * 2 ^ 32 + v % 2 ^ 32)

/-- A debug register other than DCTL and DSTAT, and the core with it written. -/
def Core.dreg (q : Core) (a : Nat) : Option Nat :=
  if a = 2 ∨ a = 3 then some (halfOf q.pc (a == 3))
  else if a = 4 ∨ a = 5 then some (halfOf q.csw (a == 5))
  else if 0x100 ≤ a ∧ a < 0x140 then some (halfOf (q.rd (Fin.ofNat 32 ((a - 0x100) / 2))) (a % 2 == 1))
  else none
def Core.setDreg (q : Core) (a v : Nat) : Core :=
  if a = 2 ∨ a = 3 then { q with pc := withHalf q.pc (a == 3) v }
  else if a = 4 ∨ a = 5 then { q with csw := withHalf q.csw (a == 5) v }
  else
    let r : RegNo := Fin.ofNat 32 ((a - 0x100) / 2)
    q.wr r (withHalf (q.rd r) (a % 2 == 1) v)

/-- A read or write of a core debug register (R790). -/
def State.dbgCore (s : State) (c : CoreId) (h : Hall) (a : Nat) (wr : Option Nat) : State :=
  let q := s.core c
  if Variant.cores s.variant ≤ c.val then s.dbgResult dbgFault 0
  else if a = 0 then
    match wr with
    | some v => (s.updCore c fun q => q.dctl h v).dbgResult dbgOk 0
    | none => s.dbgResult dbgOk 0
  else if a = 1 then s.dbgResult dbgOk q.dstat
  else if !q.halted then s.dbgResult dbgBusy 0
  else if q.hall ≠ h then s.dbgResult dbgDenied 0
  else match q.dreg a, wr with
    | none, _ => s.dbgResult dbgFault 0
    | some v, none => s.dbgResult dbgOk v
    | some _, some v => (s.updCore c fun q => q.setDreg a v).dbgResult dbgOk 0

/-- A DBGACC operation at Update-DR, the 80 bits shifted in (R789): a status operation leaves the last result. -/
def State.debugAccess (s : State) (r : BitVec 80) : State :=
  let n := r.toNat
  let h := hallOf (bit n 77)
  let t := bitsOf n 76 74
  let a := bitsOf n 71 34
  let wr := if bitsOf n 79 78 = 2 then some (bitsOf n 31 0) else none
  if s.jtag.ir ≠ 8 ∨ bitsOf n 79 78 = 0 ∨ bitsOf n 79 78 = 3 then s
  else if !s.debugAllowed h then s.dbgResult dbgDenied 0
  else if !s.pwr.fabricUp ∨ 4 < t then s.dbgResult dbgFault 0
  else if t = 4 then s.dbgMem h (4 * a) wr
  else s.dbgCore (Fin.ofNat 4 t) h a wr

/-- A write of DCTL for HALT, RESUME or STEP (R791, R792). -/
def State.debugCtl (s : State) (c : CoreId) (h : Hall) (v : Nat) : State :=
  if !s.debugAllowed h then s.dbgResult dbgDenied 0
  else if !s.pwr.fabricUp then s.dbgResult dbgFault 0
  else s.dbgCore c h 0 (some v)

end Sys2Proof.Machine
end

