-- ==== Sys2Proof/Machine/Flags.lean ====
section
/-! DEFINITION. Flags: the results of the integer unit with the flags N, Z, C, V they give (R286 to R291), the flag writes of CSW, and
the branch conditions (R306). -/
namespace Sys2Proof.Machine

/-- The four flags. -/
structure Nzcv where
  n : Bool
  z : Bool
  c : Bool
  v : Bool
deriving DecidableEq, Repr

/-- The flags as bits [3:0] of CSW (R264). -/
def Nzcv.toNat (f : Nzcv) : Nat := ofBool f.n * 8 + ofBool f.z * 4 + ofBool f.c * 2 + ofBool f.v

/-- The flags of a core. -/
def Core.nzcv (q : Core) : Nzcv := ⟨cswN q.csw, cswZ q.csw, cswC q.csw, cswV q.csw⟩

/-- Write all four flags. -/
def Core.setFlags (q : Core) (f : Nzcv) : Core := { q with csw := cswSet q.csw 3 0 f.toNat }

/-- Write Z alone (R301, R321, R324). -/
def Core.setZ (q : Core) (b : Bool) : Core := { q with csw := cswSet q.csw 2 2 (ofBool b) }

/-- Write V alone (R291). -/
def Core.setV (q : Core) (b : Bool) : Core := { q with csw := cswSet q.csw 0 0 (ofBool b) }

/-- Set the sticky decimal overflow (R338). -/
def Core.setDo (q : Core) : Core := { q with csw := cswSet q.csw 4 4 1 }

/-- N and Z of a 48-bit result, with C and V given. -/
def nzOf (r : Word) (c v : Bool) : Nzcv := ⟨r.msb, r == 0, c, v⟩

/-- A + B + cin modulo 2^48: C is the carry out, V the signed overflow (R286). -/
def addFlags (a b : Word) (cin : Bool) : Word × Nzcv :=
  let sum := a.toNat + b.toNat + ofBool cin
  let r := BitVec.ofNat 48 sum
  (r, nzOf r (decide (2 ^ 48 ≤ sum)) (a.msb == b.msb && r.msb != a.msb))

/-- A - B - (1 - cin) modulo 2^48: C is 1 when there is no borrow, V the signed overflow (R286). -/
def subFlags (a b : Word) (cin : Bool) : Word × Nzcv :=
  let r := BitVec.ofNat 48 (a.toNat + 2 ^ 48 - b.toNat - 1 + ofBool cin)
  (r, nzOf r (decide (b.toNat + 1 ≤ a.toNat + ofBool cin)) (a.msb != b.msb && r.msb != a.msb))

/-- A logical result: C and V are 0 (R286). -/
def logicFlags (r : Word) : Word × Nzcv := (r, nzOf r false false)

/-- A shift left by a count of 0 to 63: C is the last bit out for 1 to 48 and 0 beyond (R288). -/
def shlFlags (a : Word) (n : Nat) : Word × Nzcv :=
  let r := a <<< n
  (r, nzOf r (decide (1 ≤ n) && decide (n ≤ 48) && a.getLsbD (48 - n)) false)

/-- A logical shift right (R288). -/
def shrFlags (a : Word) (n : Nat) : Word × Nzcv :=
  let r := a >>> n
  (r, nzOf r (decide (1 ≤ n) && decide (n ≤ 48) && a.getLsbD (n - 1)) false)

/-- An arithmetic shift right: beyond 48 C is bit 47 (R288). -/
def sarFlags (a : Word) (n : Nat) : Word × Nzcv :=
  let r := a.sshiftRight n
  (r, nzOf r (decide (1 ≤ n) && (if n ≤ 48 then a.getLsbD (n - 1) else a.msb)) false)

/-- A rotate right: counts 48 to 63 rotate by the count minus 48; C is bit 47 of the result, 0 for count 0 (R288). -/
def rorFlags (a : Word) (n : Nat) : Word × Nzcv :=
  let r := a.rotateRight (n % 48)
  (r, nzOf r (decide (1 ≤ n) && r.msb) false)

/-- The leading zero bits among the low `n` bits of a number. -/
def clzNat : Nat → Nat → Nat
  | 0, _ => 0
  | n + 1, x => if x.testBit n then 0 else 1 + clzNat n x

/-- The low half of a product: V when the signed product does not fit 48 bits (R286). -/
def mulFlags (a b : Word) : Word × Nzcv :=
  let r := a * b
  (r, nzOf r false (decide (r.toInt ≠ a.toInt * b.toInt)))

/-- The signed and the unsigned 96-bit product (R286). -/
def mulS (a b : Word) : Nat := ofInt 96 (a.toInt * b.toInt)
def mulU (a b : Word) : Nat := a.toNat * b.toNat

/-- The flags of a 96-bit result: N is bit 95 (R287). -/
def pairFlags (r : Nat) : Nzcv := ⟨r.testBit 95, r % 2 ^ 96 == 0, false, false⟩

/-- DIV and REM overflow: most negative by -1 (R291). -/
def divOverflow (a b : Word) : Bool := a == 0x800000000000#48 && b == 0xFFFFFFFFFFFF#48

/-- Signed quotient and remainder, truncated towards zero (R289, R291). -/
def divS (a b : Word) : Word := BitVec.ofInt 48 (a.toInt.tdiv b.toInt)
def remS (a b : Word) : Word := BitVec.ofInt 48 (a.toInt.tmod b.toInt)

/-- The 16 branch conditions (R306). -/
def condHolds (csw : Word) (cond : Nat) : Bool :=
  let n := cswN csw
  let z := cswZ csw
  let c := cswC csw
  let v := cswV csw
  match cond with
  | 0 => z
  | 1 => !z
  | 2 => c
  | 3 => !c
  | 4 => n
  | 5 => !n
  | 6 => v
  | 7 => !v
  | 8 => c && !z
  | 9 => !c || z
  | 10 => n == v
  | 11 => n != v
  | 12 => !z && n == v
  | 13 => z || n != v
  | 14 => true
  | _ => cswDo csw

end Sys2Proof.Machine
end

