-- ==== Sys2Proof/Machine/Settle.lean ====
section
/-! DEFINITION. What follows of itself from the state a command leaves: the end of a hall P reset (R117), output pins read back as inputs
(R778), the sequencer's next PMBus transfer (R775), hot wells that cool (R592), held bell firings (R493), messages to the host that may now go (R625), sleeping cores
that a source wakes (R327), halt requests (R792), and the bits that are wired to zero (R260, R264, R266). Every command ends with it. -/
namespace Sys2Proof.Machine

/-- The pins of half w driven as outputs to a level they do not yet read as. -/
def State.gpioStale (s : State) (w : Nat) : Nat :=
  s.get (F.GPIO_DIR_MASK.ix w) &&& (s.get (F.GPIO_OUT_MASK.ix w) ^^^ s.get (F.GPIO_IN_MASK.ix w))

/-- Output pins drive their own input levels. -/
def State.gpioDrive (s : State) (w : Nat) : State :=
  let m := s.gpioStale w
  if m = 0 then s
  else (List.range 32).foldl (fun s i => if bit m i then s.gpioEdge (32 * w + i) (bit (s.get (F.GPIO_OUT_MASK.ix w)) i) else s) s

/-- A sleeping core ends its sleep: an event that is never held is due, or a source above ILEVEL is requested (R327, R496). -/
def State.wakes (s : State) (c : CoreId) (q : Core) : Bool :=
  q.due != Due.none || (s.candidates c.val).any fun src => s.takeable c.val q.hall (cswIlevel q.csw) src

/-- A halt request takes effect: the core executes in the hall named (R791, R792). -/
def State.halts (s : State) (c : CoreId) (q : Core) : Bool := q.haltReq == some q.hall && s.coreFree c.val

/-- The bits of PC, CSW and FCSW that are not wired to zero (R260, R264, R266). -/
def pcBits : Word := 0xFFFFFFFFFFFC#48
def cswBits : Word := 0x3FFF3F#48
def fcswBits : Word := 0x371F3F#48

/-- A core at the end of a command. -/
def State.settleCore (s : State) (c : CoreId) (q : Core) : Core :=
  { q with pc := q.pc &&& pcBits, csw := q.csw &&& cswBits, fcsw := q.fcsw &&& fcswBits
           asleep := q.asleep && !s.wakes c q
           halted := q.halted || s.halts c q, haltReq := if s.halts c q then none else q.haltReq }

/-- Every core at the end of a command. -/
def State.settleCores (s : State) : State := { s with cores := Vector.ofFn fun c => s.settleCore c (s.core c) }

/-- The units at the end of a command. -/
def State.settleUnits (s : State) : State := (((((s.hallPDone.gpioDrive 0).gpioDrive 1).i2cSeq).hotCheck).deliverHeld).releaseMsgs

/-- The state that a command leaves. -/
def State.settle (s : State) : State := s.settleUnits.settleCores

/-- How every command ends: the next state. -/
def finish (s : State) : Host.Outcome State Fault Refusal := .next s.settle

end Sys2Proof.Machine
end

