-- ==== Sys2Proof/Machine/Execute.lean ====
section
/-! DEFINITION. How a core executes one instruction: the events due before it (R477, R478, R481, R482, R496, R497), the delivery of
floating-point traps (R405 to R407), Unit Absent and privilege (R16 to R19, R279), and retirement (R501, R792). -/
namespace Sys2Proof.Machine

/-! ### The floating-point trap -/

/-- FCSW.TPEND: a trap is pending (R266). -/
def Core.tpend (q : Core) : Bool := q.fcsw.getLsbD 21

/-- FCSW with bits [hi:lo] set. -/
def Core.setFcsw (q : Core) (hi lo x : Nat) : Core := { q with fcsw := BitVec.ofNat 48 (putBits q.fcsw.toNat hi lo x) }

/-- The pending trap is delivered: TPEND is cleared, the syndrome carries the trap-enabled flags raised since it became pending and the
class of the instruction FTA names (R407, R479). The saved PC is that of the instruction at the head (R405). -/
def deliverTrap (s : State) (c : CoreId) : State :=
  let q := s.core c
  let e : Exc := ⟨0x0C, 0, q.fpNew, none, some q.ftaOp, false⟩
  takeException (s.updCore c fun q => { q.setFcsw 21 21 0 with fpNew := 0 }) c e q.pc

/-- An exception is entered; a pending trap is entered in its place (R405, R406). -/
def raise (s : State) (c : CoreId) (e : Exc) (pc : Word) : State :=
  if (s.core c).tpend then deliverTrap s c else takeException s c e pc

/-! ### Events due at a boundary -/

/-- The core executes instructions: fabric on, core present, neither held, fenced, halted nor asleep, and core 0 not waiting for a boot
image from the host (R119, R126, R327, R792). -/
def State.canRun (s : State) (c : CoreId) : Bool :=
  s.pwr.fabricUp && s.coreFree c.val && !(s.core c).halted && !(s.core c).asleep && !(c.val == 0 && s.pwr.hostBoot)

/-- The target stair of an interrupt at level l of a hall (R477). -/
def Core.intStair (q : Core) (h : Hall) (l : Nat) : Nat :=
  if q.hall = h ∧ 1 ≤ q.stair ∧ bit (q.cr h crDELEGI).toNat l then 1 else 0

/-- A delegated interrupt of the current hall waits while the core is at stair 0 (R478). -/
def Core.delegHeld (q : Core) (h : Hall) (l : Nat) : Bool := q.hall == h && q.stair == 0 && bit (q.cr h crDELEGI).toNat l

/-- Source src may be entered now on core c. -/
def State.enterable (s : State) (c : CoreId) (src : Nat) : Bool :=
  let q := s.core c
  q.hold.isNone && s.takeable c.val q.hall (cswIlevel q.csw) src && !q.delegHeld (s.belHall src) (s.belLevel src)

/-- Of two sources the one of the higher level, and among equal levels the lower number (R481). -/
def State.higher (s : State) (best : Option Nat) (src : Nat) : Option Nat :=
  match best with
  | none => some src
  | some b => if s.belLevel b < s.belLevel src ∨ (s.belLevel b = s.belLevel src ∧ src < b) then some src else some b

/-- The maskable interrupt to be taken on core c, if any. -/
def State.nextInterrupt (s : State) (c : CoreId) : Option Nat := ((s.candidates c.val).filter (s.enterable c)).foldl s.higher none

/-- What is due on a core: events 2 to 5 of R481, then the interrupt. -/
inductive DueEvent
  | machineCheck (m : McDue)
  | devWatchdog
  | watchdog
  | hallPStop
  | interrupt (src : Nat)
deriving DecidableEq, Repr

/-- The first event due (R481). -/
def State.dueEvent (s : State) (c : CoreId) : Option DueEvent :=
  let d := (s.core c).due
  match d.mc with
  | m :: _ => some (.machineCheck m)
  | [] =>
    if d.devWatchdog then some .devWatchdog
    else if d.watchdog then some .watchdog
    else if d.hallPStop then some .hallPStop
    else (s.nextInterrupt c).map .interrupt

/-- An event to Hall L stair 0 without an instruction of its own. -/
def Exc.toHallL (vec cause info : Nat) (fa : Option Word) : Exc := ⟨vec, cause, info, fa, some 0, true⟩

/-- The core's due events changed. -/
def State.updDue (s : State) (c : CoreId) (f : Due → Due) : State := s.updCore c fun q => { q with due := f q.due }

/-- An interrupt is entered: an edge source's pending bit on this core is cleared (R492), and the hall is that of the source (R475). -/
def enterInterrupt (s : State) (c : CoreId) (src : Nat) : State :=
  let q := s.core c
  let l := s.belLevel src
  let h := s.belHall src
  let s := if (levelBlock src).isSome then s else s.unpend src c.val
  enterHall s c h (q.intStair h l) ⟨⟨0x30 + l, l, src, none, some 0, false⟩, 0, q.saved q.pc⟩

/-- Hall P Reset with cause STOPPED (R117, R490): OPC is that of the instruction at the saved PC. A window open ends FORCED (R482, R501). -/
def enterStop (s : State) (c : CoreId) : State :=
  takeException (endHold (s.updDue c fun d => { d with hallPStop := false }) c 4) c ⟨0x12, 2, 0, none, none, true⟩ (s.core c).pc

/-- An event is entered at the boundary before the instruction at PC; a pending trap is entered in its place (R405). -/
def enterDue (s : State) (c : CoreId) (ev : DueEvent) : State :=
  let pc := (s.core c).pc
  if (s.core c).tpend then deliverTrap s c
  else match ev with
    | .machineCheck m => takeException (s.updDue c fun d => { d with mc := d.mc.tail }) c (Exc.toHallL 0x14 m.cls m.seg m.fa) pc
    | .devWatchdog => takeException (s.updDue c fun d => { d with devWatchdog := false }) c (Exc.toHallL 0x16 0 0 none) pc
    | .watchdog => takeException (s.updDue c fun d => { d with watchdog := false }) c (Exc.toHallL 0x15 0 0 none) pc
    | .hallPStop => enterStop s c
    | .interrupt src => enterInterrupt s c src

/-! ### One instruction -/

/-- What an instruction does at the head of the reorder window: it retires and goes on, or to another address; it raises a precise
exception; it retires and raises one for the next instruction (R339); it retires and stops (R327); it waits (R320); it is interrupted at a unit
boundary (R392). -/
inductive IRes
  | next
  | jump (pc : Word)
  | exc (e : Exc)
  | trapAfter (e : Exc)
  | sleep
  | wait
  | cut
deriving DecidableEq, Repr

/-- Retirement: PC moves, an open window that stood before the instruction counts it (R501), a single step halts (R792). -/
def Core.retire (q : Core) (counted : Bool) (pc : Word) : Core :=
  { q with pc := pc, jobWait := false
           hold := if counted then q.hold.map fun h => { h with count := h.count + 1 } else q.hold
           halted := q.halted || q.stepOne, stepOne := false }

/-- Core c retires an instruction, unless the instruction itself reset or held the core (R112, R119). -/
def retireAt (s : State) (c : CoreId) (counted : Bool) (pc : Word) : State :=
  if s.pwr.fabricUp && s.coreFree c.val then s.updCore c fun q => q.retire counted pc else s

/-- The core sleeps after the instruction (R327). -/
def Core.asleepNow (q : Core) : Core := { q with asleep := true }

/-- The state after an instruction. `s0` is the state before it, in which a trap is delivered in place of its exception. -/
def conclude (s0 : State) (c : CoreId) (op len : Nat) (r : State × IRes) : State :=
  let pc := (s0.core c).pc
  let seq := pc + BitVec.ofNat 48 len
  let counted := (s0.core c).hold.isSome
  let ret (pc' : Word) : State := retireAt r.1 c counted pc'
  match r.2 with
  | .next => ret seq
  | .jump pc' => ret pc'
  | .exc e => if (s0.core c).tpend then deliverTrap s0 c else takeException r.1 c (if e.opc.isSome then e else e.ofClass op) pc
  | .trapAfter e => if (s0.core c).tpend then deliverTrap s0 c else takeException (ret seq) c (e.ofClass op) seq
  | .sleep => (ret seq).updCore c Core.asleepNow
  | .wait => r.1.updCore c fun q => { q with jobWait := true }
  | .cut => r.1

/-- The unit that a class needs and the core lacks: CAUSE of Unit Absent (R278, R480). -/
def unitAbsent (v : Variant) (op : Nat) : Option Nat :=
  if Variant.hasDsc v then none
  else if 0x10 ≤ op ∧ op ≤ 0x14 then some 1
  else if 0x18 ≤ op ∧ op ≤ 0x1B then some 2
  else none

/-- What precedes the operands: Unit Absent, then Privileged Instruction of class 0x0D at stairs 2 and 3 (R19, R279, R299). -/
def gateKeep (s : State) (c : CoreId) (op : Nat) : Option Exc :=
  match unitAbsent s.variant op with
  | some cause => some (Exc.plain 0x0E cause 0)
  | none => if op = 0x0D ∧ 2 ≤ (s.core c).stair then some Exc.privileged else none

/-- Execute one instruction of class `op` and length `len` on core c. A core that executes nothing is left as it is; a waiting core
executes only the JOBGET it waits in. A window due to end ends; an event due is entered instead (R481); at the boundaries of R405 a pending
trap is delivered (`bar`). -/
def runWith (s : State) (c : CoreId) (op len : Nat) (bar jobget : Bool) (body : State → State × IRes) : State :=
  if !s.canRun c || ((s.core c).jobWait && !jobget) then s
  else
    let s := boundary s c
    match s.dueEvent c with
    | some ev => enterDue s c ev
    | none =>
      match gateKeep s c op with
      | some e => conclude s c op len (s, .exc e)
      | none => if bar && (s.core c).tpend then deliverTrap s c else conclude s c op len (body s)

/-- An ordinary instruction of 4 bytes. -/
def run (s : State) (c : CoreId) (op : Nat) (body : State → State × IRes) : State := runWith s c op 4 false false body

/-- An instruction at which a pending trap is delivered (R405). -/
def runBar (s : State) (c : CoreId) (op : Nat) (body : State → State × IRes) : State := runWith s c op 4 true false body

/-- An instruction that changes only its core and goes on to the next. -/
def runCore (s : State) (c : CoreId) (op : Nat) (f : Core → Core) : State := run s c op fun s => (s.updCore c f, .next)

/-- An encoding that must not occur: Illegal Instruction (R274). -/
def illegalWhen (b : Bool) (s : State) (r : State × IRes) : State × IRes := if b then (s, .exc Exc.illegal) else r

end Sys2Proof.Machine
end

