-- ==== Sys2Proof/Machine/Operands.lean ====
section
/-! DEFINITION. Operand forms: immediates (R269 to R271), effective addresses (R276, R296, R297, R401), alignment (R251, R253, R275), and the
loads and stores of memory instructions, set-up space included (R72 to R79, R298 to R300). -/
namespace Sys2Proof.Machine

/-! ### Immediates and targets -/

/-- IMM16 sign-extended (R269). -/
def sext16 (i : BitVec 16) : Word := i.signExtend 48

/-- The 48-bit immediate of class 0x03 (R271). -/
def imm48 (ext : BitVec 32) (i : BitVec 16) : Word := BitVec.ofNat 48 (ext.toNat * 2 ^ 16 + i.toNat)

/-- The target of a B-format branch (R270). -/
def branchTarget (pc : Word) (disp : BitVec 22) : Word := pc + disp.signExtend 48 * 4#48

/-- The target of a J-format branch (R270). -/
def jumpTarget (pc : Word) (disp : BitVec 26) : Word := pc + disp.signExtend 48 * 4#48

/-! ### Sizes and addresses -/

/-- The access sizes of loads and stores (R296): byte, half, long, word. -/
inductive Size
  | byte | half | long | word
deriving DecidableEq, Repr

/-- The size a two-bit field selects. -/
def sizeOf (b : BitVec 2) : Size :=
  match b.toNat with
  | 0 => .byte
  | 1 => .half
  | 2 => .long
  | _ => .word

/-- Bytes of an access. -/
def Size.bytes : Size → Nat
  | .byte => 1
  | .half => 2
  | .long => 4
  | .word => 6

/-- The alignment of an access (R249). -/
def Size.align : Size → Nat
  | .byte => 1
  | .half => 2
  | .long => 4
  | .word => 2

/-- INFO of an Alignment exception (R480). -/
def Size.info : Size → Nat
  | .byte => 0
  | .half => 1
  | .long => 2
  | .word => 3

/-- EA of LD and ST: base and a displacement that is a multiple of 4 (R296). -/
def eaDisp (base : Word) (i : BitVec 16) : Word := base + sext16 (i &&& 0xFFFC#16)

/-- EA of FP loads and stores (R401). -/
def eaFp (base : Word) (i : BitVec 16) : Word := base + sext16 (i &&& 0xFFF8#16)

/-- EA of an indexed access (R297). -/
def eaIndex (base idx : Word) (sc : BitVec 2) : Word := base + idx <<< sc.toNat

/-- The Alignment exception (R251, R480). -/
def alignExc (info : Nat) (a : Word) : Exc := Exc.at 3 0 info a.toNat

/-- The boundary that splits an access: a line for a word (R252), else a page, which no aligned access crosses. -/
def Size.cut : Size → Nat
  | .word => 64
  | _ => 4096

/-! ### Access to memory and set-up space -/

/-- The segments that serve an access to a set-up block, its own unit or the crossing before it (R54, R859). -/
def setupSeg (off : Nat) : Nat :=
  match blockOf off with
  | 7 => (off - 0x80000) / 0x10000
  | 8 => 8
  | 9 => 9
  | 10 => 5
  | 11 => 5
  | 12 => 6
  | 13 => 7
  | 19 => 11
  | 20 => 11
  | 21 => 10
  | _ => 12

/-- The checked access is one to set-up space: its offset. -/
def setupPart : List Part → Option Nat
  | [p] => if regionOf p.pa = .setup then some (p.pa - setupBase) else none
  | _ => none

/-- A performed read of set-up space by a core, after every earlier access is complete (R74, R435); a fenced segment on its path answers with
poison (R61, R62). -/
def setupLoad (s : State) (c : CoreId) (off : Nat) : State × (Exc ⊕ List Byte) :=
  let s := drainAll s c
  if s.fenced (setupSeg off) then
    (s.logError c.val 7 (setupSeg off) true (some (setupBase + off)), .inl (Exc.poison (setupSeg off) (setupBase + off)))
  else
    let r := s.setupRead (.core c (s.core c).hall) off
    (r.1, .inr (leBytes 4 r.2))

/-- A write of set-up space by a core: one that is not permitted raises Set-up Access with cause PERM (R78); one that meets a poison token is
dropped and a machine check falls due (R62). -/
def setupStore (s : State) (c : CoreId) (off : Nat) (l : List Byte) : State × Option Exc :=
  let s := drainAll s c
  let seg := setupSeg off
  if s.fenced seg then
    ((s.logError c.val 7 seg true (some (setupBase + off))).updCore c fun q =>
      { q with due := { q.due with mc := q.due.mc ++ [⟨2, seg, some (BitVec.ofNat 48 (setupBase + off))⟩] } }, none)
  else
    let r := s.setupWrite (.core c (s.core c).hall) off (ofLe l)
    (r.1, if r.2 then some (Exc.at 5 2 (blockOf off) (setupBase + off)) else none)

/-- A load of `n` bytes at `va` by the running code, set-up space included. The fault address of a denial is the virtual address. -/
def loadMem (s : State) (c : CoreId) (va : Word) (n cut : Nat) : State × (Exc ⊕ List Byte) :=
  match checkAccess s c (s.core c).ctx va.toNat n cut .read false with
  | (s, .inl e) => (s, .inl e)
  | (s, .inr ps) =>
    match setupPart ps with
    | some off => setupLoad s c off
    | none =>
      match readParts s c ps with
      | (s, .poison seg) => (s, .inl (Exc.poison seg (partsPa ps)))
      | (s, .ok l) => (s, .inr l)

/-- A store of bytes at `va` by the running code, set-up space included: an exception, if it raises one. -/
def storeMem (s : State) (c : CoreId) (va : Word) (cut : Nat) (l : List Byte) : State × Option Exc :=
  match checkAccess s c (s.core c).ctx va.toNat l.length cut .write false with
  | (s, .inl e) => (s, some e)
  | (s, .inr ps) =>
    match setupPart ps with
    | some off =>
      match setupStore s c off l with
      | (s, some e) => (s, some { e with fa := some va })
      | (s, none) => (s, none)
    | none => (writeParts s c (s.core c).ctx ps l, none)

/-- A load into a register, aligned first; `f` makes the register's value of the number read. -/
def loadTo (s : State) (c : CoreId) (va : Word) (z : Size) (f : Core → Nat → Core) : State × IRes :=
  if va.toNat % z.align ≠ 0 then (s, .exc (alignExc z.info va))
  else match loadMem s c va z.bytes z.cut with
    | (s, .inl e) => (s, .exc e)
    | (s, .inr l) => (s.updCore c fun q => f q (ofLe l), .next)

/-- A store of the low bytes of a value. -/
def storeFrom (s : State) (c : CoreId) (va : Word) (z : Size) (v : Nat) : State × IRes :=
  if va.toNat % z.align ≠ 0 then (s, .exc (alignExc z.info va))
  else match storeMem s c va z.cut (leBytes z.bytes v) with
    | (s, some e) => (s, .exc e)
    | (s, none) => (s, .next)

/-- Sign extension of a loaded byte, half or long (R297). -/
def sextLoad (z : Size) (v : Nat) : Word :=
  match z with
  | .byte => (BitVec.ofNat 8 v).signExtend 48
  | .half => (BitVec.ofNat 16 v).signExtend 48
  | .long => (BitVec.ofNat 32 v).signExtend 48
  | .word => BitVec.ofNat 48 v

end Sys2Proof.Machine
end

