-- ==== Sys2Proof/Machine/Control.lean ====
section
/-! DEFINITION. Branches and jumps (R306 to R308), and the instructions of class 0x0C: NOP, CAPS (R280, R281), CSW moves (R310), BELL and
BELLW (R315 to R318, R494), the job instructions (R319 to R326), SLEEP (R327 to R329), held windows (R499 to R504) and BRK (R311). -/
namespace Sys2Proof.Machine

/-- BR (R306). -/
def execBr (c : CoreId) (cond : BitVec 4) (disp : BitVec 22) (s : State) : Host.Outcome State Fault Refusal :=
  finish (run s c 0x08 fun s =>
    let q := s.core c
    (s, if condHolds q.csw cond.toNat then .jump (branchTarget q.pc disp) else .next))

/-- BL: W30 := PC + 4 (R307). -/
def execBl (c : CoreId) (disp : BitVec 26) (s : State) : Host.Outcome State Fault Refusal :=
  finish (run s c 0x09 fun s =>
    let q := s.core c
    (s.updCore c fun q => q.wr 30 (q.pc + 4#48), .jump (jumpTarget q.pc disp)))

/-- A register jump: a target not a multiple of 4 raises Alignment at the jump (R275, R480); `f` is the register effect. -/
def regJump (s : State) (c : CoreId) (bad : Bool) (target : Core → Word) (f : Core → Core) : State :=
  run s c 0x0A fun s =>
    let t := target (s.core c)
    illegalWhen bad s (if t.toNat % 4 ≠ 0 then (s, .exc (alignExc 6 t)) else (s.updCore c f, .jump t))

/-- JR (R308). -/
def execJr (c : CoreId) (ra : RegNo) (mbz : BitVec 10) (s : State) : Host.Outcome State Fault Refusal :=
  finish (regJump s c (mbz != 0) (fun q => q.rd ra) id)
/-- CALLR: the target is read before W30 is written (R308). -/
def execCallr (c : CoreId) (ra : RegNo) (mbz : BitVec 10) (s : State) : Host.Outcome State Fault Refusal :=
  finish (regJump s c (mbz != 0) (fun q => q.rd ra) fun q => q.wr 30 (q.pc + 4#48))
/-- RET (R308). -/
def execRet (c : CoreId) (mbz : BitVec 15) (s : State) : Host.Outcome State Fault Refusal :=
  finish (regJump s c (mbz != 0) (fun q => q.rd 30) id)

/-! ### Class 0x0C -/

/-- NOP (R309). -/
def execNop (c : CoreId) (mbz : BitVec 15) (s : State) : Host.Outcome State Fault Refusal :=
  finish (run s c 0x0C fun s => illegalWhen (mbz != 0) s (s, .next))

/-- CAPS: RA must be zero; n from 4 on gives zero (R280, R281). -/
def execCaps (c : CoreId) (rd ra : RegNo) (n : Fin 32) (s : State) : Host.Outcome State Fault Refusal :=
  finish (run s c 0x0C fun s => illegalWhen (ra != 0) s
    (s.updCore c fun q => q.wr rd (if n.val < 4 then BitVec.ofNat 48 (Variant.cap s.variant n.val) else 0), .next))

/-- RDCSW (R310). -/
def execRdcsw (c : CoreId) (rd : RegNo) (mbz : BitVec 10) (s : State) : Host.Outcome State Fault Refusal :=
  finish (run s c 0x0C fun s => illegalWhen (mbz != 0) s (s.updCore c fun q => q.wr rd q.csw, .next))

/-- The bits of CSW a move writes at a stair (R264, R265). -/
def cswWritable (stair : Nat) : Word := if stair = 0 then 0x10FF3F#48 else if stair = 1 then 0xFF3F#48 else 0x3F#48

/-- A CSW move (R265). -/
def Core.moveCsw (q : Core) (v : Word) : Core :=
  let m := cswWritable q.stair
  { q with csw := (q.csw &&& ~~~m) ||| (v &&& m) }

/-- WRCSW (R265, R310). -/
def execWrcsw (c : CoreId) (ra : RegNo) (mbz : BitVec 10) (s : State) : Host.Outcome State Fault Refusal :=
  finish (run s c 0x0C fun s => illegalWhen (mbz != 0) s (s.updCore c fun q => q.moveCsw (q.rd ra), .next))

/-- BRK (R311). -/
def execBrk (c : CoreId) (n : BitVec 10) (mbz : BitVec 5) (s : State) : Host.Outcome State Fault Refusal :=
  finish (run s c 0x0C fun s => illegalWhen (mbz != 0) s (s, .exc (Exc.plain 0x10 0 n.toNat)))

/-- Bell b as a core in a hall rings it: from Hall P it needs a source of Hall P (R494). -/
def State.ringBell (s : State) (h : Hall) (b m : Nat) : State :=
  if h = .P ∧ s.belHall b = .L then s.event 8 0 else s.crossBell b m

/-- A request that a core posted to a fenced segment meets a poison token: it is dropped, and a machine check falls due (R61, R62; log
entry 32). -/
def State.postPoison (s : State) (c : CoreId) (seg : Nat) : State :=
  (s.logError c.val 7 seg true none).updCore c fun q => { q with due := { q.due with mc := q.due.mc ++ [⟨2, seg, none⟩] } }

/-- BELL: after every earlier store is visible, to the present cores of the mask (R315). -/
def execBell (c : CoreId) (ra : RegNo) (b : Fin 32) (mbz : BitVec 5) (s : State) : Host.Outcome State Fault Refusal :=
  finish (run s c 0x0C fun s => illegalWhen (mbz != 0 || decide (16 ≤ b.val)) s (
    let s := drainAll s c
    let q := s.core c
    let m := (q.rd ra).toNat % 16
    (if m = 0 then s else if s.fenced 8 then s.postPoison c 8 else s.ringBell q.hall b.val m, .next)))

/-- BELLW in either form: after every earlier store is visible (R316 to R318). -/
def bellw (s : State) (c : CoreId) (ra : RegNo) (bad quad : Bool) (v : Core → Nat) : State :=
  run s c 0x0C fun s => illegalWhen bad s (
    let s := drainAll s c
    let q := s.core c
    (if s.fenced 5 then s.postPoison c 5 else s.doorbell (.core c q.hall) (q.rd ra).toNat quad (v q), .next))

/-- BELLW.L (R316). -/
def execBellwL (c : CoreId) (ra rb : RegNo) (mbz : BitVec 5) (s : State) : Host.Outcome State Fault Refusal :=
  finish (bellw s c ra (mbz != 0) false fun q => (q.rd rb).toNat % 2 ^ 32)
/-- BELLW.Q: RB names a pair (R316). -/
def execBellwQ (c : CoreId) (ra rb : RegNo) (mbz : BitVec 5) (s : State) : Host.Outcome State Fault Refusal :=
  finish (bellw s c ra (mbz != 0 || !pairOk rb) true fun q =>
    (q.rd rb).toNat % 2 ^ 32 + (q.rd (RegNo.succ rb)).toNat % 2 ^ 32 * 2 ^ 32)

/-! ### Jobs -/

/-- A token and the address of its descriptor copy into a pair (R319). -/
def Core.putToken (q : Core) (rd : RegNo) (tok addr : Nat) : Core :=
  (q.wr rd (BitVec.ofNat 48 tok)).wr (RegNo.succ rd) (BitVec.ofNat 48 addr)

/-- JOBGET: waits while the inlet is empty (R320). -/
def execJobget (c : CoreId) (rd : RegNo) (mbz : BitVec 10) (s : State) : Host.Outcome State Fault Refusal :=
  finish (runWith s c 0x0C 4 false true fun s => illegalWhen (mbz != 0 || !pairOk rd) s
    (match s.takeToken c.val (s.core c).hall with
    | some (tok, addr, t) => (t.updCore c fun q => q.putToken rd tok addr, .next)
    | none => (s, .wait)))

/-- JOBPOLL: never waits; Z tells (R321). -/
def execJobpoll (c : CoreId) (rd : RegNo) (mbz : BitVec 10) (s : State) : Host.Outcome State Fault Refusal :=
  finish (run s c 0x0C fun s => illegalWhen (mbz != 0 || !pairOk rd) s
    (match s.takeToken c.val (s.core c).hall with
    | some (tok, addr, t) => (t.updCore c fun q => (q.putToken rd tok addr).setZ true, .next)
    | none => (s.updCore c fun q => (q.putToken rd 0 0).setZ false, .next)))

/-- JOBDONE: an accepted one is performed after every earlier store is visible; Z tells (R323 to R325). -/
def execJobdone (c : CoreId) (ra rb : RegNo) (mbz : BitVec 5) (s : State) : Host.Outcome State Fault Refusal :=
  finish (run s c 0x0C fun s => illegalWhen (mbz != 0) s (
    let q := s.core c
    let fin (s : State) := s.jobDone c.val q.hall (q.rd ra).toNat (q.rd rb).toNat
    let t := if (fin s).2 then (fin (drainAll s c)).1 else s
    (t.updCore c fun q => q.setZ (fin s).2, .next)))

/-! ### SLEEP and held windows -/

/-- SLEEP: Illegal first, then Privileged at stairs 2 and 3; an open window ends with EXIT; the core stops after it retires
(R327 to R329, R299). -/
def execSleep (c : CoreId) (mbz : BitVec 15) (s : State) : Host.Outcome State Fault Refusal :=
  finish (runBar s c 0x0C fun s => illegalWhen (mbz != 0) s
    (if 2 ≤ (s.core c).stair then (s, .exc Exc.privileged) else (endHold s c 5, .sleep)))

/-- HOLDSTAT with bits [hi:lo] set, in the current hall's bank. -/
def Core.setHoldstat (q : Core) (hi lo v : Nat) : Core :=
  q.setCr q.hall crHOLDSTAT (BitVec.ofNat 48 (putBits (q.cr q.hall crHOLDSTAT).toNat hi lo v))

/-- HOLD n on a core: a window opens with the limit min(n, HOLDMAX), or NEST or DENIED is set; REQ takes n (R499, R507). -/
def Core.openHold (q : Core) (n : Nat) : Core :=
  let m := (q.cr q.hall (crHOLDMAX q.stair)).toNat
  let q := q.setHoldstat 23 16 n
  if q.hold.isSome then q.setHoldstat 4 4 1
  else if m = 0 then q.setHoldstat 5 5 1
  else { q with hold := some ⟨n, min n m, 0⟩, csw := cswSet q.csw 21 21 1 }

/-- HOLD: n from 1 to 255 (R309, R499). -/
def execHold (c : CoreId) (n : BitVec 10) (mbz : BitVec 5) (s : State) : Host.Outcome State Fault Refusal :=
  finish (runBar s c 0x0C fun s => illegalWhen (mbz != 0 || n == 0 || decide (255 < n.toNat)) s
    (s.updCore c fun q => q.openHold n.toNat, .next))

/-- RELEASE: an open window ends; otherwise nothing happens (R501, R503). -/
def execRelease (c : CoreId) (mbz : BitVec 15) (s : State) : Host.Outcome State Fault Refusal :=
  finish (run s c 0x0C fun s => illegalWhen (mbz != 0) s (endHold s c 0, .next))

/-- The count limit of an open window is reached at a boundary (R501). -/
def execHoldCountLimit (c : CoreId) (s : State) : Host.Outcome State Fault Refusal := finish (boundary s c)

/-- HOLDT elapses: the window ends at the boundary, by count when both limits are reached there (R501, R502). -/
def execHoldTimeLimit (c : CoreId) (s : State) : Host.Outcome State Fault Refusal := finish (endHold (boundary s c) c 3)

end Sys2Proof.Machine
end

