-- ==== Sys2Proof/Machine/Access.lean ====
section
/-! DEFINITION. How the sources reach the block: a set-up write by the host or a core (R71 to R78), the host's windows BAR0, BAR2 and BAR4
(R73, R544, R579 to R582, R742, R747), and the units' own power. -/
namespace Sys2Proof.Machine

/-! ### Who can act -/

/-- What an event does while the AON island is out of reset (R113, R121). -/
def State.whenAon (s : State) (f : State → State) : State := if s.pwr.aonUp then f s else s

/-- What an event of the fabric's own units does while the fabric is released (R121, R148). -/
def State.whenFabric (s : State) (f : State → State) : State := if s.pwr.fabricUp then f s else s

/-- What an event does while the H island takes part (R120, R747). -/
def State.whenLink (s : State) (f : State → State) : State := if s.link.up && !s.link.perst then f s else s

/-- The host's memory requests are accepted: link up, D0, not L2/L3 Ready, fabric released (R120, R747, R749). -/
def State.hostUsable (s : State) : Bool :=
  s.pwr.fabricUp && s.link.up && !s.link.perst && s.link.dState == 0 && s.link.lp != 4

/-- A source can write: the host while its requests are accepted, a core while it executes in the hall named. -/
def State.srcLive (s : State) : Src → Bool
  | .host => s.hostUsable
  | .core c h => s.canRun c && !(s.core c).jobWait && (s.core c).hall == h

/-- A request brings the link back to L0 (R750). -/
def State.linkActive (s : State) : State := s.updLink fun l => { l with lp := 0 }

/-! ### The host's completions -/

/-- AER takes an error: bit 0 Completer Abort, bit 2 a dropped posted write (R62, R742). -/
def State.aerSet (s : State) (n : Nat) : State := s.updLink fun l => { l with aer := setBit l.aer n }

/-- The host's read ends. -/
def State.answer (s : State) (status : Nat) (data : List Nat) : State := { s with resp := ⟨status, data⟩ }

/-- A read ends with Completer Abort, reported through AER. -/
def State.completerAbort (s : State) : State := (s.aerSet 0).answer 1 []

/-- The number of dwords a length field of a request stands for. -/
def dwCount (n : BitVec 10) : Nat := if n = 0 then 1024 else n.toNat

/-! ### Set-up space -/

/-- The segment that answers a host access to a set-up offset with poison: the H crossing, then the unit or the crossing before it (R61,
R859). -/
def State.hostFence (s : State) (off : Nat) : Bool :=
  blockOf off != 21 && (s.fenced 10 || s.fenced (setupSeg off))

/-- A host write of one full dword of BAR0 (R62, R73, R77). -/
def State.hostSetup (s : State) (off v : Nat) : State :=
  let s := s.linkActive
  if s.hostFence off then s.aerSet 2 else (s.setupWrite .host off v).1

/-- A host write of BAR0 of any other shape (R73). -/
def State.hostWidth (s : State) (off : Nat) : State := (s.linkActive.denyRec 0 1 off).event 1 2

/-- A core's 32-bit store to set-up space: aligned and permitted, or Set-up Access with cause WIDTH or PERM (R72, R78). -/
def coreSetup (s : State) (c : CoreId) (off v : Nat) : State :=
  let pc := (s.core c).pc
  if off % 4 ≠ 0 then
    raise (s.denyRec (if (s.core c).hall = .P then 1 else 2) 1 off) c (Exc.at 5 1 (blockOf off) (setupBase + off)) pc
  else match setupStore s c off (leBytes 4 v) with
    | (s, some e) => raise s c e pc
    | (s, none) => s

/-- A write of set-up space by a source that can write. -/
def State.srcWrite (s : State) (src : Src) (off v : Nat) : State :=
  if !s.srcLive src then s
  else match src with
    | .host => if off % 4 ≠ 0 then s.hostWidth off else s.hostSetup off v
    | .core c _ => coreSetup s c off v

/-- A write that sets bits of a register and leaves the fields that read as stored. -/
def State.srcSet (s : State) (src : Src) (off bits : Nat) : State := s.srcWrite src off (s.readReg src off ||| bits)

/-- A write that sets one field and leaves the others as they read. -/
def State.srcField (s : State) (src : Src) (f : Fld) (v : Nat) : State :=
  s.srcWrite src f.off (putBits (s.readReg src f.off) f.hi f.lo v)

/-- A host read of dwords of BAR0, in ascending order (R73). -/
def State.bar0Dwords (s : State) (off : Nat) : Nat → State × List Nat
  | 0 => (s, [])
  | n + 1 =>
    let (s, v) := s.setupRead .host off
    let (s, l) := s.bar0Dwords (off + 4) n
    (s, v :: l)

/-- HOST_BAR0_READ of `n` dwords. -/
def State.bar0Read (s : State) (off n : Nat) : State :=
  if !s.hostUsable then s.answer 2 []
  else
    let s := s.linkActive
    if (List.range n).any fun i => s.hostFence (off + 4 * i) then s.completerAbort
    else
      let (s, l) := s.bar0Dwords off n
      s.answer 0 l

/-- HOST_BAR0_WRITE of the bytes enabled, from an offset up (R73). -/
def State.bar0Write (s : State) (off : Nat) (l : List Byte) : State :=
  if !s.hostUsable then s
  else if off % 4 = 0 ∧ l.length = 4 then s.hostSetup off (ofLe l)
  else s.hostWidth off

/-! ### The doorbell window -/

/-- A doorbell of any form (R580, R581); from the host it passes the H crossing to the Pump. -/
def State.ringForm (s : State) (src : Src) (w : Nat) : DoorbellForm → State
  | .long v => s.doorbell src w false v.toNat
  | .quad v => s.doorbell src w true v.toNat
  | .other => s.dbRefuse src 4 w

/-- A doorbell or kick by a source that can write. -/
def State.srcDoorbell (s : State) (src : Src) (f : State → State) : State :=
  if !s.srcLive src then s
  else match src with
    | .host => if s.fenced 10 || s.fenced 5 then s.linkActive.aerSet 2 else f s.linkActive
    | .core c _ => if s.fenced 5 then (s.logError c.val 7 5 true none).machineCheck c.val ⟨2, 5, none⟩ else f (drainAll s c)

/-- HOST_BAR2_READ of `n` dwords (R582). -/
def State.bar2Dwords (s : State) (off n : Nat) : State :=
  if !s.hostUsable then s.answer 2 []
  else if s.fenced 10 || s.fenced 5 then s.linkActive.completerAbort
  else s.linkActive.answer 0 ((List.range n).map fun i => s.bar2Read (off + 4 * i))

/-! ### The DRAM window -/

/-- BAR4 is implemented and accepts requests (R741, R747). -/
def State.bar4Usable (s : State) : Bool := s.hostUsable && s.link.bar4

/-- The first frame of `k` from frame f on that the host's key does not open: a Hall P access with KEY_HOSTKEY.KEY; the key store itself is
refused (R539, R544). -/
def State.hostFrame (s : State) (kind : Kind) : Nat → Nat → Option Nat
  | 0, _ => none
  | k + 1, f =>
    if s.inKeyStore (f * 4096) || (keyCheck (s.byte (s.keyAddr (f * 4096))).toNat .P false (s.get F.KEY_HOSTKEY_KEY) kind).isSome then some f
    else s.hostFrame kind k (f + 1)

/-- The frame that refuses a host access to DRAM, while keys are enabled. -/
def State.hostRefused (s : State) (pa n : Nat) (kind : Kind) : Option Nat :=
  if s.flag F.KEY_CTL_ENABLE && n != 0 then s.hostFrame kind ((pa + n - 1) / 4096 + 1 - pa / 4096) (pa / 4096) else none

/-- A refused host access is recorded (R544). -/
def State.hostDenied (s : State) (write : Bool) (frame : Nat) : State :=
  (((s.put F.KEY_HOSTREC_VALID true).put F.KEY_HOSTREC_WRITE write).set F.KEY_HOSTREC_FRAME frame).event 9 2

/-- A host access to DRAM meets a poison token. -/
def State.hostPoison (s : State) (pa n : Nat) : Bool :=
  s.fenced 10 || (s.flag F.KEY_CTL_ENABLE && s.fenced 9) || (s.poison pa n).isSome

/-- The physical address of a BAR4 offset (R742); while the boot ROM waits for the host the window maps DRAM from 0 (R125). -/
def State.bar4Addr (s : State) (x : Nat) : Nat := if s.pwr.hostBoot then x else s.get F.HLK_BAR4MAP_BASE * 2 ^ 24 + x

/-- HOST_BAR4_READ of `n` dwords. -/
def State.bar4Read (s : State) (x n : Nat) : State :=
  let pa := s.bar4Addr x
  if !s.bar4Usable then s.answer 2 []
  else
    let s := s.linkActive
    if !s.inDram pa (4 * n) || s.hostPoison pa (4 * n) then s.completerAbort
    else match s.hostRefused pa (4 * n) .read with
      | some f => (s.hostDenied false f).completerAbort
      | none => (s.eccFix pa (4 * n)).answer 0 ((List.range n).map fun i => ofLe (s.bytes (pa + 4 * i) 4))

/-- HOST_BAR4_WRITE of bytes. -/
def State.bar4Write (s : State) (x : Nat) (l : List Byte) : State :=
  let pa := s.bar4Addr x
  if !s.bar4Usable then s
  else
    let s := s.linkActive
    if !s.inDram pa l.length || s.hostPoison pa l.length then s.aerSet 2
    else match s.hostRefused pa l.length .write with
      | some f => (s.hostDenied true f).aerSet 2
      | none => s.putBytes pa l

/-- A write that reaches the start word of the boot mailbox is seen by the boot ROM (R125). -/
def State.mailboxSeen (s : State) (x : Nat) (l : List Byte) : State :=
  if s.pwr.hostBoot && decide (x ≤ 0xFFFFC4) && decide (0xFFFFC8 ≤ x + l.length) then s.hostMailbox (ofLe (s.bytes 0xFFFFC4 4)) else s

end Sys2Proof.Machine
end

