-- ==== Sys2Proof/Machine/DebugCommands.lean ====
section
/-! DEFINITION. Commands of the JTAG port (R786 to R792, R828). -/
namespace Sys2Proof.Machine

/-- EXTEST, and one scan: the levels at the balls, the cells shifted in (R786). -/
def execExtest (pins : BitVec 163) (cells : BitVec 489) (s : State) : Host.Outcome State Fault Refusal := finish (s.jtagScan 0 pins cells)
/-- IDCODE, and the word captured (R786, R787). -/
def execIdcode (s : State) : Host.Outcome State Fault Refusal := finish ((s.jtagIr 1).answer 0 [s.idcode])
/-- SAMPLE/PRELOAD, and one scan (R786). -/
def execSamplePreload (pins : BitVec 163) (cells : BitVec 489) (s : State) : Host.Outcome State Fault Refusal := finish (s.jtagScan 2 pins cells)
/-- JTAG_CLAMP (R786). -/
def execJtagClamp (s : State) : Host.Outcome State Fault Refusal := finish (s.jtagIr 3)
/-- HIGHZ (R786). -/
def execHighz (s : State) : Host.Outcome State Fault Refusal := finish (s.jtagIr 4)
/-- BYPASS (R786). -/
def execBypass (s : State) : Host.Outcome State Fault Refusal := finish (s.jtagIr 0x1F)
/-- DBGACC (R786, R789). -/
def execDbgacc (s : State) : Host.Outcome State Fault Refusal := finish (s.jtagIr 8)
/-- DEBUG_ACCESS: Update-DR of DBGACC (R789 to R791). -/
def execDebugAccess (r : BitVec 80) (s : State) : Host.Outcome State Fault Refusal := finish (s.debugAccess r)
/-- HALT of a core in a hall (R791, R792). -/
def execHalt (k : CoreId) (h : Hall) (s : State) : Host.Outcome State Fault Refusal := finish (s.debugCtl k h 1)
/-- RESUME (R791, R792). -/
def execResume (k : CoreId) (h : Hall) (s : State) : Host.Outcome State Fault Refusal := finish (s.debugCtl k h 2)
/-- STEP (R791, R792). -/
def execStep (k : CoreId) (h : Hall) (s : State) : Host.Outcome State Fault Refusal := finish (s.debugCtl k h 4)

end Sys2Proof.Machine
end

