-- ==== Sys2Proof/Machine/Decimal.lean ====
section
/-! DEFINITION. Decimal arithmetic: packed and zoned formats (R330 to R335), overflow and flags (R337 to R339), the classes 0x10 DSC.SS
(R341 to R346), 0x12 DSC.CVT (R347 to R349) and 0x11 DSC.ACC (R350 to R352). -/
namespace Sys2Proof.Machine

/-! ### Formats -/

/-- The nibbles of bytes, most significant first. -/
def nibbles (l : List Byte) : List Nat := l.flatMap fun b => [b.toNat / 16, b.toNat % 16]

/-- The first invalid nibble of a packed operand, from byte i on: cause and byte (R331, R335). -/
def scanPacked : Nat → List Byte → Option (Nat × Nat)
  | _, [] => none
  | i, [b] => if 9 < b.toNat / 16 then some (1, i) else if b.toNat % 16 < 10 then some (2, i) else none
  | i, b :: l => if 9 < b.toNat / 16 ∨ 9 < b.toNat % 16 then some (1, i) else scanPacked (i + 1) l

/-- The first invalid byte of a zoned source: a sign may stand in its first byte (R334). -/
def scanZoned (l : List Byte) : Option (Nat × Nat) :=
  let bad (i : Nat) (b : Byte) : Bool :=
    !(decide (0x30 ≤ b.toNat) && decide (b.toNat ≤ 0x39)) && !(i == 0 && (b == 0x2B#8 || b == 0x2D#8))
  ((List.range l.length).find? fun i => bad i (l.getD i 0)).map fun i => (3, i)

/-- A sign nibble that means minus (R331). -/
def minusSign (n : Nat) : Bool := n == 0xB || n == 0xD

/-- A magnitude with a sign; zero has none (R333). -/
def signed (neg : Bool) (m : Nat) : Int := if neg then -(m : Int) else m

/-- The value of a valid packed operand (R330). -/
def packedVal (l : List Byte) : Int :=
  let ns := nibbles l
  signed (minusSign (ns.getLastD 0)) (ns.dropLast.foldl (fun a d => a * 10 + d) 0)

/-- The value of a valid zoned source (R334). -/
def zonedVal (l : List Byte) : Int :=
  signed (l.headD 0 == 0x2D#8) (l.foldl (fun a b => if 0x30 ≤ b.toNat then a * 10 + (b.toNat - 0x30) else a) 0)

/-- The k low decimal digits of a number as nibbles. -/
def toBcd : Nat → Nat → Nat
  | 0, _ => 0
  | k + 1, x => toBcd k (x / 10) * 16 + x % 10

/-- A packed result as a number, with its preferred sign (R332). -/
def packNat (n : Nat) (v : Int) : Nat := toBcd (2 * n - 1) v.natAbs * 16 + (if v < 0 then 0xD else 0xC)

/-- A packed result of n bytes. -/
def packBytes (n : Nat) (v : Int) : List Byte := beBytes n (packNat n v)

/-- Zoned digits, n of them (R349). -/
def zoneBytes : Nat → Nat → List Byte
  | 0, _ => []
  | n + 1, x => zoneBytes n (x / 10) ++ [BitVec.ofNat 8 (0x30 + x % 10)]

/-- A true result in a field of k digits: what is stored, and overflow (R337). -/
def fitDigits (k : Nat) (v : Int) : Int × Bool := (signed (decide (v < 0)) (v.natAbs % 10 ^ k), decide (10 ^ k ≤ v.natAbs))

/-- The value of an accumulator (R262). -/
def accVal (a : Acc128) : Int := packedVal (beBytes 16 a.toNat)

/-- Division of a magnitude by 10^k, rounded as DSCALE's modes say (R346). -/
def scaleDown (mode k : Nat) (v : Int) : Int :=
  let d := 10 ^ k
  let q := v.natAbs / d
  let r := v.natAbs % d
  let up : Bool := match mode with
    | 0 => false
    | 1 => decide (d ≤ 2 * r)
    | 2 => decide (d < 2 * r) || (2 * r == d && q % 2 == 1)
    | 3 => decide (0 < v) && decide (0 < r)
    | _ => decide (v < 0) && decide (0 < r)
  signed (decide (v < 0)) (if up then q + 1 else q)

/-! ### Ends of a decimal instruction -/

/-- Decimal Data: operand number, cause, and the address of the byte (R335, R480). -/
def decimalData (opn : Nat) (va : Word) (e : Nat × Nat) : Exc := Exc.at 9 e.1 opn ((va.toNat + e.2) % 2 ^ 48)

/-- The flags of a result stored as `v`, and DO (R337, R338). -/
def Core.decFlags (q : Core) (n z v : Bool) : Core :=
  let q := q.setFlags ⟨n, z, false, v⟩
  if v then q.setDo else q

/-- After the result is written: the flags, then the overflow trap when DOT is 1 (R339). -/
def decEnd (s : State) (c : CoreId) (n z v : Bool) : State × IRes :=
  let dot := cswDot (s.core c).csw
  (s.updCore c fun q => q.decFlags n z v, if v && dot then .trapAfter (Exc.plain 0x0B 0 0) else .next)

/-- The pieces of a storage operand: no set-up access fits one (R352, R357). -/
def storagePieces (va : Word) (n : Nat) (k : Kind) : List Piece := splitPieces va.toNat n 4096 0 k

/-- Read a checked storage operand. -/
def readStorage (s : State) (c : CoreId) (ps : List Part) : State × (Exc ⊕ List Byte) :=
  match readParts s c ps with
  | (s, .poison seg) => (s, .inl (Exc.poison seg (partsPa ps)))
  | (s, .ok l) => (s, .inr l)

/-- The parts of a checked instruction that begin one operand's: dropping `k` and taking `n` of them. -/
def partsOf (ps : List Part) (k n : Nat) : List Part := (ps.drop k).take n

/-! ### Class 0x10 -/

/-- The operands of a storage-to-storage instruction, checked whole and read: operand 1, operand 2, and the parts to write (R342, R356). -/
def readBoth (s : State) (c : CoreId) (a b : Word) (n1 n2 : Nat) (store : Bool) : State × (Exc ⊕ (List Byte × List Byte × List Part)) :=
  let r1 := storagePieces a n1 .read
  let w1 := if store then storagePieces a n1 .write else []
  let r2 := if n2 = 0 then [] else storagePieces b n2 .read
  match checkAll s c (s.core c).ctx false (r1 ++ w1 ++ r2) with
  | (s, .inl e) => (s, .inl e)
  | (s, .inr ps) =>
    match readStorage s c (partsOf ps 0 r1.length) with
    | (s, .inl e) => (s, .inl e)
    | (s, .inr l1) =>
      match readStorage s c (partsOf ps (r1.length + w1.length) r2.length) with
      | (s, .inl e) => (s, .inl e)
      | (s, .inr l2) => (s, .inr (l1, l2, partsOf ps r1.length w1.length))

/-- Decimal Data of the two operands, operand 1 first (R335). -/
def dataCheck (a b : Word) (l1 l2 : List Byte) : Option Exc :=
  match scanPacked 0 l1 with
  | some e => some (decimalData 1 a e)
  | none => (scanPacked 0 l2).map (decimalData 2 b)

/-- An instruction that replaces operand 1 by `f` of the operands; `none` is a divisor of zero (R341 to R345). -/
def decimalSS (s : State) (c : CoreId) (ra rb : RegNo) (l1 l2 : Fin 32) (bad : Bool) (f : Int → Int → Option Int) : State :=
  run s c 0x10 fun s => illegalWhen bad s (
    let a := (s.core c).rd ra
    let b := (s.core c).rd rb
    let n := l1.val + 1
    match readBoth s c a b n (l2.val + 1) true with
    | (s, .inl e) => (s, .exc e)
    | (s, .inr (x, y, ps)) =>
      match dataCheck a b x y with
      | some e => (s, .exc e)
      | none =>
        match f (packedVal x) (packedVal y) with
        | none => (s, .exc (Exc.plain 0x0A 1 0))
        | some v =>
          let r := fitDigits (2 * n - 1) v
          decEnd (writeParts s c (s.core c).ctx ps (packBytes n r.1)) c (decide (r.1 < 0)) (r.1 == 0) r.2)

/-- The length relation of DMUL, DDIV and DREM fails (R341). -/
def badLengths (l1 l2 : Fin 32) : Bool := decide (l1.val ≤ l2.val) || decide (15 < l2.val)

/-- DADD (R341). -/
def execDadd (c : CoreId) (ra rb : RegNo) (l1 l2 : Fin 32) (s : State) : Host.Outcome State Fault Refusal :=
  finish (decimalSS s c ra rb l1 l2 false fun x y => some (x + y))
/-- DSUB (R341). -/
def execDsub (c : CoreId) (ra rb : RegNo) (l1 l2 : Fin 32) (s : State) : Host.Outcome State Fault Refusal :=
  finish (decimalSS s c ra rb l1 l2 false fun x y => some (x - y))
/-- DMUL (R343). -/
def execDmul (c : CoreId) (ra rb : RegNo) (l1 l2 : Fin 32) (s : State) : Host.Outcome State Fault Refusal :=
  finish (decimalSS s c ra rb l1 l2 (badLengths l1 l2) fun x y => some (x * y))
/-- DDIV: truncated toward zero (R344, R345). -/
def execDdiv (c : CoreId) (ra rb : RegNo) (l1 l2 : Fin 32) (s : State) : Host.Outcome State Fault Refusal :=
  finish (decimalSS s c ra rb l1 l2 (badLengths l1 l2) fun x y => if y = 0 then none else some (x.tdiv y))
/-- DREM: the sign of the dividend (R344, R345). -/
def execDrem (c : CoreId) (ra rb : RegNo) (l1 l2 : Fin 32) (s : State) : Host.Outcome State Fault Refusal :=
  finish (decimalSS s c ra rb l1 l2 (badLengths l1 l2) fun x y => if y = 0 then none else some (x.tmod y))

/-- DCMP: no store; C and V are 0 (R338, R341). -/
def execDcmp (c : CoreId) (ra rb : RegNo) (l1 l2 : Fin 32) (s : State) : Host.Outcome State Fault Refusal :=
  finish (run s c 0x10 fun s =>
    let a := (s.core c).rd ra
    let b := (s.core c).rd rb
    match readBoth s c a b (l1.val + 1) (l2.val + 1) false with
    | (s, .inl e) => (s, .exc e)
    | (s, .inr (x, y, _)) =>
      match dataCheck a b x y with
      | some e => (s, .exc e)
      | none =>
        let x := packedVal x
        let y := packedVal y
        (s.updCore c fun q => q.setFlags ⟨decide (x < y), x == y, false, false⟩, .next))

/-- The scale of DSCALE: Wb[5:0] in two's complement (R346). -/
def scaleOf (b : Word) : Int := signedOf 6 (b.toNat % 64)

/-- DSCALE: mode 0 to 4 in L2 (R341, R346). -/
def execDscale (c : CoreId) (ra rb : RegNo) (l1 l2 : Fin 32) (s : State) : Host.Outcome State Fault Refusal :=
  finish (run s c 0x10 fun s => illegalWhen (decide (4 < l2.val)) s (
    let a := (s.core c).rd ra
    let k := scaleOf ((s.core c).rd rb)
    let n := l1.val + 1
    match readBoth s c a 0 n 0 true with
    | (s, .inl e) => (s, .exc e)
    | (s, .inr (x, _, ps)) =>
      match scanPacked 0 x with
      | some e => (s, .exc (decimalData 1 a e))
      | none =>
        let v := packedVal x
        let v := if 0 ≤ k then v * 10 ^ k.toNat else scaleDown l2.val (-k).toNat v
        let r := fitDigits (2 * n - 1) v
        decEnd (writeParts s c (s.core c).ctx ps (packBytes n r.1)) c (decide (r.1 < 0)) (r.1 == 0) r.2))

/-! ### Class 0x12 -/

/-- Read a source operand at Wb and write nothing: operand 2 (R347). -/
def readSource (s : State) (c : CoreId) (b : Word) (n : Nat) : State × (Exc ⊕ List Byte) :=
  match checkAll s c (s.core c).ctx false (storagePieces b n .read) with
  | (s, .inl e) => (s, .inl e)
  | (s, .inr ps) => readStorage s c ps

/-- A decimal value as signed binary of w bits: what is stored, and overflow (R348). -/
def fitBinary (w : Nat) (v : Int) : Nat × Bool := (ofInt w v, decide (v < -(2 ^ (w - 1) : Int)) || decide ((2 ^ (w - 1) : Int) ≤ v))

/-- Packed to binary: `put` writes the register or pair (R347, R348). -/
def toBinary (s : State) (c : CoreId) (rb : RegNo) (l2 : Fin 32) (bad : Bool) (w : Nat) (put : Core → Nat → Core) : State :=
  run s c 0x12 fun s => illegalWhen bad s (
    let b := (s.core c).rd rb
    match readSource s c b (l2.val + 1) with
    | (s, .inl e) => (s, .exc e)
    | (s, .inr l) =>
      match scanPacked 0 l with
      | some e => (s, .exc (decimalData 2 b e))
      | none =>
        let r := fitBinary w (packedVal l)
        decEnd (s.updCore c fun q => put q r.1) c (r.1.testBit (w - 1)) (r.1 == 0) r.2)

/-- DTOB: L1 must be zero (R347). -/
def execDtob (c : CoreId) (ra rb : RegNo) (l1 l2 : Fin 32) (s : State) : Host.Outcome State Fault Refusal :=
  finish (toBinary s c rb l2 (l1 != 0) 48 fun q v => q.wr ra (BitVec.ofNat 48 v))
/-- DTOB.P: RA names a pair (R254, R347). -/
def execDtobP (c : CoreId) (ra rb : RegNo) (l1 l2 : Fin 32) (s : State) : Host.Outcome State Fault Refusal :=
  finish (toBinary s c rb l2 (l1 != 0 || !pairOk ra) 96 fun q v => q.wrPair ra v)

/-- Write a checked result field at Wa, n bytes. -/
def writeField (s : State) (c : CoreId) (a : Word) (l : List Byte) : State × Option Exc :=
  match checkAll s c (s.core c).ctx false (storagePieces a l.length .write) with
  | (s, .inl e) => (s, some e)
  | (s, .inr ps) => (writeParts s c (s.core c).ctx ps l, none)

/-- Binary to packed at Wa (R347). -/
def fromBinary (s : State) (c : CoreId) (ra : RegNo) (l1 : Fin 32) (bad : Bool) (get : Core → Int) : State :=
  run s c 0x12 fun s => illegalWhen bad s (
    let n := l1.val + 1
    let r := fitDigits (2 * n - 1) (get (s.core c))
    match writeField s c ((s.core c).rd ra) (packBytes n r.1) with
    | (s, some e) => (s, .exc e)
    | (s, none) => decEnd s c (decide (r.1 < 0)) (r.1 == 0) r.2)

/-- BTOD: L2 must be zero (R347). -/
def execBtod (c : CoreId) (ra rb : RegNo) (l1 l2 : Fin 32) (s : State) : Host.Outcome State Fault Refusal :=
  finish (fromBinary s c ra l1 (l2 != 0) fun q => (q.rd rb).toInt)
/-- BTOD.P: RB names a pair (R254, R347). -/
def execBtodP (c : CoreId) (ra rb : RegNo) (l1 l2 : Fin 32) (s : State) : Host.Outcome State Fault Refusal :=
  finish (fromBinary s c ra l1 (l2 != 0 || !pairOk rb) fun q => signedOf 96 (q.rdPair rb))

/-- A conversion between packed and zoned fields, both in storage, checked whole (R347, R356): `scan` and `val` read the source, `form` gives
the bytes, N, Z and overflow. -/
def convert (s : State) (c : CoreId) (ra rb : RegNo) (l1 l2 : Fin 32) (scan : List Byte → Option (Nat × Nat)) (val : List Byte → Int)
    (form : Nat → Int → List Byte × Bool × Bool × Bool) : State :=
  run s c 0x12 fun s =>
    let a := (s.core c).rd ra
    let b := (s.core c).rd rb
    let n := l1.val + 1
    let w := storagePieces a n .write
    let r := storagePieces b (l2.val + 1) .read
    match checkAll s c (s.core c).ctx false (w ++ r) with
    | (s, .inl e) => (s, .exc e)
    | (s, .inr ps) =>
      match readStorage s c (ps.drop w.length) with
      | (s, .inl e) => (s, .exc e)
      | (s, .inr l) =>
        match scan l with
        | some e => (s, .exc (decimalData 2 b e))
        | none =>
          let (out, ng, z, v) := form n (val l)
          decEnd (writeParts s c (s.core c).ctx (ps.take w.length) out) c ng z v

/-- ZTOP (R347, R349). -/
def execZtop (c : CoreId) (ra rb : RegNo) (l1 l2 : Fin 32) (s : State) : Host.Outcome State Fault Refusal :=
  finish (convert s c ra rb l1 l2 scanZoned zonedVal fun n v =>
    let r := fitDigits (2 * n - 1) v
    (packBytes n r.1, decide (r.1 < 0), r.1 == 0, r.2))
/-- PTOZ: the magnitude; N carries the source's sign (R347, R349). -/
def execPtoz (c : CoreId) (ra rb : RegNo) (l1 l2 : Fin 32) (s : State) : Host.Outcome State Fault Refusal :=
  finish (convert s c ra rb l1 l2 (scanPacked 0) packedVal fun n v =>
    let r := fitDigits n v
    (zoneBytes n r.1.natAbs, decide (v < 0), r.1 == 0, r.2))
/-- PTOZS: a sign byte, then n - 1 digits (R337, R347, R349). -/
def execPtozs (c : CoreId) (ra rb : RegNo) (l1 l2 : Fin 32) (s : State) : Host.Outcome State Fault Refusal :=
  finish (convert s c ra rb l1 l2 (scanPacked 0) packedVal fun n v =>
    let r := fitDigits (n - 1) v
    ((if r.1 < 0 then 0x2D#8 else 0x2B#8) :: zoneBytes (n - 1) r.1.natAbs, decide (r.1 < 0), r.1 == 0, r.2))

/-! ### Class 0x11 -/

/-- A DA field names DA0 to DA7 (R350). -/
def badAcc (r : RegNo) : Bool := decide (7 < r.val)

/-- Accumulator of a field. -/
def Core.rdAcc (q : Core) (r : RegNo) : Int := accVal (q.da[Fin.ofNat 8 r.val])
def Core.wrAcc (q : Core) (r : RegNo) (v : Int) : Core := { q with da := q.da.set (Fin.ofNat 8 r.val) (BitVec.ofNat 128 (packNat 16 v)) }

/-- DAd := a decimal value, cut to 31 digits (R337, R338, R350). -/
def accOp (s : State) (c : CoreId) (rd : RegNo) (bad : Bool) (f : Core → Int) : State :=
  run s c 0x11 fun s => illegalWhen (bad || badAcc rd) s (
    let r := fitDigits 31 (f (s.core c))
    decEnd (s.updCore c fun q => q.wrAcc rd r.1) c (decide (r.1 < 0)) (r.1 == 0) r.2)

/-- DAADD (R350). -/
def execDaadd (c : CoreId) (rd ra rb : RegNo) (s : State) : Host.Outcome State Fault Refusal :=
  finish (accOp s c rd (badAcc ra || badAcc rb) fun q => q.rdAcc ra + q.rdAcc rb)
/-- DASUB (R350). -/
def execDasub (c : CoreId) (rd ra rb : RegNo) (s : State) : Host.Outcome State Fault Refusal :=
  finish (accOp s c rd (badAcc ra || badAcc rb) fun q => q.rdAcc ra - q.rdAcc rb)
/-- DACMP: RD must be zero; C and V are 0 (R338, R350). -/
def execDacmp (c : CoreId) (rd ra rb : RegNo) (s : State) : Host.Outcome State Fault Refusal :=
  finish (run s c 0x11 fun s => illegalWhen (rd != 0 || badAcc ra || badAcc rb) s
    (s.updCore c fun q => q.setFlags ⟨decide (q.rdAcc ra < q.rdAcc rb), q.rdAcc ra == q.rdAcc rb, false, false⟩, .next))
/-- DAMOV: RB must be zero (R350). -/
def execDamov (c : CoreId) (rd ra rb : RegNo) (s : State) : Host.Outcome State Fault Refusal :=
  finish (accOp s c rd (badAcc ra || rb != 0) fun q => q.rdAcc ra)
/-- DANEG: RB must be zero (R350). -/
def execDaneg (c : CoreId) (rd ra rb : RegNo) (s : State) : Host.Outcome State Fault Refusal :=
  finish (accOp s c rd (badAcc ra || rb != 0) fun q => -(q.rdAcc ra))
/-- DAMUL (R350). -/
def execDamul (c : CoreId) (rd ra rb : RegNo) (s : State) : Host.Outcome State Fault Refusal :=
  finish (accOp s c rd (badAcc ra || badAcc rb) fun q => q.rdAcc ra * q.rdAcc rb)
/-- DASHL by k digits (R350). -/
def execDashl (c : CoreId) (rd ra : RegNo) (k : Fin 32) (s : State) : Host.Outcome State Fault Refusal :=
  finish (accOp s c rd (badAcc ra) fun q => q.rdAcc ra * 10 ^ k.val)
/-- DASHR: HALF_AWAY (R350). -/
def execDashr (c : CoreId) (rd ra : RegNo) (k : Fin 32) (s : State) : Host.Outcome State Fault Refusal :=
  finish (accOp s c rd (badAcc ra) fun q => scaleDown 1 k.val (q.rdAcc ra))
/-- DASHT: truncating (R350). -/
def execDasht (c : CoreId) (rd ra : RegNo) (k : Fin 32) (s : State) : Host.Outcome State Fault Refusal :=
  finish (accOp s c rd (badAcc ra) fun q => scaleDown 0 k.val (q.rdAcc ra))
/-- DAFROMW: RB must be zero (R350). -/
def execDafromw (c : CoreId) (rd ra rb : RegNo) (s : State) : Host.Outcome State Fault Refusal :=
  finish (accOp s c rd (rb != 0) fun q => (q.rd ra).toInt)

/-- An accumulator as signed binary of w bits (R348, R350). -/
def accBinary (s : State) (c : CoreId) (ra rb : RegNo) (bad : Bool) (w : Nat) (put : Core → Nat → Core) : State :=
  run s c 0x11 fun s => illegalWhen (bad || badAcc ra || rb != 0) s (
    let r := fitBinary w ((s.core c).rdAcc ra)
    decEnd (s.updCore c fun q => put q r.1) c (r.1.testBit (w - 1)) (r.1 == 0) r.2)

/-- DATOW (R350). -/
def execDatow (c : CoreId) (rd ra rb : RegNo) (s : State) : Host.Outcome State Fault Refusal :=
  finish (accBinary s c ra rb false 48 fun q v => q.wr rd (BitVec.ofNat 48 v))
/-- DATOWP: RD names a pair (R254, R350). -/
def execDatowp (c : CoreId) (rd ra rb : RegNo) (s : State) : Host.Outcome State Fault Refusal :=
  finish (accBinary s c ra rb (!pairOk rd) 96 fun q v => q.wrPair rd v)

/-- DALD: length - 1 is 0 to 15; Decimal Data names operand 1 (R331, R350, R352). -/
def execDald (c : CoreId) (rd ra : RegNo) (k : Fin 32) (s : State) : Host.Outcome State Fault Refusal :=
  finish (run s c 0x11 fun s => illegalWhen (badAcc rd || decide (15 < k.val)) s (
    let a := (s.core c).rd ra
    match readSource s c a (k.val + 1) with
    | (s, .inl e) => (s, .exc e)
    | (s, .inr l) =>
      match scanPacked 0 l with
      | some e => (s, .exc (decimalData 1 a e))
      | none =>
        let v := packedVal l
        decEnd (s.updCore c fun q => q.wrAcc rd v) c (decide (v < 0)) (v == 0) false))
/-- DAST (R350, R352). -/
def execDast (c : CoreId) (rd ra : RegNo) (k : Fin 32) (s : State) : Host.Outcome State Fault Refusal :=
  finish (run s c 0x11 fun s => illegalWhen (badAcc rd || decide (15 < k.val)) s (
    let n := k.val + 1
    let r := fitDigits (2 * n - 1) ((s.core c).rdAcc rd)
    match writeField s c ((s.core c).rd ra) (packBytes n r.1) with
    | (s, some e) => (s, .exc e)
    | (s, none) => decEnd s c (decide (r.1 < 0)) (r.1 == 0) r.2))

end Sys2Proof.Machine
end

