-- ==== Sys2Proof/Machine/Edit.lean ====
section
/-! DEFINITION. EDIT and EDITM, class 0x13 (R359 to R380). -/
namespace Sys2Proof.Machine

/-! ### Pattern elements (R365 to R367) -/

/-- The elements of a pattern. -/
inductive Elem
  | dig
  | digm
  | sep
  | neg
  | fin
  | flt (sym : List Byte)
  | lit (l : List Byte)
  | esc (l : List Byte)
deriving DecidableEq, Repr

/-- The length of the sequence that a byte begins: a UTF-8 lead byte or a single byte (R365, R366). -/
def seqLen (b : Byte) : Nat :=
  let n := b.toNat
  if 0xC2 ≤ n ∧ n ≤ 0xDF then 2 else if 0xE0 ≤ n ∧ n ≤ 0xEF then 3 else if 0xF0 ≤ n ∧ n ≤ 0xF4 then 4 else 1

/-- A symbol or literal at the head of the bytes, with what follows it; none where it runs past the end (R367). -/
def takeSeq (l : List Byte) : Option (List Byte × List Byte) :=
  match l with
  | [] => none
  | b :: _ => if l.length < seqLen b then none else some (l.take (seqLen b), l.drop (seqLen b))

/-- The elements of a pattern; `fuel` is its length. -/
def parsePattern : Nat → List Byte → List Elem
  | 0, _ => []
  | _, [] => []
  | k + 1, b :: l =>
    match b.toNat with
    | 1 => .dig :: parsePattern k l
    | 2 => .digm :: parsePattern k l
    | 3 => .sep :: parsePattern k l
    | 4 => .neg :: parsePattern k l
    | 5 => .fin :: parsePattern k l
    | 6 => match takeSeq l with
      | some (x, r) => .flt x :: parsePattern k r
      | none => []
    | 7 => match takeSeq l with
      | some (x, r) => .esc x :: parsePattern k r
      | none => []
    | _ => match takeSeq (b :: l) with
      | some (x, r) => .lit x :: parsePattern k r
      | none => []

/-- The segments between SEP elements (R368). -/
def segments : List Elem → List (List Elem)
  | [] => [[]]
  | .sep :: l => [] :: segments l
  | e :: l =>
    match segments l with
    | [] => [[e]]
    | x :: r => (e :: x) :: r

/-- The digit positions of a segment. -/
def digitCount (l : List Elem) : Nat := (l.filter fun e => e == .dig || e == .digm).length

/-- The bytes of a segment's source field (R368, R380). -/
def fieldLen (l : List Elem) : Nat := min 32 (digitCount l / 2 + 1)

/-! ### Output (R371 to R375) -/

/-- An edit under way: the output, significance, an open run, the pending symbol with the index of the F it would replace, the index of the
field's first significant byte, and the digit positions passed. -/
structure EditSt where
  out : List Byte
  sig : Bool
  run : Bool
  sym : Option (List Byte × Nat)
  first : Option Nat
  pos : Nat
deriving DecidableEq, Repr

/-- Write the fill byte; after a float slot it is the one a symbol would replace (R375). -/
def EditSt.fill (e : EditSt) (f : Byte) : EditSt :=
  { e with out := e.out ++ [f], sym := e.sym.map fun x => (x.1, e.out.length) }

/-- Write bytes as themselves. -/
def EditSt.put (e : EditSt) (l : List Byte) : EditSt := { e with out := e.out ++ l }

/-- Write a significant digit: the first of a field brings in a pending symbol (R373, R375). -/
def EditSt.digit (e : EditSt) (d : Nat) : EditSt :=
  let e : EditSt :=
    match e.first, e.sym with
    | none, some (y, i) => { e with out := e.out.take i ++ y ++ e.out.drop (i + 1), sym := none }
    | _, _ => e
  { e with out := e.out ++ [BitVec.ofNat 8 (0x30 + d)], sig := true, first := e.first.orElse fun _ => some e.out.length }

/-- A literal inside a run (R371). -/
def EditSt.runLit (e : EditSt) (f : Byte) (ng : Bool) (l : List Byte) : EditSt := if ng then e.put l else e.fill f

/-- One element of a field; `dg` gives the digit of a position, `ng` the field's sign (R371, R372, R374). -/
def EditSt.step (f : Byte) (dg : Nat → Nat) (ng : Bool) (e : EditSt) (x : Elem) : EditSt :=
  match x with
  | .dig =>
    let d := dg e.pos
    let e' : EditSt := if e.sig || d != 0 then e.digit d else e.fill f
    { e' with pos := e.pos + 1 }
  | .digm => { e.digit (dg e.pos) with pos := e.pos + 1 }
  | .sep => e
  | .neg => { e with run := true }
  | .fin => { e with run := false }
  | .flt y => if e.sig then e.put y else { e.fill f with sym := some (y, e.out.length) }
  | .lit l => if e.run then e.runLit f ng l else if e.sig then e.put l else e.fill f
  | .esc l => if e.run then e.runLit f ng l else e.put l

/-- The digit of position i of a segment of d positions: digits are aligned to the right (R369). -/
def fieldDigit (src : List Byte) (d i : Nat) : Nat :=
  let ns := (nibbles src).dropLast
  let r := d - 1 - i
  if r < ns.length then ns.getD (ns.length - 1 - r) 0 else 0

/-- An edit's outcome: output, index of the mark if any field had one, sign and zero of the last field. -/
structure EditRes where
  out : List Byte
  mark : Option Nat
  neg : Bool
  zero : Bool
deriving DecidableEq, Repr

/-- Edit the segments in order, each from its field; SEP writes one F between them (R365). -/
def editAll (f : Byte) : List (List Elem) → List Byte → EditRes → EditRes
  | [], _, r => r
  | g :: gs, src, r =>
    let fld := src.take (fieldLen g)
    let v := packedVal fld
    let e := g.foldl (EditSt.step f (fieldDigit fld (digitCount g)) (decide (v < 0))) ⟨r.out, false, false, none, none, 0⟩
    let out := if gs.isEmpty then e.out else e.out ++ [f]
    editAll f gs (src.drop (fieldLen g)) ⟨out, e.first.orElse fun _ => r.mark, decide (v < 0), v == 0⟩

/-- The first invalid nibble of the source fields: cause and byte from the source address (R370). -/
def scanFields : Nat → List (List Elem) → List Byte → Option (Nat × Nat)
  | _, [], _ => none
  | i, g :: gs, src =>
    match scanPacked i (src.take (fieldLen g)) with
    | some e => some e
    | none => scanFields (i + fieldLen g) gs (src.drop (fieldLen g))

/-! ### The instructions -/

/-- RD, RA and RX are distinct and none is W0 (R361, R364). -/
def badEdit (rd ra rx : RegNo) : Bool := rd == 0 || ra == 0 || rx == 0 || rd == ra || rd == rx || ra == rx

/-- EDIT, or with `m` EDITM: pattern, source and output are checked before a byte is written, and Decimal Data comes after every access check
(R370, R376 to R379). -/
def editRun (s : State) (c : CoreId) (rd ra rb rx : RegNo) (m : Bool) : State :=
  run s c 0x13 fun s => illegalWhen (badEdit rd ra rx) s (
    let q := s.core c
    let x := (q.rd rx).toNat
    let lp := x % 256 + 1
    let a := q.rd ra
    match readSource s c (q.rd rb) lp with
    | (s, .inl e) => (s, .exc e)
    | (s, .inr pat) =>
      let gs := segments (parsePattern lp pat)
      let n := (gs.map fieldLen).sum
      match readSource s c a n with
      | (s, .inl e) => (s, .exc e)
      | (s, .inr src) =>
        let r := editAll (BitVec.ofNat 8 (x / 256)) gs src ⟨[], none, false, false⟩
        match checkAll s c q.ctx false (if r.out.isEmpty then [] else storagePieces (q.rd rd) r.out.length .write) with
        | (s, .inl e) => (s, .exc e)
        | (s, .inr ps) =>
          match scanFields 0 gs src with
          | some e => (s, .exc (decimalData 1 a e))
          | none =>
            let s := writeParts s c q.ctx ps r.out
            let d := q.rd rd
            let fin := d + BitVec.ofNat 48 r.out.length
            let mark := match r.mark with
              | some i => d + BitVec.ofNat 48 i
              | none => fin
            (s.updCore c fun q =>
              let q := (q.wr rd fin).wr ra (a + BitVec.ofNat 48 n)
              let q := if m then q.wr rx mark else q
              q.setFlags ⟨r.neg, r.zero, m && r.mark.isSome, false⟩, .next))

/-- EDIT (R364, R377). -/
def execEdit (c : CoreId) (rd ra rb rx : RegNo) (s : State) : Host.Outcome State Fault Refusal := finish (editRun s c rd ra rb rx false)
/-- EDITM (R364, R378). -/
def execEditm (c : CoreId) (rd ra rb rx : RegNo) (s : State) : Host.Outcome State Fault Refusal := finish (editRun s c rd ra rb rx true)

end Sys2Proof.Machine
end

