-- ==== Sys2Proof/Machine/FaultCommands.lean ====
section
/-! DEFINITION. Commands of fault recovery: unfences (R800, R801), lease locks (R802 to R814), the device watchdog (R815 to R818). -/
namespace Sys2Proof.Machine

/-- UNFENCE of a segment (R800). -/
def execUnfence (src : Src) (seg : Fin 16) (s : State) : Host.Outcome State Fault Refusal :=
  finish (s.srcWrite src F.FLT_UNFENCE_GO.off (2 ^ 31 + seg.val))
/-- UNFENCED (R801). -/
def execUnfenced (seg : Fin 16) (s : State) : Host.Outcome State Fault Refusal := finish (s.unfenced seg.val)
/-- ACQUIRE (R806). -/
def execAcquire (src : Src) (n : Fin 64) (ticket : Half) (s : State) : Host.Outcome State Fault Refusal :=
  finish (s.srcWrite src (F.LL_CTL_OP.ix n.val).off (1 * 2 ^ 28 + ticket.toNat))
/-- RENEW (R806). -/
def execRenew (src : Src) (n : Fin 64) (ticket : Half) (s : State) : Host.Outcome State Fault Refusal :=
  finish (s.srcWrite src (F.LL_CTL_OP.ix n.val).off (2 * 2 ^ 28 + ticket.toNat))
/-- LOCK_RELEASE (R806). -/
def execLockRelease (src : Src) (n : Fin 64) (ticket : Half) (s : State) : Host.Outcome State Fault Refusal :=
  finish (s.srcWrite src (F.LL_CTL_OP.ix n.val).off (3 * 2 ^ 28 + ticket.toNat))
/-- REVOKE (R802, R805, R806). -/
def execRevoke (src : Src) (n : Fin 64) (gen : Byte) (s : State) : Host.Outcome State Fault Refusal :=
  finish (s.srcWrite src (F.LL_CTL_OP.ix n.val).off (4 * 2 ^ 28 + gen.toNat * 2 ^ 16))
/-- CLRTAINT (R806). -/
def execClrtaint (src : Src) (n : Fin 64) (ticket : Half) (s : State) : Host.Outcome State Fault Refusal :=
  finish (s.srcWrite src (F.LL_CTL_OP.ix n.val).off (5 * 2 ^ 28 + ticket.toNat))
/-- LEASE_LOCK_EXPIRY (R807). -/
def execLeaseLockExpiry (n : Fin 64) (s : State) : Host.Outcome State Fault Refusal := finish (s.llExpire n.val)
/-- WDD_KICK: both writes of the service sequence (R815). -/
def execWddKick (src : Src) (s : State) : Host.Outcome State Fault Refusal := finish ((s.srcWrite src 0x2A0204 0xA5A5).srcWrite src 0x2A0204 0x5A5A)
/-- WDD_EXPIRY (R817). -/
def execWddExpiry (s : State) : Host.Outcome State Fault Refusal := finish s.wddExpire
/-- WDD_GRACE_EXPIRY (R817). -/
def execWddGraceExpiry (s : State) : Host.Outcome State Fault Refusal := finish s.wddGrace

end Sys2Proof.Machine
end

