-- ==== Sys2Proof/Machine/FloatValue.lean ====
section
/-! DEFINITION. Binary floating-point values: the formats of IEEE 754-2019 (R249), exact values, rounding (R267, R396, R413), and the
operations on them with the NaN rules (R398 to R400, R417 to R420). Results are computed exactly on integers and rounded once. -/
namespace Sys2Proof.Machine

/-! ### Formats -/

/-- A format: fraction bits and exponent bits. -/
structure Fmt where
  frac : Nat
  expo : Nat
deriving DecidableEq, Repr

def binary64 : Fmt := ⟨52, 11⟩
def binary32 : Fmt := ⟨23, 8⟩

/-- P of an encoding: 0 binary64, 1 binary32 (R395). -/
def fmtOf (p : Bool) : Fmt := if p then binary32 else binary64

def Fmt.width (f : Fmt) : Nat := 1 + f.expo + f.frac
def Fmt.bias (f : Fmt) : Nat := 2 ^ (f.expo - 1) - 1
def Fmt.maxExp (f : Fmt) : Nat := 2 ^ f.expo - 1

/-- A value: a NaN with its sign and fraction field, an infinity, or sign, magnitude m and exponent e for m × 2^e. -/
inductive FVal
  | nan (neg : Bool) (frac : Nat)
  | inf (neg : Bool)
  | fin (neg : Bool) (m : Nat) (e : Int)
deriving DecidableEq, Repr

/-- The sign of an encoding. -/
def Fmt.sign (f : Fmt) (b : Nat) : Bool := b.testBit (f.width - 1)
def Fmt.expField (f : Fmt) (b : Nat) : Nat := b / 2 ^ f.frac % 2 ^ f.expo
def Fmt.fracField (f : Fmt) (b : Nat) : Nat := b % 2 ^ f.frac

/-- A value is subnormal: non-zero with an exponent field of zero (R413). -/
def Fmt.subnormal (f : Fmt) (b : Nat) : Bool := f.expField b == 0 && f.fracField b != 0

/-- Read an encoding. -/
def Fmt.decode (f : Fmt) (b : Nat) : FVal :=
  let s := f.sign b
  let x := f.expField b
  let m := f.fracField b
  if x = f.maxExp then (if m = 0 then .inf s else .nan s m)
  else if x = 0 then .fin s m (1 - f.bias - f.frac : Int)
  else .fin s (m + 2 ^ f.frac) ((x : Int) - f.bias - f.frac)

/-- Assemble an encoding. -/
def Fmt.pack (f : Fmt) (neg : Bool) (x m : Nat) : Nat := ofBool neg * 2 ^ (f.width - 1) + x * 2 ^ f.frac + m

def Fmt.zero (f : Fmt) (neg : Bool) : Nat := f.pack neg 0 0
def Fmt.infinity (f : Fmt) (neg : Bool) : Nat := f.pack neg f.maxExp 0
/-- The largest finite magnitude. -/
def Fmt.largest (f : Fmt) (neg : Bool) : Nat := f.pack neg (f.maxExp - 1) (2 ^ f.frac - 1)
/-- The default NaN (R418). -/
def Fmt.defaultNan (f : Fmt) : Nat := f.pack false f.maxExp (2 ^ (f.frac - 1))
/-- A NaN with its quiet bit set (R417). -/
def Fmt.quiet (f : Fmt) (neg : Bool) (m : Nat) : Nat := f.pack neg f.maxExp (m ||| 2 ^ (f.frac - 1))

/-- A NaN's fraction is that of a signalling NaN. -/
def Fmt.signalling (f : Fmt) (m : Nat) : Bool := !m.testBit (f.frac - 1)

/-! ### Rounding -/

/-- The flags NV, DZ, OF, UF, NX as FCSW[4:0] holds them (R266). -/
def fNV : Nat := 16
def fDZ : Nat := 8
def fOF : Nat := 4
def fUF : Nat := 2
def fNX : Nat := 1

/-- An operation's result: encoding, flags, and whether it is subnormal under R413 before any flush. -/
structure FRes where
  bits : Nat
  flags : Nat
  sub : Bool
deriving DecidableEq, Repr

/-- The number of significant bits. -/
def bitLen (m : Nat) : Nat := if m = 0 then 0 else Nat.log2 m + 1

/-- Whether the discarded part r of 2^k rounds the magnitude q up (R267): 0 RNE, 1 RTZ, 2 RUP, 3 RDN, 4 RNA. -/
def roundUp (rm : Nat) (neg : Bool) (q r k : Nat) : Bool :=
  match rm with
  | 0 => decide (2 ^ k < 2 * r) || (2 * r == 2 ^ k && q % 2 == 1)
  | 1 => false
  | 2 => !neg && r != 0
  | 3 => neg && r != 0
  | _ => decide (2 ^ k ≤ 2 * r)

/-- The result on overflow. -/
def Fmt.overflow (f : Fmt) (rm : Nat) (neg : Bool) : Nat :=
  match rm with
  | 1 => f.largest neg
  | 2 => if neg then f.largest true else f.infinity false
  | 3 => if neg then f.infinity true else f.largest false
  | _ => f.infinity neg

/-- Round m × 2^e of a sign, m non-zero, to a format, with an unbounded exponent first (R396, R413). A subnormal result is given as the zero
that FLUSH stores. -/
def Fmt.round (f : Fmt) (rm : Nat) (neg : Bool) (m : Nat) (e : Int) : FRes :=
  let p := f.frac + 1
  let l := bitLen m
  let k := l - p
  let m := m * 2 ^ (p - l)
  let e : Int := e - (p - l : Nat) + k
  let q := m / 2 ^ k
  let r := m % 2 ^ k
  let q := if roundUp rm neg q r k then q + 1 else q
  let (q, e) := if q = 2 ^ p then (q / 2, e + 1) else (q, e)
  let x := e + f.frac + f.bias
  if x ≤ 0 then ⟨f.zero neg, 0, true⟩
  else if (f.maxExp : Int) ≤ x then ⟨f.overflow rm neg, fOF + fNX, false⟩
  else ⟨f.pack neg x.toNat (q - 2 ^ f.frac), if r = 0 then 0 else fNX, false⟩

/-- The sign of an exact zero sum of two terms (IEEE 754-2019, 6.3). -/
def zeroSign (rm : Nat) (a b : Bool) : Bool := if a = b then a else rm == 3

/-- Round a signed exact value; `z` is the sign of an exact zero. -/
def Fmt.roundInt (f : Fmt) (rm : Nat) (v : Int) (e : Int) (z : Bool) : FRes :=
  if v = 0 then ⟨f.zero z, 0, false⟩ else f.round rm (decide (v < 0)) v.natAbs e

def signedMag (neg : Bool) (m : Nat) : Int := if neg then -(m : Int) else m

/-! ### NaNs -/

/-- The first NaN of the operands in order, quieted (R417), and whether any of them is signalling. -/
def Fmt.nanOf (f : Fmt) : List FVal → Option Nat × Bool
  | [] => (none, false)
  | .nan s m :: l => (some (f.quiet s m), f.signalling m || (f.nanOf l).2)
  | _ :: l => f.nanOf l

/-- An operation on operands of which none is a NaN, else the NaN rules. -/
def Fmt.withNans (f : Fmt) (l : List FVal) (r : FRes) : FRes :=
  match f.nanOf l with
  | (some b, sn) => ⟨b, if sn then fNV else 0, false⟩
  | (none, _) => r

/-- An invalid operation without a NaN input (R418). -/
def Fmt.invalid (f : Fmt) : FRes := ⟨f.defaultNan, fNV, false⟩

/-- An exact result. -/
def exactly (b : Nat) : FRes := ⟨b, 0, false⟩

/-! ### Arithmetic -/

/-- The sum of two finite terms, exact, rounded once; `ng` negates the sum (R395). -/
def Fmt.sumFin (f : Fmt) (rm : Nat) (ng sa : Bool) (ma : Nat) (ea : Int) (sb : Bool) (mb : Nat) (eb : Int) : FRes :=
  let e := min ea eb
  let v := signedMag sa ma * 2 ^ (ea - e).toNat + signedMag sb mb * 2 ^ (eb - e).toNat
  let v := if ng then -v else v
  f.roundInt rm v e (ng != zeroSign rm sa sb)

/-- a + b, neither a NaN. -/
def Fmt.addVal (f : Fmt) (rm : Nat) (ng : Bool) (a b : FVal) : FRes :=
  match a, b with
  | .inf s, .inf t => if s = t then exactly (f.infinity (ng != s)) else f.invalid
  | .inf s, _ => exactly (f.infinity (ng != s))
  | _, .inf t => exactly (f.infinity (ng != t))
  | .fin s m e, .fin t n k => f.sumFin rm ng s m e t n k
  | _, _ => f.invalid

/-- The value with its sign changed. -/
def FVal.negate : FVal → FVal
  | .nan s m => .nan s m
  | .inf s => .inf (!s)
  | .fin s m e => .fin (!s) m e

/-- The exact product, none for 0 × ∞. -/
def mulVal (a b : FVal) : Option FVal :=
  match a, b with
  | .inf s, .inf t => some (.inf (s != t))
  | .inf s, .fin t m _ => if m = 0 then none else some (.inf (s != t))
  | .fin s m _, .inf t => if m = 0 then none else some (.inf (s != t))
  | .fin s m e, .fin t n k => some (.fin (s != t) (m * n) (e + k))
  | _, _ => none

/-- Round a product. -/
def Fmt.roundVal (f : Fmt) (rm : Nat) (v : FVal) : FRes :=
  match v with
  | .inf s => exactly (f.infinity s)
  | .fin s m e => f.roundInt rm (signedMag s m) e s
  | .nan s m => exactly (f.quiet s m)

def Fmt.add (f : Fmt) (rm : Nat) (a b : FVal) : FRes := f.withNans [a, b] (f.addVal rm false a b)
def Fmt.sub (f : Fmt) (rm : Nat) (a b : FVal) : FRes := f.withNans [a, b] (f.addVal rm false a b.negate)
def Fmt.mul (f : Fmt) (rm : Nat) (a b : FVal) : FRes :=
  f.withNans [a, b] (match mulVal a b with
    | some v => f.roundVal rm v
    | none => f.invalid)

/-- A quotient of finite values, the divisor not zero: enough bits and a sticky one. -/
def Fmt.divFin (f : Fmt) (rm : Nat) (s : Bool) (m : Nat) (e : Int) (n : Nat) (k : Int) : FRes :=
  let w := f.frac + 4 + bitLen n
  let a := m * 2 ^ w
  let q := a / n * 2 + (if a % n = 0 then 0 else 1)
  f.roundInt rm (signedMag s q) (e - k - w - 1) s

def Fmt.divVal (f : Fmt) (rm : Nat) (a b : FVal) : FRes :=
  match a, b with
  | .inf _, .inf _ => f.invalid
  | .inf s, .fin t _ _ => exactly (f.infinity (s != t))
  | .fin s _ _, .inf t => exactly (f.zero (s != t))
  | .fin s m e, .fin t n k =>
    if n = 0 then (if m = 0 then f.invalid else ⟨f.infinity (s != t), fDZ, false⟩) else f.divFin rm (s != t) m e n k
  | _, _ => f.invalid

def Fmt.div (f : Fmt) (rm : Nat) (a b : FVal) : FRes := f.withNans [a, b] (f.divVal rm a b)

/-- The integer square root, bit by bit from bit k down. -/
def isqrt : Nat → Nat → Nat → Nat
  | 0, r, _ => r
  | k + 1, r, m => let t := r + 2 ^ k; isqrt k (if t * t ≤ m then t else r) m

/-- The square root: √-0 is -0 (R396). -/
def Fmt.sqrtVal (f : Fmt) (rm : Nat) (a : FVal) : FRes :=
  match a with
  | .inf s => if s then f.invalid else exactly (f.infinity false)
  | .fin s m e =>
    if m = 0 then exactly (f.zero s)
    else if s then f.invalid
    else
      let w := 2 * f.frac + 8
      let (m, e) := if e % 2 = 0 then (m * 2 ^ w, e - w) else (m * 2 ^ (w + 1), e - w - 1)
      let r := isqrt (bitLen m / 2 + 1) 0 m
      f.round rm false (r * 2 + (if r * r = m then 0 else 1)) (e / 2 - 1)
  | .nan _ _ => f.invalid

def Fmt.sqrt (f : Fmt) (rm : Nat) (a : FVal) : FRes := f.withNans [a] (f.sqrtVal rm a)

/-- The FMA forms: the product negated (np), the addend negated (nc), the whole negated (ng); one rounding (R395, R396). 0 × ∞ raises NV
unless the addend is a quiet NaN (R419). -/
def Fmt.fma (f : Fmt) (rm : Nat) (np nc ng : Bool) (a b c : FVal) : FRes :=
  match f.nanOf [a, b], mulVal a b with
  | (none, _), none =>
    match c with
    | .nan s m => ⟨f.quiet s m, if f.signalling m then fNV else 0, false⟩
    | _ => f.invalid
  | _, v =>
    f.withNans [a, b, c] (match v with
      | some p => f.addVal rm ng (if np then p.negate else p) (if nc then c.negate else c)
      | none => f.invalid)

/-! ### Conversions, comparison, classes -/

/-- Between the formats (R395, R420). -/
def Fmt.convert (f g : Fmt) (rm : Nat) (a : FVal) : FRes :=
  match a with
  | .nan s m =>
    let sn := f.signalling m
    let m' := if g.frac < f.frac then m / 2 ^ (f.frac - g.frac) else m * 2 ^ (g.frac - f.frac)
    ⟨g.quiet s m', if sn then fNV else 0, false⟩
  | v => g.roundVal rm v

/-- An integer to a format. -/
def Fmt.ofInteger (f : Fmt) (rm : Nat) (i : Int) : FRes := f.roundInt rm i 0 false

/-- A finite value rounded to an integer, and whether it was exact. -/
def roundToInt (rm : Nat) (s : Bool) (m : Nat) (e : Int) : Int × Bool :=
  if 0 ≤ e then (signedMag s (m * 2 ^ e.toNat), true)
  else
    let k := (-e).toNat
    let q := m / 2 ^ k
    let r := m % 2 ^ k
    (signedMag s (if roundUp rm s q r k then q + 1 else q), r == 0)

/-- To a 48-bit integer, signed or unsigned (R398): the word and the flags. -/
def toInteger (rm : Nat) (u : Bool) (a : FVal) : Nat × Nat :=
  let hi : Int := if u then 2 ^ 48 - 1 else 2 ^ 47 - 1
  let lo : Int := if u then 0 else -(2 ^ 47)
  match a with
  | .nan _ _ => (ofInt 48 hi, fNV)
  | .inf s => (ofInt 48 (if s then lo else hi), fNV)
  | .fin s m e =>
    let (v, exact) := roundToInt rm s m e
    if hi < v then (ofInt 48 hi, fNV)
    else if v < lo then (ofInt 48 lo, fNV)
    else (ofInt 48 v, if exact then 0 else fNX)

/-- The relation of two values (R399): less, equal, greater, unordered. -/
inductive FRel
  | lt | eq | gt | un
deriving DecidableEq, Repr

/-- Compare integers. -/
def relOf (a b : Int) : FRel := if a < b then .lt else if a = b then .eq else .gt

def relVal (a b : FVal) : FRel :=
  match a, b with
  | .nan _ _, _ => .un
  | _, .nan _ _ => .un
  | .inf s, .inf t => if s = t then .eq else if s then .lt else .gt
  | .inf s, _ => if s then .lt else .gt
  | _, .inf t => if t then .gt else .lt
  | .fin s m e, .fin t n k =>
    let x := min e k
    relOf (signedMag s m * 2 ^ (e - x).toNat) (signedMag t n * 2 ^ (k - x).toNat)

/-- The flags a comparison raises: NV for a signalling NaN, with S for any NaN (R399). -/
def Fmt.cmpFlags (f : Fmt) (s : Bool) (a b : FVal) : Nat :=
  match f.nanOf [a, b] with
  | (some _, sn) => if s || sn then fNV else 0
  | (none, _) => 0

/-- The class mask (R400). -/
def Fmt.classOf (f : Fmt) (b : Nat) : Nat :=
  match f.decode b with
  | .inf s => if s then 1 else 128
  | .nan _ m => if f.signalling m then 256 else 512
  | .fin s m _ =>
    if m = 0 then (if s then 8 else 16)
    else if f.subnormal b then (if s then 4 else 32)
    else if s then 2 else 64

end Sys2Proof.Machine
end

