-- ==== Sys2Proof/Machine/Float.lean ====
section
/-! DEFINITION. The floating-point instructions: classes 0x18 FP.AR, 0x19 FP.FMA, 0x1A FP.CVT and 0x1B FP.MOV (R395 to R401), flags and traps
(R402 to R412) and the subnormal modes (R413 to R416). -/
namespace Sys2Proof.Machine

/-! ### Registers, modes and traps -/

/-- Write a binary32 or binary64 result: the upper half of a binary32 is zero (R261). -/
def Core.wrF (q : Core) (r : RegNo) (v : Nat) : Core := { q with f := q.f.set r.val (BitVec.ofNat 64 v) }

/-- An operand's encoding: a binary32 is read from bits [31:0] (R261). -/
def Core.rdF (q : Core) (f : Fmt) (r : RegNo) : Nat := q.f[r.val].toNat % 2 ^ f.width

/-- FCSW.RM and FCSW.SUBM (R266). -/
def Core.fcswRm (q : Core) : Nat := bitsOf q.fcsw.toNat 18 16
def Core.flush (q : Core) : Bool := q.fcsw.getLsbD 20

/-- The rounding attribute an RM field selects; 5 and 6 are illegal (R274). -/
def badRm (rm : BitVec 3) : Bool := rm == 5 || rm == 6
def Core.rmOf (q : Core) (rm : BitVec 3) : Nat := if rm = 7 then q.fcswRm else rm.toNat

/-- An instruction of class `op` raises flags: they are set in FCSW, and those whose traps are enabled make a trap pending, with FTA naming
the first such instruction (R402 to R404, R407). -/
def Core.raiseFlags (q : Core) (op fl : Nat) : Core :=
  let en := fl &&& bitsOf q.fcsw.toNat 12 8
  let was := q.fcsw.getLsbD 21
  let q := q.setFcsw 4 0 (q.fcsw.toNat % 32 ||| fl)
  if en = 0 then q
  else if was then { q with fta := q.fta ||| 2#48, fpNew := q.fpNew ||| en }
  else { q.setFcsw 21 21 1 with fta := (q.pc &&& pcBits) ||| 1#48, ftaOp := op, fpNew := en }

/-- Subnormal (R414): SN is set and nothing else; INFO says which. -/
def subnormalExc (s : State) (c : CoreId) (info : Nat) : State × IRes :=
  (s.updCore c fun q => q.setFcsw 5 5 1, .exc (Exc.plain 0x0D 0 info))

/-- An input as FLUSH replaces it: zero of its sign (R415). -/
def Fmt.flushed (f : Fmt) (b : Nat) : Nat := if f.subnormal b then f.zero (f.sign b) else b

/-- The subnormal inputs of an instruction, as INFO bits from 1 (R480). -/
def subInfo (l : List (Fmt × Nat)) : Nat := (((List.range l.length).zip l).map fun e => if e.2.1.subnormal e.2.2 then 2 ^ (e.1 + 1) else 0).sum

/-- An instruction under the subnormal rules: inputs with their formats; `f` computes from the values, `put` writes the result (R414, R415). -/
def arith (s : State) (c : CoreId) (op : Nat) (ins : List (Fmt × Nat)) (f : List FVal → FRes) (put : Core → Nat → Core) : State × IRes :=
  let q := s.core c
  let sub := subInfo ins
  if !q.flush && sub != 0 then subnormalExc s c sub
  else
    let r := f (ins.map fun e => e.1.decode (e.1.flushed e.2))
    if !q.flush && r.sub then subnormalExc s c 1
    else
      let fl := r.flags ||| (if sub != 0 || r.sub then fUF + fNX else 0)
      (s.updCore c fun q => (put q r.bits).raiseFlags op fl, .next)

/-! ### Classes 0x18 and 0x19 -/

/-- Two operands, rounded (R395). `mbz` is FC[3:0]. -/
def fpTwo (s : State) (c : CoreId) (fd fa fb : RegNo) (p : Bool) (mbz : BitVec 4) (rm : BitVec 3) (f : Fmt → Nat → FVal → FVal → FRes) : State :=
  run s c 0x18 fun s => illegalWhen (badRm rm || mbz != 0) s (
    let q := s.core c
    let t := fmtOf p
    arith s c 0x18 [(t, q.rdF t fa), (t, q.rdF t fb)] (fun l => f t (q.rmOf rm) (l.getD 0 (.inf false)) (l.getD 1 (.inf false)))
      fun q v => q.wrF fd v)

/-- FADD (R395). -/
def execFadd (c : CoreId) (fd fa fb : RegNo) (p : Bool) (mbz : BitVec 4) (rm : BitVec 3) (s : State) : Host.Outcome State Fault Refusal :=
  finish (fpTwo s c fd fa fb p mbz rm Fmt.add)
/-- FSUB (R395). -/
def execFsub (c : CoreId) (fd fa fb : RegNo) (p : Bool) (mbz : BitVec 4) (rm : BitVec 3) (s : State) : Host.Outcome State Fault Refusal :=
  finish (fpTwo s c fd fa fb p mbz rm Fmt.sub)
/-- FMUL (R395). -/
def execFmul (c : CoreId) (fd fa fb : RegNo) (p : Bool) (mbz : BitVec 4) (rm : BitVec 3) (s : State) : Host.Outcome State Fault Refusal :=
  finish (fpTwo s c fd fa fb p mbz rm Fmt.mul)
/-- FDIV (R395). -/
def execFdiv (c : CoreId) (fd fa fb : RegNo) (p : Bool) (mbz : BitVec 4) (rm : BitVec 3) (s : State) : Host.Outcome State Fault Refusal :=
  finish (fpTwo s c fd fa fb p mbz rm Fmt.div)

/-- FSQRT: FB must be zero (R395). -/
def execFsqrt (c : CoreId) (fd fa fb : RegNo) (p : Bool) (mbz : BitVec 4) (rm : BitVec 3) (s : State) : Host.Outcome State Fault Refusal :=
  finish (run s c 0x18 fun s => illegalWhen (badRm rm || mbz != 0 || fb != 0) s (
    let q := s.core c
    let t := fmtOf p
    arith s c 0x18 [(t, q.rdF t fa)] (fun l => t.sqrt (q.rmOf rm) (l.getD 0 (.inf false))) fun q v => q.wrF fd v))

/-- An FMA form (R395). -/
def fpFma (s : State) (c : CoreId) (fd fa fb fc : RegNo) (p : Bool) (rm : BitVec 3) (np nc ng : Bool) : State :=
  run s c 0x19 fun s => illegalWhen (badRm rm) s (
    let q := s.core c
    let t := fmtOf p
    arith s c 0x19 [(t, q.rdF t fa), (t, q.rdF t fb), (t, q.rdF t fc)]
      (fun l => t.fma (q.rmOf rm) np nc ng (l.getD 0 (.inf false)) (l.getD 1 (.inf false)) (l.getD 2 (.inf false))) fun q v => q.wrF fd v)

/-- FMADD (R395). -/
def execFmadd (c : CoreId) (fd fa fb fc : RegNo) (p : Bool) (rm : BitVec 3) (s : State) : Host.Outcome State Fault Refusal :=
  finish (fpFma s c fd fa fb fc p rm false false false)
/-- FMSUB (R395). -/
def execFmsub (c : CoreId) (fd fa fb fc : RegNo) (p : Bool) (rm : BitVec 3) (s : State) : Host.Outcome State Fault Refusal :=
  finish (fpFma s c fd fa fb fc p rm false true false)
/-- FNMADD: the sum negated, then rounded (R395, log entry 31). -/
def execFnmadd (c : CoreId) (fd fa fb fc : RegNo) (p : Bool) (rm : BitVec 3) (s : State) : Host.Outcome State Fault Refusal :=
  finish (fpFma s c fd fa fb fc p rm false false true)
/-- FNMSUB: the product negated (R395). -/
def execFnmsub (c : CoreId) (fd fa fb fc : RegNo) (p : Bool) (rm : BitVec 3) (s : State) : Host.Outcome State Fault Refusal :=
  finish (fpFma s c fd fa fb fc p rm true false false)

/-! ### Class 0x1A -/

/-- FCVT to precision P from the other: FB and FC[3:0] zero; to binary64 it is exact and requires RM = 0 (R395). -/
def execFcvt (c : CoreId) (fd fa fb : RegNo) (p : Bool) (mbz : BitVec 4) (rm : BitVec 3) (s : State) : Host.Outcome State Fault Refusal :=
  finish (run s c 0x1A fun s => illegalWhen (badRm rm || mbz != 0 || fb != 0 || (!p && rm != 0)) s (
    let q := s.core c
    let t := fmtOf !p
    arith s c 0x1A [(t, q.rdF t fa)] (fun l => t.convert (fmtOf p) (q.rmOf rm) (l.getD 0 (.inf false))) fun q v => q.wrF fd v))

/-- FCVT.FW: W[FA] as a 48-bit integer; FB and FC[3:1] zero (R395). -/
def execFcvtFw (c : CoreId) (fd ra fb : RegNo) (p u : Bool) (mbz : BitVec 3) (rm : BitVec 3) (s : State) : Host.Outcome State Fault Refusal :=
  finish (run s c 0x1A fun s => illegalWhen (badRm rm || mbz != 0 || fb != 0) s (
    let q := s.core c
    let w := q.rd ra
    arith s c 0x1A [] (fun _ => (fmtOf p).ofInteger (q.rmOf rm) (if u then (w.toNat : Int) else w.toInt)) fun q v => q.wrF fd v))

/-- FCVT.WF: to W[FD] (R395, R398). -/
def execFcvtWf (c : CoreId) (rd fa fb : RegNo) (p u : Bool) (mbz : BitVec 3) (rm : BitVec 3) (s : State) : Host.Outcome State Fault Refusal :=
  finish (run s c 0x1A fun s => illegalWhen (badRm rm || mbz != 0 || fb != 0) s (
    let q := s.core c
    let t := fmtOf p
    arith s c 0x1A [(t, q.rdF t fa)]
      (fun l =>
        let r := toInteger (q.rmOf rm) u (l.getD 0 (.inf false))
        ⟨r.1, r.2, false⟩)
      fun q v => q.wr rd (BitVec.ofNat 48 v)))

/-- The CSW flags of a comparison (R399). -/
def FRel.flags : FRel → Nzcv
  | .lt => ⟨true, false, false, false⟩
  | .eq => ⟨false, true, true, false⟩
  | .gt => ⟨false, false, true, false⟩
  | .un => ⟨false, false, false, true⟩

/-- FCMP: FD, FC[3:1] and RM zero; subnormals are compared as they are (R395, R399, R416). -/
def execFcmp (c : CoreId) (fd fa fb : RegNo) (p sg : Bool) (mbz : BitVec 3) (rm : BitVec 3) (s : State) : Host.Outcome State Fault Refusal :=
  finish (run s c 0x1A fun s => illegalWhen (rm != 0 || mbz != 0 || fd != 0) s (
    let q := s.core c
    let t := fmtOf p
    let a := t.decode (q.rdF t fa)
    let b := t.decode (q.rdF t fb)
    (s.updCore c fun q => (q.setFlags (relVal a b).flags).raiseFlags 0x1A (t.cmpFlags sg a b), .next)))

/-- FCLASS: FB, FC[3:0] and RM zero (R395, R400). -/
def execFclass (c : CoreId) (rd fa fb : RegNo) (p : Bool) (mbz : BitVec 4) (rm : BitVec 3) (s : State) : Host.Outcome State Fault Refusal :=
  finish (run s c 0x1A fun s => illegalWhen (rm != 0 || mbz != 0 || fb != 0) s
    (s.updCore c fun q => q.wr rd (BitVec.ofNat 48 ((fmtOf p).classOf (q.rdF (fmtOf p) fa))), .next))

/-- FSGN: the sign bit of the encoding replaced, nothing else touched; FC[3:2] and RM zero (R395, R397). -/
def fpSign (s : State) (c : CoreId) (fd fa : RegNo) (p : Bool) (mbz : BitVec 2) (rm : BitVec 3) (f : Core → Fmt → Bool → Bool) : State :=
  run s c 0x1A fun s => illegalWhen (rm != 0 || mbz != 0) s
    (s.updCore c fun q =>
      let t := fmtOf p
      let b := q.rdF t fa
      q.wrF fd (withBit b (t.width - 1) (f q t (t.sign b))), .next)

/-- FMOV (R397). -/
def execFmov (c : CoreId) (fd fa : RegNo) (p : Bool) (mbz : BitVec 2) (rm : BitVec 3) (s : State) : Host.Outcome State Fault Refusal :=
  finish (fpSign s c fd fa p mbz rm fun _ _ b => b)
/-- FNEG (R397). -/
def execFneg (c : CoreId) (fd fa : RegNo) (p : Bool) (mbz : BitVec 2) (rm : BitVec 3) (s : State) : Host.Outcome State Fault Refusal :=
  finish (fpSign s c fd fa p mbz rm fun _ _ b => !b)
/-- FABS (R397). -/
def execFabs (c : CoreId) (fd fa : RegNo) (p : Bool) (mbz : BitVec 2) (rm : BitVec 3) (s : State) : Host.Outcome State Fault Refusal :=
  finish (fpSign s c fd fa p mbz rm fun _ _ _ => false)
/-- FCPYS (R397). -/
def execFcpys (c : CoreId) (fd fa fb : RegNo) (p : Bool) (mbz : BitVec 2) (rm : BitVec 3) (s : State) : Host.Outcome State Fault Refusal :=
  finish (fpSign s c fd fa p mbz rm fun q t _ => t.sign (q.rdF t fb))

/-! ### Class 0x1B -/

/-- An FP load of n bytes, aligned to its size (R251, R401). -/
def fpLoad (s : State) (c : CoreId) (fd ra : RegNo) (i : BitVec 16) (n info : Nat) : State :=
  run s c 0x1B fun s =>
    let a := eaFp ((s.core c).rd ra) i
    if a.toNat % n ≠ 0 then (s, .exc (alignExc info a))
    else match loadMem s c a n 4096 with
      | (s, .inl e) => (s, .exc e)
      | (s, .inr l) => (s.updCore c fun q => q.wrF fd (ofLe l), .next)

/-- An FP store of n bytes. -/
def fpStore (s : State) (c : CoreId) (fd ra : RegNo) (i : BitVec 16) (n info : Nat) : State :=
  run s c 0x1B fun s =>
    let a := eaFp ((s.core c).rd ra) i
    if a.toNat % n ≠ 0 then (s, .exc (alignExc info a))
    else match storeMem s c a 4096 (leBytes n (s.core c).f[fd.val].toNat) with
      | (s, some e) => (s, .exc e)
      | (s, none) => (s, .next)

/-- FLD.S (R401). -/
def execFldS (c : CoreId) (fd ra : RegNo) (i : BitVec 16) (s : State) : Host.Outcome State Fault Refusal := finish (fpLoad s c fd ra i 4 4)
/-- FLD.D (R401). -/
def execFldD (c : CoreId) (fd ra : RegNo) (i : BitVec 16) (s : State) : Host.Outcome State Fault Refusal := finish (fpLoad s c fd ra i 8 5)
/-- FST.S (R401). -/
def execFstS (c : CoreId) (fd ra : RegNo) (i : BitVec 16) (s : State) : Host.Outcome State Fault Refusal := finish (fpStore s c fd ra i 4 4)
/-- FST.D (R401). -/
def execFstD (c : CoreId) (fd ra : RegNo) (i : BitVec 16) (s : State) : Host.Outcome State Fault Refusal := finish (fpStore s c fd ra i 8 5)

/-- A move of class 0x1B; unused register fields must be zero (R401). -/
def fpMove (s : State) (c : CoreId) (bad : Bool) (f : Core → Core) : State :=
  run s c 0x1B fun s => illegalWhen bad s (s.updCore c f, .next)

/-- FMVWF.L (R401). -/
def execFmvwfL (c : CoreId) (rd fa : RegNo) (mbz : BitVec 5) (s : State) : Host.Outcome State Fault Refusal :=
  finish (fpMove s c (mbz != 0) fun q => q.wr rd (BitVec.ofNat 48 (q.f[fa.val].toNat % 2 ^ 32)))
/-- FMVWF.H (R401). -/
def execFmvwfH (c : CoreId) (rd fa : RegNo) (mbz : BitVec 5) (s : State) : Host.Outcome State Fault Refusal :=
  finish (fpMove s c (mbz != 0) fun q => q.wr rd (BitVec.ofNat 48 (q.f[fa.val].toNat / 2 ^ 32)))
/-- FMVFW.L (R401). -/
def execFmvfwL (c : CoreId) (fd ra : RegNo) (mbz : BitVec 5) (s : State) : Host.Outcome State Fault Refusal :=
  finish (fpMove s c (mbz != 0) fun q => q.wrF fd ((q.rd ra).toNat % 2 ^ 32))
/-- FMVFW.H (R401). -/
def execFmvfwH (c : CoreId) (fd ra : RegNo) (mbz : BitVec 5) (s : State) : Host.Outcome State Fault Refusal :=
  finish (fpMove s c (mbz != 0) fun q => q.wrF fd (q.f[fd.val].toNat % 2 ^ 32 + (q.rd ra).toNat % 2 ^ 32 * 2 ^ 32))

/-- A move at which a pending trap is delivered (R405). -/
def fpBarMove (s : State) (c : CoreId) (bad : Bool) (f : Core → Core) : State :=
  runBar s c 0x1B fun s => illegalWhen bad s (s.updCore c f, .next)

/-- RDFCSW (R401, R405). -/
def execRdfcsw (c : CoreId) (rd : RegNo) (mbz : BitVec 10) (s : State) : Host.Outcome State Fault Refusal :=
  finish (fpBarMove s c (mbz != 0) fun q => q.wr rd q.fcsw)

/-- FCSW as a move writes it: SUBM, RM (5 to 7 store 0), TRAPEN, SN and FLAGS; TPEND stands (R267, R411). -/
def Core.moveFcsw (q : Core) (v : Word) : Core :=
  let v := if 4 < bitsOf v.toNat 18 16 then cswSet v 18 16 0 else v
  { q with fcsw := (q.fcsw &&& 0x200000#48) ||| (v &&& 0x171F3F#48) }

/-- WRFCSW (R411, R412). -/
def execWrfcsw (c : CoreId) (ra : RegNo) (mbz : BitVec 10) (s : State) : Host.Outcome State Fault Refusal :=
  finish (fpBarMove s c (mbz != 0) fun q => q.moveFcsw (q.rd ra))

/-- RDFTA (R401, R404). -/
def execRdfta (c : CoreId) (rd : RegNo) (mbz : BitVec 10) (s : State) : Host.Outcome State Fault Refusal :=
  finish (fpMove s c (mbz != 0) fun q => q.wr rd q.fta)

/-- FBAR: with no trap pending it does nothing more (R409). -/
def execFbar (c : CoreId) (mbz : BitVec 15) (s : State) : Host.Outcome State Fault Refusal := finish (fpBarMove s c (mbz != 0) id)

end Sys2Proof.Machine
end

