-- ==== Sys2Proof/Machine/GalleryCommands.lean ====
section
/-! DEFINITION. Commands of the Gallery (R666 to R698): sweeps, banks, flags, and each instruction as a sweep runs it. -/
namespace Sys2Proof.Machine

/-! ### Sweeps and banks -/

/-- GALLERY_SWEEP: a due sweep, and how many due times passed while the one before it ran (R666 to R669). -/
def execGallerySweep (missed : Nat) (s : State) : Host.Outcome State Fault Refusal := finish (s.gallerySweep missed)
/-- GALLERY_TIMER_EXPIRY (R672). -/
def execGalleryTimerExpiry (n : Fin 64) (s : State) : Host.Outcome State Fault Refusal := finish (s.timerExpiry n.val)
/-- A write of GAL_CTL: a trigger bit and BANK. -/
def State.galCtl (s : State) (src : Src) (bits b : Nat) : State := s.srcWrite src F.GAL_CTL_BANK.off (bits + b * 2 ^ 8)

/-- GALLERY_START of a bank (R691). -/
def execGalleryStart (src : Src) (b : Fin 2) (s : State) : Host.Outcome State Fault Refusal := finish (s.galCtl src 1 b.val)
/-- GALLERY_STOP (R692). -/
def execGalleryStop (src : Src) (s : State) : Host.Outcome State Fault Refusal := finish (s.galCtl src 2 0)
/-- GALLERY_SWAP to a bank (R694, R698). -/
def execGallerySwap (src : Src) (b : Fin 2) (s : State) : Host.Outcome State Fault Refusal := finish (s.galCtl src 4 b.val)
/-- GALLERY_CHECK_DONE (R690, R691, R697). -/
def execGalleryCheckDone (s : State) : Host.Outcome State Fault Refusal := finish (s.whenAon State.galCheckDone)
/-- GALLERY_EXCHANGE (R694 to R698). -/
def execGalleryExchange (s : State) : Host.Outcome State Fault Refusal := finish (s.whenAon State.galExchange)
/-- FLAG_SET (R674). -/
def execFlagSet (src : Src) (m : Long) (s : State) : Host.Outcome State Fault Refusal := finish (s.srcWrite src F.GAL_FSET_SET.off m.toNat)
/-- FLAG_CLEAR (R674). -/
def execFlagClear (src : Src) (m : Long) (s : State) : Host.Outcome State Fault Refusal := finish (s.srcWrite src F.GAL_FCLR_CLR.off m.toNat)
/-- TEMPLATE_POST_DELIVERY (R684, R685). -/
def execTemplatePostDelivery (s : State) : Host.Outcome State Fault Refusal := finish s.postDeliver
/-! ### Instructions (R677) -/

/-- An instruction of a running engine. -/
def State.whenGal (s : State) (f : State → State) : State := if s.gal.run then f s else s

/-- GAL_NOP. -/
def execGalNop (s : State) : Host.Outcome State Fault Refusal := finish (s.whenGal fun s => s.galPass 0)
/-- GAL_LD: ACC := bit A. -/
def execGalLd (a : BitVec 10) (s : State) : Host.Outcome State Fault Refusal := finish (s.whenGal fun s => s.galTest (fun _ b => b) a.toNat)
/-- GAL_LDN. -/
def execGalLdn (a : BitVec 10) (s : State) : Host.Outcome State Fault Refusal := finish (s.whenGal fun s => s.galTest (fun _ b => !b) a.toNat)
/-- GAL_AND. -/
def execGalAnd (a : BitVec 10) (s : State) : Host.Outcome State Fault Refusal := finish (s.whenGal fun s => s.galTest (fun x b => x && b) a.toNat)
/-- GAL_ANDN. -/
def execGalAndn (a : BitVec 10) (s : State) : Host.Outcome State Fault Refusal := finish (s.whenGal fun s => s.galTest (fun x b => x && !b) a.toNat)
/-- GAL_OR. -/
def execGalOr (a : BitVec 10) (s : State) : Host.Outcome State Fault Refusal := finish (s.whenGal fun s => s.galTest (fun x b => x || b) a.toNat)
/-- GAL_ORN. -/
def execGalOrn (a : BitVec 10) (s : State) : Host.Outcome State Fault Refusal := finish (s.whenGal fun s => s.galTest (fun x b => x || !b) a.toNat)
/-- GAL_XOR. -/
def execGalXor (a : BitVec 10) (s : State) : Host.Outcome State Fault Refusal := finish (s.whenGal fun s => s.galTest (fun x b => x != b) a.toNat)
/-- GAL_NOT. -/
def execGalNot (s : State) : Host.Outcome State Fault Refusal := finish (s.whenGal fun s => (s.setAcc (!s.gal.acc)).galPass 0)
/-- SETF. -/
def execSetf (n : Fin 32) (s : State) : Host.Outcome State Fault Refusal := finish (s.whenGal fun s => s.galSetf n.val)
/-- CLRF. -/
def execClrf (n : Fin 32) (s : State) : Host.Outcome State Fault Refusal := finish (s.whenGal fun s => s.galClrf n.val)
/-- STF. -/
def execStf (n : Fin 32) (s : State) : Host.Outcome State Fault Refusal := finish (s.whenGal fun s => s.galStf n.val)
/-- TSTART (R672). -/
def execTstart (n : Fin 64) (s : State) : Host.Outcome State Fault Refusal := finish (s.whenGal fun s => s.galTstart n.val)
/-- TSTARTI (R672). -/
def execTstarti (n : Fin 64) (count : BitVec 20) (s : State) : Host.Outcome State Fault Refusal :=
  finish (s.whenGal fun s => s.galTstarti n.val count.toNat)
/-- TSTOP (R672). -/
def execTstop (n : Fin 64) (s : State) : Host.Outcome State Fault Refusal := finish (s.whenGal fun s => s.galTstop n.val)
/-- GAL_PULSE (R679, R687). -/
def execGalPulse (ch : Fin 4) (door : Fin 32) (k : Fin 8) (s : State) : Host.Outcome State Fault Refusal :=
  finish (s.whenGal fun s => s.galPulse ch.val door.val k.val)
/-- GPO (R680). -/
def execGpo (n : Fin 64) (mode : BitVec 2) (s : State) : Host.Outcome State Fault Refusal := finish (s.whenGal fun s => s.galGpo n.val mode.toNat)
/-- GAL_WAKE (R681). -/
def execGalWake (h : Hall) (s : State) : Host.Outcome State Fault Refusal := finish (s.whenGal fun s => s.galWake h)
/-- GAL_BELL (R682). -/
def execGalBell (n : Fin 32) (s : State) : Host.Outcome State Fault Refusal := finish (s.whenGal fun s => s.galBell n.val)
/-- POST (R683). -/
def execPost (t : Fin 16) (s : State) : Host.Outcome State Fault Refusal := finish (s.whenGal fun s => s.galPost t.val)
/-- SKIPT. -/
def execSkipt (k : BitVec 8) (s : State) : Host.Outcome State Fault Refusal := finish (s.whenGal fun s => s.galSkip true k.toNat)
/-- SKIPF. -/
def execSkipf (k : BitVec 8) (s : State) : Host.Outcome State Fault Refusal := finish (s.whenGal fun s => s.galSkip false k.toNat)
/-- GAL_END. -/
def execGalEnd (s : State) : Host.Outcome State Fault Refusal := finish (s.whenGal fun s => s.galEnd)

end Sys2Proof.Machine
end

