-- ==== Sys2Proof/Machine/Integer.lean ====
section
/-! DEFINITION. The integer instructions: classes 0x01 INT.R (R286 to R292), 0x02 INT.I (R293, R294) and 0x03 ADDX (R295). -/
namespace Sys2Proof.Machine

/-! ### Class 0x01 -/

/-- Wd := Wa op Wb on one core; with S the flags too (R286). -/
def Core.intR (q : Core) (rd ra rb : RegNo) (st : Bool) (f : Core → Word → Word → Word × Nzcv) : Core :=
  let r := f q (q.rd ra) (q.rd rb)
  (if st then q.setFlags r.2 else q).wr rd r.1

/-- An INT.R instruction. -/
def intR (s : State) (c : CoreId) (rd ra rb : RegNo) (st : Bool) (f : Core → Word → Word → Word × Nzcv) : State :=
  runCore s c 0x01 fun q => q.intR rd ra rb st f

/-- An INT.R instruction of one operand: RB must be zero (R286). -/
def intR1 (s : State) (c : CoreId) (rd ra rb : RegNo) (st : Bool) (f : Word → Word × Nzcv) : State :=
  run s c 0x01 fun s => illegalWhen (rb != 0) s (s.updCore c fun q => q.intR rd ra rb st fun _ a _ => f a, .next)

/-- The shift count (R288). -/
def shiftCount (b : Word) : Nat := b.toNat % 64

/-- A product into a pair (R286, R287). -/
def Core.mulPair (q : Core) (rd ra rb : RegNo) (st : Bool) (f : Word → Word → Nat) : Core :=
  let r := f (q.rd ra) (q.rd rb)
  (if st then q.setFlags (pairFlags r) else q).wrPair rd r
def intPair (s : State) (c : CoreId) (rd ra rb : RegNo) (st : Bool) (f : Word → Word → Nat) : State :=
  run s c 0x01 fun s => illegalWhen (!pairOk rd) s (s.updCore c fun q => q.mulPair rd ra rb st f, .next)

/-- A division on one core, the divisor not zero: V always, with S also N, Z and C := 0 (R291). -/
def Core.divide (q : Core) (rd ra rb : RegNo) (st sg : Bool) (f : Word → Word → Word) : Core :=
  let a := q.rd ra
  let b := q.rd rb
  let r := f a b
  let v := sg && divOverflow a b
  (if st then q.setFlags (nzOf r false v) else q.setV v).wr rd r

/-- A division: Integer Divide Check for a zero divisor, nothing written (R290). -/
def intDiv (s : State) (c : CoreId) (rd ra rb : RegNo) (st sg : Bool) (f : Word → Word → Word) : State :=
  run s c 0x01 fun s =>
    if (s.core c).rd rb = 0 then (s, .exc (Exc.plain 8 0 0)) else (s.updCore c fun q => q.divide rd ra rb st sg f, .next)

/-- ADD (R286). -/
def execAdd (c : CoreId) (rd ra rb : RegNo) (st : Bool) (s : State) : Host.Outcome State Fault Refusal :=
  finish (intR s c rd ra rb st fun _ a b => addFlags a b false)
/-- ADC (R286). -/
def execAdc (c : CoreId) (rd ra rb : RegNo) (st : Bool) (s : State) : Host.Outcome State Fault Refusal :=
  finish (intR s c rd ra rb st fun q a b => addFlags a b (cswC q.csw))
/-- SUB; with S and RD = W0 it is the compare (R286). -/
def execSub (c : CoreId) (rd ra rb : RegNo) (st : Bool) (s : State) : Host.Outcome State Fault Refusal :=
  finish (intR s c rd ra rb st fun _ a b => subFlags a b true)
/-- SBC (R286). -/
def execSbc (c : CoreId) (rd ra rb : RegNo) (st : Bool) (s : State) : Host.Outcome State Fault Refusal :=
  finish (intR s c rd ra rb st fun q a b => subFlags a b (cswC q.csw))
/-- AND (R286). -/
def execAnd (c : CoreId) (rd ra rb : RegNo) (st : Bool) (s : State) : Host.Outcome State Fault Refusal :=
  finish (intR s c rd ra rb st fun _ a b => logicFlags (a &&& b))
/-- OR (R286). -/
def execOr (c : CoreId) (rd ra rb : RegNo) (st : Bool) (s : State) : Host.Outcome State Fault Refusal :=
  finish (intR s c rd ra rb st fun _ a b => logicFlags (a ||| b))
/-- XOR (R286). -/
def execXor (c : CoreId) (rd ra rb : RegNo) (st : Bool) (s : State) : Host.Outcome State Fault Refusal :=
  finish (intR s c rd ra rb st fun _ a b => logicFlags (a ^^^ b))
/-- ANDN (R286). -/
def execAndn (c : CoreId) (rd ra rb : RegNo) (st : Bool) (s : State) : Host.Outcome State Fault Refusal :=
  finish (intR s c rd ra rb st fun _ a b => logicFlags (a &&& ~~~b))
/-- SHL (R288). -/
def execShl (c : CoreId) (rd ra rb : RegNo) (st : Bool) (s : State) : Host.Outcome State Fault Refusal :=
  finish (intR s c rd ra rb st fun _ a b => shlFlags a (shiftCount b))
/-- SHR (R288). -/
def execShr (c : CoreId) (rd ra rb : RegNo) (st : Bool) (s : State) : Host.Outcome State Fault Refusal :=
  finish (intR s c rd ra rb st fun _ a b => shrFlags a (shiftCount b))
/-- SAR (R288). -/
def execSar (c : CoreId) (rd ra rb : RegNo) (st : Bool) (s : State) : Host.Outcome State Fault Refusal :=
  finish (intR s c rd ra rb st fun _ a b => sarFlags a (shiftCount b))
/-- ROR (R288). -/
def execRor (c : CoreId) (rd ra rb : RegNo) (st : Bool) (s : State) : Host.Outcome State Fault Refusal :=
  finish (intR s c rd ra rb st fun _ a b => rorFlags a (shiftCount b))
/-- SLT (R286). -/
def execSlt (c : CoreId) (rd ra rb : RegNo) (st : Bool) (s : State) : Host.Outcome State Fault Refusal :=
  finish (intR s c rd ra rb st fun _ a b => logicFlags (if a.toInt < b.toInt then 1 else 0))
/-- SLTU (R286). -/
def execSltu (c : CoreId) (rd ra rb : RegNo) (st : Bool) (s : State) : Host.Outcome State Fault Refusal :=
  finish (intR s c rd ra rb st fun _ a b => logicFlags (if a.toNat < b.toNat then 1 else 0))
/-- SXB (R286). -/
def execSxb (c : CoreId) (rd ra rb : RegNo) (st : Bool) (s : State) : Host.Outcome State Fault Refusal :=
  finish (intR1 s c rd ra rb st fun a => logicFlags ((a.setWidth 8).signExtend 48))
/-- SXH (R286). -/
def execSxh (c : CoreId) (rd ra rb : RegNo) (st : Bool) (s : State) : Host.Outcome State Fault Refusal :=
  finish (intR1 s c rd ra rb st fun a => logicFlags ((a.setWidth 16).signExtend 48))
/-- SXL (R286). -/
def execSxl (c : CoreId) (rd ra rb : RegNo) (st : Bool) (s : State) : Host.Outcome State Fault Refusal :=
  finish (intR1 s c rd ra rb st fun a => logicFlags ((a.setWidth 32).signExtend 48))
/-- CLZ (R286). -/
def execClz (c : CoreId) (rd ra rb : RegNo) (st : Bool) (s : State) : Host.Outcome State Fault Refusal :=
  finish (intR1 s c rd ra rb st fun a => logicFlags (BitVec.ofNat 48 (clzNat 48 a.toNat)))
/-- POPC (R286). -/
def execPopc (c : CoreId) (rd ra rb : RegNo) (st : Bool) (s : State) : Host.Outcome State Fault Refusal :=
  finish (intR1 s c rd ra rb st fun a => logicFlags (BitVec.ofNat 48 (popCount 48 a.toNat)))
/-- MUL (R286). -/
def execMul (c : CoreId) (rd ra rb : RegNo) (st : Bool) (s : State) : Host.Outcome State Fault Refusal :=
  finish (intR s c rd ra rb st fun _ a b => mulFlags a b)
/-- MULH (R286). -/
def execMulh (c : CoreId) (rd ra rb : RegNo) (st : Bool) (s : State) : Host.Outcome State Fault Refusal :=
  finish (intR s c rd ra rb st fun _ a b => logicFlags (BitVec.ofNat 48 (mulS a b / 2 ^ 48)))
/-- MULHU (R286). -/
def execMulhu (c : CoreId) (rd ra rb : RegNo) (st : Bool) (s : State) : Host.Outcome State Fault Refusal :=
  finish (intR s c rd ra rb st fun _ a b => logicFlags (BitVec.ofNat 48 (mulU a b / 2 ^ 48)))
/-- MULP (R287). -/
def execMulp (c : CoreId) (rd ra rb : RegNo) (st : Bool) (s : State) : Host.Outcome State Fault Refusal :=
  finish (intPair s c rd ra rb st mulS)
/-- MULPU (R287). -/
def execMulpu (c : CoreId) (rd ra rb : RegNo) (st : Bool) (s : State) : Host.Outcome State Fault Refusal :=
  finish (intPair s c rd ra rb st mulU)
/-- DIV (R289 to R291). -/
def execDiv (c : CoreId) (rd ra rb : RegNo) (st : Bool) (s : State) : Host.Outcome State Fault Refusal :=
  finish (intDiv s c rd ra rb st true divS)
/-- DIVU (R290, R291). -/
def execDivu (c : CoreId) (rd ra rb : RegNo) (st : Bool) (s : State) : Host.Outcome State Fault Refusal :=
  finish (intDiv s c rd ra rb st false fun a b => a / b)
/-- REM (R289 to R291). -/
def execRem (c : CoreId) (rd ra rb : RegNo) (st : Bool) (s : State) : Host.Outcome State Fault Refusal :=
  finish (intDiv s c rd ra rb st true remS)
/-- REMU (R290, R291). -/
def execRemu (c : CoreId) (rd ra rb : RegNo) (st : Bool) (s : State) : Host.Outcome State Fault Refusal :=
  finish (intDiv s c rd ra rb st false fun a b => a % b)

/-! ### Class 0x02 -/

/-- Wd := f(Wd, imm), no flags (R293). -/
def intI (s : State) (c : CoreId) (rd : RegNo) (f : Word → Word) : State :=
  runCore s c 0x02 fun q => q.wr rd (f (q.rd rd))

/-- A shift by IMM16[5:0]; IMM16[15:6] must be zero (R294). -/
def shiftI (s : State) (c : CoreId) (rd : RegNo) (i : BitVec 16) (f : Word → Nat → Word × Nzcv) : State :=
  run s c 0x02 fun s =>
    illegalWhen (decide (64 ≤ i.toNat)) s (s.updCore c fun q => q.wr rd (f (q.rd rd) (i.toNat % 64)).1, .next)

/-- LDI (R293). -/
def execLdi (c : CoreId) (rd : RegNo) (i : BitVec 16) (s : State) : Host.Outcome State Fault Refusal :=
  finish (intI s c rd fun _ => sext16 i)
/-- ADDI (R293). -/
def execAddi (c : CoreId) (rd : RegNo) (i : BitVec 16) (s : State) : Host.Outcome State Fault Refusal :=
  finish (intI s c rd fun a => a + sext16 i)
/-- ADDI.S (R293). -/
def execAddiS (c : CoreId) (rd : RegNo) (i : BitVec 16) (s : State) : Host.Outcome State Fault Refusal :=
  finish (runCore s c 0x02 fun q =>
    let r := addFlags (q.rd rd) (sext16 i) false
    (q.setFlags r.2).wr rd r.1)
/-- CMPI (R293). -/
def execCmpi (c : CoreId) (rd : RegNo) (i : BitVec 16) (s : State) : Host.Outcome State Fault Refusal :=
  finish (runCore s c 0x02 fun q => q.setFlags (subFlags (q.rd rd) (sext16 i) true).2)
/-- ANDI (R293). -/
def execAndi (c : CoreId) (rd : RegNo) (i : BitVec 16) (s : State) : Host.Outcome State Fault Refusal :=
  finish (intI s c rd fun a => a &&& sext16 i)
/-- ORI (R293). -/
def execOri (c : CoreId) (rd : RegNo) (i : BitVec 16) (s : State) : Host.Outcome State Fault Refusal :=
  finish (intI s c rd fun a => a ||| sext16 i)
/-- XORI (R293). -/
def execXori (c : CoreId) (rd : RegNo) (i : BitVec 16) (s : State) : Host.Outcome State Fault Refusal :=
  finish (intI s c rd fun a => a ^^^ sext16 i)
/-- SHLI (R294). -/
def execShli (c : CoreId) (rd : RegNo) (i : BitVec 16) (s : State) : Host.Outcome State Fault Refusal :=
  finish (shiftI s c rd i shlFlags)
/-- SHRI (R294). -/
def execShri (c : CoreId) (rd : RegNo) (i : BitVec 16) (s : State) : Host.Outcome State Fault Refusal :=
  finish (shiftI s c rd i shrFlags)
/-- SARI (R294). -/
def execSari (c : CoreId) (rd : RegNo) (i : BitVec 16) (s : State) : Host.Outcome State Fault Refusal :=
  finish (shiftI s c rd i sarFlags)
/-- RORI (R294). -/
def execRori (c : CoreId) (rd : RegNo) (i : BitVec 16) (s : State) : Host.Outcome State Fault Refusal :=
  finish (shiftI s c rd i rorFlags)
/-- MULI (R293). -/
def execMuli (c : CoreId) (rd : RegNo) (i : BitVec 16) (s : State) : Host.Outcome State Fault Refusal :=
  finish (intI s c rd fun a => a * sext16 i)
/-- ADPC (R293): PC is the address of the instruction. -/
def execAdpc (c : CoreId) (rd : RegNo) (i : BitVec 16) (s : State) : Host.Outcome State Fault Refusal :=
  finish (runCore s c 0x02 fun q => q.wr rd (q.pc + sext16 i * 4#48))

/-! ### Class 0x03 -/

/-- ADDX: 8 bytes long (R271, R295). -/
def execAddx (c : CoreId) (rd ra : RegNo) (i : BitVec 16) (ext : BitVec 32) (s : State) : Host.Outcome State Fault Refusal :=
  finish (runWith s c 0x03 8 false false fun s => (s.updCore c fun q => q.wr rd (q.rd ra + imm48 ext i), .next))

end Sys2Proof.Machine
end

