-- ==== Sys2Proof/Machine/JournalCommands.lean ====
section
/-! DEFINITION. Commands of the journal and copy engines (R636 to R665). -/
namespace Sys2Proof.Machine

/-- The journal engine acts: present, its fabric released, not fenced. -/
def State.whenJournal (s : State) (f : State → State) : State :=
  if s.pwr.fabricUp && Variant.hasJnl s.variant && !s.fenced 6 then f s else s

/-- The copy engine acts. -/
def State.whenCopy (s : State) (f : State → State) : State := if s.pwr.fabricUp && !s.fenced 7 then f s else s

/-- APPEND: the job in progress (R640 to R646, R656, R657). -/
def execAppend (s : State) : Host.Outcome State Fault Refusal := finish (s.whenJournal State.append)
/-- FLUSH: the job in progress (R656, R657). -/
def execFlush (s : State) : Host.Outcome State Fault Refusal := finish (s.whenJournal State.flushJob)
/-- JOURNAL_SEED (R639). -/
def execJournalSeed (src : Src) (s : State) : Host.Outcome State Fault Refusal := finish (s.srcField src F.JNL_HEADCTL_SEED 1)
/-- FLUSH_BATCH starts, or goes on; whether every program of a FLASH destination verified (R649 to R652). -/
def execFlushBatch (ok : Bool) (s : State) : Host.Outcome State Fault Refusal := finish (s.whenJournal fun s => s.flushBatch ok)
/-- FLUSHED: the batch completes (R649). -/
def execFlushed (s : State) : Host.Outcome State Fault Refusal := finish (s.whenJournal State.flushed)
/-- JOURNAL_FLUSH_TIMEOUT (R647, R657). -/
def execJournalFlushTimeout (s : State) : Host.Outcome State Fault Refusal := finish (s.whenJournal State.flushTimeout)
/-- JOURNAL_DRD_WRITE (R650, R651). -/
def execJournalDrdWrite (src : Src) (v : Long) (s : State) : Host.Outcome State Fault Refusal := finish (s.srcWrite src F.JNL_DRD_OFFSET.off v.toNat)
/-- MAC_KEY_LOAD: a write of JNL_MACKEY7 (R665). -/
def execMacKeyLoad (src : Src) (v : Long) (s : State) : Host.Outcome State Fault Refusal :=
  finish (s.srcWrite src (F.JNL_MACKEY_KEY.ix 7).off v.toNat)
/-- MAC_KEY_CLEAR (R665). -/
def execMacKeyClear (src : Src) (s : State) : Host.Outcome State Fault Refusal := finish (s.srcField src F.JNL_MACCTL_CLEAR 1)
/-- COPY: the job of a lane (R659 to R663). -/
def execCopy (lane : Fin 4) (s : State) : Host.Outcome State Fault Refusal := finish (s.whenCopy fun s => s.copyJob lane.val)
/-- FILL: the job of a lane (R659 to R663). -/
def execFill (lane : Fin 4) (s : State) : Host.Outcome State Fault Refusal := finish (s.whenCopy fun s => s.fillJob lane.val)
/-- CPY_TIMEOUT: the job of a lane has run TO ms, so many bursts of it done (R664). -/
def execCpyTimeout (lane : Fin 4) (bursts : Nat) (s : State) : Host.Outcome State Fault Refusal :=
  finish (s.whenCopy fun s => s.copyTimeout lane.val bursts)

end Sys2Proof.Machine
end

