-- ==== Sys2Proof/Machine/KeyCommands.lean ====
section
/-! DEFINITION. Commands of the Hall watchdogs (R472, R473), frame keys (R537, R538, R545) and the host window BAR4 (R544, R742). -/
namespace Sys2Proof.Machine

/-- WDL_EXPIRY (R473). -/
def execWdlExpiry (s : State) : Host.Outcome State Fault Refusal := finish s.wdlExpire
/-- WDP_EXPIRY (R472). -/
def execWdpExpiry (s : State) : Host.Outcome State Fault Refusal := finish s.wdpExpire
/-- KEY_ENABLE: a write of KEY_CTL.ENABLE (R537, R538). -/
def execKeyEnable (src : Src) (on : Bool) (s : State) : Host.Outcome State Fault Refusal := finish (s.srcField src F.KEY_CTL_ENABLE (ofBool on))
/-- KEY_LOCK (R545). -/
def execKeyLock (src : Src) (s : State) : Host.Outcome State Fault Refusal := finish (s.srcField src F.KEY_CTL_LOCK 1)
/-- HOST_BAR4_READ (R544, R742). -/
def execHostBar4Read (dw : BitVec 22) (n : BitVec 10) (s : State) : Host.Outcome State Fault Refusal := finish (s.bar4Read (4 * dw.toNat) (dwCount n))
/-- HOST_BAR4_WRITE of bytes from an offset up (R125, R544, R742). -/
def execHostBar4Write (off : BitVec 24) (l : List Byte) (s : State) : Host.Outcome State Fault Refusal :=
  finish ((s.bar4Write off.toNat l).mailboxSeen off.toNat l)

end Sys2Proof.Machine
end

