-- ==== Sys2Proof/Machine/LatchCommands.lean ====
section
/-! DEFINITION. Commands of the latch channels (R700 to R718) and the charger (R719 to R735). -/
namespace Sys2Proof.Machine

/-! ### Latch channels -/

/-- LATCH_PULSE_JOB (R713 to R715). -/
def execLatchPulseJob (ch : Fin 4) (s : State) : Host.Outcome State Fault Refusal := finish (s.whenFabric fun s => s.latchJob ch.val)
/-- PULSE_SUPPLY_CHECK (R702). -/
def execPulseSupplyCheck (ch : Fin 4) (s : State) : Host.Outcome State Fault Refusal := finish (s.supplyCheck ch.val)
/-- PULSE_HOLD_START: TPULL ends (R702). -/
def execPulseHoldStart (ch : Fin 4) (x : Sense) (s : State) : Host.Outcome State Fault Refusal :=
  finish (s.updPulse ch.val fun p => (p.sensed x).pullEnds)
/-- PULSE_RELEASE: the hold ends (R702). -/
def execPulseRelease (ch : Fin 4) (x : Sense) (s : State) : Host.Outcome State Fault Refusal :=
  finish (s.updPulse ch.val fun p => (p.sensed x).holdEnds)
/-- PULSE_END (R702, R709, R710, R715 to R718). -/
def execPulseEnd (ch : Fin 4) (x : Sense) (s : State) : Host.Outcome State Fault Refusal :=
  finish ((s.updPulse ch.val fun p => p.sensed x).pulseEnd ch.val)
/-- COMPLIANCE_ARM (R705). -/
def execComplianceArm (ch : Fin 4) (x : Sense) (s : State) : Host.Outcome State Fault Refusal := finish (s.updPulse ch.val fun p => (p.sensed x).arm)
/-- COMPLY (R705). -/
def execComply (ch : Fin 4) (x : Sense) (s : State) : Host.Outcome State Fault Refusal := finish (s.updPulse ch.val fun p => (p.sensed x).complies)
/-- OPEN (R706). -/
def execPulseOpen (ch : Fin 4) (x : Sense) (s : State) : Host.Outcome State Fault Refusal := finish (s.updPulse ch.val fun p => (p.sensed x).opens)
/-- SHORT (R707). -/
def execPulseShort (ch : Fin 4) (x : Sense) (s : State) : Host.Outcome State Fault Refusal := finish (s.updPulse ch.val fun p => (p.sensed x).shorts)
/-- CANCEL (R708). -/
def execCancel (src : Src) (ch : Fin 4) (s : State) : Host.Outcome State Fault Refusal := finish (s.srcField src (F.LCH_CTL_CANCEL.ix ch.val) 1)
/-! ### The charger -/

/-- CHARGER_ENABLE (R720). -/
def execChargerEnable (src : Src) (s : State) : Host.Outcome State Fault Refusal := finish (s.srcField src F.CHG_CFG_ENABLE 1)
/-- CHARGER_DISABLE (R720). -/
def execChargerDisable (src : Src) (s : State) : Host.Outcome State Fault Refusal := finish (s.srcField src F.CHG_CFG_ENABLE 0)
/-- PRECHARGE_TO_CC (R722). -/
def execPrechargeToCc (m : Meas) (s : State) : Host.Outcome State Fault Refusal := finish (s.whenAon fun s => (s.chgMeas m).chgPreDone)
/-- PRETIMEOUT (R722). -/
def execPretimeout (s : State) : Host.Outcome State Fault Refusal := finish (s.whenAon State.chgPreTimeout)
/-- CC_TO_CV (R723). -/
def execCcToCv (m : Meas) (s : State) : Host.Outcome State Fault Refusal := finish (s.whenAon fun s => (s.chgMeas m).chgCcDone)
/-- CHARGE_DONE (R724). -/
def execChargeDone (m : Meas) (s : State) : Host.Outcome State Fault Refusal := finish (s.whenAon fun s => (s.chgMeas m).chgDone)
/-- RECHARGE (R725). -/
def execRecharge (m : Meas) (s : State) : Host.Outcome State Fault Refusal := finish (s.whenAon fun s => (s.chgMeas m).chgRecharge)
/-- NTC_SUSPEND (R726). -/
def execNtcSuspend (m : Meas) (s : State) : Host.Outcome State Fault Refusal := finish (s.whenAon fun s => (s.chgMeas m).chgNtcOut)
/-- NTC_RESUME (R726, R728). -/
def execNtcResume (m : Meas) (s : State) : Host.Outcome State Fault Refusal := finish (s.whenAon fun s => (s.chgMeas m).chgNtcIn)
/-- SAFETY_TIMEOUT (R727). -/
def execSafetyTimeout (s : State) : Host.Outcome State Fault Refusal := finish (s.whenAon State.chgTimeout)
/-- CLEARFAULT (R728). -/
def execClearfault (src : Src) (s : State) : Host.Outcome State Fault Refusal := finish (s.srcField src F.CHG_CTL_CLEARFAULT 1)
/-- REMOVED by condition 1 to 3 of R729 (R730). -/
def execRemoved (cause : Fin 3) (m : Meas) (s : State) : Host.Outcome State Fault Refusal :=
  finish (s.whenAon fun s => (s.chgMeas m).chgRemoval (cause.val + 1))
/-- PROBE, over which VBAT rose by so many mV (R731). -/
def execProbe (rise : BitVec 13) (m : Meas) (s : State) : Host.Outcome State Fault Refusal :=
  finish (s.whenAon fun s => (s.chgMeas m).chgProbe rise.toNat)
/-- ONCELL (R732, R733). -/
def execOncell (s : State) : Host.Outcome State Fault Refusal := finish (s.whenAon State.onCell)
/-- OFFCELL (R732, R733). -/
def execOffcell (m : Meas) (s : State) : Host.Outcome State Fault Refusal := finish (s.whenAon fun s => (s.chgMeas m).offCell)
/-- CELL_LDO_STOP (R734). -/
def execCellLdoStop (s : State) : Host.Outcome State Fault Refusal := finish s.cellStop

end Sys2Proof.Machine
end

