-- ==== Sys2Proof/Machine/Memory.lean ====
section
/-! DEFINITION. The memory instructions: loads and stores (R296 to R300), atomics (R301 to R304), fences (R305), IFLUSH (R313), and a store
leaving the store buffer (R427). -/
namespace Sys2Proof.Machine

/-- LD: zero-extended (R296). -/
def execLd (c : CoreId) (rd ra : RegNo) (i : BitVec 16) (s : State) : Host.Outcome State Fault Refusal :=
  finish (run s c 0x04 fun s =>
    loadTo s c (eaDisp ((s.core c).rd ra) i) (sizeOf (i.setWidth 2)) fun q v => q.wr rd (BitVec.ofNat 48 v))
/-- ST: the low bytes of Wd (R296, R298). -/
def execSt (c : CoreId) (rd ra : RegNo) (i : BitVec 16) (s : State) : Host.Outcome State Fault Refusal :=
  finish (run s c 0x05 fun s => storeFrom s c (eaDisp ((s.core c).rd ra) i) (sizeOf (i.setWidth 2)) ((s.core c).rd rd).toNat)

/-- An LDST.R load: SX extends the sign, and is illegal with a word; FN[10:6] must be zero (R297). -/
def execLoadIndexed (c : CoreId) (rd ra rb : RegNo) (size scale : BitVec 2) (sx : Bool) (mbz : BitVec 5) (s : State) :
    Host.Outcome State Fault Refusal :=
  finish (run s c 0x06 fun s =>
    illegalWhen (mbz != 0 || (sx && size == 3)) s
      (loadTo s c (eaIndex ((s.core c).rd ra) ((s.core c).rd rb) scale) (sizeOf size) fun q v =>
        q.wr rd (if sx then sextLoad (sizeOf size) v else BitVec.ofNat 48 v)))
/-- An LDST.R store: SX must be 0 (R297). -/
def execStoreIndexed (c : CoreId) (rd ra rb : RegNo) (size scale : BitVec 2) (sx : Bool) (mbz : BitVec 5) (s : State) :
    Host.Outcome State Fault Refusal :=
  finish (run s c 0x06 fun s =>
    illegalWhen (mbz != 0 || sx) s
      (storeFrom s c (eaIndex ((s.core c).rd ra) ((s.core c).rd rb) scale) (sizeOf size) ((s.core c).rd rd).toNat))

/-- A retired store of a core leaves its store buffer, unless the core is fenced (R60): the oldest one, or the one at index k where
device-weak memory lets it go before older ones (R427, R436). -/
def execStoreDrain (c : CoreId) (k : Fin 32) (s : State) : Host.Outcome State Fault Refusal :=
  finish (if s.pwr.fabricUp && !s.fenced c.val then drainAt s c k.val else s)

/-! ### Atomics -/

/-- An atomic on the word at `va`: every earlier access complete, the word read and, when `f` gives a new value, written, all at once, and
globally visible (R301 to R304). A failed compare still sets D. `g` is the register effect of the old value. -/
def atomic (s : State) (c : CoreId) (va : Word) (f : Nat → Option Nat) (g : Core → Nat → Core) : State × IRes :=
  if va.toNat % 2 ≠ 0 ∨ 60 ≤ va.toNat % 64 then (s, .exc (alignExc 7 va))
  else
    let s := drainAll s c
    let x := (s.core c).ctx
    match checkAccess s c x va.toNat 6 4096 .write true with
    | (s, .inl e) => (s, .exc e)
    | (s, .inr ps) =>
      match readParts s c ps with
      | (s, .poison seg) => (s, .exc (Exc.poison seg (partsPa ps)))
      | (s, .ok l) =>
        let old := ofLe l
        let s := match f old with
          | some v => drainAll (writeParts s c x ps (leBytes 6 v)) c
          | none => markDirty s c x va.toNat
        (s.updCore c fun q => g q old, .next)

/-- CAS: the store is made when memory holds Wd; Z tells (R301). -/
def execCas (c : CoreId) (rd ra rb : RegNo) (s : State) : Host.Outcome State Fault Refusal :=
  finish (run s c 0x07 fun s =>
    let q := s.core c
    let want := (q.rd rd).toNat
    atomic s c (q.rd ra) (fun old => if old = want then some (q.rd rb).toNat else none)
      fun q old => (q.setZ (old == want)).wr rd (BitVec.ofNat 48 old))
/-- FADD (R301). -/
def execFetchAdd (c : CoreId) (rd ra rb : RegNo) (s : State) : Host.Outcome State Fault Refusal :=
  finish (run s c 0x07 fun s =>
    let q := s.core c
    atomic s c (q.rd ra) (fun old => some ((old + (q.rd rb).toNat) % 2 ^ 48)) fun q old => q.wr rd (BitVec.ofNat 48 old))

/-! ### Fences -/

/-- An instruction of class 0x0C that drains stores; its register fields must be zero (R305, R309). -/
def fence (s : State) (c : CoreId) (mbz : BitVec 15) (drain : State → CoreId → State) : State :=
  run s c 0x0C fun s => illegalWhen (mbz != 0) s (drain s c, .next)

/-- FENCE.SL (R305). -/
def execFenceSl (c : CoreId) (mbz : BitVec 15) (s : State) : Host.Outcome State Fault Refusal := finish (fence s c mbz drainAll)
/-- FENCE.ALL (R305). -/
def execFenceAll (c : CoreId) (mbz : BitVec 15) (s : State) : Host.Outcome State Fault Refusal := finish (fence s c mbz drainAll)
/-- FENCE.IO: device-weak stores, those to the link window among them, are performed (R305, R436). -/
def execFenceIo (c : CoreId) (mbz : BitVec 15) (s : State) : Host.Outcome State Fault Refusal := finish (fence s c mbz drainWeak)
/-- IFLUSH: every earlier store is visible; later fetches read memory as it is (R313). -/
def execIflush (c : CoreId) (mbz : BitVec 15) (s : State) : Host.Outcome State Fault Refusal := finish (fence s c mbz drainAll)

end Sys2Proof.Machine
end

