-- ==== Sys2Proof/Machine/PortCommands.lean ====
section
/-! DEFINITION. Commands of the host link (R739 to R752), DRAM and flash (R753 to R767), the ports (R768 to R780, R836), the RTC, timebase and watchdog registers (R781 to R784). -/
namespace Sys2Proof.Machine

/-! ### Link -/

/-- A message or completion for the host is held: MSI, MSI-X, or the completion of a job to a ring in the outbound window (R120, R747,
R748). -/
def State.hostHeld (s : State) : Bool :=
  !s.link.msixWait.isEmpty || s.link.msiPend != 0 ||
    s.pump.flight.any fun f => f.done.isSome && !f.job.inPlace && regionOf (s.cqBase f.job.cq) == .link

/-- PME for a held notification, in D3hot or D3cold (R748). -/
def State.pmeHeld (s : State) : State := if (s.link.dState == 3 || s.link.perst) && s.hostHeld then s.pme else s

/-- PME: a write of HLK_PME.PME by a source, or a held notification (R748). -/
def execPme (src : Option Src) (s : State) : Host.Outcome State Fault Refusal :=
  finish (match src with | some x => s.srcField x F.HLK_PME_PME 1 | none => s.pmeHeld)
/-- PME_TURN_OFF (R749). -/
def execPmeTurnOff (s : State) : Host.Outcome State Fault Refusal := finish (s.whenLink State.pmeTurnOff)
/-- D3HOT_ENTRY (R747). -/
def execD3hotEntry (s : State) : Host.Outcome State Fault Refusal := finish (s.whenLink fun s => s.dState 3)
/-- D0_RETURN (R747). -/
def execD0Return (s : State) : Host.Outcome State Fault Refusal := finish (s.whenLink fun s => s.dState 0)
/-- BUS_MASTER_ENABLE changes (R751). -/
def execBusMasterEnable (on : Bool) (s : State) : Host.Outcome State Fault Refusal := finish (s.whenLink fun s => s.cfgWrite (.command on))
/-- ASPM_L1_REQUEST (R750). -/
def execAspmL1Request (s : State) : Host.Outcome State Fault Refusal := finish (s.whenLink State.aspmL1)
/-- The requester has a request that can end. -/
def State.requests (s : State) : Requester → Bool
  | .core c => s.coreFree c.val
  | .journal => s.journalJob.isSome
  | .lane i => (s.laneJob i.val).isSome
  | .pump w => s.mayFetch w.toNat && (s.ctx w.toNat).hostResident

/-- COMPLETION_TIMEOUT, or another failed completion, of a requester (R745). -/
def execCompletionTimeout (r : Requester) (k : HostFail) (s : State) : Host.Outcome State Fault Refusal :=
  finish (s.whenFabric fun s => if s.requests r then s.hostFail r k else s)
/-- LINK_DOWN (R743). -/
def execLinkDown (s : State) : Host.Outcome State Fault Refusal := finish s.linkDown
/-- CONFIGURATION_WRITE (R739, R745 to R751). -/
def execConfigurationWrite (w : CfgWrite) (s : State) : Host.Outcome State Fault Refusal := finish (s.whenLink fun s => s.cfgWrite w)
/-! ### DRAM and flash -/

/-- DRAM_TEMP_CHECK with the die temperature code (R756). -/
def execDramTempCheck (code : BitVec 12) (s : State) : Host.Outcome State Fault Refusal := finish (s.whenFabric fun s => s.tempCheck code.toNat)
/-- RETRAIN (R762). -/
def execRetrain (src : Src) (s : State) : Host.Outcome State Fault Refusal := finish (s.srcField src F.MEM_CTL_RETRAIN 1)
/-- Lines of installed DRAM that a scrub finds with a correctable and with an uncorrectable error. -/
def State.scrubFinds (s : State) (soft bad : List Nat) : State :=
  let here (l : List Nat) : List Nat := l.filter fun i => decide (64 * i < s.installed)
  s.updDram fun d => { d with eccSoft := (here soft).foldl insertNat d.eccSoft, eccBad := (here bad).foldl insertNat d.eccBad }

/-- DRAM_SCRUB: a pass, and the lines it finds in error (R757, R758, R798). -/
def execDramScrub (soft bad : List Nat) (s : State) : Host.Outcome State Fault Refusal := finish (s.whenFabric fun s => (s.scrubFinds soft bad).scrub)
/-- FLASH_COMMAND: a write of FSP_CMD with GO (R765 to R767). -/
def execFlashCommand (src : Src) (v : Long) (s : State) : Host.Outcome State Fault Refusal :=
  finish (s.srcWrite src F.FSP_CMD_GO.off (setBit v.toNat 31))
/-- FLASH_COMMAND_DONE: whether it ended in time, and the bytes read (R767). -/
def execFlashCommandDone (ok : Bool) (l : List Byte) (s : State) : Host.Outcome State Fault Refusal := finish (s.whenFabric fun s => s.flashDone ok l)
/-! ### UARTs, I²C and GPIO -/

/-- TRANSMIT_DATA (R770). -/
def execTransmitData (src : Src) (u : Fin 4) (d : BitVec 9) (s : State) : Host.Outcome State Fault Refusal :=
  finish (s.srcWrite src (F.UART_TXDATA_DATA.ix u.val).off d.toNat)
/-- RX_POP of n entries (R770). -/
def execRxPop (src : Src) (u : Fin 4) (n : BitVec 7) (s : State) : Host.Outcome State Fault Refusal :=
  finish (s.srcWrite src (F.UART_RXPOP_COUNT.ix u.val).off n.toNat)
/-- UART_FRAME_RECEIVE with its framing error, parity error and break (R769, R770). -/
def execUartFrameReceive (u : Fin 4) (d : BitVec 9) (fe pe brk : Bool) (s : State) : Host.Outcome State Fault Refusal :=
  finish (s.whenAon fun s => s.uartRx u.val d.toNat fe pe brk)
/-- UART_FRAME_SENT, CTSu_N high or low (R769). -/
def execUartFrameSent (u : Fin 4) (cts : Bool) (s : State) : Host.Outcome State Fault Refusal := finish (s.whenAon fun s => s.uartSent u.val cts)
/-- I2C_TRANSFER: a write of I2Cp_CMD with GO (R773 to R775, R811). -/
def execI2cTransfer (src : Src) (p : Fin 2) (v : Long) (s : State) : Host.Outcome State Fault Refusal :=
  finish (s.srcWrite src (F.I2C_CMD_GO.ix p.val).off (clrBit (setBit v.toNat 31) 30))
/-- I2C_TRANSFER_END with its result, bytes done and bytes read (R773, R776). -/
def execI2cTransferEnd (p : Fin 2) (res : BitVec 3) (done : BitVec 7) (l : List Byte) (s : State) : Host.Outcome State Fault Refusal :=
  finish (s.whenAon fun s => s.i2cFinish p.val res.toNat done.toNat (l.map BitVec.toNat))
/-- RECOVER (R774). -/
def execRecover (src : Src) (p : Fin 2) (s : State) : Host.Outcome State Fault Refusal := finish (s.srcField src (F.I2C_CMD_RECOVER.ix p.val) 1)
/-- STRETCHTO: the transfer ends, SDA still low or not after recovery (R772, R774). -/
def execStretchto (p : Fin 2) (stuck : Bool) (done : BitVec 7) (s : State) : Host.Outcome State Fault Refusal :=
  finish (s.whenAon fun s => s.i2cFinish p.val (if stuck then 5 else 4) done.toNat [])
/-- GPIO_EDGE of a pin that is not an output (R778, R779). -/
def execGpioEdge (n : Fin 64) (lvl : Bool) (s : State) : Host.Outcome State Fault Refusal :=
  finish (s.whenAon fun s => if bit (s.get (F.GPIO_DIR_MASK.ix (n.val / 32))) (n.val % 32) then s else s.gpioEdge n.val lvl)
/-- BANK_SUPPLY_CHANGE of a supply, and the levels at its pins (R836). -/
def execBankSupplyChange (k : Fin 6) (up : Bool) (lvls : Half) (s : State) : Host.Outcome State Fault Refusal :=
  finish (s.bankSupply k.val up lvls.toNat)
/-! ### RTC, timebase and watchdogs -/

/-- RTC_SECONDS_WRITE (R782). -/
def execRtcSecondsWrite (src : Src) (v : Long) (s : State) : Host.Outcome State Fault Refusal := finish (s.srcWrite src F.TMB_RTCSEC_SEC.off v.toNat)
/-- ALARM (R783). -/
def execAlarm (s : State) : Host.Outcome State Fault Refusal := finish (s.whenAon State.alarm)
/-- TMB_TBLO is read by a source (R781). -/
def State.tbRead (s : State) (src : Src) : State :=
  if !s.srcLive src then s
  else
    let r := s.setupRead src 0x2A0100
    r.1.answer 0 [r.2]

/-- TIMEBASE_READ (R781). -/
def execTimebaseRead (src : Src) (s : State) : Host.Outcome State Fault Refusal := finish (s.tbRead src)
/-- TMB_WDLCFG, TMB_WDPCFG, TMB_WDDCFG. -/
def wdOffset (n : Nat) : Nat := [0x2A0120, 0x2A0124, 0x2A0200].getD n 0x2A0120

/-- WATCHDOG_CONFIG_WRITE of WDL, WDP or WDD (R784, R816). -/
def execWatchdogConfigWrite (src : Src) (which : Fin 3) (v : Long) (s : State) : Host.Outcome State Fault Refusal :=
  finish (s.srcWrite src (wdOffset which.val) v.toNat)

end Sys2Proof.Machine
end

