-- ==== Sys2Proof/Machine/PowerCommands.lean ====
section
/-! DEFINITION. Commands of power, resets, OTP, the calibration store, the Cistern state and the stall monitors (R51, R60, R112 to R153, R241, R759, R841). -/
namespace Sys2Proof.Machine

/-- COLD_RESET (R113). -/
def execColdReset (s : State) : Host.Outcome State Fault Refusal := finish s.coldReset
/-- AON_RELEASE: orders 1 to 3, with the KLEAD strap (R121, R198). -/
def execAonRelease (klead : Bool) (s : State) : Host.Outcome State Fault Refusal := finish (s.aonRelease klead)
/-- FABRIC_RELEASE: orders 4 to 9, with the BOOTSEL straps, whether DRAM trains, the die temperature code, and whether the flash has its profile
table (R121 to R129, R754, R763). -/
def execFabricRelease (sel : BitVec 2) (dramOk : Bool) (temp : BitVec 16) (profile : Bool) (s : State) : Host.Outcome State Fault Refusal :=
  finish (s.fabricRelease sel.toNat dramOk temp.toNat profile)
/-- HOST_BOOT_MAILBOX: the host writes the start word through BAR4 (R125). -/
def execHostBootMailbox (v : Long) (s : State) : Host.Outcome State Fault Refusal :=
  finish ((s.bar4Write 0xFFFFC4 (leBytes 4 v.toNat)).mailboxSeen 0xFFFFC4 (leBytes 4 v.toNat))
/-- RESET_N_ASSERT (R841). -/
def execResetNAssert (s : State) : Host.Outcome State Fault Refusal := finish (s.warmReset causeResetn)
/-- SOFT_RESET (R114). -/
def execSoftReset (src : Src) (s : State) : Host.Outcome State Fault Refusal := finish (s.srcField src F.PWR_RSTCTL_WARM 1)
/-- HALL_P_RESET (R117). -/
def execHallPReset (src : Src) (s : State) : Host.Outcome State Fault Refusal := finish (s.srcField src F.PWR_RSTCTL_HALLP 1)
/-- HALLPDONE: step 5, once the others are complete (R117). -/
def execHallpdone (s : State) : Host.Outcome State Fault Refusal := finish s.hallPDone
/-- CORE_RESET_HOLD: the bit of one core is set (R119). -/
def execCoreResetHold (src : Src) (k : CoreId) (s : State) : Host.Outcome State Fault Refusal :=
  finish (s.srcField src F.PWR_CORERST_HOLD (setBit (s.get F.PWR_CORERST_HOLD) k.val))
/-- CORE_RELEASE: the bit of one core is cleared (R119). -/
def execCoreRelease (src : Src) (k : CoreId) (s : State) : Host.Outcome State Fault Refusal :=
  finish (s.srcField src F.PWR_CORERST_HOLD (clrBit (s.get F.PWR_CORERST_HOLD) k.val))
/-- LINK_RESET: a hot reset, or PERST# asserted (R120). -/
def execLinkReset (hot : Bool) (s : State) : Host.Outcome State Fault Refusal := finish (s.whenAon fun s => s.linkReset hot)
/-- LINK_UP at the rate and width trained (R120, R752). -/
def execLinkUp (rate : BitVec 3) (width : BitVec 4) (s : State) : Host.Outcome State Fault Refusal :=
  finish (s.whenAon fun s => s.linkUp rate.toNat width.toNat)
/-- OTP_PROGRAM of a word (R133 to R135). -/
def execOtpProgram (src : Src) (n : BitVec 9) (s : State) : Host.Outcome State Fault Refusal :=
  finish (s.srcWrite src F.ID_OTPPROG_GO.off (2 ^ 31 + n.toNat))
/-- OTP_PROGRAM_DONE: the bits that did not take (R133). -/
def execOtpProgramDone (stuck : Long) (s : State) : Host.Outcome State Fault Refusal := finish (s.whenAon fun s => s.otpDone stuck)
/-- CAL_STORE (R141). -/
def execCalStore (src : Src) (s : State) : Host.Outcome State Fault Refusal := finish (s.srcField src F.CAL_CTL_STORE 1)
/-- CAL_STORE_DONE, verified or not (R142). -/
def execCalStoreDone (ok : Bool) (s : State) : Host.Outcome State Fault Refusal := finish (s.whenAon fun s => s.calDone ok)
/-- CISTERN_ENTRY (R144, R145). -/
def execCisternEntry (s : State) : Host.Outcome State Fault Refusal := finish s.cisternEntry
/-- A Gallery wake of a hall, outside the awake state (R147, R681). -/
def State.wakeGallery (s : State) (h : Hall) : State :=
  if s.pwr.cis == .awake || !bit (s.get F.PWR_WAKEEN_EN) 0 then s
  else (s.updPwr fun p => { p with wakeGalL := p.wakeGalL || h == .L }).wake 0

/-- A wake source fires (R147). -/
def State.wakeBy (s : State) : WakeSource → State
  | .gallery h => s.wakeGallery h
  | .window => s.wake 1
  | .gpio => s.wake 2
  | .rtc => s.wake 3
  | .host => s.wake 4
  | .ksync => s.wake 5

/-- WAKE_EVENT (R146, R147). -/
def execWakeEvent (w : WakeSource) (s : State) : Host.Outcome State Fault Refusal := finish (s.whenAon fun s => s.wakeBy w)
/-- CISTERN_WAKE: steps 1 and 2 (R148). -/
def execCisternWake (s : State) : Host.Outcome State Fault Refusal := finish s.cisternWake
/-- WAKE_FABRIC_RELEASE: steps 3 and 4 (R148, R151, R152). -/
def execWakeFabricRelease (s : State) : Host.Outcome State Fault Refusal := finish s.wakeRelease
/-- T_SOURCE_RETURN (R51). -/
def execTSourceReturn (s : State) : Host.Outcome State Fault Refusal := finish s.sourceReturn
/-- STALL_DECLARED in a segment, the handshakes drained with poison (R60). -/
def execStallDeclared (seg : Fin 13) (drained : BitVec 16) (s : State) : Host.Outcome State Fault Refusal := finish (s.stall seg.val drained.toNat)
/-- OSCILLATOR_START_UP (R241). -/
def execOscillatorStartUp (s : State) : Host.Outcome State Fault Refusal := finish s.oscillatorUp
/-- SELF_REFRESH_EXIT (R759). -/
def execSelfRefreshExit (s : State) : Host.Outcome State Fault Refusal := finish (s.whenAon State.selfRefreshExit)

end Sys2Proof.Machine
end

