-- ==== Sys2Proof/Machine/PumpCommands.lean ====
section
/-! DEFINITION. Commands of wells, doorbells, the Pump, completion rings and job leases (R549 to R635, R861). -/
namespace Sys2Proof.Machine

/-! ### Wells -/

/-- WELL_TABLE_ON (R549, R550). -/
def execWellTableOn (src : Src) (s : State) : Host.Outcome State Fault Refusal := finish (s.srcField src F.PMP_WTCTL_ON 1)
/-- WELL_TABLE_OFF (R861). -/
def execWellTableOff (src : Src) (s : State) : Host.Outcome State Fault Refusal := finish (s.srcField src F.PMP_WTCTL_ON 0)
/-- WELL_CONTEXT_WRITE of PMP_WCTXk (R554 to R558). -/
def execWellContextWrite (src : Src) (k : Fin 16) (v : Long) (s : State) : Host.Outcome State Fault Refusal :=
  finish (s.srcWrite src (F.PMP_WCTX_LONG.ix k.val).off v.toNat)
/-- WELL_ENABLE of the well in the window of the source (R559). -/
def execWellEnable (src : Src) (s : State) : Host.Outcome State Fault Refusal := finish (s.srcSet src F.PMP_WCTX_LONG.off 1)
/-- WELL_DISABLE of the well in the window of the source (R561). -/
def execWellDisable (src : Src) (s : State) : Host.Outcome State Fault Refusal :=
  finish (s.srcWrite src F.PMP_WCTX_LONG.off (clrBit (s.readReg src F.PMP_WCTX_LONG.off) 0))
/-- The Pump acts: its fabric is released and it is not fenced. -/
def State.whenPump (s : State) (f : State → State) : State := if s.pwr.fabricUp && !s.fenced 5 then f s else s

/-- A context not on chip is read (R599). -/
def State.missed (s : State) (w : Nat) : State :=
  if s.wellThere w && !(s.pump.cache.any (·.1 == w)) then s.loadCtx w else s

/-- CONTEXT_MISS (R553, R599). -/
def execContextMiss (w : BitVec 14) (s : State) : Host.Outcome State Fault Refusal := finish (s.whenPump fun s => s.missed w.toNat)
/-- DESCRIPTOR_FETCH of a well whose entry is not watched as stale (R568 to R577, R590, R862). -/
def execDescriptorFetch (w : BitVec 14) (s : State) : Host.Outcome State Fault Refusal :=
  finish (s.whenPump fun s => if (s.wellOn w.toNat).stale.isNone then s.fetch w.toNat else s)
/-- STALE_REREAD of a well whose entry is watched as stale (R590). -/
def execStaleReread (w : BitVec 14) (s : State) : Host.Outcome State Fault Refusal :=
  finish (s.whenPump fun s => if (s.wellOn w.toNat).stale.isSome then s.fetch w.toNat else s)
/-! ### Doorbells and polling -/

/-- DOORBELL in any form (R579 to R585). -/
def execDoorbell (src : Src) (w : BitVec 14) (f : DoorbellForm) (s : State) : Host.Outcome State Fault Refusal :=
  finish (s.srcDoorbell src fun s => s.ringForm src w.toNat f)
/-- DOORBELL_KICK of a well (R583, R586). -/
def execDoorbellKick (src : Src) (w : BitVec 14) (s : State) : Host.Outcome State Fault Refusal :=
  finish (s.srcDoorbell src fun s => s.kick src w.toNat)
/-- HOST_BAR2_READ (R582). -/
def execHostBar2Read (dw : BitVec 15) (n : BitVec 10) (s : State) : Host.Outcome State Fault Refusal :=
  finish (s.bar2Dwords (4 * dw.toNat) (dwCount n))
/-- POLL_SCAN (R593). -/
def execPollScan (s : State) : Host.Outcome State Fault Refusal := finish (s.whenPump State.pollScan)
/-- POLL_COOL of a well (R592, R594). -/
def execPollCool (w : BitVec 14) (s : State) : Host.Outcome State Fault Refusal := finish (s.whenPump fun s => s.pollCool w.toNat)
/-! ### Scheduling and completions -/

/-- SCHEDULING_DECISION (R603 to R609, R612, R613). -/
def execSchedulingDecision (s : State) : Host.Outcome State Fault Refusal := finish (s.whenPump fun s => s.schedule 65536)
/-- COMPLETION_WRITE: the k-th that may be written (R608, R620 to R625). -/
def execCompletionWrite (k : Nat) (s : State) : Host.Outcome State Fault Refusal := finish (s.whenPump fun s => s.completionWrite k)
/-- MTIME has passed since the earliest unnotified entry of ring n (R624). -/
def State.moderated (s : State) (n : Nat) : State :=
  if s.get (F.CQ_MOD_MTIME.ix n) ≠ 0 ∧ s.get (F.CQ_ST_UNN.ix n) ≠ 0 then s.notify n else s

/-- MODERATION_TIMEOUT (R624, R625). -/
def execModerationTimeout (n : Fin 2048) (s : State) : Host.Outcome State Fault Refusal := finish (s.whenPump fun s => s.moderated n.val)
/-- CQ_ENABLE (R617, R622). -/
def execCqEnable (src : Src) (n : Fin 2048) (s : State) : Host.Outcome State Fault Refusal := finish (s.srcField src (F.CQ_CTL_ENABLE.ix n.val) 1)
/-- CQ_DISABLE (R617). -/
def execCqDisable (src : Src) (n : Fin 2048) (s : State) : Host.Outcome State Fault Refusal := finish (s.srcField src (F.CQ_CTL_ENABLE.ix n.val) 0)
/-- CQ_INDEX_WRITE (R619). -/
def execCqIndexWrite (src : Src) (n : Fin 2048) (ci : Half) (s : State) : Host.Outcome State Fault Refusal :=
  finish (s.srcField src (F.CQ_IDX_CI.ix n.val) ci.toNat)
/-- PMP_INLBASEL or PMP_INLBASEP. -/
def inletFld : Hall → Fld
  | .L => F.PMP_INLBASEL_ON
  | .P => F.PMP_INLBASEP_ON

/-- INLET_AREA_ON of a hall (R610). -/
def execInletAreaOn (src : Src) (h : Hall) (s : State) : Host.Outcome State Fault Refusal := finish (s.srcField src (inletFld h) 1)
/-! ### Leases -/

/-- LEASE_EXPIRY of an inlet slot (R628). -/
def execLeaseExpiry (k : CoreId) (h : Hall) (slot : Fin 8) (s : State) : Host.Outcome State Fault Refusal :=
  finish (s.whenPump fun s => s.leaseExpire k.val h slot.val)
/-- LEASE_REVOKE: PMP_REVOKE with GO (R629, R630). -/
def execLeaseRevoke (src : Src) (k : CoreId) (h : Hall) (slot : Fin 8) (tag : Byte) (s : State) : Host.Outcome State Fault Refusal :=
  finish (s.srcWrite src F.PMP_REVOKE_GO.off (2 ^ 31 + hallNat h * 2 ^ 18 + k.val * 2 ^ 16 + tag.toNat * 2 ^ 8 + slot.val))

end Sys2Proof.Machine
end

