-- ==== Sys2Proof/Machine/SequencerCommands.lean ====
section
/-! DEFINITION. Commands of the rail sequencer, tempo control and Kraluny stepping (R156 to R209). -/
namespace Sys2Proof.Machine

/-- POWER_UP_RUN_GO (R161 to R163). -/
def execPowerUpRunGo (src : Src) (s : State) : Host.Outcome State Fault Refusal := finish (s.srcField src F.SEQ_STEPCTL_GO 1)
/-- STEPDLY after a step has ended: a run that takes part in stepping releases KSYNC (R201); another begins its next step (R160). -/
def State.stepDelayOver (s : State) : State :=
  if !s.seq.stepDone then s else if s.kPart then s.kRelease else s.nextStep 32 (s.seq.step + 1)

/-- UP_STEP_START (R160). -/
def execUpStepStart (s : State) : Host.Outcome State Fault Refusal := finish s.stepDelayOver
/-- SLOT_UP: PG_EXTn goes high (R157). -/
def execSlotUp (n : Fin 16) (s : State) : Host.Outcome State Fault Refusal := finish (s.whenAon fun s => s.pgHigh n.val)
/-- RAMPTO of a slot elapses: it fails unless it is up (R168). -/
def State.rampTimeout (s : State) (n : Nat) : State := if bit s.seq.ramping n then s.failSlot n 0 else s

/-- RAMP_TIMEOUT (R168). -/
def execRampTimeout (n : Fin 16) (s : State) : Host.Outcome State Fault Refusal := finish (s.rampTimeout n.val)
/-- PGLOSS: PG_EXTn of a slot goes low (R169). -/
def execPgloss (n : Fin 16) (s : State) : Host.Outcome State Fault Refusal := finish (s.whenAon fun s => s.pgLow n.val)
/-- RESTARTDLY after the last slot of a restart is released (R172). -/
def State.seqRestartDue (s : State) : State := if s.seq.state = .restart ∧ s.seq.rel.isEmpty then s.warmReset causeSeq else s

/-- SEQ_RESTART (R172). -/
def execSeqRestart (s : State) : Host.Outcome State Fault Refusal := finish s.seqRestartDue
/-- SHUTDOWN_RUN (R176, R178). -/
def execShutdownRun (src : Src) (s : State) : Host.Outcome State Fault Refusal := finish (s.srcField src F.SEQ_STEPCTL_DOWN 1)
/-- SHUTDOWN_ENTRY_RELEASE: the DELAY of the next entry has passed (R176). -/
def execShutdownEntryRelease (s : State) : Host.Outcome State Fault Refusal := finish s.relStep
/-- DISCHARGE_TIMEOUT (R177). -/
def execDischargeTimeout (s : State) : Host.Outcome State Fault Refusal := finish s.relTimeout
/-- WIN15 has reported INSIDE for MAINSQUAL in COLLAPSED (R184). -/
def State.mainsBack (s : State) : State := if s.seq.state = .collapsed ∧ s.winOut 15 = 2 then s.warmReset causeMains else s

/-- MAINS_QUALIFIED (R184). -/
def execMainsQualified (s : State) : Host.Outcome State Fault Refusal := finish s.mainsBack
/-- MARGIN_REQUEST of a slot, in steps of 0.5% (R185, R186). -/
def execMarginRequest (src : Src) (n : Fin 16) (m : BitVec 6) (s : State) : Host.Outcome State Fault Refusal :=
  finish (s.srcField src (F.SEQ_SLOT_MARG_MARGIN.ix n.val) m.toNat)
/-- TEMPO_SAMPLE at the end of PERIOD (R190, R191, R634). -/
def execTempoSample (s : State) : Host.Outcome State Fault Refusal := finish (s.tempoSample s.backlog)
/-- TEMPO_SETTLE_END (R192). -/
def execTempoSettleEnd (s : State) : Host.Outcome State Fault Refusal := finish s.tempoSettled
/-- KRALUNY_STROBE_START (R203). -/
def execKralunyStrobeStart (s : State) : Host.Outcome State Fault Refusal := finish s.kStrobeStart
/-- KSYNC_STROBE (R199 to R201). -/
def execKsyncStrobe (s : State) : Host.Outcome State Fault Refusal := finish (s.whenAon State.kStrobe)
/-- KSYNC_BREATH: the line is released for 5 µs and driven again, the device holding it before and after (R202). -/
def execKsyncBreath (s : State) : Host.Outcome State Fault Refusal := finish s
/-- KRALUNY_STEP_COMPLETE (R203, R206). -/
def execKralunyStepComplete (s : State) : Host.Outcome State Fault Refusal := finish s.kStepComplete
/-- KSYNC_COUNT_RESET (R200). -/
def execKsyncCountReset (s : State) : Host.Outcome State Fault Refusal := finish (s.whenAon State.kCountReset)
/-- KRALUNY_ABORT (R204). -/
def execKralunyAbort (s : State) : Host.Outcome State Fault Refusal := finish s.kAbort
/-- ABORT (R205). -/
def execAbort (src : Src) (s : State) : Host.Outcome State Fault Refusal := finish (s.srcField src F.SEQ_STEPCTL_ABORT 1)
/-- POWER_GOOD_LOW: PG_EXTn of an awaited slot goes low (R145, R176). -/
def execPowerGoodLow (n : Fin 16) (s : State) : Host.Outcome State Fault Refusal := finish (s.whenAon fun s => s.pgLow n.val)

end Sys2Proof.Machine
end

