-- ==== Sys2Proof/Machine/SetupCommands.lean ====
section
/-! DEFINITION. Commands of set-up space (R73 to R110): writes by any source, the host window BAR0, pairs, the clamp log, epochs. -/
namespace Sys2Proof.Machine

/-- The register at an offset has a field of an access code. -/
def State.hasAcc (off : Nat) (acc : Acc) : Bool :=
  match findReg off with
  | some (d, _, _) => d.fields.any (·.acc == acc)
  | none => false

/-- REGISTER_WRITE (R69, R76 to R82). -/
def execRegisterWrite (src : Src) (off : BitVec 22) (v : Long) (s : State) : Host.Outcome State Fault Refusal :=
  finish (s.srcWrite src off.toNat v.toNat)
/-- HOST_BAR0_READ (R73, R74). -/
def execHostBar0Read (dw : BitVec 20) (n : BitVec 10) (s : State) : Host.Outcome State Fault Refusal := finish (s.bar0Read (4 * dw.toNat) (dwCount n))
/-- HOST_BAR0_WRITE: the bytes enabled, from an offset up (R73). -/
def execHostBar0Write (off : BitVec 22) (l : List Byte) (s : State) : Host.Outcome State Fault Refusal := finish (s.bar0Write off.toNat l)
/-- PAIRED_STAGE: a write of an opening member (R89, R94). -/
def execPairedStage (src : Src) (off : BitVec 22) (v : Long) (s : State) : Host.Outcome State Fault Refusal :=
  finish (if State.hasAcc off.toNat .rws then s.srcWrite src off.toNat v.toNat else s)
/-- PAIRED_COMMIT: a write of a closing member (R91, R93, R96). -/
def execPairedCommit (src : Src) (off : BitVec 22) (v : Long) (s : State) : Host.Outcome State Fault Refusal :=
  finish (if State.hasAcc off.toNat .rwk then s.srcWrite src off.toNat v.toNat else s)
/-- ACCESS_LOCK (R79). -/
def execAccessLock (src : Src) (s : State) : Host.Outcome State Fault Refusal := finish (s.srcField src F.CFG_ACCLOCK_LOCK 1)
/-- CLAMP_LOG_CLEAR (R86, R87). -/
def execClampLogClear (src : Src) (s : State) : Host.Outcome State Fault Refusal := finish (s.srcField src F.CFG_CLAMPCTL_CLEAR 1)
/-- EPOCH_GO (R101 to R104). -/
def execEpochGo (src : Src) (s : State) : Host.Outcome State Fault Refusal := finish (s.srcField src F.PMP_EPOCH_GO 1)
/-- WELL_CROSS (R105 to R108). -/
def execWellCross (w : BitVec 14) (s : State) : Host.Outcome State Fault Refusal := finish (s.whenFabric fun s => s.wellCross w.toNat)

end Sys2Proof.Machine
end

