-- ==== Sys2Proof/Machine/Strings.lean ====
section
/-! DEFINITION. The string instructions, class 0x14 (R360 to R363, R381 to R393). -/
namespace Sys2Proof.Machine

/-! ### Units (R388 to R391) -/

/-- The bytes a unit uses, in the order of R389: operand number, address, kind. -/
structure Use where
  opn : Nat
  va : Nat
  kind : Kind
deriving DecidableEq, Repr

/-- The first byte of each page of each operand, as a piece to check (R389). -/
def usePages : List Use → List (Nat × Nat) → List (Nat × Piece)
  | [], _ => []
  | u :: l, seen =>
    if seen.contains (u.opn, u.va / 4096) then usePages l seen
    else (u.opn, ⟨u.va, 1, 0, u.kind⟩) :: usePages l ((u.opn, u.va / 4096) :: seen)

/-- The checked part that holds one byte of an operand. -/
def bytePart (ps : List (Nat × Part)) (opn va : Nat) : Part :=
  match ps.find? fun p => p.1 == opn && p.2.va / 4096 == va / 4096 with
  | some (_, p) => ⟨va, p.pa + va - p.va, 1, p.mt⟩
  | none => ⟨va, va, 1, 0⟩

/-- Check the bytes a unit uses (R389, R391). -/
def checkUses (s : State) (c : CoreId) (l : List Use) : State × (Exc ⊕ List (Nat × Part)) :=
  let ps := usePages l []
  match checkAll s c (s.core c).ctx false (ps.map (·.2)) with
  | (s, .inl e) => (s, .inl e)
  | (s, .inr qs) => (s, .inr ((ps.map (·.1)).zip qs))

/-- Read one byte of an operand. -/
def readByte (s : State) (c : CoreId) (p : Part) : State × (Exc ⊕ Nat) :=
  match readPart s c p with
  | (s, .poison seg) => (s, .inl (Exc.poison seg p.pa))
  | (s, .ok l) => (s, .inr (l.headD 0).toNat)

/-- How a unit ends: the instruction goes on, is complete, or raises an exception with nothing of the unit done. -/
inductive UnitRes
  | more
  | done
  | exc (e : Exc)
deriving DecidableEq, Repr

/-- The units of one execution. `lim` limits them: 0 none, else the execution stops after that many, as it does for an event that arrives
(R392); an event that is never held stops it at the next boundary (R393). -/
def units (unit : State → State × UnitRes) (c : CoreId) : Nat → Nat → State → State × IRes
  | 0, _, s => (s, .cut)
  | k + 1, lim, s =>
    match unit s with
    | (s, .exc e) => (s, .exc e)
    | (s, .done) => (s, .next)
    | (s, .more) => if lim = 1 ∨ (s.core c).due ≠ Due.none then (s, .cut) else units unit c k (lim - 1) s

/-- Addresses wrap at 2^48 (R255). -/
def addrAt (a : Word) (i : Nat) : Nat := (a.toNat + i) % 2 ^ 48

/-- Positions of an ascending unit: up to the end of the leading operand's 256-byte block (R388). -/
def unitLen (a : Word) (l : Nat) : Nat := min l (256 - a.toNat % 256)
/-- Positions of a MOVB unit, from the high end. -/
def unitLenDown (a : Word) (l : Nat) : Nat := min l (addrAt a (l - 1) % 256 + 1)

/-- The length operand L (R381). -/
def lenOf (w : Word) : Nat := w.toNat % 2 ^ 24

/-! ### Moves and fills -/

/-- What a position writes: a copy, a translation through a table, a fill (R382). -/
inductive Move
  | copy
  | table (t : Word)
  | fill (b : Nat)
deriving DecidableEq, Repr

/-- A byte as the unit reads it: as written earlier in the unit, else as it stands (R390). `wrote` holds what the unit has written. -/
def seenByte (s : State) (c : CoreId) (ps : List (Nat × Part)) (wrote : List (Nat × Nat)) (opn va : Nat) : State × (Exc ⊕ Nat) :=
  let p := bytePart ps opn va
  match wrote.find? fun w => w.1 == p.pa with
  | some (_, b) => (s, .inr b)
  | none => readByte s c p

/-- The value of one position; operand 0 is the table, 1 the source. -/
def moveByte (s : State) (c : CoreId) (ps : List (Nat × Part)) (wrote : List (Nat × Nat)) (m : Move) (src : Nat) : State × (Exc ⊕ Nat) :=
  match m with
  | .fill b => (s, .inr b)
  | .copy => seenByte s c ps wrote 1 src
  | .table t =>
    match seenByte s c ps wrote 1 src with
    | (s, .inl e) => (s, .inl e)
    | (s, .inr b) => seenByte s c ps wrote 0 (addrAt t b)

/-- The positions of a unit in processing order, each as source and destination address; answers what was written, newest first. -/
def moveLoop (c : CoreId) (ps : List (Nat × Part)) (m : Move) : List (Nat × Nat) → List (Nat × Nat) → State → State × (Exc ⊕ List (Nat × Nat))
  | [], wrote, s => (s, .inr wrote)
  | (src, dst) :: l, wrote, s =>
    match moveByte s c ps wrote m src with
    | (s, .inl e) => (s, .inl e)
    | (s, .inr b) => moveLoop c ps m l (((bytePart ps 2 dst).pa, b) :: wrote) s

/-- The bytes a unit of moves uses: the table, then for each position its source and its destination (R389). -/
def moveUses (m : Move) (l : List (Nat × Nat)) : List Use :=
  let tab := match m with
    | .table t => (List.range 256).map fun i => (⟨0, addrAt t i, .read⟩ : Use)
    | _ => []
  let src (a : Nat) : List Use := match m with
    | .fill _ => []
    | _ => [⟨1, a, .read⟩]
  tab ++ l.flatMap fun p => src p.1 ++ [⟨2, p.2, .write⟩]

/-- A unit of moves: checked whole, then read and written, its stores in ascending order (R363, R389, R391). -/
def moveUnit (s : State) (c : CoreId) (m : Move) (l : List (Nat × Nat)) (down : Bool) : State × Option Exc :=
  match checkUses s c (moveUses m l) with
  | (s, .inl e) => (s, some e)
  | (s, .inr ps) =>
    match moveLoop c ps m l [] s with
    | (s, .inl e) => (s, some e)
    | (s, .inr wrote) =>
      let out := (if down then wrote else wrote.reverse).map fun w => BitVec.ofNat 8 w.2
      let low := if down then l.getLastD (0, 0) else l.headD (0, 0)
      let p := bytePart ps 2 low.2
      (writePart s c (s.core c).ctx { p with len := out.length } out, none)

/-- The progress registers are distinct, and none is W0 (R361). -/
def badProgress (l : List RegNo) : Bool := l.contains 0 || !decide l.Nodup

/-- The fuel that suffices for the units of lengths that sum to n. -/
def unitFuel (n : Nat) : Nat := n / 256 + 6

/-- An ascending move or fill; `adv` says whether RA advances (R386, R387). -/
def moveUp (s : State) (c : CoreId) (rd ra rb : RegNo) (m : Move) (adv : Bool) : State × UnitRes :=
  let q := s.core c
  let l := lenOf (q.rd rb)
  if l = 0 then (s, .done)
  else
    let n := unitLen (q.rd rd) l
    match moveUnit s c m ((List.range n).map fun i => (addrAt (q.rd ra) i, addrAt (q.rd rd) i)) false with
    | (s, some e) => (s, .exc e)
    | (s, none) =>
      let k := BitVec.ofNat 48 n
      (s.updCore c fun q =>
        let q := q.wr rd (q.rd rd + k)
        let q := if adv then q.wr ra (q.rd ra + k) else q
        q.wr rb (BitVec.ofNat 48 (l - n)), if l = n then .done else .more)

/-- A move from the high end down (R382, R386). -/
def moveDown (s : State) (c : CoreId) (rd ra rb : RegNo) : State × UnitRes :=
  let q := s.core c
  let l := lenOf (q.rd rb)
  if l = 0 then (s, .done)
  else
    let n := unitLenDown (q.rd rd) l
    match moveUnit s c .copy ((List.range n).map fun i => (addrAt (q.rd ra) (l - 1 - i), addrAt (q.rd rd) (l - 1 - i))) true with
    | (s, some e) => (s, .exc e)
    | (s, none) => (s.updCore c fun q => q.wr rb (BitVec.ofNat 48 (l - n)), if l = n then .done else .more)

/-- A string instruction: its operands checked for legality, then its units. -/
def strRun (s : State) (c : CoreId) (bad : Bool) (lim : Nat) (len : Core → Nat) (unit : State → State × UnitRes) : State :=
  run s c 0x14 fun s => illegalWhen bad s (units unit c (unitFuel (len (s.core c))) lim s)

/-- MOVS (R382): RX must be zero. `lim` as in `units`. -/
def execMovs (c : CoreId) (rd ra rb rx : RegNo) (lim : Nat) (s : State) : Host.Outcome State Fault Refusal :=
  finish (strRun s c (badProgress [rd, ra, rb] || rx != 0) lim (fun q => lenOf (q.rd rb)) fun s => moveUp s c rd ra rb .copy true)
/-- MOVB (R382). -/
def execMovb (c : CoreId) (rd ra rb rx : RegNo) (lim : Nat) (s : State) : Host.Outcome State Fault Refusal :=
  finish (strRun s c (badProgress [rd, ra, rb] || rx != 0) lim (fun q => lenOf (q.rd rb)) fun s => moveDown s c rd ra rb)
/-- MOVT: RX is the table (R382). -/
def execMovt (c : CoreId) (rd ra rb rx : RegNo) (lim : Nat) (s : State) : Host.Outcome State Fault Refusal :=
  finish (strRun s c (badProgress [rd, ra, rb, rx]) lim (fun q => lenOf (q.rd rb)) fun s =>
    moveUp s c rd ra rb (.table ((s.core c).rd rx)) true)
/-- FILLS (R382). -/
def execFills (c : CoreId) (rd ra rb rx : RegNo) (lim : Nat) (s : State) : Host.Outcome State Fault Refusal :=
  finish (strRun s c (badProgress [rd, ra, rb] || rx != 0) lim (fun q => lenOf (q.rd rb)) fun s =>
    moveUp s c rd ra rb (.fill (((s.core c).rd ra).toNat % 256)) false)

/-! ### Comparisons and scans -/

/-- What a scan of a unit's positions finds: the position at which it stops with two values, or none. -/
inductive Scan
  | stop (i a b : Nat)
  | pass
  | exc (e : Exc)
deriving DecidableEq, Repr

/-- Test positions in order with `test`, which reads what it needs and says whether the position stops the instruction. -/
def scanLoop (test : State → Nat → State × (Exc ⊕ Option (Nat × Nat))) : List Nat → State → State × Scan
  | [], s => (s, .pass)
  | i :: l, s =>
    match test s i with
    | (s, .inl e) => (s, .exc e)
    | (s, .inr (some (a, b))) => (s, .stop i a b)
    | (s, .inr none) => scanLoop test l s

/-- A unit of n positions, each using `use i`, after `pre` (R389): when a check fails, the positions before the byte that fails are tested
first, since the bytes after a stop are not used (log entry 30). -/
def scanUnit (s : State) (c : CoreId) (n : Nat) (pre : List Use) (use : Nat → List Use)
    (test : List (Nat × Part) → State → Nat → State × (Exc ⊕ Option (Nat × Nat))) : State × Scan :=
  let all (n : Nat) := pre ++ (List.range n).flatMap use
  match checkUses s c (all n) with
  | (s, .inr ps) => scanLoop (test ps) (List.range n) s
  | (s, .inl e) =>
    let k := ((List.range n).find? fun i => (use i).any fun u => e.fa == some (BitVec.ofNat 48 u.va)).getD 0
    match checkUses s c (all k) with
    | (s, .inl _) => (s, .exc e)
    | (s, .inr ps) =>
      match scanLoop (test ps) (List.range k) s with
      | (s, .pass) => (s, .exc e)
      | r => r

/-- Positions of a CMPS unit: while the leading operand's address stays in one 256-byte block (R388). -/
def cmpsLen (a b : Word) (l1 l2 : Nat) : Nat :=
  let lead (i : Nat) : Nat := (if i < l1 then addrAt a i else addrAt b i) / 256
  let m := min 256 (max l1 l2)
  ((List.range m).find? fun i => lead i != lead 0).getD m

/-- The lengths of CMPS (R381). -/
def lenOf2 (w : Word) : Nat := w.toNat / 2 ^ 24

/-- Registers of CMPS after c positions (R386). -/
def Core.cmpsProgress (q : Core) (rd ra rb : RegNo) (k : Nat) : Core :=
  let l1 := lenOf (q.rd rb)
  let l2 := lenOf2 (q.rd rb)
  let c1 := min k l1
  let c2 := min k l2
  ((q.wr rd (q.rd rd + BitVec.ofNat 48 c1)).wr ra (q.rd ra + BitVec.ofNat 48 c2)).wr rb (BitVec.ofNat 48 (l1 - c1 + (l2 - c2) * 2 ^ 24))

/-- One byte of a CMPS operand, or the pad byte. -/
def cmpsByte (s : State) (c : CoreId) (ps : List (Nat × Part)) (opn : Nat) (a : Word) (l pad i : Nat) : State × (Exc ⊕ Nat) :=
  if i < l then readByte s c (bytePart ps opn (addrAt a i)) else (s, .inr pad)

/-- A unit of CMPS; the flags are those of a - b on unsigned bytes, equal when every pair was (R384). -/
def cmpsUnit (s : State) (c : CoreId) (rd ra rb rx : RegNo) : State × UnitRes :=
  let q := s.core c
  let l1 := lenOf (q.rd rb)
  let l2 := lenOf2 (q.rd rb)
  let pad := (q.rd rx).toNat % 256
  let n := cmpsLen (q.rd rd) (q.rd ra) l1 l2
  let use (i : Nat) : List Use :=
    (if i < l1 then [⟨1, addrAt (q.rd rd) i, .read⟩] else []) ++ (if i < l2 then [⟨2, addrAt (q.rd ra) i, .read⟩] else [])
  let test (ps : List (Nat × Part)) (s : State) (i : Nat) : State × (Exc ⊕ Option (Nat × Nat)) :=
    match cmpsByte s c ps 1 (q.rd rd) l1 pad i with
    | (s, .inl e) => (s, .inl e)
    | (s, .inr a) =>
      match cmpsByte s c ps 2 (q.rd ra) l2 pad i with
      | (s, .inl e) => (s, .inl e)
      | (s, .inr b) => (s, .inr (if a = b then none else some (a, b)))
  match scanUnit s c n [] use test with
  | (s, .exc e) => (s, .exc e)
  | (s, .stop i a b) =>
    (s.updCore c fun q => (q.cmpsProgress rd ra rb i).setFlags ⟨decide (a < b), false, decide (b < a), false⟩, .done)
  | (s, .pass) =>
    if max l1 l2 ≤ n then
      (s.updCore c fun q => (if n = 0 then q else q.cmpsProgress rd ra rb n).setFlags ⟨false, true, true, false⟩, .done)
    else (s.updCore c fun q => q.cmpsProgress rd ra rb n, .more)

/-- CMPS (R384). -/
def execCmps (c : CoreId) (rd ra rb rx : RegNo) (lim : Nat) (s : State) : Host.Outcome State Fault Refusal :=
  finish (strRun s c (badProgress [rd, ra, rb, rx]) lim (fun q => lenOf (q.rd rb) + lenOf2 (q.rd rb)) fun s => cmpsUnit s c rd ra rb rx)

/-- Registers of SCNS and TRTS after k positions (R386). -/
def Core.scanProgress (q : Core) (ra rb : RegNo) (k : Nat) : Core :=
  (q.wr ra (q.rd ra + BitVec.ofNat 48 k)).wr rb (BitVec.ofNat 48 (lenOf (q.rd rb) - k))

/-- A unit of SCNS or TRTS: a table of `tab` bytes at RX; `hit` says, of a byte and the table, the value found (R385). -/
def findUnit (s : State) (c : CoreId) (rd ra rb rx : RegNo) (tab : Nat)
    (hit : List (Nat × Part) → State → Nat → State × (Exc ⊕ Option Nat)) : State × UnitRes :=
  let q := s.core c
  let l := lenOf (q.rd rb)
  let a := q.rd ra
  let miss (q : Core) : Core := (q.wr rd 0).setFlags ⟨false, true, false, false⟩
  if l = 0 then (s.updCore c miss, .done)
  else
    let n := unitLen a l
    let test (ps : List (Nat × Part)) (s : State) (i : Nat) : State × (Exc ⊕ Option (Nat × Nat)) :=
      match readByte s c (bytePart ps 1 (addrAt a i)) with
      | (s, .inl e) => (s, .inl e)
      | (s, .inr b) =>
        match hit ps s b with
        | (s, .inl e) => (s, .inl e)
        | (s, .inr r) => (s, .inr (r.map fun v => (v, 0)))
    match scanUnit s c n ((List.range tab).map fun i => ⟨0, addrAt (q.rd rx) i, .read⟩) (fun i => [⟨1, addrAt a i, .read⟩]) test with
    | (s, .exc e) => (s, .exc e)
    | (s, .stop i v _) =>
      (s.updCore c fun q => ((q.scanProgress ra rb i).wr rd (BitVec.ofNat 48 v)).setFlags ⟨false, false, false, false⟩, .done)
    | (s, .pass) =>
      if l = n then (s.updCore c fun q => miss (q.scanProgress ra rb n), .done)
      else (s.updCore c fun q => q.scanProgress ra rb n, .more)

/-- RD of SCNS and TRTS may be W0, and differs from the progress registers (R381). -/
def badScan (rd ra rb rx : RegNo) : Bool := badProgress [ra, rb, rx] || rd == ra || rd == rb || rd == rx

/-- SCNS: the bit of the byte in the bitmap (R382, R385). -/
def execScns (c : CoreId) (rd ra rb rx : RegNo) (lim : Nat) (s : State) : Host.Outcome State Fault Refusal :=
  finish (strRun s c (badScan rd ra rb rx) lim (fun q => lenOf (q.rd rb)) fun s =>
    findUnit s c rd ra rb rx 32 fun ps s' b =>
      match readByte s' c (bytePart ps 0 (addrAt ((s.core c).rd rx) (b / 8))) with
      | (t, .inl e) => (t, .inl e)
      | (t, .inr m) => (t, .inr (if bit m (b % 8) then some b else none)))
/-- TRTS: the table byte (R382, R385). -/
def execTrts (c : CoreId) (rd ra rb rx : RegNo) (lim : Nat) (s : State) : Host.Outcome State Fault Refusal :=
  finish (strRun s c (badScan rd ra rb rx) lim (fun q => lenOf (q.rd rb)) fun s =>
    findUnit s c rd ra rb rx 256 fun ps s' b =>
      match readByte s' c (bytePart ps 0 (addrAt ((s.core c).rd rx) b)) with
      | (t, .inl e) => (t, .inl e)
      | (t, .inr m) => (t, .inr (if m = 0 then none else some m)))

end Sys2Proof.Machine
end

