-- ==== Sys2Proof/Machine/System.lean ====
section
/-! DEFINITION. Stairs, gates and passages (R448 to R463), control registers (R464 to R470), exception return (R489), the user-access guard
(R517), TLB invalidation (R526, R527), SKEY (R540, R541), and the entry of exceptions and interrupts as events of their own (R481, R497). -/
namespace Sys2Proof.Machine

/-! ### Gates and passages -/

/-- An entry: PC, SP and control word (R448, R449). -/
structure GateEntry where
  pc : Word
  sp : Word
  ctl : Nat
deriving DecidableEq, Repr

/-- Gate Fault of a gate, and of a passage with the hall it is taken to (R459, R461, R480). -/
def gateFault (cause g : Nat) : Exc := Exc.plain 0x0F cause g
def passFault (cause p : Nat) (toL : Bool) : Exc := ⟨0x0F, cause, 0x100 + p, none, none, toL⟩

/-- Why a gate or passage stops: a Gate Fault cause, or an exception of its own (R450). -/
inductive GateStop
  | cause (n : Nat)
  | exc (e : Exc)
deriving DecidableEq, Repr

/-- Read 16 bytes of a table without translation, with the rights of R284 and R447 of the hall that owns it (R450). -/
def tableRead (s : State) (c : CoreId) (h : Hall) (pa : Nat) : State × (GateStop ⊕ GateEntry) :=
  let key := s.keyByte (s.core c).keys 256 pa
  let keyed := regionOf pa == .dram && s.flag F.KEY_CTL_ENABLE && h == .P
  if (s.busCause h pa .read).isSome || regionOf pa == .setup || (keyed && s.inKeyStore pa) then (s, .inl (.cause 3))
  else if keyed && s.keyPoison (s.core c).keys pa then (s.logError c.val 7 9 true (some pa), .inl (.exc (Exc.poison 9 pa)))
  else if keyed && bit key.1 7 then (s, .inl (.cause 3))
  else match readPart s c ⟨pa, pa, 16, typeTe0 pa⟩ with
    | (s, .poison seg) => (s, .inl (.exc (Exc.poison seg pa)))
    | (s, .ok l) =>
      (s, .inr ⟨BitVec.ofNat 48 (ofLe (l.take 6) / 4 * 4), BitVec.ofNat 48 (ofLe ((l.drop 6).take 6)), ofLe (l.drop 12)⟩)

/-- The 16 bytes of a spill record (R454). -/
def spillBytes (pc csw : Word) (depth : Nat) : List Byte := leBytes 6 pc.toNat ++ leBytes 6 csw.toNat ++ leBytes 4 depth

/-- The return registers of a stair with an outstanding entry are saved on its stack; otherwise SPLOAD loads W31 (R451 steps 6 to 8, R454,
R455). `x` is the context of the entry. -/
def pushReturn (s : State) (c : CoreId) (x : Ctx) (e : GateEntry) : State × Option GateStop :=
  let q := s.core c
  let d := (q.cr x.hall (crRDEPTH x.stair)).toNat
  let sp := q.spOf x.hall x.stair
  if d = 0 then (if bit e.ctl 1 then s.updCore c fun q => q.setSp x.hall x.stair e.sp else s, none)
  else if sp.toNat % 16 ≠ 0 then (s, some (.cause 6))
  else if 255 ≤ d then (s, some (.cause 7))
  else
    let l := spillBytes (q.cr x.hall (crRETPC x.stair)) (q.cr x.hall (crRETCSW x.stair)) d
    match storeBytes s c x (sp - 16#48).toNat 4096 l with
    | (s, some f) => (s, some (if f.vec = 0x14 then .exc f else .cause 8))
    | (s, none) => (s.updCore c fun q => q.setSp x.hall x.stair (sp - 16#48), none)

/-- Steps 9 of R451 and 8 of R459: the return registers of stair t of hall h. -/
def Core.setReturn (q : Core) (h : Hall) (t : Nat) (pc csw : Word) : Core :=
  let d := q.cr h (crRDEPTH t)
  ((q.setCr h (crRETPC t) pc).setCr h (crRETCSW t) csw).setCr h (crRDEPTH t) (d + 1#48)

/-- CSW of an entry through a gate (R451 step 10). -/
def gateCsw (csw : Word) (t ctl : Nat) : Word :=
  cswSet (cswSet (cswSet (cswSet csw 17 16 t) 15 12 (bitsOf ctl 15 12)) 11 8 (bitsOf ctl 11 8)) 19 19 0

/-- The entry of gate g into stair t: fast from control registers, else from the table of the current hall (R449, R451 step 3). -/
def gateEntry (s : State) (c : CoreId) (t g : Nat) : State × (GateStop ⊕ GateEntry) :=
  let q := s.core c
  let h := q.hall
  if g ≤ 7 then
    (s, .inr ⟨q.cr h (0x040 + 8 * t + g), q.cr h (crENTRYSP t), (q.cr h (0x060 + 8 * t + g)).toNat⟩)
  else tableRead s c h ((q.cr h (crGTBASE t)).toNat + 16 * (g - 8))

/-- A stop of a DESCEND or ASCEND as an exception. -/
def GateStop.gate (r : GateStop) (g : Nat) : Exc :=
  match r with
  | .cause n => gateFault n g
  | .exc e => e

/-- Steps 1 to 10 of R451. -/
def descend (s : State) (c : CoreId) (t g : Nat) : State × IRes :=
  let q := s.core c
  let h := q.hall
  if q.stair ≤ t then (s, .exc (gateFault 1 g))
  else if 8 ≤ g ∧ 8 + min 248 (q.cr h (crGTCOUNT t)).toNat ≤ g then (s, .exc (gateFault 2 g))
  else match gateEntry s c t g with
    | (s, .inl r) => (s, .exc (r.gate g))
    | (s, .inr e) =>
      if !bit e.ctl 0 then (s, .exc (gateFault 4 g))
      else if !bit e.ctl (4 + q.stair) then (s, .exc (gateFault 5 g))
      else match pushReturn s c ⟨h, t, bitsOf e.ctl 11 8, cswTe q.csw, false⟩ e with
        | (s, some r) => (s, .exc (r.gate g))
        | (s, none) =>
          (s.updCore c fun q => { q.setReturn h t (q.pc + 4#48) q.csw with csw := gateCsw q.csw t e.ctl }, .jump e.pc)

/-- DESCEND: RD 0 to 2 and g 0 to 255; a trap is delivered first, then an open window ends (R309, R451). -/
def execDescend (c : CoreId) (t : Fin 32) (g : BitVec 10) (s : State) : Host.Outcome State Fault Refusal :=
  finish (runBar s c 0x0C fun s => illegalWhen (decide (2 < t.val) || decide (255 < g.toNat)) s
    (descend (endHold s c 5) c t.val g.toNat))

/-- Registers that carry no parameters are cleared (R459 step 9, R462); a core without units holds no F and DA registers. -/
def Core.scrub (q : Core) (units : Bool) : Core :=
  let w := Vector.ofFn fun i : Fin 31 => if 9 ≤ i.val then 0 else q.w[i]
  if units then { q with w := w, f := Core.reset.f, da := Core.reset.da } else { q with w := w }

/-- CSW of an entry through a passage (R459 step 10). -/
def passCsw (csw : Word) (t ctl : Nat) : Word :=
  let v := cswSet (cswSet (gateCsw csw t ctl) 18 18 0) 20 20 (bitsOf ctl 2 2)
  cswSet v 5 4 0

/-- A stop of a PASSAGE as an exception: those of the entry into Hall L are Hall L's (R459). -/
def GateStop.passage (r : GateStop) (p : Nat) : Exc :=
  match r with
  | .cause n => passFault n p true
  | .exc e => e

/-- Steps 7 to 10 of R459 on the core; without an FPU no FCSW is saved. -/
def Core.enterPassage (q : Core) (units : Bool) (t : Nat) (e : GateEntry) : Core :=
  let csw := q.csw
  let q := if units then { q.setCr .L crPSAVEFCSW q.fcsw with fcsw := 0, fpNew := 0 } else q
  { (q.setReturn .L t (q.pc + 4#48) csw).scrub units with csw := passCsw csw t e.ctl }

/-- The steps of R459. -/
def passage (s : State) (c : CoreId) (p : Nat) : State × IRes :=
  let q := s.core c
  if q.hall = .L then (s, .exc (passFault 11 p true))
  else if min 64 (q.cr .L crPASSCOUNT).toNat ≤ p then (s, .exc (passFault 2 p false))
  else match tableRead s c .L ((q.cr .L crPASSBASE).toNat + 16 * p) with
    | (s, .inl r) => (s, .exc (r.passage p))
    | (s, .inr e) =>
      let t := bitsOf e.ctl 3 3
      if !bit e.ctl 0 then (s, .exc (passFault 4 p false))
      else if !bit e.ctl (4 + q.stair) then (s, .exc (passFault 5 p false))
      else match pushReturn s c ⟨.L, t, bitsOf e.ctl 11 8, bit e.ctl 2, false⟩ e with
        | (s, some r) => (s, .exc (r.passage p))
        | (s, none) => (s.updCore c fun q => q.enterPassage (Variant.hasDsc s.variant) t e, .jump e.pc)

/-- PASSAGE: p 0 to 63 (R309, R459). -/
def execPassage (c : CoreId) (p : BitVec 10) (mbz : BitVec 5) (s : State) : Host.Outcome State Fault Refusal :=
  finish (runBar s c 0x0C fun s => illegalWhen (mbz != 0 || decide (63 < p.toNat)) s (passage (endHold s c 5) c p.toNat))

/-! ### ASCEND -/

/-- Hall P Reset with cause ENTRY (R118). -/
def hallPEntry : Exc := ⟨0x12, 1, 0, none, none, true⟩

/-- Step 5 and 7 of R456: the spill record under the outstanding entry, for a depth of 2 or more. -/
def popReturn (s : State) (c : CoreId) : State × (GateStop ⊕ Option (Word × Word)) :=
  let q := s.core c
  let t := q.stair
  let sp := q.spOf q.hall t
  if (q.cr q.hall (crRDEPTH t)).toNat ≤ 1 then (s, .inr none)
  else if sp.toNat % 16 ≠ 0 then (s, .inl (.cause 6))
  else match loadBytes s c q.ctx sp.toNat 16 4096 .read with
    | (s, .inl f) => (s, .inl (if f.vec = 0x14 then .exc f else .cause 9))
    | (s, .inr l) => (s, .inr (some (BitVec.ofNat 48 (ofLe (l.take 6)), BitVec.ofNat 48 (ofLe ((l.drop 6).take 6)))))

/-- The return registers after an ASCEND from stair t of hall h (R456 steps 7 and 8). -/
def Core.popped (q : Core) (h : Hall) (t : Nat) (r : Option (Word × Word)) : Core :=
  let d := q.cr h (crRDEPTH t)
  let q := match r with
    | some (pc, csw) =>
      ((q.setCr h (crRETPC t) pc).setCr h (crRETCSW t) csw).setSp h t (q.spOf h t + 16#48)
    | none => q
  q.setCr h (crRDEPTH t) (d - 1#48)

/-- CSW after an ASCEND: the flags are kept, UOPEN is cleared (R456 step 10). -/
def ascendCsw (csw target : Word) : Word := (csw &&& 0xF#48) ||| (target &&& 0x17FF30#48)

/-- The passage return (R462). -/
def Core.leavePassage (q : Core) (units : Bool) : Core :=
  let q := q.scrub units
  if units then { q with fcsw := q.cr .L crPSAVEFCSW, fpNew := 0 } else q

/-- The steps of R456. -/
def ascend (s : State) (c : CoreId) : State × IRes :=
  let q := s.core c
  let h := q.hall
  let t := q.stair
  let target := q.cr h (crRETCSW t)
  let pc := q.cr h (crRETPC t)
  if (q.cr h (crRDEPTH t)).toNat = 0 then (s, .exc (gateFault 10 0))
  else if cswHall target = h ∧ cswStair target ≤ t then (s, .exc (gateFault 10 0))
  else if cswHall target = .P ∧ ¬ s.flag F.PWR_HALLPCTL_ENABLE then (s, .exc hallPEntry)
  else match popReturn s c with
    | (s, .inl r) => (s, .exc (r.gate 0))
    | (s, .inr r) =>
      (s.updCore c fun q =>
        let q := q.popped h t r
        let q := if cswHall target = h then q else q.leavePassage (Variant.hasDsc s.variant)
        { q with csw := ascendCsw q.csw target }, .jump pc)

/-- ASCEND (R456, R457). -/
def execAscend (c : CoreId) (mbz : BitVec 15) (s : State) : Host.Outcome State Fault Refusal :=
  finish (runBar s c 0x0D fun s => illegalWhen (mbz != 0) s (ascend (endHold s c 5) c))

/-! ### Control registers -/

/-- The bank that N10 names (R464). -/
def Core.crBank (q : Core) (n : BitVec 10) : Hall := if n.getLsbD 9 then .P else q.hall

/-- Why a control-register move is refused: an undefined index, then N10[9] outside Hall L stair 0, then a stair above the limit
(R465 to R467, R299). -/
def Core.crRefused (q : Core) (n : BitVec 10) (wr : Bool) : Option Exc :=
  match crInfo (q.crBank n) (n.toNat % 512) with
  | none => some Exc.illegal
  | some (_, r, w) =>
    if n.getLsbD 9 ∧ (q.hall ≠ .L ∨ q.stair ≠ 0) then some Exc.privileged
    else if (if wr then w else r) < q.stair then some Exc.privileged
    else none

/-- RDCR: WDKICK reads zero (R464, R467). -/
def execRdcr (c : CoreId) (rd : RegNo) (n : BitVec 10) (s : State) : Host.Outcome State Fault Refusal :=
  finish (run s c 0x0D fun s =>
    match (s.core c).crRefused n false with
    | some e => (s, .exc e)
    | none => (s.updCore c fun q => q.wr rd (q.cr (q.crBank n) (n.toNat % 512)), .next))

/-- A service of the watchdog of a hall (R470). -/
def State.wdKick (s : State) (h : Hall) : State :=
  match h with
  | .L => s.wdlRestart
  | .P => s.wdpRestart

/-- WRCR: a write of WDKICK services a watchdog; without an FPU PSAVEFCSW ignores writes (R467, R468, R470). -/
def writeCr (s : State) (c : CoreId) (h : Hall) (i : Nat) (v : Word) : State :=
  if i = crWDKICK then s.wdKick h
  else if i = crPSAVEFCSW ∧ ¬ Variant.hasDsc s.variant then s
  else s.updCore c fun q => q.setCr h i v

/-- WRCR (R464, R468). -/
def execWrcr (c : CoreId) (rd : RegNo) (n : BitVec 10) (s : State) : Host.Outcome State Fault Refusal :=
  finish (run s c 0x0D fun s =>
    let q := s.core c
    match q.crRefused n true with
    | some e => (s, .exc e)
    | none => (writeCr s c (q.crBank n) (n.toNat % 512) (q.rd rd), .next))

/-! ### Exception return -/

/-- Word k of a frame (R484). -/
def frameWord (l : List Byte) (k : Nat) : Word := BitVec.ofNat 48 (ofLe ((l.drop (6 * k)).take 6))

/-- CSW that ERET restores: the frame's, with hall and stair under step 3 of R489, HELD and UOPEN zero. -/
def eretCsw (cur frame : Word) : Word :=
  let f := frame &&& 0x17FF3F#48
  let f := if cswHall cur = .P then f ||| 0x40000#48 else f
  if cswHall f = cswHall cur ∧ cswStair f < cswStair cur then cswSet f 17 16 (cswStair cur) else f

/-- Steps 5 and 6 of R489 on the core. -/
def Core.eret (q : Core) (l : List Byte) (csw : Word) : Core :=
  let h := q.hall
  let t := q.stair
  let q := (((q.wr 1 (frameWord l 2)).wr 2 (frameWord l 3)).wr 3 (frameWord l 4)).wr 30 (frameWord l 5)
  let q := q.setSp h t (q.spOf h t + 48#48)
  let q := if t = 0 then q.setCr h crSFSTAT 0 else q
  { q with csw := csw }

/-- The steps of R489. -/
def eret (s : State) (c : CoreId) : State × IRes :=
  let q := s.core c
  let sp := q.spOf q.hall q.stair
  if sp.toNat % 16 ≠ 0 then (s, .exc (alignExc 8 sp))
  else match loadBytes s c q.ctx sp.toNat 48 4096 .read with
    | (s, .inl e) => (s, .exc e)
    | (s, .inr l) =>
      let csw := eretCsw q.csw (frameWord l 1)
      if cswHall csw = .P ∧ ¬ s.flag F.PWR_HALLPCTL_ENABLE then (s, .exc hallPEntry)
      else ((endHold s c 5).updCore c fun q => q.eret l csw, .jump (frameWord l 0 &&& pcBits))

/-- ERET (R489, R490). -/
def execEret (c : CoreId) (mbz : BitVec 15) (s : State) : Host.Outcome State Fault Refusal :=
  finish (run s c 0x0D fun s => illegalWhen (mbz != 0) s (eret s c))

/-! ### The guard, invalidation and keys -/

/-- OPENU and CLOSEU (R517). -/
def setUopen (s : State) (c : CoreId) (mbz : BitVec 15) (b : Bool) : State :=
  run s c 0x0D fun s => illegalWhen (mbz != 0) s (s.updCore c fun q => { q with csw := cswSet q.csw 19 19 (ofBool b) }, .next)

/-- OPENU (R517). -/
def execOpenu (c : CoreId) (mbz : BitVec 15) (s : State) : Host.Outcome State Fault Refusal := finish (setUopen s c mbz true)
/-- CLOSEU (R517). -/
def execCloseu (c : CoreId) (mbz : BitVec 15) (s : State) : Host.Outcome State Fault Refusal := finish (setUopen s c mbz false)

/-- The walk-cache entry covers an address with a tag. -/
def WalkEntry.hits (e : WalkEntry) (h : Hall) (tag va : Nat) : Bool :=
  e.hall == h && e.tag == tag && va / 2 ^ levelShift e.level == e.va / 2 ^ levelShift e.level

/-- Remove leaves and walk-cache entries of a core. -/
def Core.invalidate (q : Core) (leaf : TlbLeaf → Bool) (ptr : WalkEntry → Bool) : Core :=
  { q with tlb := q.tlb.filter fun e => !leaf e, wcache := q.wcache.filter fun e => !ptr e }

/-- A TLBI: RD selects the hall, Hall P from Hall L stair 0 only; after every earlier store is visible (R526, R527). -/
def tlbi (s : State) (c : CoreId) (rd : Fin 32) (bad : Bool) (f : Core → Hall → Core) : State :=
  run s c 0x0D fun s =>
    let q := s.core c
    illegalWhen (bad || decide (1 < rd.val)) s
      (if rd.val = 1 ∧ (q.hall ≠ .L ∨ q.stair ≠ 0) then (s, .exc Exc.privileged)
      else ((drainAll s c).updCore c fun q => f q (if rd.val = 1 then .P else q.hall), .next))

/-- The tag operand. -/
def tagOf (w : Word) : Nat := w.toNat % 2 ^ 16

/-- TLBI.VA (R526). -/
def execTlbiVa (c : CoreId) (rd : Fin 32) (ra rb : RegNo) (s : State) : Host.Outcome State Fault Refusal :=
  finish (tlbi s c rd false fun q h => q.invalidate (fun e => e.hits h (tagOf (q.rd rb)) (q.rd ra).toNat) fun _ => false)
/-- TLBI.VAW (R526). -/
def execTlbiVaw (c : CoreId) (rd : Fin 32) (ra rb : RegNo) (s : State) : Host.Outcome State Fault Refusal :=
  finish (tlbi s c rd false fun q h => q.invalidate (fun e => e.hits h (tagOf (q.rd rb)) (q.rd ra).toNat)
    fun e => e.hits h (tagOf (q.rd rb)) (q.rd ra).toNat)
/-- TLBI.TAG: RA must be zero (R526). -/
def execTlbiTag (c : CoreId) (rd : Fin 32) (ra rb : RegNo) (s : State) : Host.Outcome State Fault Refusal :=
  finish (tlbi s c rd (ra != 0) fun q h => q.invalidate
    (fun e => e.hall == h && !bit e.flags 6 && e.tag == tagOf (q.rd rb)) fun e => e.hall == h && e.tag == tagOf (q.rd rb))
/-- TLBI.ALL: RA and RB must be zero (R526). -/
def execTlbiAll (c : CoreId) (rd : Fin 32) (ra rb : RegNo) (s : State) : Host.Outcome State Fault Refusal :=
  finish (tlbi s c rd (ra != 0 || rb != 0) fun q h => q.invalidate (fun e => e.hall == h) fun e => e.hall == h)

/-- A key cache without the entry that covers a frame. -/
def dropKey (l : List (Nat × List Byte)) (line : Nat) : List (Nat × List Byte) := l.filter fun e => e.1 != line

/-- The entry covering a frame leaves every key cache (R541 step 2). -/
def State.purgeKey (s : State) (line : Nat) : State :=
  let s := { s with cores := s.cores.map fun (q : Core) => { q with keys := dropKey q.keys line } }
  (s.updPump fun p => { p with keys := dropKey p.keys line }).updEng fun e =>
    { e with jnlKeys := dropKey e.jnlKeys line, cpyKeys := dropKey e.cpyKeys line }

/-- The store buffers of every core that is not fenced drain (R541 step 3). -/
def drainCores (s : State) : State := (List.finRange 4).foldl (fun s c => if s.fenced c.val then s else drainAll s c) s

/-- The segment that keeps SKEY's write from the key store. -/
def State.keyFence (s : State) (a : Nat) : Option Nat := if s.fenced 9 then some 9 else s.poison a 1

/-- The order of R541. A key byte that meets a fence is not written, and a machine check falls due (R62). -/
def skey (s : State) (c : CoreId) (a v : Word) : State × IRes :=
  let s := drainAll s c
  let pa := a.toNat
  let x := (s.core c).ctx
  let new := (v.toNat % 256) &&& 0xCF
  if s.installed ≤ pa then (s, .exc (Exc.at 4 1 1 pa))
  else if !s.flag F.KEY_CTL_ENABLE then (s, .exc (Exc.at 4 3 1 pa))
  else
    let old := (s.byte (s.keyAddr pa)).toNat
    if x.hall = .P ∧ (bit old 7 ∨ bit new 7) then
      (s, .exc (Exc.at 7 2 (old % 16 + x.key * 16 + Kind.write.toNat * 256 + bitsOf old 6 6 * 1024) pa))
    else match s.keyFence (s.keyAddr pa) with
      | some seg => (s.updDue c fun d => { d with mc := d.mc ++ [⟨2, seg, some (BitVec.ofNat 48 (s.keyAddr pa))⟩] }, .next)
      | none => (drainCores ((s.putByte (s.keyAddr pa) (BitVec.ofNat 8 new)).purgeKey (pa / 4096 / 16)), .next)

/-- SKEY: stair 1 is refused (R540). -/
def execSkey (c : CoreId) (ra rb : RegNo) (mbz : BitVec 5) (s : State) : Host.Outcome State Fault Refusal :=
  finish (run s c 0x0D fun s => illegalWhen (mbz != 0) s
    (if (s.core c).stair = 1 then (s, .exc Exc.privileged) else skey s c ((s.core c).rd ra) ((s.core c).rd rb)))

/-! ### Entries as events -/

/-- The fetch at an address faults: translation, map and key, or a poison token (R272, R299, R62). -/
def fetchFault (s : State) (c : CoreId) (va : Word) : State × Option Exc :=
  match checkAccess s c (s.core c).ctx va.toNat 4 4096 .fetch false with
  | (s, .inl e) => (s, some e)
  | (s, .inr ps) =>
    match s.poison (partsPa ps) 4 with
    | some seg => (s.logError c.val 7 seg true (some (partsPa ps)), some (Exc.poison seg (partsPa ps)))
    | none => (s, none)

/-- The exception of the head instruction, where no command of its own raises it: its fetch, or an encoding no row of the table has. -/
def headExc (s : State) (c : CoreId) (h : HeadEvent) : State :=
  match h with
  | .due => s
  | .fetch ext =>
    match fetchFault s c (if ext then (s.core c).pc + 4#48 else (s.core c).pc) with
    | (t, some e) => conclude s c (e.opc.getD (opAt s c (s.core c).pc)) 4 (t, .exc e)
    | (_, none) => s
  | .unassigned op => conclude s c op.toNat 4 (s, .exc ((gateKeep s c op.toNat).getD Exc.illegal))

/-- An exception is entered at the head of the window (R481, R483): the first event due, else that of the head instruction. -/
def execExceptionEntry (c : CoreId) (h : HeadEvent) (s : State) : Host.Outcome State Fault Refusal :=
  finish (if !s.canRun c then s
    else
      let s := boundary s c
      match s.dueEvent c with
      | some ev => enterDue s c ev
      | none => if (s.core c).jobWait then s else headExc s c h)

/-- A requested maskable source is taken at the next boundary with no window open (R497); an event that R481 ranks above it is
entered in its place. -/
def execInterruptEntry (c : CoreId) (s : State) : Host.Outcome State Fault Refusal :=
  finish (if !s.canRun c then s
    else
      let s := boundary s c
      match s.dueEvent c with
      | some ev => enterDue s c ev
      | none => s)

end Sys2Proof.Machine
end

