-- ==== Sys2Proof/Machine/WindowCommands.lean ====
section
/-! DEFINITION. Commands of the sense windows and the monitor ADC (R211 to R243). -/
namespace Sys2Proof.Machine

/-- WINDOW_TICK of a tick group, at the input voltages of its four windows in nanovolts (R211 to R224). -/
def execWindowTick (g : Fin 4) (v0 v1 v2 v3 : Nat) (s : State) : Host.Outcome State Fault Refusal :=
  finish (s.whenAon fun s => s.winTick g.val fun i => [v0, v1, v2, v3].getD i 0)
/-- WINDOW_CONFIG_WRITE of WIN_CFGn (R220, R221). -/
def execWindowConfigWrite (src : Src) (n : Fin 16) (v : Long) (s : State) : Host.Outcome State Fault Refusal :=
  finish (s.srcWrite src (F.WIN_CFG_ENABLE.ix n.val).off v.toNat)
/-- ADC_START (R231, R232). -/
def execAdcStart (src : Src) (s : State) : Host.Outcome State Fault Refusal := finish (s.srcField src F.ADC_CTL_START 1)
/-- ADC_STOP (R232). -/
def execAdcStop (src : Src) (s : State) : Host.Outcome State Fault Refusal := finish (s.srcField src F.ADC_CTL_STOP 1)
/-- ADC_SAMPLE with its raw conversions (R227 to R233). -/
def execAdcSample (raw : Vector (BitVec 12) 8) (s : State) : Host.Outcome State Fault Refusal :=
  finish (s.adcSample fun i => (raw.toList.getD i 0).toNat)
/-- PERIOD has passed since the previous pass began (R231). -/
def State.adcPassDue (s : State) : State := if s.adc.run && s.adc.waitPass then s.adcPassBegin else s

/-- ADC_PASS_START (R231). -/
def execAdcPassStart (s : State) : Host.Outcome State Fault Refusal := finish s.adcPassDue
/-- ADC_READ_INDEX_WRITE (R234). -/
def execAdcReadIndexWrite (src : Src) (i : BitVec 6) (s : State) : Host.Outcome State Fault Refusal := finish (s.srcField src F.ADC_RDIDX_IDX i.toNat)
/-- SNAP (R236, R237). -/
def execSnap (src : Src) (s : State) : Host.Outcome State Fault Refusal := finish (s.srcField src F.ADC_CTL_SNAP 1)
/-- SNAPSHOT_COMPLETE with raw sample i of channel c at index 5c + i (R238 to R242). -/
def execSnapshotComplete (codes : Vector (BitVec 12) 120) (s : State) : Host.Outcome State Fault Refusal :=
  finish (s.snapComplete fun i => (codes.toList.getD i 0).toNat)
/-- SNAPSHOT_SLOT_FREE: the bits written to VALID (R243). -/
def execSnapshotSlotFree (src : Src) (m : BitVec 8) (s : State) : Host.Outcome State Fault Refusal :=
  finish (s.srcWrite src F.ADC_SNAPSTAT_VALID.off m.toNat)

end Sys2Proof.Machine
end

