-- ==== Sys2Proof/Machine/Dispatch.lean ====
section
/-! DEFINITION. One arm per command: which meaning it has. -/
namespace Sys2Proof.Machine

def exec (i : Instr) (s : State) : Host.Outcome State Fault Refusal :=
  match i with
  | .registerWrite src off v => Sys2Proof.Machine.execRegisterWrite src off v s
  | .hostBar0Read dw n => Sys2Proof.Machine.execHostBar0Read dw n s
  | .hostBar0Write off l => Sys2Proof.Machine.execHostBar0Write off l s
  | .pairedStage src off v => Sys2Proof.Machine.execPairedStage src off v s
  | .pairedCommit src off v => Sys2Proof.Machine.execPairedCommit src off v s
  | .accessLock src => Sys2Proof.Machine.execAccessLock src s
  | .clampLogClear src => Sys2Proof.Machine.execClampLogClear src s
  | .epochGo src => Sys2Proof.Machine.execEpochGo src s
  | .wellCross w => Sys2Proof.Machine.execWellCross w s
  | .coldReset => Sys2Proof.Machine.execColdReset s
  | .aonRelease klead => Sys2Proof.Machine.execAonRelease klead s
  | .fabricRelease sel dramOk temp profile => Sys2Proof.Machine.execFabricRelease sel dramOk temp profile s
  | .hostBootMailbox v => Sys2Proof.Machine.execHostBootMailbox v s
  | .resetNAssert => Sys2Proof.Machine.execResetNAssert s
  | .softReset src => Sys2Proof.Machine.execSoftReset src s
  | .hallPReset src => Sys2Proof.Machine.execHallPReset src s
  | .hallpdone => Sys2Proof.Machine.execHallpdone s
  | .coreResetHold src k => Sys2Proof.Machine.execCoreResetHold src k s
  | .coreRelease src k => Sys2Proof.Machine.execCoreRelease src k s
  | .linkReset hot => Sys2Proof.Machine.execLinkReset hot s
  | .linkUp rate width => Sys2Proof.Machine.execLinkUp rate width s
  | .otpProgram src n => Sys2Proof.Machine.execOtpProgram src n s
  | .otpProgramDone stuck => Sys2Proof.Machine.execOtpProgramDone stuck s
  | .calStore src => Sys2Proof.Machine.execCalStore src s
  | .calStoreDone ok => Sys2Proof.Machine.execCalStoreDone ok s
  | .cisternEntry => Sys2Proof.Machine.execCisternEntry s
  | .wakeEvent w => Sys2Proof.Machine.execWakeEvent w s
  | .cisternWake => Sys2Proof.Machine.execCisternWake s
  | .wakeFabricRelease => Sys2Proof.Machine.execWakeFabricRelease s
  | .tSourceReturn => Sys2Proof.Machine.execTSourceReturn s
  | .stallDeclared seg drained => Sys2Proof.Machine.execStallDeclared seg drained s
  | .powerUpRunGo src => Sys2Proof.Machine.execPowerUpRunGo src s
  | .upStepStart => Sys2Proof.Machine.execUpStepStart s
  | .slotUp n => Sys2Proof.Machine.execSlotUp n s
  | .rampTimeout n => Sys2Proof.Machine.execRampTimeout n s
  | .pgloss n => Sys2Proof.Machine.execPgloss n s
  | .seqRestart => Sys2Proof.Machine.execSeqRestart s
  | .shutdownRun src => Sys2Proof.Machine.execShutdownRun src s
  | .shutdownEntryRelease => Sys2Proof.Machine.execShutdownEntryRelease s
  | .dischargeTimeout => Sys2Proof.Machine.execDischargeTimeout s
  | .mainsQualified => Sys2Proof.Machine.execMainsQualified s
  | .marginRequest src n m => Sys2Proof.Machine.execMarginRequest src n m s
  | .tempoSample => Sys2Proof.Machine.execTempoSample s
  | .tempoSettleEnd => Sys2Proof.Machine.execTempoSettleEnd s
  | .kralunyStrobeStart => Sys2Proof.Machine.execKralunyStrobeStart s
  | .ksyncStrobe => Sys2Proof.Machine.execKsyncStrobe s
  | .ksyncBreath => Sys2Proof.Machine.execKsyncBreath s
  | .kralunyStepComplete => Sys2Proof.Machine.execKralunyStepComplete s
  | .ksyncCountReset => Sys2Proof.Machine.execKsyncCountReset s
  | .kralunyAbort => Sys2Proof.Machine.execKralunyAbort s
  | .abort src => Sys2Proof.Machine.execAbort src s
  | .windowTick g v0 v1 v2 v3 => Sys2Proof.Machine.execWindowTick g v0 v1 v2 v3 s
  | .windowConfigWrite src n v => Sys2Proof.Machine.execWindowConfigWrite src n v s
  | .adcStart src => Sys2Proof.Machine.execAdcStart src s
  | .adcStop src => Sys2Proof.Machine.execAdcStop src s
  | .adcSample raw => Sys2Proof.Machine.execAdcSample raw s
  | .adcPassStart => Sys2Proof.Machine.execAdcPassStart s
  | .adcReadIndexWrite src idx => Sys2Proof.Machine.execAdcReadIndexWrite src idx s
  | .snap src => Sys2Proof.Machine.execSnap src s
  | .snapshotComplete codes => Sys2Proof.Machine.execSnapshotComplete codes s
  | .snapshotSlotFree src m => Sys2Proof.Machine.execSnapshotSlotFree src m s
  | .caps c rd ra n => Sys2Proof.Machine.execCaps c rd ra n s
  | .add c rd ra rb st => Sys2Proof.Machine.execAdd c rd ra rb st s
  | .adc c rd ra rb st => Sys2Proof.Machine.execAdc c rd ra rb st s
  | .sub c rd ra rb st => Sys2Proof.Machine.execSub c rd ra rb st s
  | .sbc c rd ra rb st => Sys2Proof.Machine.execSbc c rd ra rb st s
  | .and c rd ra rb st => Sys2Proof.Machine.execAnd c rd ra rb st s
  | .or c rd ra rb st => Sys2Proof.Machine.execOr c rd ra rb st s
  | .xor c rd ra rb st => Sys2Proof.Machine.execXor c rd ra rb st s
  | .andn c rd ra rb st => Sys2Proof.Machine.execAndn c rd ra rb st s
  | .shl c rd ra rb st => Sys2Proof.Machine.execShl c rd ra rb st s
  | .shr c rd ra rb st => Sys2Proof.Machine.execShr c rd ra rb st s
  | .sar c rd ra rb st => Sys2Proof.Machine.execSar c rd ra rb st s
  | .ror c rd ra rb st => Sys2Proof.Machine.execRor c rd ra rb st s
  | .slt c rd ra rb st => Sys2Proof.Machine.execSlt c rd ra rb st s
  | .sltu c rd ra rb st => Sys2Proof.Machine.execSltu c rd ra rb st s
  | .sxb c rd ra rb st => Sys2Proof.Machine.execSxb c rd ra rb st s
  | .sxh c rd ra rb st => Sys2Proof.Machine.execSxh c rd ra rb st s
  | .sxl c rd ra rb st => Sys2Proof.Machine.execSxl c rd ra rb st s
  | .clz c rd ra rb st => Sys2Proof.Machine.execClz c rd ra rb st s
  | .popc c rd ra rb st => Sys2Proof.Machine.execPopc c rd ra rb st s
  | .mul c rd ra rb st => Sys2Proof.Machine.execMul c rd ra rb st s
  | .mulh c rd ra rb st => Sys2Proof.Machine.execMulh c rd ra rb st s
  | .mulhu c rd ra rb st => Sys2Proof.Machine.execMulhu c rd ra rb st s
  | .mulp c rd ra rb st => Sys2Proof.Machine.execMulp c rd ra rb st s
  | .mulpu c rd ra rb st => Sys2Proof.Machine.execMulpu c rd ra rb st s
  | .div c rd ra rb st => Sys2Proof.Machine.execDiv c rd ra rb st s
  | .divu c rd ra rb st => Sys2Proof.Machine.execDivu c rd ra rb st s
  | .rem c rd ra rb st => Sys2Proof.Machine.execRem c rd ra rb st s
  | .remu c rd ra rb st => Sys2Proof.Machine.execRemu c rd ra rb st s
  | .ldi c rd imm => Sys2Proof.Machine.execLdi c rd imm s
  | .addi c rd imm => Sys2Proof.Machine.execAddi c rd imm s
  | .addiS c rd imm => Sys2Proof.Machine.execAddiS c rd imm s
  | .cmpi c rd imm => Sys2Proof.Machine.execCmpi c rd imm s
  | .andi c rd imm => Sys2Proof.Machine.execAndi c rd imm s
  | .ori c rd imm => Sys2Proof.Machine.execOri c rd imm s
  | .xori c rd imm => Sys2Proof.Machine.execXori c rd imm s
  | .shli c rd imm => Sys2Proof.Machine.execShli c rd imm s
  | .shri c rd imm => Sys2Proof.Machine.execShri c rd imm s
  | .sari c rd imm => Sys2Proof.Machine.execSari c rd imm s
  | .rori c rd imm => Sys2Proof.Machine.execRori c rd imm s
  | .muli c rd imm => Sys2Proof.Machine.execMuli c rd imm s
  | .adpc c rd imm => Sys2Proof.Machine.execAdpc c rd imm s
  | .addx c rd ra imm ext => Sys2Proof.Machine.execAddx c rd ra imm ext s
  | .ld c rd ra imm => Sys2Proof.Machine.execLd c rd ra imm s
  | .st c rd ra imm => Sys2Proof.Machine.execSt c rd ra imm s
  | .loadIndexed c rd ra rb size scale sx mbz => Sys2Proof.Machine.execLoadIndexed c rd ra rb size scale sx mbz s
  | .storeIndexed c rd ra rb size scale sx mbz => Sys2Proof.Machine.execStoreIndexed c rd ra rb size scale sx mbz s
  | .storeDrain c k => Sys2Proof.Machine.execStoreDrain c k s
  | .cas c rd ra rb => Sys2Proof.Machine.execCas c rd ra rb s
  | .fetchAdd c rd ra rb => Sys2Proof.Machine.execFetchAdd c rd ra rb s
  | .fenceSl c mbz => Sys2Proof.Machine.execFenceSl c mbz s
  | .fenceAll c mbz => Sys2Proof.Machine.execFenceAll c mbz s
  | .fenceIo c mbz => Sys2Proof.Machine.execFenceIo c mbz s
  | .br c cond disp => Sys2Proof.Machine.execBr c cond disp s
  | .bl c disp => Sys2Proof.Machine.execBl c disp s
  | .jr c ra mbz => Sys2Proof.Machine.execJr c ra mbz s
  | .callr c ra mbz => Sys2Proof.Machine.execCallr c ra mbz s
  | .ret c mbz => Sys2Proof.Machine.execRet c mbz s
  | .nop c mbz => Sys2Proof.Machine.execNop c mbz s
  | .rdcsw c rd mbz => Sys2Proof.Machine.execRdcsw c rd mbz s
  | .wrcsw c ra mbz => Sys2Proof.Machine.execWrcsw c ra mbz s
  | .iflush c mbz => Sys2Proof.Machine.execIflush c mbz s
  | .bell c ra b mbz => Sys2Proof.Machine.execBell c ra b mbz s
  | .bellwL c ra rb mbz => Sys2Proof.Machine.execBellwL c ra rb mbz s
  | .bellwQ c ra rb mbz => Sys2Proof.Machine.execBellwQ c ra rb mbz s
  | .jobget c rd mbz => Sys2Proof.Machine.execJobget c rd mbz s
  | .jobpoll c rd mbz => Sys2Proof.Machine.execJobpoll c rd mbz s
  | .jobdone c ra rb mbz => Sys2Proof.Machine.execJobdone c ra rb mbz s
  | .sleep c mbz => Sys2Proof.Machine.execSleep c mbz s
  | .hold c n mbz => Sys2Proof.Machine.execHold c n mbz s
  | .release c mbz => Sys2Proof.Machine.execRelease c mbz s
  | .holdCountLimit c => Sys2Proof.Machine.execHoldCountLimit c s
  | .holdTimeLimit c => Sys2Proof.Machine.execHoldTimeLimit c s
  | .descend c t g => Sys2Proof.Machine.execDescend c t g s
  | .passage c p mbz => Sys2Proof.Machine.execPassage c p mbz s
  | .brk c n mbz => Sys2Proof.Machine.execBrk c n mbz s
  | .ascend c mbz => Sys2Proof.Machine.execAscend c mbz s
  | .rdcr c rd n => Sys2Proof.Machine.execRdcr c rd n s
  | .wrcr c rd n => Sys2Proof.Machine.execWrcr c rd n s
  | .eret c mbz => Sys2Proof.Machine.execEret c mbz s
  | .openu c mbz => Sys2Proof.Machine.execOpenu c mbz s
  | .closeu c mbz => Sys2Proof.Machine.execCloseu c mbz s
  | .tlbiVa c rd ra rb => Sys2Proof.Machine.execTlbiVa c rd ra rb s
  | .tlbiVaw c rd ra rb => Sys2Proof.Machine.execTlbiVaw c rd ra rb s
  | .tlbiTag c rd ra rb => Sys2Proof.Machine.execTlbiTag c rd ra rb s
  | .tlbiAll c rd ra rb => Sys2Proof.Machine.execTlbiAll c rd ra rb s
  | .skey c ra rb mbz => Sys2Proof.Machine.execSkey c ra rb mbz s
  | .dadd c ra rb l1 l2 => Sys2Proof.Machine.execDadd c ra rb l1 l2 s
  | .dsub c ra rb l1 l2 => Sys2Proof.Machine.execDsub c ra rb l1 l2 s
  | .dmul c ra rb l1 l2 => Sys2Proof.Machine.execDmul c ra rb l1 l2 s
  | .ddiv c ra rb l1 l2 => Sys2Proof.Machine.execDdiv c ra rb l1 l2 s
  | .drem c ra rb l1 l2 => Sys2Proof.Machine.execDrem c ra rb l1 l2 s
  | .dcmp c ra rb l1 l2 => Sys2Proof.Machine.execDcmp c ra rb l1 l2 s
  | .dscale c ra rb l1 l2 => Sys2Proof.Machine.execDscale c ra rb l1 l2 s
  | .dtob c ra rb l1 l2 => Sys2Proof.Machine.execDtob c ra rb l1 l2 s
  | .dtobP c ra rb l1 l2 => Sys2Proof.Machine.execDtobP c ra rb l1 l2 s
  | .btod c ra rb l1 l2 => Sys2Proof.Machine.execBtod c ra rb l1 l2 s
  | .btodP c ra rb l1 l2 => Sys2Proof.Machine.execBtodP c ra rb l1 l2 s
  | .ztop c ra rb l1 l2 => Sys2Proof.Machine.execZtop c ra rb l1 l2 s
  | .ptoz c ra rb l1 l2 => Sys2Proof.Machine.execPtoz c ra rb l1 l2 s
  | .ptozs c ra rb l1 l2 => Sys2Proof.Machine.execPtozs c ra rb l1 l2 s
  | .daadd c rd ra rb => Sys2Proof.Machine.execDaadd c rd ra rb s
  | .dasub c rd ra rb => Sys2Proof.Machine.execDasub c rd ra rb s
  | .dacmp c rd ra rb => Sys2Proof.Machine.execDacmp c rd ra rb s
  | .damov c rd ra rb => Sys2Proof.Machine.execDamov c rd ra rb s
  | .daneg c rd ra rb => Sys2Proof.Machine.execDaneg c rd ra rb s
  | .damul c rd ra rb => Sys2Proof.Machine.execDamul c rd ra rb s
  | .dashl c rd ra k => Sys2Proof.Machine.execDashl c rd ra k s
  | .dashr c rd ra k => Sys2Proof.Machine.execDashr c rd ra k s
  | .dasht c rd ra k => Sys2Proof.Machine.execDasht c rd ra k s
  | .dafromw c rd ra rb => Sys2Proof.Machine.execDafromw c rd ra rb s
  | .datow c rd ra rb => Sys2Proof.Machine.execDatow c rd ra rb s
  | .datowp c rd ra rb => Sys2Proof.Machine.execDatowp c rd ra rb s
  | .dald c rd ra k => Sys2Proof.Machine.execDald c rd ra k s
  | .dast c rd ra k => Sys2Proof.Machine.execDast c rd ra k s
  | .edit c rd ra rb rx => Sys2Proof.Machine.execEdit c rd ra rb rx s
  | .editm c rd ra rb rx => Sys2Proof.Machine.execEditm c rd ra rb rx s
  | .movs c rd ra rb rx lim => Sys2Proof.Machine.execMovs c rd ra rb rx lim s
  | .movb c rd ra rb rx lim => Sys2Proof.Machine.execMovb c rd ra rb rx lim s
  | .movt c rd ra rb rx lim => Sys2Proof.Machine.execMovt c rd ra rb rx lim s
  | .fills c rd ra rb rx lim => Sys2Proof.Machine.execFills c rd ra rb rx lim s
  | .cmps c rd ra rb rx lim => Sys2Proof.Machine.execCmps c rd ra rb rx lim s
  | .scns c rd ra rb rx lim => Sys2Proof.Machine.execScns c rd ra rb rx lim s
  | .trts c rd ra rb rx lim => Sys2Proof.Machine.execTrts c rd ra rb rx lim s
  | .fadd c fd fa fb p mbz rm => Sys2Proof.Machine.execFadd c fd fa fb p mbz rm s
  | .fsub c fd fa fb p mbz rm => Sys2Proof.Machine.execFsub c fd fa fb p mbz rm s
  | .fmul c fd fa fb p mbz rm => Sys2Proof.Machine.execFmul c fd fa fb p mbz rm s
  | .fdiv c fd fa fb p mbz rm => Sys2Proof.Machine.execFdiv c fd fa fb p mbz rm s
  | .fsqrt c fd fa fb p mbz rm => Sys2Proof.Machine.execFsqrt c fd fa fb p mbz rm s
  | .fmadd c fd fa fb fc p rm => Sys2Proof.Machine.execFmadd c fd fa fb fc p rm s
  | .fmsub c fd fa fb fc p rm => Sys2Proof.Machine.execFmsub c fd fa fb fc p rm s
  | .fnmadd c fd fa fb fc p rm => Sys2Proof.Machine.execFnmadd c fd fa fb fc p rm s
  | .fnmsub c fd fa fb fc p rm => Sys2Proof.Machine.execFnmsub c fd fa fb fc p rm s
  | .fcvt c fd fa fb p mbz rm => Sys2Proof.Machine.execFcvt c fd fa fb p mbz rm s
  | .fcvtFw c fd ra fb p u mbz rm => Sys2Proof.Machine.execFcvtFw c fd ra fb p u mbz rm s
  | .fcvtWf c rd fa fb p u mbz rm => Sys2Proof.Machine.execFcvtWf c rd fa fb p u mbz rm s
  | .fcmp c fd fa fb p sg mbz rm => Sys2Proof.Machine.execFcmp c fd fa fb p sg mbz rm s
  | .fclass c rd fa fb p mbz rm => Sys2Proof.Machine.execFclass c rd fa fb p mbz rm s
  | .fmov c fd fa p mbz rm => Sys2Proof.Machine.execFmov c fd fa p mbz rm s
  | .fneg c fd fa p mbz rm => Sys2Proof.Machine.execFneg c fd fa p mbz rm s
  | .fabs c fd fa p mbz rm => Sys2Proof.Machine.execFabs c fd fa p mbz rm s
  | .fcpys c fd fa fb p mbz rm => Sys2Proof.Machine.execFcpys c fd fa fb p mbz rm s
  | .fldS c fd ra imm => Sys2Proof.Machine.execFldS c fd ra imm s
  | .fldD c fd ra imm => Sys2Proof.Machine.execFldD c fd ra imm s
  | .fstS c fd ra imm => Sys2Proof.Machine.execFstS c fd ra imm s
  | .fstD c fd ra imm => Sys2Proof.Machine.execFstD c fd ra imm s
  | .fmvwfL c rd fa mbz => Sys2Proof.Machine.execFmvwfL c rd fa mbz s
  | .fmvwfH c rd fa mbz => Sys2Proof.Machine.execFmvwfH c rd fa mbz s
  | .fmvfwL c fd ra mbz => Sys2Proof.Machine.execFmvfwL c fd ra mbz s
  | .fmvfwH c fd ra mbz => Sys2Proof.Machine.execFmvfwH c fd ra mbz s
  | .rdfcsw c rd mbz => Sys2Proof.Machine.execRdfcsw c rd mbz s
  | .wrfcsw c ra mbz => Sys2Proof.Machine.execWrfcsw c ra mbz s
  | .rdfta c rd mbz => Sys2Proof.Machine.execRdfta c rd mbz s
  | .fbar c mbz => Sys2Proof.Machine.execFbar c mbz s
  | .exceptionEntry c h => Sys2Proof.Machine.execExceptionEntry c h s
  | .interruptEntry c => Sys2Proof.Machine.execInterruptEntry c s
  | .wdlExpiry => Sys2Proof.Machine.execWdlExpiry s
  | .wdpExpiry => Sys2Proof.Machine.execWdpExpiry s
  | .keyEnable src on => Sys2Proof.Machine.execKeyEnable src on s
  | .keyLock src => Sys2Proof.Machine.execKeyLock src s
  | .hostBar4Read dw n => Sys2Proof.Machine.execHostBar4Read dw n s
  | .hostBar4Write off l => Sys2Proof.Machine.execHostBar4Write off l s
  | .wellTableOn src => Sys2Proof.Machine.execWellTableOn src s
  | .wellTableOff src => Sys2Proof.Machine.execWellTableOff src s
  | .wellContextWrite src k v => Sys2Proof.Machine.execWellContextWrite src k v s
  | .wellEnable src => Sys2Proof.Machine.execWellEnable src s
  | .wellDisable src => Sys2Proof.Machine.execWellDisable src s
  | .contextMiss w => Sys2Proof.Machine.execContextMiss w s
  | .descriptorFetch w => Sys2Proof.Machine.execDescriptorFetch w s
  | .doorbell src w f => Sys2Proof.Machine.execDoorbell src w f s
  | .doorbellKick src w => Sys2Proof.Machine.execDoorbellKick src w s
  | .hostBar2Read dw n => Sys2Proof.Machine.execHostBar2Read dw n s
  | .staleReread w => Sys2Proof.Machine.execStaleReread w s
  | .pollScan => Sys2Proof.Machine.execPollScan s
  | .pollCool w => Sys2Proof.Machine.execPollCool w s
  | .schedulingDecision => Sys2Proof.Machine.execSchedulingDecision s
  | .completionWrite k => Sys2Proof.Machine.execCompletionWrite k s
  | .moderationTimeout n => Sys2Proof.Machine.execModerationTimeout n s
  | .cqEnable src n => Sys2Proof.Machine.execCqEnable src n s
  | .cqDisable src n => Sys2Proof.Machine.execCqDisable src n s
  | .cqIndexWrite src n ci => Sys2Proof.Machine.execCqIndexWrite src n ci s
  | .inletAreaOn src h => Sys2Proof.Machine.execInletAreaOn src h s
  | .leaseExpiry k h slot => Sys2Proof.Machine.execLeaseExpiry k h slot s
  | .leaseRevoke src k h slot tag => Sys2Proof.Machine.execLeaseRevoke src k h slot tag s
  | .append => Sys2Proof.Machine.execAppend s
  | .flush => Sys2Proof.Machine.execFlush s
  | .journalSeed src => Sys2Proof.Machine.execJournalSeed src s
  | .flushBatch ok => Sys2Proof.Machine.execFlushBatch ok s
  | .flushed => Sys2Proof.Machine.execFlushed s
  | .journalFlushTimeout => Sys2Proof.Machine.execJournalFlushTimeout s
  | .journalDrdWrite src v => Sys2Proof.Machine.execJournalDrdWrite src v s
  | .macKeyLoad src v => Sys2Proof.Machine.execMacKeyLoad src v s
  | .macKeyClear src => Sys2Proof.Machine.execMacKeyClear src s
  | .copy lane => Sys2Proof.Machine.execCopy lane s
  | .fill lane => Sys2Proof.Machine.execFill lane s
  | .cpyTimeout lane bursts => Sys2Proof.Machine.execCpyTimeout lane bursts s
  | .gallerySweep missed => Sys2Proof.Machine.execGallerySweep missed s
  | .galleryTimerExpiry n => Sys2Proof.Machine.execGalleryTimerExpiry n s
  | .galleryStart src b => Sys2Proof.Machine.execGalleryStart src b s
  | .galleryStop src => Sys2Proof.Machine.execGalleryStop src s
  | .gallerySwap src b => Sys2Proof.Machine.execGallerySwap src b s
  | .galleryCheckDone => Sys2Proof.Machine.execGalleryCheckDone s
  | .galleryExchange => Sys2Proof.Machine.execGalleryExchange s
  | .flagSet src m => Sys2Proof.Machine.execFlagSet src m s
  | .flagClear src m => Sys2Proof.Machine.execFlagClear src m s
  | .galNop => Sys2Proof.Machine.execGalNop s
  | .galLd a => Sys2Proof.Machine.execGalLd a s
  | .galLdn a => Sys2Proof.Machine.execGalLdn a s
  | .galAnd a => Sys2Proof.Machine.execGalAnd a s
  | .galAndn a => Sys2Proof.Machine.execGalAndn a s
  | .galOr a => Sys2Proof.Machine.execGalOr a s
  | .galOrn a => Sys2Proof.Machine.execGalOrn a s
  | .galXor a => Sys2Proof.Machine.execGalXor a s
  | .galNot => Sys2Proof.Machine.execGalNot s
  | .setf n => Sys2Proof.Machine.execSetf n s
  | .clrf n => Sys2Proof.Machine.execClrf n s
  | .stf n => Sys2Proof.Machine.execStf n s
  | .tstart n => Sys2Proof.Machine.execTstart n s
  | .tstarti n count => Sys2Proof.Machine.execTstarti n count s
  | .tstop n => Sys2Proof.Machine.execTstop n s
  | .galPulse ch door k => Sys2Proof.Machine.execGalPulse ch door k s
  | .gpo n mode => Sys2Proof.Machine.execGpo n mode s
  | .galWake h => Sys2Proof.Machine.execGalWake h s
  | .galBell n => Sys2Proof.Machine.execGalBell n s
  | .post t => Sys2Proof.Machine.execPost t s
  | .skipt k => Sys2Proof.Machine.execSkipt k s
  | .skipf k => Sys2Proof.Machine.execSkipf k s
  | .galEnd => Sys2Proof.Machine.execGalEnd s
  | .templatePostDelivery => Sys2Proof.Machine.execTemplatePostDelivery s
  | .latchPulseJob ch => Sys2Proof.Machine.execLatchPulseJob ch s
  | .pulseSupplyCheck ch => Sys2Proof.Machine.execPulseSupplyCheck ch s
  | .pulseHoldStart ch x => Sys2Proof.Machine.execPulseHoldStart ch x s
  | .pulseRelease ch x => Sys2Proof.Machine.execPulseRelease ch x s
  | .pulseEnd ch x => Sys2Proof.Machine.execPulseEnd ch x s
  | .complianceArm ch x => Sys2Proof.Machine.execComplianceArm ch x s
  | .comply ch x => Sys2Proof.Machine.execComply ch x s
  | .pulseOpen ch x => Sys2Proof.Machine.execPulseOpen ch x s
  | .pulseShort ch x => Sys2Proof.Machine.execPulseShort ch x s
  | .cancel src ch => Sys2Proof.Machine.execCancel src ch s
  | .chargerEnable src => Sys2Proof.Machine.execChargerEnable src s
  | .chargerDisable src => Sys2Proof.Machine.execChargerDisable src s
  | .prechargeToCc m => Sys2Proof.Machine.execPrechargeToCc m s
  | .pretimeout => Sys2Proof.Machine.execPretimeout s
  | .ccToCv m => Sys2Proof.Machine.execCcToCv m s
  | .chargeDone m => Sys2Proof.Machine.execChargeDone m s
  | .recharge m => Sys2Proof.Machine.execRecharge m s
  | .ntcSuspend m => Sys2Proof.Machine.execNtcSuspend m s
  | .ntcResume m => Sys2Proof.Machine.execNtcResume m s
  | .safetyTimeout => Sys2Proof.Machine.execSafetyTimeout s
  | .clearfault src => Sys2Proof.Machine.execClearfault src s
  | .removed cause m => Sys2Proof.Machine.execRemoved cause m s
  | .probe rise m => Sys2Proof.Machine.execProbe rise m s
  | .oncell => Sys2Proof.Machine.execOncell s
  | .offcell m => Sys2Proof.Machine.execOffcell m s
  | .cellLdoStop => Sys2Proof.Machine.execCellLdoStop s
  | .pme src => Sys2Proof.Machine.execPme src s
  | .pmeTurnOff => Sys2Proof.Machine.execPmeTurnOff s
  | .d3hotEntry => Sys2Proof.Machine.execD3hotEntry s
  | .d0Return => Sys2Proof.Machine.execD0Return s
  | .busMasterEnable on => Sys2Proof.Machine.execBusMasterEnable on s
  | .aspmL1Request => Sys2Proof.Machine.execAspmL1Request s
  | .completionTimeout r k => Sys2Proof.Machine.execCompletionTimeout r k s
  | .dramTempCheck code => Sys2Proof.Machine.execDramTempCheck code s
  | .retrain src => Sys2Proof.Machine.execRetrain src s
  | .dramScrub soft bad => Sys2Proof.Machine.execDramScrub soft bad s
  | .flashCommand src v => Sys2Proof.Machine.execFlashCommand src v s
  | .flashCommandDone ok l => Sys2Proof.Machine.execFlashCommandDone ok l s
  | .transmitData src u d => Sys2Proof.Machine.execTransmitData src u d s
  | .rxPop src u n => Sys2Proof.Machine.execRxPop src u n s
  | .uartFrameReceive u d fe pe brk => Sys2Proof.Machine.execUartFrameReceive u d fe pe brk s
  | .i2cTransfer src p v => Sys2Proof.Machine.execI2cTransfer src p v s
  | .i2cTransferEnd p res done l => Sys2Proof.Machine.execI2cTransferEnd p res done l s
  | .recover src p => Sys2Proof.Machine.execRecover src p s
  | .stretchto p stuck done => Sys2Proof.Machine.execStretchto p stuck done s
  | .gpioEdge n lvl => Sys2Proof.Machine.execGpioEdge n lvl s
  | .bankSupplyChange k up lvls => Sys2Proof.Machine.execBankSupplyChange k up lvls s
  | .rtcSecondsWrite src v => Sys2Proof.Machine.execRtcSecondsWrite src v s
  | .alarm => Sys2Proof.Machine.execAlarm s
  | .timebaseRead src => Sys2Proof.Machine.execTimebaseRead src s
  | .watchdogConfigWrite src which v => Sys2Proof.Machine.execWatchdogConfigWrite src which v s
  | .extest pins cells => Sys2Proof.Machine.execExtest pins cells s
  | .idcode => Sys2Proof.Machine.execIdcode s
  | .samplePreload pins cells => Sys2Proof.Machine.execSamplePreload pins cells s
  | .highz => Sys2Proof.Machine.execHighz s
  | .bypass => Sys2Proof.Machine.execBypass s
  | .dbgacc => Sys2Proof.Machine.execDbgacc s
  | .debugAccess r => Sys2Proof.Machine.execDebugAccess r s
  | .halt k h => Sys2Proof.Machine.execHalt k h s
  | .resume k h => Sys2Proof.Machine.execResume k h s
  | .step k h => Sys2Proof.Machine.execStep k h s
  | .unfence src seg => Sys2Proof.Machine.execUnfence src seg s
  | .unfenced seg => Sys2Proof.Machine.execUnfenced seg s
  | .acquire src n ticket => Sys2Proof.Machine.execAcquire src n ticket s
  | .renew src n ticket => Sys2Proof.Machine.execRenew src n ticket s
  | .lockRelease src n ticket => Sys2Proof.Machine.execLockRelease src n ticket s
  | .revoke src n gen => Sys2Proof.Machine.execRevoke src n gen s
  | .clrtaint src n ticket => Sys2Proof.Machine.execClrtaint src n ticket s
  | .leaseLockExpiry n => Sys2Proof.Machine.execLeaseLockExpiry n s
  | .wddKick src => Sys2Proof.Machine.execWddKick src s
  | .wddExpiry => Sys2Proof.Machine.execWddExpiry s
  | .wddGraceExpiry => Sys2Proof.Machine.execWddGraceExpiry s
  | .jtagClamp => Sys2Proof.Machine.execJtagClamp s
  | .powerGoodLow n => Sys2Proof.Machine.execPowerGoodLow n s
  | .oscillatorStartUp => Sys2Proof.Machine.execOscillatorStartUp s
  | .selfRefreshExit => Sys2Proof.Machine.execSelfRefreshExit s
  | .uartFrameSent u cts => Sys2Proof.Machine.execUartFrameSent u cts s
  | .linkDown => Sys2Proof.Machine.execLinkDown s
  | .configurationWrite w => Sys2Proof.Machine.execConfigurationWrite w s

end Sys2Proof.Machine
end

