-- ==== Sys2Proof/Machine/Tick.lean ====
section
/-! DEFINITION. One cycle of the T island: the timebase (R49, R50), the RTC (R782, R783), and the millisecond and minute counters
(R727, R784, R815). The table has no command for it: it is what a step does when no command waits (log entry 33). -/
namespace Sys2Proof.Machine

/-! ### The timebase -/

/-- The accumulator of R50 before its reduction, in 32.768 kHz operation. -/
def Pwr.accNext (p : Pwr) : Nat := p.tacc + 27

/-- The counts that one cycle adds to the timebase (R49, R50). -/
def State.tbIncrement (s : State) : Nat :=
  if !s.pwr.tsrc32 then 1 else if 64 ≤ s.pwr.accNext then 733 else 732

/-- The timebase after one cycle of the T island's source. -/
def State.tbAdvance (s : State) : State :=
  { s with tb := s.tb + BitVec.ofNat 64 s.tbIncrement
           pwr := if s.pwr.tsrc32 then { s.pwr with tacc := s.pwr.accNext % 64 } else s.pwr }

/-! ### The RTC -/

/-- A second ends: the next one starts at 0, with TRIM cycles added or to be skipped at the end of every 32nd (R782). -/
def State.rtcSecond (s : State) : State :=
  let trim := signedOf 8 (s.get F.TMB_RTCCTL_TRIM)
  let s := s.rtcReach (s.get F.TMB_RTCSEC_SEC + 1)
  if s.get F.TMB_RTCSEC_SEC % 32 ≠ 0 then s
  else if 0 ≤ trim then s.set F.TMB_RTCSUB_SUB trim.toNat
  else s.updClk fun q => { q with skip := (-trim).toNat }

/-- One 32.768 kHz cycle of the RTC. -/
def State.rtcCycle (s : State) : State :=
  if 0 < s.clk.skip then s.updClk fun q => { q with skip := q.skip - 1 }
  else if s.get F.TMB_RTCSUB_SUB + 1 < 32768 then s.set F.TMB_RTCSUB_SUB (s.get F.TMB_RTCSUB_SUB + 1)
  else s.rtcSecond

/-- The RTC in one cycle of the T island's source: 46,875 cycles of 24 MHz are 64 of 32.768 kHz. -/
def State.rtcTick (s : State) : State :=
  if s.pwr.tsrc32 then s.rtcCycle
  else if s.clk.sub32 + 64 < 46875 then s.updClk fun q => { q with sub32 := q.sub32 + 64 }
  else (s.updClk fun q => { q with sub32 := q.sub32 + 64 - 46875 }).rtcCycle

/-! ### Milliseconds and minutes -/

/-- A count of milliseconds falls by 1, to 0 at least, while it runs. -/
def State.msDown (s : State) (run : Bool) (f : Fld) : State := if run then s.set f (s.get f - 1) else s

/-- The watchdogs in one millisecond (R472, R784, R815). -/
def State.wdMs (s : State) : State :=
  let s := s.msDown (s.wdRuns && s.flag F.TMB_WDLCFG_ENABLE) F.TMB_WDLCNT_MS
  let s := s.msDown (s.wdRuns && s.flag F.TMB_WDPCFG_ENABLE && s.flag F.PWR_HALLPCTL_ENABLE) F.TMB_WDPCNT_MS
  s.msDown (s.wdRuns && s.flag F.TMB_WDDCFG_ENABLE) F.TMB_WDDCNT_MS

/-- The charger's safety timer in one millisecond (R727). -/
def State.chgMs (s : State) : State :=
  if !s.charging then s
  else if s.clk.minute + 1 < 60000 then s.updClk fun q => { q with minute := q.minute + 1 }
  else (s.updClk fun q => { q with minute := 0 }).bump F.CHG_ELAPSED_MINUTES 1

/-- The millisecond counters, `d` counts of the timebase later: a millisecond is 24,000. -/
def State.msTick (s : State) (d : Nat) : State :=
  if s.clk.ms + d < 24000 then s.updClk fun q => { q with ms := q.ms + d }
  else (s.updClk fun q => { q with ms := q.ms + d - 24000 }).wdMs.chgMs

/-! ### One cycle -/

/-- What passes in one cycle of the T island's source while no command is given. -/
def State.tick (s : State) : State := (s.tbAdvance.rtcTick).msTick s.tbIncrement

/-- A cycle of the T island, which is held while the AON island is in reset (R113). -/
def idle (s : State) : Host.Outcome State Fault Refusal := finish (s.whenAon State.tick)

end Sys2Proof.Machine
end

