-- ==== Sys2Proof/Safety.lean ====
section
/-! DEFINITION. What counts as a safe run of the block, and the terms the statements use: the bits that are wired, when a core executes the
instruction at its PC, and what a command leaves as it was. -/
namespace Sys2Proof.Machine

/-! ### Wired bits -/

/-- The bits of a core that are wired to zero read as zero: PC[1:0] (R260), the reserved bits of CSW (R264) and of FCSW (R266). -/
def Core.wired (q : Core) : Bool :=
  q.pc &&& ~~~pcBits == 0 && q.csw &&& ~~~cswBits == 0 && q.fcsw &&& ~~~fcswBits == 0

/-- Every core of the block keeps its wired bits. -/
def State.wired (s : State) : Bool := decide (∀ c : CoreId, (s.core c).wired = true)

/-- A step answers a next state: it neither faults nor is refused. -/
def answersNext (o : Host.Outcome State Fault Refusal) : Prop := ∃ t, o = .next t

/-! ### When an instruction executes -/

/-- Core c executes the instruction at its PC: it runs (R119, R327, R792), no held window is due to end (R501) and no event is due (R481). -/
def State.ready (s : State) (c : CoreId) : Bool :=
  s.canRun c && !(s.core c).jobWait && ((s.core c).hold.all fun h => decide (h.count < h.limit)) && (s.dueEvent c).isNone

/-! ### What a command leaves as it was -/

/-- The set-up registers that change of themselves at the end of a command: PWR_EVT and PWR_HALLPCTL (R117, R148), PRT_EVT, I2C_STAT, GPIO_IN
and GPIO_EDGE (R775, R779), and the MSI-X pending bits (R625). -/
def settlesReg (off : Nat) : Bool :=
  [0x20004, 0x20108, 0x2B0004, 0x2B2008, 0x2B2108, 0x2B3010, 0x2B3014, 0x2B3040, 0x2B3044].contains off || decide (0x370000 ≤ off)

/-- The block beside its cores: every byte of memory, every set-up register that does not change of itself, and every unit. -/
structure RestKept (s t : State) : Prop where
  bytes : ∀ a, t.byte a = s.byte a
  regs : ∀ off, settlesReg off = false → t.reg off = s.reg off
  staged : t.staged = s.staged
  timebase : t.tb = s.tb ∧ t.clk = s.clk
  sense : t.wins = s.wins ∧ t.adc = s.adc
  engines : t.eng = s.eng ∧ t.pump.flight = s.pump.flight ∧ t.pump.wells = s.pump.wells
  units : t.gal = s.gal ∧ t.latch = s.latch ∧ t.chg = s.chg ∧ t.uarts = s.uarts ∧ t.jtag = s.jtag ∧ t.flt = s.flt
  reply : t.resp = s.resp

/-- General registers: every one outside `dst`, and every stack pointer but the one that register 31 names (R257, R259). -/
structure Core.WKept (q r : Core) (dst : List RegNo) : Prop where
  regs : ∀ n, n ∉ dst → r.rd n = q.rd n
  pointers : ∀ (h : Hall) (t : Fin 4), ¬ (h = q.hall ∧ t.val = q.stair) → r.spOf h t.val = q.spOf h t.val

/-- The floating-point registers outside `dst`. -/
def Core.FKept (q r : Core) (dst : List RegNo) : Prop := ∀ n : RegNo, n ∉ dst → r.f[n] = q.f[n]

/-- The decimal accumulators outside `dst`. -/
def Core.DaKept (q r : Core) (dst : List (Fin 8)) : Prop := ∀ n : Fin 8, n ∉ dst → r.da[n] = q.da[n]

/-- The control registers of both banks, in which an exception saves its state (R467). -/
def Core.CrKept (q r : Core) : Prop := r.crL = q.crL ∧ r.crP = q.crP

/-- FCSW and FTA (R266, R404). -/
def Core.FpKept (q r : Core) : Prop := r.fcsw = q.fcsw ∧ r.fta = q.fta

/-- CSW outside the bits of a mask. -/
def Core.CswKept (q r : Core) (m : Word) : Prop := r.csw &&& ~~~m = q.csw &&& ~~~m

/-- The flags N, Z, C, V in CSW (R264). -/
def flagBits : Word := 0xF#48

/-- Nothing of a core but what follows of itself. -/
structure Core.Same (q r : Core) : Prop where
  w : q.WKept r []
  f : q.FKept r []
  da : q.DaKept r []
  cr : q.CrKept r
  fp : q.FpKept r
  csw : q.CswKept r 0
  pc : r.pc = q.pc

/-- The other cores, and the block beside the cores. -/
def OthersKept (s t : State) (c : CoreId) : Prop := RestKept s t ∧ ∀ k, k ≠ c → (s.core k).Same (t.core k)

/-- An instruction that writes general registers only: `dst` and, of CSW, the bits of `m`. -/
structure RegOnly (s t : State) (c : CoreId) (dst : List RegNo) (m : Word) : Prop where
  w : (s.core c).WKept (t.core c) dst
  f : (s.core c).FKept (t.core c) []
  da : (s.core c).DaKept (t.core c) []
  cr : (s.core c).CrKept (t.core c)
  fp : (s.core c).FpKept (t.core c)
  csw : (s.core c).CswKept (t.core c) m
  others : OthersKept s t c

/-- What general register rd reads as once `v` is written to it: a write to W0 is discarded (R257). -/
def written (rd : RegNo) (v : Word) : Word := if rd = 0 then 0 else v

/-- Core c has executed an instruction of 4 bytes and goes on to the next (R260). -/
def Advanced (s t : State) (c : CoreId) : Prop := (t.core c).pc = (s.core c).pc + 4#48

/-- What an instruction of core c leaves as it was: general registers outside `w`, floating-point registers outside `f`, accumulators outside `d`,
CSW outside `m`, the control registers, FCSW and FTA, the other cores; the block beside the cores is as in `u`, the state after the
instruction's accesses. -/
structure Leaves (s u t : State) (c : CoreId) (w f : List RegNo) (d : List (Fin 8)) (m : Word) : Prop where
  w : (s.core c).WKept (t.core c) w
  f : (s.core c).FKept (t.core c) f
  da : (s.core c).DaKept (t.core c) d
  cr : (s.core c).CrKept (t.core c)
  fp : (s.core c).FpKept (t.core c)
  csw : (s.core c).CswKept (t.core c) m
  cores : ∀ k, k ≠ c → (s.core k).Same (t.core k)
  rest : RestKept u t

/-! ### Integer instructions -/

/-- An integer instruction: result, flags (`none`: unchanged), the next instruction, and nothing else. -/
def IntResult (s : State) (o : Host.Outcome State Fault Refusal) (c : CoreId) (rd : RegNo) (v : Word) (fl : Option Nzcv) : Prop :=
  ∃ t, o = .next t ∧ (t.core c).rd rd = written rd v ∧ (t.core c).nzcv = fl.getD (s.core c).nzcv ∧ Advanced s t c
    ∧ RegOnly s t c [rd] flagBits

/-- An integer instruction whose result is a register pair, the low half in the even register (R254). -/
def PairResult (s : State) (o : Host.Outcome State Fault Refusal) (c : CoreId) (rd : RegNo) (v : Nat) (fl : Option Nzcv) : Prop :=
  ∃ t, o = .next t ∧ (t.core c).rdPair rd = v ∧ (t.core c).nzcv = fl.getD (s.core c).nzcv ∧ Advanced s t c
    ∧ RegOnly s t c [rd, RegNo.succ rd] flagBits

/-- The flags an instruction with the bit S leaves: N and Z of its result, C and V as given (R286); without S they stay. -/
def sFlags (st : Bool) (r : Word) (c v : Prop) [Decidable c] [Decidable v] : Option Nzcv :=
  if st then some ⟨r.msb, decide (r = 0), decide c, decide v⟩ else none

/-- An integer is outside the range of a signed word of 48 bits. -/
abbrev outside48 (i : Int) : Prop := i < -(2 ^ 47) ∨ 2 ^ 47 ≤ i

/-- The bit of a word at an index, as a proposition. -/
abbrev hasBit (a : Word) (i : Nat) : Prop := a.getLsbD i = true

/-- The number of bits set in a word. -/
def bitsSet (a : Word) : Nat := ((List.range 48).filter fun i => a.getLsbD i).length

/-- The flags after a division: V always, the others with S (R291). -/
def divFlags (q : Core) (st : Bool) (r : Word) (v : Bool) : Option Nzcv :=
  some (if st then ⟨r.msb, decide (r = 0), false, v⟩ else { q.nzcv with v := v })

/-- An exception that an instruction raises at its own address, with no window open: nothing else of the instruction happens (R300, R483). -/
def Raises (s : State) (o : Host.Outcome State Fault Refusal) (c : CoreId) (op : Nat) (e : Exc) : Prop :=
  o = .next (takeException s c (e.ofClass op) (s.core c).pc).settle

/-- An exception that an instruction raises after its accesses have left the state `u`. -/
def RaisesAt (s u : State) (o : Host.Outcome State Fault Refusal) (c : CoreId) (op : Nat) (e : Exc) : Prop :=
  o = .next (takeException u c (if e.opc.isSome then e else e.ofClass op) (s.core c).pc).settle

/-! ### Memory instructions -/

/-- Bytes, alignment and splitting boundary of an access of size code z: byte, half, long, word (R249, R252, R296). -/
def sizeBytes (z : Nat) : Nat := [1, 2, 4, 6].getD z 0
def sizeAlign (z : Nat) : Nat := [1, 2, 4, 2].getD z 0
def sizeCut (z : Nat) : Nat := if z = 3 then 64 else 4096

/-- A loaded value, zero- or sign-extended from its n bytes (R297). -/
def extended (sx : Bool) (n v : Nat) : Word :=
  if sx && decide (2 ^ (8 * n - 1) ≤ v) then BitVec.ofInt 48 ((v : Int) - 2 ^ (8 * n)) else BitVec.ofNat 48 v

/-- A load of size code z into rd: misaligned it raises Alignment at its address (R251, R480); else the register takes the bytes the access
reads, or the exception that stops the access is raised, none of the load performed (R300). -/
def LoadsTo (s : State) (o : Host.Outcome State Fault Refusal) (c : CoreId) (op : Nat) (rd : RegNo) (va : Word) (z : Nat) (sx : Bool) : Prop :=
  (va.toNat % sizeAlign z ≠ 0 → (s.core c).tpend = false → Raises s o c op (Exc.at 3 0 z va.toNat))
  ∧ (va.toNat % sizeAlign z = 0 → ∀ u r, loadMem s c va (sizeBytes z) (sizeCut z) = (u, r) →
      match r with
      | .inr l => ∃ t, o = .next t ∧ (t.core c).rd rd = written rd (extended sx (sizeBytes z) (ofLe l)) ∧ Advanced s t c ∧ Leaves s u t c [rd] [] [] 0
      | .inl e => (s.core c).tpend = false → RaisesAt s u o c op e)

/-- A store of the low bytes of v at size code z: misaligned it raises Alignment; else `u` is the state after the bytes are stored, and nothing
else changes, or the exception that stops the access is raised, none of the store performed (R300). -/
def StoresFrom (s : State) (o : Host.Outcome State Fault Refusal) (c : CoreId) (op : Nat) (v : Nat) (va : Word) (z : Nat) : Prop :=
  (va.toNat % sizeAlign z ≠ 0 → (s.core c).tpend = false → Raises s o c op (Exc.at 3 0 z va.toNat))
  ∧ (va.toNat % sizeAlign z = 0 → ∀ u r, storeMem s c va (sizeCut z) (leBytes (sizeBytes z) v) = (u, r) →
      match r with
      | none => u.pwr.fabricUp && u.coreFree c.val → u.wired = true →
          ∃ t, o = .next t ∧ (t.core c).pc = (s.core c).pc + 4#48 ∧ Leaves u u t c [] [] [] 0
      | some e => (s.core c).tpend = false → RaisesAt s u o c op e)

/-- n bytes from a lie in installed DRAM, and the running code reaches them without translation and keys (R282, R531). -/
def State.plainDram (s : State) (c : CoreId) (a : Word) (n : Nat) : Bool :=
  !cswTe (s.core c).csw && decide (a.toNat + n ≤ s.installed) && decide (a.toNat + n ≤ 0x0200000000) && !s.flag F.KEY_CTL_ENABLE

/-- A read of n bytes of DRAM meets neither poison nor an error to correct, nor a store of the core that waits (R429, R757). -/
def State.quietDram (s : State) (c : CoreId) (a : Word) (n : Nat) : Bool :=
  s.plainDram c a n && (s.poison a.toNat n).isNone && s.dram.eccSoft.isEmpty && (s.core c).sb.all fun e => !e.touches a.toNat n

/-! ### Control instructions -/

/-- Core c executes its instruction, `u` being the state after the instruction's accesses and what it does beside the core: the address of the
next instruction, and everything left but the general registers `w` and the bits `m` of CSW. -/
structure Ends (s u t : State) (o : Host.Outcome State Fault Refusal) (c : CoreId) (pc : Word) (w : List RegNo) (m : Word) : Prop where
  next : o = .next t
  pc : (t.core c).pc = pc
  leaves : Leaves s u t c w [] [] m

/-- An instruction that acts through the state `u` on other units, and whose core is still free to retire it then. -/
def EndsIn (s u : State) (o : Host.Outcome State Fault Refusal) (c : CoreId) : Prop :=
  (u.pwr.fabricUp && u.coreFree c.val) = true → u.wired = true → ∃ t, Ends u u t o c ((s.core c).pc + 4#48) [] 0

/-! ### System instructions -/

/-- What a system instruction of core c leaves: W1 to W30 outside `w`, the control registers of both banks outside `crs` (the stack pointers are
indices 0 to 3, R467), CSW outside `m`, floating-point registers, accumulators, FCSW and FTA, the other cores; the block beside the cores is as
in `u`. -/
structure SysKept (s u t : State) (c : CoreId) (w : List RegNo) (crs : List (Hall × Nat)) (m : Word) : Prop where
  w : ∀ n : RegNo, n.val < 31 → n ∉ w → (t.core c).rd n = (s.core c).rd n
  cr : ∀ h i, (h, i) ∉ crs → (t.core c).cr h i = (s.core c).cr h i
  f : (s.core c).FKept (t.core c) []
  da : (s.core c).DaKept (t.core c) []
  fp : (s.core c).FpKept (t.core c)
  csw : (s.core c).CswKept (t.core c) m
  cores : ∀ k, k ≠ c → (s.core k).Same (t.core k)
  rest : RestKept u t

/-- A field of a control register. -/
def Core.crField (q : Core) (h : Hall) (i hi lo : Nat) : Nat := bitsOf (q.cr h i).toNat hi lo

/-- n bytes from a lie in installed DRAM, and no key is needed there (R282, R531). -/
def State.openDram (s : State) (a : Word) (n : Nat) : Bool :=
  decide (a.toNat + n ≤ s.installed) && decide (a.toNat + n ≤ 0x0200000000) && !s.flag F.KEY_CTL_ENABLE

/-! ### Commands of the block -/

/-- The units of the block, for saying which of them a command may change. -/
inductive Area
  | cores | memory | staged | clock | windows | adc | pump | engines | gallery | latch | charger | uarts | banks | jtag | faults | reply | sequencer
  | power | link | dram | flash
deriving DecidableEq, Repr

/-- A register at an offset after fields are written in order, each to a value. -/
def wrote (off : Nat) (ws : List (Fld × Nat)) (v : Nat) : Nat :=
  ws.foldl (fun v w => if w.1.off = off then putBits v w.1.hi w.1.lo w.2 % 2 ^ 32 else v) v

/-- Bit n of a field. -/
def Fld.bitAt (f : Fld) (n : Nat) : Fld := { f with hi := f.lo + n, lo := f.lo + n }

/-- Bit n of blk_EVT of block b (R29). -/
def evtBit (b n : Nat) : Fld := ⟨blockBase b + 4, n, n, 0, 0⟩

/-- From u, a command of the block leaves t: of the set-up registers it writes the fields `ws`, in order, of the units it changes those of `ps`,
and nothing else but what follows of itself (the ends of a release run, held bells and messages, a wake that cancels a Cistern entry). -/
structure Kept (u t : State) (ps : List Area) (ws : List (Fld × Nat)) : Prop where
  queue : t.pending = u.pending
  variant : t.variant = u.variant
  regs : ∀ off, settlesReg off = false → t.reg off = wrote off ws (u.reg off)
  cores : .cores ∈ ps ∨ ∀ c, (u.core c).Same (t.core c)
  memory : .memory ∈ ps ∨ (t.mem = u.mem ∧ t.dramGen = u.dramGen ∧ t.flashGen = u.flashGen)
  staged : .staged ∈ ps ∨ t.staged = u.staged
  clock : .clock ∈ ps ∨ (t.tb = u.tb ∧ t.clk = u.clk)
  windows : .windows ∈ ps ∨ t.wins = u.wins
  adc : .adc ∈ ps ∨ t.adc = u.adc
  pump : .pump ∈ ps ∨ t.pump = { u.pump with hot := t.pump.hot, coldWait := t.pump.coldWait }
  engines : .engines ∈ ps ∨ t.eng = u.eng
  gallery : .gallery ∈ ps ∨ t.gal = u.gal
  latch : .latch ∈ ps ∨ t.latch = u.latch
  charger : .charger ∈ ps ∨ t.chg = u.chg
  uarts : .uarts ∈ ps ∨ t.uarts = u.uarts
  banks : .banks ∈ ps ∨ t.bankUp = u.bankUp
  jtag : .jtag ∈ ps ∨ t.jtag = u.jtag
  faults : .faults ∈ ps ∨ t.flt = u.flt
  reply : .reply ∈ ps ∨ t.resp = u.resp
  sequencer : .sequencer ∈ ps ∨ t.seq = { u.seq with rel := t.seq.rel }
  power : .power ∈ ps ∨ t.pwr = { u.pwr with cis := t.pwr.cis, wakePend := t.pwr.wakePend }
  link : .link ∈ ps ∨ t.link = { u.link with msixWait := t.link.msixWait, msiPend := t.link.msiPend }
  dram : .dram ∈ ps ∨ t.dram = { u.dram with selfRef := t.dram.selfRef }
  flash : .flash ∈ ps ∨ (t.flashBusy = u.flashBusy ∧ t.flashCmd = u.flashCmd)

/-- A command completes: it answers a next state, with what `P` says of it, and from u it leaves everything outside `ps` and `ws`. -/
def Does (u : State) (o : Host.Outcome State Fault Refusal) (ps : List Area) (ws : List (Fld × Nat)) (P : State → Prop) : Prop :=
  ∃ t, o = .next t ∧ P t ∧ Kept u t ps ws

/-- The state in which a write by a source arrives at its register: the host's link is in L0 (R750), a core's earlier stores have left its
store buffer (R75). -/
def State.reached (s : State) : Src → State
  | .host => s.linkActive
  | .core c _ => drainAll s c

/-- A 32-bit write of v by a source reaches the set-up register at an offset: the source can write, no segment on the way is fenced, and the write is
permitted (R61, R71 to R78). -/
def State.reaches (s : State) (src : Src) (off v : Nat) : Bool :=
  s.srcLive src && (s.reached src).permitted src off v && match src with
    | .host => !s.hostFence off
    | .core c _ => !(drainAll s c).fenced (setupSeg off)

/-- A write by a source that sets one field to v, and leaves the others as they read, reaches its register. -/
def State.reachesField (s : State) (src : Src) (f : Fld) (v : Nat) : Bool :=
  s.reaches src f.off (putBits (s.readReg src f.off) f.hi f.lo v)

/-- The sequencer is in `x` after a command, but for release runs of a Cistern entry that a wake cancels meanwhile. -/
def State.seqIs (t : State) (x : Seq) : Prop := t.seq = { x with rel := t.seq.rel }

/-- The fields of SEQ_FLTREC of a record with a cause, slot, released and skipped slots, and the snapshot slot it names (R175). -/
def State.faultRecord (s : State) (cause slot released skipped : Nat) (snap : Option Nat) : List (Fld × Nat) :=
  [(F.SEQ_FLTREC0_VALID, 1), (F.SEQ_FLTREC0_SNAP, snap.getD 0), (F.SEQ_FLTREC0_SNAPOK, if snap.isSome then 1 else 0), (F.SEQ_FLTREC0_CAUSE, cause),
    (F.SEQ_FLTREC0_STEP, s.seq.step), (F.SEQ_FLTREC0_SLOT, slot), (F.SEQ_FLTREC1_TIME, s.tb.toNat % 2 ^ 32), (F.SEQ_FLTREC2_SKIPPED, skipped),
    (F.SEQ_FLTREC2_RELEASED, released)]

/-- The Pump is in `x` after a command, but for hot wells that cool of themselves (R592). -/
def State.pumpIs (t : State) (x : Pump) : Prop := t.pump = { x with hot := t.pump.hot, coldWait := t.pump.coldWait }

/-- The well cache after the context of a well is used: it stands first, holding c (R601). -/
def State.cacheWith (s : State) (w : Nat) (c : WellCtx) : List (Nat × WellCtx) := (w, c) :: s.pump.cache.filter (·.1 != w)

/-- n bytes from a lie in installed DRAM, and an engine reaches them without a key check, poison or an error to correct (R542, R757). -/
def State.plainFor (s : State) (a n : Nat) : Bool := s.openDram a n && (s.poison a n).isNone && s.dram.eccSoft.isEmpty

/-- Hall L on a core (R556, R616). -/
def ofHallL : Src → Bool
  | .core _ .L => true
  | _ => false

/-- A doorbell of a source reaches the Pump (R61, R579). -/
def State.rings (s : State) (src : Src) : Bool := s.srcLive src && !s.fenced 5 && !(src == .host && s.fenced 10)

/-- The Pump acts: its fabric is released and it is not fenced (R61, R121). -/
def State.pumpActs (s : State) : Bool := s.pwr.fabricUp && !s.fenced 5

/-- What a clamp of a register field writes: the count of its block, the next entry of the clamp log, and the events (R82, R85, R86). -/
def State.clampLog (s : State) (cause block field loc written applied : Nat) : List (Fld × Nat) :=
  let k := s.get F.CFG_CLAMPWR_NEXT
  let count : Fld := ⟨blockBase block + 12, 31, 0, 0, 0⟩
  let ws := [2 ^ 31 + cause * 2 ^ 26 + block * 2 ^ 21 + field, loc, written, applied, s.tb.toNat % 2 ^ 32, 0, 0, 0]
  [(count, min 65535 (s.get count + 1))] ++ (List.range 8).map (fun i => ((F.CFG_CLAMPLOG_WORD.ix k).ix i, ws.getD i 0))
    ++ [(F.CFG_CLAMPWR_NEXT, (k + 1) % 64), (F.CFG_CLAMPTOT_TOTAL, min (2 ^ 32 - 1) (s.get F.CFG_CLAMPTOT_TOTAL + 1)), (evtBit 1 0, 1)]
    ++ if (s.get (F.CFG_CLAMPLOG_WORD.ix k)).testBit 31 then [(evtBit 1 1, 1)] else []

/-- The record of a denied write, and its event (R77, R79). -/
def denied (source cause off : Nat) : List (Fld × Nat) :=
  [(F.CFG_DENYREC_VALID, 1), (F.CFG_DENYREC_SRC, source), (F.CFG_DENYREC_CAUSE, cause), (F.CFG_DENYREC_BLOCK, blockOf off),
    (F.CFG_DENYREC_OFFSET, off - blockBase (blockOf off)), (evtBit 1 2, 1)]

/-! ### Decimal and string instructions -/

/-- The accumulator of a register field. -/
def accNo (d : Fin 8) : RegNo := ⟨d.val, by omega⟩

/-- Nibble i of bytes, the first byte's high nibble first, and of an accumulator (R262, R330). -/
def nibbleOf (l : List Byte) (i : Nat) : Nat :=
  if i % 2 = 0 then (l.getD (i / 2) 0).toNat / 16 else (l.getD (i / 2) 0).toNat % 16
def nibbleAcc (a : Acc128) (i : Nat) : Nat := a.toNat / 16 ^ (31 - i) % 16

/-- Nibble i of a packed field of n bytes is invalid: a digit above 9, or a sign below 10 (R330, R331). -/
abbrev badNibble (nib : Nat → Nat) (n i : Nat) : Prop := if i = 2 * n - 1 then nib i < 10 else 9 < nib i

/-- The nibbles of a valid packed operand of n bytes have the value v: 2n - 1 digits, then the sign (R330, R331, R333). -/
abbrev PackedIs (nib : Nat → Nat) (n : Nat) (v : Int) : Prop :=
  (∀ i < 2 * n, ¬ badNibble nib n i)
    ∧ v = (if nib (2 * n - 1) = 0xB ∨ nib (2 * n - 1) = 0xD then -1 else 1)
        * ((List.range (2 * n - 1)).map fun i => (nib i : Int) * 10 ^ (2 * n - 2 - i)).sum

/-- The nibbles of a packed result of n bytes for the true result v: its low 2n - 1 digits and the preferred sign (R332, R337). -/
abbrev PackedHas (nib : Nat → Nat) (n : Nat) (v : Int) : Prop :=
  (∀ i < 2 * n - 1, nib i = v.natAbs / 10 ^ (2 * n - 2 - i) % 10)
    ∧ nib (2 * n - 1) = if v < 0 ∧ v.natAbs % 10 ^ (2 * n - 1) ≠ 0 then 0xD else 0xC

/-- The bytes of a zoned source have the value v: digits, of which the first may be a sign (R334). -/
abbrev ZonedIs (l : List Byte) (v : Int) : Prop :=
  (∀ i < l.length, (0x30 ≤ (l.getD i 0).toNat ∧ (l.getD i 0).toNat ≤ 0x39) ∨ (i = 0 ∧ (l.getD i 0 = 0x2B#8 ∨ l.getD i 0 = 0x2D#8)))
    ∧ v = (if l.getD 0 0 = 0x2D#8 then -1 else 1)
        * ((List.range l.length).map fun i => (((l.getD i 0).toNat - 0x30 : Nat) : Int) * 10 ^ (l.length - 1 - i)).sum

/-- The bytes of n zoned digits, the low digits of m (R349). -/
def ZonedHas (l : List Byte) (n m : Nat) : Prop := l.length = n ∧ ∀ i < n, (l.getD i 0).toNat = 0x30 + m / 10 ^ (n - 1 - i) % 10

/-- Stores that lie end to end from a upwards and write the bytes l. -/
def tiles : List SbEntry → Nat → List Byte → Prop
  | [], _, l => l = []
  | e :: es, a, l => e.addr = a ∧ e.bytes = l.take e.bytes.length ∧ tiles es (a + e.bytes.length) (l.drop e.bytes.length)

/-- Core c's stores of the bytes l from a upwards stand behind the earlier ones in its store buffer (R357, R363, R427). -/
def Buffered (s t : State) (c : CoreId) (a : Nat) (l : List Byte) : Prop := ∃ es, (t.core c).sb = (s.core c).sb ++ es ∧ tiles es a l

/-- The store buffer of core c takes k more stores before one leaves (R428). -/
def State.sbRoom (s : State) (c : CoreId) (k : Nat) : Bool := decide ((s.core c).sb.length + k ≤ 32)

/-- A decimal instruction of core c completes with the flags N, Z and V, and nothing changes but DO, general registers `w`, accumulators `d` and
what `P` says; overflow while DOT is 1 raises Decimal Overflow at the next instruction, all of this done (R337 to R339). -/
def DecEnds (s : State) (o : Host.Outcome State Fault Refusal) (c : CoreId) (op : Nat) (w : List RegNo) (d : List (Fin 8)) (n z v : Bool)
    (P : State → Prop) : Prop :=
  ∃ t, (t.core c).nzcv = ⟨n, z, false, v⟩ ∧ cswDo (t.core c).csw = (cswDo (s.core c).csw || v) ∧ Advanced s t c ∧ Leaves s s t c w [] d 0x1F#48 ∧ P t
    ∧ if v = true ∧ cswDot (s.core c).csw = true then
        (s.core c).tpend = false → o = .next (takeException t c ((Exc.plain 0x0B 0 0).ofClass op) ((s.core c).pc + 4#48)).settle
      else o = .next t

/-- A decimal result with the true value v, stored in k digits. -/
def DecResult (s : State) (o : Host.Outcome State Fault Refusal) (c : CoreId) (op : Nat) (d : List (Fin 8)) (k : Nat) (v : Int)
    (P : State → Prop) : Prop :=
  DecEnds s o c op [] d (decide (v < 0 ∧ v.natAbs % 10 ^ k ≠ 0)) (decide (v.natAbs % 10 ^ k = 0)) (decide (10 ^ k ≤ v.natAbs)) P

/-- A binary result of w bits for the value v: its low bits, and overflow where v is out of range (R348). -/
def BinResult (s : State) (o : Host.Outcome State Fault Refusal) (c : CoreId) (op : Nat) (dst : List RegNo) (w : Nat) (v : Int)
    (P : State → Nat → Prop) : Prop :=
  DecEnds s o c op dst [] (BitVec.ofInt w v).msb (decide (BitVec.ofInt w v = 0)) (decide (v < -(2 ^ (w - 1)) ∨ 2 ^ (w - 1) ≤ v))
    fun t => P t (BitVec.ofInt w v).toNat

/-- A division of v by 10^k, rounded to a whole number as DSCALE's mode says (R346). -/
def scaled (mode k : Nat) (v : Int) : Int :=
  let d : Int := 10 ^ k
  match mode with
  | 0 => v.tdiv d
  | 1 => if 0 ≤ v then (2 * v + d) / (2 * d) else -((2 * -v + d) / (2 * d))
  | 2 => if 2 * (v % d) < d ∨ (2 * (v % d) = d ∧ v / d % 2 = 0) then v / d else v / d + 1
  | 3 => -(-v / d)
  | _ => v / d

/-- The byte at address a as a string instruction sees it once its bytes before `i` stand written from `d` upwards (R390). -/
def State.seen (s : State) (d : Nat) (out : List Byte) (i a : Nat) : Byte := if d ≤ a ∧ a < d + i then out.getD (a - d) 0 else s.byte a

/-! ### Floating-point instructions -/

/-- FCSW and FTA after an instruction that raises the flags `fl`: they are set, and one whose trap is enabled makes a trap pending, with FTA naming
the first such instruction (R402 to R404, R407). -/
def Raised (s t : State) (c : CoreId) (fl : Nat) : Prop :=
  let q := s.core c
  let r := t.core c
  let en := fl &&& bitsOf q.fcsw.toNat 12 8
  bitsOf r.fcsw.toNat 4 0 = bitsOf q.fcsw.toNat 4 0 ||| fl ∧ r.fcsw &&& ~~~0x20001F#48 = q.fcsw &&& ~~~0x20001F#48
    ∧ r.tpend = (q.tpend || en != 0)
    ∧ (en = 0 → r.fta = q.fta ∧ r.fpNew = q.fpNew)
    ∧ (en ≠ 0 → r.fta = (if q.tpend then q.fta ||| 2#48 else q.pc ||| 1#48) ∧ r.fpNew = if q.tpend then q.fpNew ||| en else en)

/-- A floating-point instruction of core c completes: it goes on to the next, and nothing changes but general registers `w`, floating-point registers
`f`, the bits `m` of CSW, and FCSW and FTA. -/
structure FpFrame (s t : State) (o : Host.Outcome State Fault Refusal) (c : CoreId) (w f : List RegNo) (m : Word) : Prop where
  next : o = .next t
  pc : Advanced s t c
  w : (s.core c).WKept (t.core c) w
  f : (s.core c).FKept (t.core c) f
  da : (s.core c).DaKept (t.core c) []
  cr : (s.core c).CrKept (t.core c)
  csw : (s.core c).CswKept (t.core c) m
  cores : ∀ k, k ≠ c → (s.core k).Same (t.core k)
  rest : RestKept s t

/-- An encoding as an operation under FLUSH reads it (R415). -/
def Fmt.input (f : Fmt) (b : Nat) : FVal := f.decode (if f.subnormal b then f.zero (f.sign b) else b)

/-- An arithmetic instruction with inputs `ins` and result `r`. Under FLUSH, or without subnormals, it writes the result and raises its flags, UF and
NX where a subnormal is replaced; under TRAP a subnormal input or result raises Subnormal, with SN set and INFO naming which (R414, R415). -/
def FpResult (s : State) (o : Host.Outcome State Fault Refusal) (c : CoreId) (op : Nat) (ins : List (Fmt × Nat)) (w f : List RegNo) (r : FRes)
    (P : State → Prop) : Prop :=
  let q := s.core c
  let tiny := ins.any fun e => e.1.subnormal e.2
  let flush := q.fcsw.getLsbD 20
  ((flush = true ∨ (tiny = false ∧ r.sub = false)) →
      ∃ t, FpFrame s t o c w f 0 ∧ Raised s t c (r.flags ||| if tiny || r.sub then 3 else 0) ∧ P t)
    ∧ (flush = false → (tiny = true ∨ r.sub = true) → q.tpend = false → ∃ info,
        o = .next (takeException (s.updCore c fun q => { q with fcsw := q.fcsw ||| 0x20#48 }) c ⟨0x0D, 0, info, none, some op, false⟩ q.pc).settle
          ∧ info.testBit 0 = !tiny ∧ ∀ i, info.testBit (i + 1) = (ins[i]?.any fun e => e.1.subnormal e.2))

/-- The number that a finite encoding stands for. -/
def Fmt.value (f : Fmt) (b : Nat) : Rat :=
  (if f.sign b then -1 else 1) * (if f.expField b = 0 then (f.fracField b : Rat) else f.fracField b + 2 ^ f.frac)
    * (2 : Rat) ^ ((max 1 (f.expField b) : Int) - f.bias - f.frac)

/-- An encoding of a number: neither an infinity nor a NaN. -/
abbrev Fmt.finite (f : Fmt) (b : Nat) : Prop := b < 2 ^ f.width ∧ f.expField b < f.maxExp

/-- r is the number x rounded as a rounding attribute says: no other number of the format serves better (R267, R396). -/
def Fmt.roundsTo (f : Fmt) (mode : Nat) (x : Rat) (r : Nat) : Prop :=
  f.finite r ∧ ∀ y, f.finite y →
    match mode with
    | 0 => |f.value r - x| ≤ |f.value y - x| ∧ (|f.value r - x| = |f.value y - x| → f.value r = f.value y ∨ r % 2 = 0)
    | 1 => |f.value r| ≤ |x| ∧ 0 ≤ f.value r * x ∧ (|f.value y| ≤ |x| → 0 ≤ f.value y * x → |f.value y| ≤ |f.value r|)
    | 2 => x ≤ f.value r ∧ (x ≤ f.value y → f.value r ≤ f.value y)
    | 3 => f.value r ≤ x ∧ (f.value y ≤ x → f.value y ≤ f.value r)
    | _ => |f.value r - x| ≤ |f.value y - x| ∧ (|f.value r - x| = |f.value y - x| → |f.value y| ≤ |f.value r|)

/-- An operation's result is x, correctly rounded: NX tells whether it is exact, and a result beyond the format or below its smallest normal number is
flagged as such (R396, R403, R413). -/
def Fmt.correct (f : Fmt) (mode : Nat) (x : Rat) (r : FRes) : Prop :=
  x ≠ 0 → r.sub = false → r.flags &&& 4 = 0 →
    f.roundsTo mode x r.bits ∧ f.subnormal r.bits = false ∧ r.flags = if f.value r.bits = x then 0 else 1

/-- An encoding of a NaN, and of a signalling one. -/
def Fmt.isNan (f : Fmt) (b : Nat) : Bool := f.expField b == f.maxExp && f.fracField b != 0
def Fmt.isSignalling (f : Fmt) (b : Nat) : Bool := f.isNan b && !b.testBit (f.frac - 1)

/-- An encoding of an infinity, and of a zero. -/
def Fmt.isInf (f : Fmt) (b : Nat) : Bool := f.expField b == f.maxExp && f.fracField b == 0
def Fmt.isZero (f : Fmt) (b : Nat) : Bool := f.expField b == 0 && f.fracField b == 0

/-- A key that orders the encodings that are not NaNs as the values they stand for (R399). -/
def Fmt.key (f : Fmt) (b : Nat) : Int :=
  let m := b % 2 ^ (f.width - 1)
  if f.sign b then -(m : Int) else m

/-- A number rounded to an integer (R267, R398). -/
def integral (mode : Nat) (x : Rat) : Int :=
  match mode with
  | 0 => if x - ⌊x⌋ < 1 / 2 ∨ (x - ⌊x⌋ = 1 / 2 ∧ ⌊x⌋ % 2 = 0) then ⌊x⌋ else ⌊x⌋ + 1
  | 1 => if 0 ≤ x then ⌊x⌋ else ⌈x⌉
  | 2 => ⌈x⌉
  | 3 => ⌊x⌋
  | _ => if 0 ≤ x then ⌊x + 1 / 2⌋ else ⌈x - 1 / 2⌉

end Sys2Proof.Machine
end

