-- ==== Sys2Proof/WellFormed.lean ====
section
/-! DEFINITION. Well-formed commands: the operands that an event from outside can carry. What the types of Syntax.lean bound is not said again. The
meanings do not rest on these checks: a command that fails one has a meaning all the same. -/
namespace Sys2Proof

/-- A burst of bytes from an offset: at least one, and none past the end of a window of `2 ^ n` bytes (R68, R741). -/
def burstOk (n off : Nat) (l : List Byte) : Bool := decide (0 < l.length) && decide (off + l.length ≤ 2 ^ n)

/-- The checks on the operands of a command that their types do not make. -/
def Instr.wf : Instr → Bool
  | .hostBar0Write off l => burstOk 22 off.toNat l
  | .hostBar4Write off l => burstOk 24 off.toNat l
  | .hostBar0Read dw n => decide (dw.toNat + (if n = 0 then 1024 else n.toNat) ≤ 2 ^ 20)
  | .hostBar4Read dw n => decide (dw.toNat + (if n = 0 then 1024 else n.toNat) ≤ 2 ^ 22)
  | .hostBar2Read dw n => decide (dw.toNat + (if n = 0 then 1024 else n.toNat) ≤ 2 ^ 15)
  | .flashCommandDone _ l => decide (l.length ≤ 256)
  | .i2cTransferEnd _ _ done l => decide (l.length ≤ 32) && decide (done.toNat ≤ 64)
  | .linkUp rate width => decide (1 ≤ rate.toNat) && decide (rate.toNat ≤ 4) && (width == 1 || width == 2 || width == 4)
  | .rxPop _ _ n => decide (n.toNat ≤ 64)
  | _ => true

end Sys2Proof
end

