-- ==== Sys2Proof/Certificates/Slice0/Obligations.lean ====
section
/-! DEFINITION. The statements for the provers. -/
open Sys2Proof Sys2Proof.Machine

/-! ### Classes 0x01 to 0x03: the integer instructions -/

/-- R286: ADD, ADC, SUB and SBC give sum and difference modulo 2^48; with S, C is the carry out or the absence of a borrow, and V is 1 when the
signed result does not fit. -/
def Obligations.AddAndSubtractGiveResultAndFlags : Prop :=
  ∀ (s : State) (c : CoreId) (rd ra rb : RegNo) (st : Bool), s.ready c = true → s.wired = true →
    let a := (s.core c).rd ra
    let b := (s.core c).rd rb
    let cin := if cswC (s.core c).csw then 1 else 0
    IntResult s (exec (.add c rd ra rb st) s) c rd (a + b)
      (sFlags st (a + b) (2 ^ 48 ≤ a.toNat + b.toNat) (outside48 (a.toInt + b.toInt)))
    ∧ IntResult s (exec (.adc c rd ra rb st) s) c rd (a + b + BitVec.ofNat 48 cin)
      (sFlags st (a + b + BitVec.ofNat 48 cin) (2 ^ 48 ≤ a.toNat + b.toNat + cin) (outside48 (a.toInt + b.toInt + cin)))
    ∧ IntResult s (exec (.sub c rd ra rb st) s) c rd (a - b)
      (sFlags st (a - b) (b.toNat ≤ a.toNat) (outside48 (a.toInt - b.toInt)))
    ∧ IntResult s (exec (.sbc c rd ra rb st) s) c rd (a - b - BitVec.ofNat 48 (1 - cin))
      (sFlags st (a - b - BitVec.ofNat 48 (1 - cin)) (b.toNat + (1 - cin) ≤ a.toNat)
        (outside48 (a.toInt - b.toInt - (1 - cin : Nat))))

/-- R286: the logical instructions, SLT, SLTU and the immediate forms of R293 leave C and V at 0 with S; the immediate forms leave every flag. -/
def Obligations.LogicAndComparisonGiveResultAndFlags : Prop :=
  ∀ (s : State) (c : CoreId) (rd ra rb : RegNo) (st : Bool) (i : BitVec 16), s.ready c = true → s.wired = true →
    let a := (s.core c).rd ra
    let b := (s.core c).rd rb
    let d := (s.core c).rd rd
    let k : Word := i.signExtend 48
    IntResult s (exec (.and c rd ra rb st) s) c rd (a &&& b) (sFlags st (a &&& b) False False)
    ∧ IntResult s (exec (.or c rd ra rb st) s) c rd (a ||| b) (sFlags st (a ||| b) False False)
    ∧ IntResult s (exec (.xor c rd ra rb st) s) c rd (a ^^^ b) (sFlags st (a ^^^ b) False False)
    ∧ IntResult s (exec (.andn c rd ra rb st) s) c rd (a &&& ~~~b) (sFlags st (a &&& ~~~b) False False)
    ∧ IntResult s (exec (.slt c rd ra rb st) s) c rd (if a.toInt < b.toInt then 1 else 0)
      (sFlags st (if a.toInt < b.toInt then 1 else 0) False False)
    ∧ IntResult s (exec (.sltu c rd ra rb st) s) c rd (if a.toNat < b.toNat then 1 else 0)
      (sFlags st (if a.toNat < b.toNat then 1 else 0) False False)
    ∧ IntResult s (exec (.andi c rd i) s) c rd (d &&& k) none
    ∧ IntResult s (exec (.ori c rd i) s) c rd (d ||| k) none
    ∧ IntResult s (exec (.xori c rd i) s) c rd (d ^^^ k) none

/-- R288 and R294: a register shift takes its count from the low six bits of Wb; with S, C is the last bit shifted out for a count of 1 to 48,
and V is 0. The immediate forms take a count of 0 to 63 and leave the flags. -/
def Claims.ShiftsGiveResultAndCarry : Prop :=
  ∀ (s : State) (c : CoreId) (rd ra rb : RegNo) (st : Bool) (i : BitVec 16), s.ready c = true → s.wired = true → i.toNat < 64 →
    let a := (s.core c).rd ra
    let d := (s.core c).rd rd
    let n := ((s.core c).rd rb).toNat % 64
    IntResult s (exec (.shl c rd ra rb st) s) c rd (a <<< n) (sFlags st (a <<< n) (1 ≤ n ∧ n ≤ 48 ∧ hasBit a (48 - n)) False)
    ∧ IntResult s (exec (.shr c rd ra rb st) s) c rd (a >>> n) (sFlags st (a >>> n) (1 ≤ n ∧ n ≤ 48 ∧ hasBit a (n - 1)) False)
    ∧ IntResult s (exec (.sar c rd ra rb st) s) c rd (a.sshiftRight n)
      (sFlags st (a.sshiftRight n) (1 ≤ n ∧ hasBit a (min (n - 1) 47)) False)
    ∧ IntResult s (exec (.ror c rd ra rb st) s) c rd (a.rotateRight (n % 48))
      (sFlags st (a.rotateRight (n % 48)) (1 ≤ n ∧ hasBit (a.rotateRight (n % 48)) 47) False)
    ∧ IntResult s (exec (.shli c rd i) s) c rd (d <<< i.toNat) none
    ∧ IntResult s (exec (.shri c rd i) s) c rd (d >>> i.toNat) none
    ∧ IntResult s (exec (.sari c rd i) s) c rd (d.sshiftRight i.toNat) none
    ∧ IntResult s (exec (.rori c rd i) s) c rd (d.rotateRight (i.toNat % 48)) none

/-- R286: SXB, SXH and SXL extend the sign of a byte, half and long; CLZ counts the zero bits above the highest bit set; POPC counts the bits set. RB
is zero. -/
def Claims.ExtensionsAndCountsGiveResult : Prop :=
  ∀ (s : State) (c : CoreId) (rd ra : RegNo) (st : Bool), s.ready c = true → s.wired = true →
    let a := (s.core c).rd ra
    IntResult s (exec (.sxb c rd ra 0 st) s) c rd (BitVec.ofInt 48 (a.setWidth 8).toInt)
      (sFlags st (BitVec.ofInt 48 (a.setWidth 8).toInt) False False)
    ∧ IntResult s (exec (.sxh c rd ra 0 st) s) c rd (BitVec.ofInt 48 (a.setWidth 16).toInt)
      (sFlags st (BitVec.ofInt 48 (a.setWidth 16).toInt) False False)
    ∧ IntResult s (exec (.sxl c rd ra 0 st) s) c rd (BitVec.ofInt 48 (a.setWidth 32).toInt)
      (sFlags st (BitVec.ofInt 48 (a.setWidth 32).toInt) False False)
    ∧ (∀ n, n ≤ 48 → a.toNat < 2 ^ (48 - n) → (n < 48 → hasBit a (47 - n)) →
        IntResult s (exec (.clz c rd ra 0 st) s) c rd (BitVec.ofNat 48 n) (sFlags st (BitVec.ofNat 48 n) False False))
    ∧ IntResult s (exec (.popc c rd ra 0 st) s) c rd (BitVec.ofNat 48 (bitsSet a)) (sFlags st (BitVec.ofNat 48 (bitsSet a)) False False)

/-- R286 and R287: MUL gives the low half of the product and, with S, V when the signed product does not fit; MULH and MULHU give the high half
of the signed and the unsigned product; MULP and MULPU give the whole product in a pair, with N its bit 95. -/
def Obligations.ProductsAreExact : Prop :=
  ∀ (s : State) (c : CoreId) (rd ra rb : RegNo) (st : Bool), s.ready c = true → s.wired = true →
    let a := (s.core c).rd ra
    let b := (s.core c).rd rb
    let hs : Word := BitVec.ofInt 48 ((a.toInt * b.toInt) / 2 ^ 48)
    let hu : Word := BitVec.ofNat 48 (a.toNat * b.toNat / 2 ^ 48)
    IntResult s (exec (.mul c rd ra rb st) s) c rd (a * b) (sFlags st (a * b) False (outside48 (a.toInt * b.toInt)))
    ∧ IntResult s (exec (.mulh c rd ra rb st) s) c rd hs (sFlags st hs False False)
    ∧ IntResult s (exec (.mulhu c rd ra rb st) s) c rd hu (sFlags st hu False False)
    ∧ (pairOk rd = true →
        PairResult s (exec (.mulp c rd ra rb st) s) c rd (BitVec.ofInt 96 (a.toInt * b.toInt)).toNat
          (if st then some ⟨decide (a.toInt * b.toInt < 0), decide (a.toInt * b.toInt = 0), false, false⟩ else none)
        ∧ PairResult s (exec (.mulpu c rd ra rb st) s) c rd (a.toNat * b.toNat)
          (if st then some ⟨decide (2 ^ 95 ≤ a.toNat * b.toNat), decide (a.toNat * b.toNat = 0), false, false⟩ else none))

/-- R289 to R291: quotient and remainder are truncated towards zero; the most negative number by -1 sets V and is the only overflow; a divisor of
zero raises Integer Divide Check (vector 8) and writes nothing. -/
def Obligations.DivisionTruncatesAndChecksZero : Prop :=
  ∀ (s : State) (c : CoreId) (rd ra rb : RegNo) (st : Bool), s.ready c = true → s.wired = true →
    let a := (s.core c).rd ra
    let b := (s.core c).rd rb
    let q : Word := BitVec.ofInt 48 (a.toInt.tdiv b.toInt)
    let r : Word := BitVec.ofInt 48 (a.toInt.tmod b.toInt)
    let v := decide (outside48 (a.toInt.tdiv b.toInt))
    (b ≠ 0 →
      IntResult s (exec (.div c rd ra rb st) s) c rd q (divFlags (s.core c) st q v)
      ∧ IntResult s (exec (.rem c rd ra rb st) s) c rd r (divFlags (s.core c) st r v)
      ∧ IntResult s (exec (.divu c rd ra rb st) s) c rd (a / b) (divFlags (s.core c) st (a / b) false)
      ∧ IntResult s (exec (.remu c rd ra rb st) s) c rd (a % b) (divFlags (s.core c) st (a % b) false))
    ∧ (b = 0 → (s.core c).tpend = false →
      Raises s (exec (.div c rd ra rb st) s) c 0x01 (Exc.plain 8 0 0)
      ∧ Raises s (exec (.rem c rd ra rb st) s) c 0x01 (Exc.plain 8 0 0)
      ∧ Raises s (exec (.divu c rd ra rb st) s) c 0x01 (Exc.plain 8 0 0)
      ∧ Raises s (exec (.remu c rd ra rb st) s) c 0x01 (Exc.plain 8 0 0))

/-- R293 to R295: the immediate forms of class 0x02, and ADDX, which is 8 bytes long and adds a 48-bit immediate. -/
def Obligations.ImmediateFormsGiveResult : Prop :=
  ∀ (s : State) (c : CoreId) (rd ra : RegNo) (i : BitVec 16) (ext : BitVec 32), s.ready c = true → s.wired = true →
    let d := (s.core c).rd rd
    let k : Word := i.signExtend 48
    IntResult s (exec (.ldi c rd i) s) c rd k none
    ∧ IntResult s (exec (.addi c rd i) s) c rd (d + k) none
    ∧ IntResult s (exec (.addiS c rd i) s) c rd (d + k) (sFlags true (d + k) (2 ^ 48 ≤ d.toNat + k.toNat) (outside48 (d.toInt + k.toInt)))
    ∧ IntResult s (exec (.cmpi c rd i) s) c 0 0 (sFlags true (d - k) (k.toNat ≤ d.toNat) (outside48 (d.toInt - k.toInt)))
    ∧ IntResult s (exec (.muli c rd i) s) c rd (d * k) none
    ∧ IntResult s (exec (.adpc c rd i) s) c rd ((s.core c).pc + 4#48 * k) none
    ∧ ∃ t, exec (.addx c rd ra i ext) s = .next t ∧ (t.core c).rd rd = written rd ((s.core c).rd ra + (ext ++ i)) ∧ (t.core c).nzcv = (s.core c).nzcv
      ∧ (t.core c).pc = (s.core c).pc + 8#48 ∧ RegOnly s t c [rd] 0

/-! ### Classes 0x04 to 0x07: memory -/

/-- R249 to R252, R296, R297, R300: LD and the indexed loads: address, alignment, extension, destination, and the exception of a load that cannot be
performed. -/
def Obligations.LoadsExtendWhatTheAccessReads : Prop :=
  ∀ (s : State) (c : CoreId) (rd ra rb : RegNo) (i : BitVec 16) (size scale : BitVec 2) (sx : Bool), s.ready c = true → s.wired = true →
    LoadsTo s (exec (.ld c rd ra i) s) c 0x04 rd ((s.core c).rd ra + BitVec.ofInt 48 (i.toInt - i.toInt % 4)) (i.toNat % 4) false
    ∧ ((sx && size == 3) = false →
      LoadsTo s (exec (.loadIndexed c rd ra rb size scale sx 0) s) c 0x06 rd ((s.core c).rd ra + (s.core c).rd rb * BitVec.ofNat 48 (2 ^ scale.toNat))
        size.toNat sx)

/-- R296 to R298, R300: ST and the indexed stores store the low bytes of Wd, or raise the exception of an access that cannot be performed. -/
def Obligations.StoresStoreLowBytes : Prop :=
  ∀ (s : State) (c : CoreId) (rd ra rb : RegNo) (i : BitVec 16) (size scale : BitVec 2), s.ready c = true → s.wired = true →
    StoresFrom s (exec (.st c rd ra i) s) c 0x05 ((s.core c).rd rd).toNat ((s.core c).rd ra + BitVec.ofInt 48 (i.toInt - i.toInt % 4)) (i.toNat % 4)
    ∧ StoresFrom s (exec (.storeIndexed c rd ra rb size scale false 0) s) c 0x06 ((s.core c).rd rd).toNat
        ((s.core c).rd ra + (s.core c).rd rb * BitVec.ofNat 48 (2 ^ scale.toNat)) size.toNat

/-- R248, R282, R296: a load from installed DRAM, translation and keys off, reads the bytes of memory, the lowest address least significant. -/
def Claims.LoadFromDramReadsItsBytes : Prop :=
  ∀ (s : State) (c : CoreId) (rd ra : RegNo) (i : BitVec 16), s.ready c = true → s.wired = true →
    let va := (s.core c).rd ra + BitVec.ofInt 48 (i.toInt - i.toInt % 4)
    let z := i.toNat % 4
    va.toNat % sizeAlign z = 0 → s.quietDram c va (sizeBytes z) = true →
      ∃ t, exec (.ld c rd ra i) s = .next t ∧ (t.core c).rd rd = written rd (BitVec.ofNat 48 (ofLe (s.bytes va.toNat (sizeBytes z))))
        ∧ Advanced s t c ∧ Leaves s s t c [rd] [] [] 0

/-- R427, R428: a store to installed DRAM, translation and keys off, enters the core's store buffer: no byte of memory changes, and while the buffer
has room nothing leaves it. -/
def Claims.StoreToDramWaitsInTheBuffer : Prop :=
  ∀ (s : State) (c : CoreId) (rd ra : RegNo) (i : BitVec 16), s.ready c = true → s.wired = true →
    let va := (s.core c).rd ra + BitVec.ofInt 48 (i.toInt - i.toInt % 4)
    let z := i.toNat % 4
    va.toNat % sizeAlign z = 0 → s.plainDram c va (sizeBytes z) = true → (s.core c).sb.length + 2 ≤ 32 →
      ∃ t, exec (.st c rd ra i) s = .next t ∧ Advanced s t c ∧ Leaves s s t c [] [] [] 0
        ∧ ∃ l : List SbEntry, (t.core c).sb = (s.core c).sb ++ l ∧ (l.flatMap fun e => e.bytes) = leBytes (sizeBytes z) ((s.core c).rd rd).toNat
          ∧ l.all fun e => decide (va.toNat ≤ e.addr) && decide (e.addr + e.bytes.length ≤ va.toNat + sizeBytes z)

/-- R429, R430: a load of the bytes that the same core has just stored reads the value stored, whether the store still waits in the buffer or not. -/
def Claims.LoadAfterStoreReadsTheValue : Prop :=
  ∀ (s t : State) (c : CoreId) (rd rx ra : RegNo) (i : BitVec 16), s.ready c = true → s.wired = true →
    let va := (s.core c).rd ra + BitVec.ofInt 48 (i.toInt - i.toInt % 4)
    let z := i.toNat % 4
    va.toNat % sizeAlign z = 0 → s.plainDram c va (sizeBytes z) = true → exec (.st c rx ra i) s = .next t → t.ready c = true →
      ∃ u, exec (.ld c rd ra i) t = .next u
        ∧ (u.core c).rd rd = written rd (BitVec.ofNat 48 (((s.core c).rd rx).toNat % 256 ^ sizeBytes z))

/-- R301 to R304: an atomic reads a word once every earlier access is complete; `u` is the state in which it has been read. CAS stores Wb when memory
holds Wd, and Z tells; FADD stores the sum. The word is globally visible at the end. A misaligned one raises Alignment with INFO 7. -/
def Obligations.AtomicsReadModifyWriteOneWord : Prop :=
  ∀ (s u1 u : State) (c : CoreId) (rd ra rb : RegNo) (ps : List Part) (l : List Byte), s.ready c = true → s.wired = true →
    let q := s.core c
    let va := q.rd ra
    let x := ((drainAll s c).core c).ctx
    let stored := fun v => drainAll (writeParts u c x ps (leBytes 6 v)) c
    ((va.toNat % 2 ≠ 0 ∨ 60 ≤ va.toNat % 64) → q.tpend = false →
      Raises s (exec (.cas c rd ra rb) s) c 0x07 (Exc.at 3 0 7 va.toNat) ∧ Raises s (exec (.fetchAdd c rd ra rb) s) c 0x07 (Exc.at 3 0 7 va.toNat))
    ∧ (va.toNat % 2 = 0 → va.toNat % 64 < 60 → checkAccess (drainAll s c) c x va.toNat 6 4096 .write true = (u1, .inr ps) →
      readParts u1 c ps = (u, .ok l) →
      (∃ t, Ends s (if ofLe l = (q.rd rd).toNat then stored (q.rd rb).toNat else markDirty u c x va.toNat) t (exec (.cas c rd ra rb) s) c (q.pc + 4#48) [rd] 4
        ∧ (t.core c).rd rd = written rd (BitVec.ofNat 48 (ofLe l)) ∧ (t.core c).nzcv.z = decide (ofLe l = (q.rd rd).toNat))
      ∧ ∃ t, Ends s (stored ((ofLe l + (q.rd rb).toNat) % 2 ^ 48)) t (exec (.fetchAdd c rd ra rb) s) c (q.pc + 4#48) [rd] 0
        ∧ (t.core c).rd rd = written rd (BitVec.ofNat 48 (ofLe l)))

/-- R301, R304: on a word of installed DRAM, translation and keys off and no store waiting, CAS and FADD change exactly the word's six bytes, and CAS
only when memory holds Wd. -/
def Obligations.AtomicOnDramWritesOnlyItsWord : Prop :=
  ∀ (s : State) (c : CoreId) (rd ra rb : RegNo), s.ready c = true → s.wired = true →
    let q := s.core c
    let va := q.rd ra
    let old := ofLe (s.bytes va.toNat 6)
    let put := fun (t : State) (v : Nat) => ∀ a, t.byte a =
      if va.toNat ≤ a ∧ a < va.toNat + 6 then BitVec.ofNat 8 (v / 256 ^ (a - va.toNat)) else s.byte a
    va.toNat % 2 = 0 → va.toNat % 64 < 60 → q.sb = [] → s.quietDram c va 6 = true →
      (∃ t, exec (.cas c rd ra rb) s = .next t ∧ (t.core c).rd rd = written rd (BitVec.ofNat 48 old) ∧ (t.core c).nzcv.z = decide (old = (q.rd rd).toNat)
        ∧ put t (if old = (q.rd rd).toNat then (q.rd rb).toNat else old))
      ∧ ∃ t, exec (.fetchAdd c rd ra rb) s = .next t ∧ (t.core c).rd rd = written rd (BitVec.ofNat 48 old) ∧ put t ((old + (q.rd rb).toNat) % 2 ^ 48)

/-- R305, R313, R427, R436: FENCE.SL, FENCE.ALL and IFLUSH leave no store of the core waiting, FENCE.IO none to device-weak memory; nothing else
changes but what the stores do. STORE_DRAIN lets the oldest store leave, or a later one where device-weak memory allows it. -/
def Obligations.FencesEmptyTheStoreBuffer : Prop :=
  ∀ (s : State) (c : CoreId) (k : Fin 32), s.wired = true →
    (s.ready c = true →
      (∀ i ∈ [Instr.fenceSl c 0, Instr.fenceAll c 0, Instr.iflush c 0],
        ∃ t, Ends s (drainAll s c) t (exec i s) c ((s.core c).pc + 4#48) [] 0 ∧ (t.core c).sb = [])
      ∧ ∃ t, Ends s (drainWeak s c) t (exec (.fenceIo c 0) s) c ((s.core c).pc + 4#48) [] 0 ∧ ∀ e ∈ (t.core c).sb, e.weak = false)
    ∧ (s.pwr.fabricUp = true → s.fenced c.val = false → ∀ e, (s.core c).sb[k.val]? = some e →
      ((s.core c).sb.take k.val).all (fun f => (f.weak || e.weak) && f.addr / 64 != e.addr / 64) = true →
      ∃ t, exec (.storeDrain c k) s = .next t ∧ (t.core c).sb = (s.core c).sb.take k.val ++ (s.core c).sb.drop (k.val + 1)
        ∧ (regionOf e.addr ≠ .link → s.poison e.addr e.bytes.length = none →
            ∀ a, t.byte a = if h : e.addr ≤ a ∧ a - e.addr < e.bytes.length then e.bytes[a - e.addr]'h.2 else s.byte a))

/-! ### Classes 0x08 to 0x0C: control -/

/-- R270, R275, R306 to R308: branches and jumps go to their targets, BL and CALLR leave the return address in W30, and a register jump to an
address that is not a multiple of 4 raises Alignment at the jump. -/
def Obligations.BranchesGoToTheirTargets : Prop :=
  ∀ (s : State) (c : CoreId) (cond : BitVec 4) (near : BitVec 22) (far : BitVec 26) (ra : RegNo), s.ready c = true → s.wired = true →
    let q := s.core c
    let f := q.nzcv
    let holds := [f.z, !f.z, f.c, !f.c, f.n, !f.n, f.v, !f.v, f.c && !f.z, !f.c || f.z, f.n == f.v, f.n != f.v, !f.z && f.n == f.v, f.z || f.n != f.v,
      true, cswDo q.csw].getD cond.toNat false
    (∃ t, Ends s s t (exec (.br c cond near) s) c (if holds then q.pc + BitVec.ofInt 48 (4 * near.toInt) else q.pc + 4#48) [] 0)
    ∧ (∃ t, Ends s s t (exec (.bl c far) s) c (q.pc + BitVec.ofInt 48 (4 * far.toInt)) [30] 0 ∧ (t.core c).rd 30 = q.pc + 4#48)
    ∧ ((q.rd ra).toNat % 4 = 0 →
      (∃ t, Ends s s t (exec (.jr c ra 0) s) c (q.rd ra) [] 0)
      ∧ ∃ t, Ends s s t (exec (.callr c ra 0) s) c (q.rd ra) [30] 0 ∧ (t.core c).rd 30 = q.pc + 4#48)
    ∧ ((q.rd 30).toNat % 4 = 0 → ∃ t, Ends s s t (exec (.ret c 0) s) c (q.rd 30) [] 0)
    ∧ ((q.rd ra).toNat % 4 ≠ 0 → q.tpend = false →
      Raises s (exec (.jr c ra 0) s) c 0x0A (Exc.at 3 0 6 (q.rd ra).toNat) ∧ Raises s (exec (.callr c ra 0) s) c 0x0A (Exc.at 3 0 6 (q.rd ra).toNat))
    ∧ ((q.rd 30).toNat % 4 ≠ 0 → q.tpend = false → Raises s (exec (.ret c 0) s) c 0x0A (Exc.at 3 0 6 (q.rd 30).toNat))

/-- R264, R265, R280, R281, R309, R310: NOP changes nothing; CAPS reads the capability words of the variant, zero from 4 on; RDCSW reads CSW whole, and
WRCSW writes the bits that the stair may write. -/
def Obligations.StatusAndCapabilityMoves : Prop :=
  ∀ (s : State) (c : CoreId) (rd ra : RegNo) (n : Fin 32), s.ready c = true → s.wired = true →
    let q := s.core c
    let m : Word := [0x10FF3F#48, 0xFF3F#48, 0x3F#48, 0x3F#48].getD q.stair 0
    (∃ t, Ends s s t (exec (.nop c 0) s) c (q.pc + 4#48) [] 0)
    ∧ (∃ t, Ends s s t (exec (.caps c rd 0 n) s) c (q.pc + 4#48) [rd] 0
      ∧ (t.core c).rd rd = written rd (BitVec.ofNat 48 (if n.val < 4 then Variant.cap s.variant n.val else 0)))
    ∧ (∃ t, Ends s s t (exec (.rdcsw c rd 0) s) c (q.pc + 4#48) [rd] 0 ∧ (t.core c).rd rd = written rd q.csw)
    ∧ ∃ t, Ends s s t (exec (.wrcsw c ra 0) s) c (q.pc + 4#48) [] m ∧ (t.core c).csw &&& m = q.rd ra &&& m

/-- R315 to R318, R494: BELL, after every earlier store of the core, requests the bell on the present cores of the mask; from Hall P a bell of Hall L is
dropped and recorded. BELLW rings the doorbell of well Wa with the value of Wb, or of the pair. -/
def Obligations.BellsAndDoorbellsOfCores : Prop :=
  ∀ (s : State) (c : CoreId) (ra rb : RegNo) (b : Fin 32), s.ready c = true → s.wired = true →
    let q := s.core c
    let u := drainAll s c
    let well := (q.rd ra).toNat
    let mask := (q.rd ra).toNat % 16
    (b.val < 16 → (u.fenced 8 = false ∨ mask = 0) →
      let denied := mask ≠ 0 ∧ q.hall = .P ∧ u.belHall b.val = .L
      ∃ t, Ends s (if denied then u.event 8 0 else u) t (exec (.bell c ra b 0) s) c (q.pc + 4#48) [] 0 ∧ (t.core c).sb = []
        ∧ (¬ denied → u.belLevel b.val ≠ 0 →
            ∀ k : Fin 4, k.val < Variant.cores s.variant → (q.rd ra).getLsbD k.val = true → b.val ∈ t.bel.pend.getD k.val []))
    ∧ (u.fenced 5 = false →
      EndsIn s (u.doorbell (.core c q.hall) well false ((q.rd rb).toNat % 2 ^ 32)) (exec (.bellwL c ra rb 0) s) c
      ∧ (pairOk rb = true → EndsIn s (u.doorbell (.core c q.hall) well true
          ((q.rd rb).toNat % 2 ^ 32 + (q.rd (RegNo.succ rb)).toNat % 2 ^ 32 * 2 ^ 32)) (exec (.bellwQ c ra rb 0) s) c))

/-- R319 to R326: JOBGET and JOBPOLL take the oldest token of the inlet of the core and hall, with the address of its copy; without one JOBGET waits and
JOBPOLL answers zeros with Z 0. JOBDONE ends the job of a live token with the status and the result of Wb, after every earlier store; any other
token changes nothing but Z. -/
def Obligations.JobTokensAreTakenAndReturned : Prop :=
  ∀ (s : State) (c : CoreId) (rd ra rb : RegNo), s.ready c = true → s.wired = true →
    let q := s.core c
    let first := s.pump.flight.find? (·.inInlet c.val q.hall)
    (pairOk rd = true →
      (∀ f slot tag e, first = some f → f.loc = .core c.val q.hall slot tag false e →
        let tok : Word := BitVec.ofNat 48 (f.job.well + slot * 2 ^ 14 + f.job.gen * 2 ^ 17 + tag * 2 ^ 24)
        let copy : Word := BitVec.ofNat 48 (s.inletBase q.hall + 0x1000 * c.val + 0x200 * slot)
        let taken : Flight := { f with loc := .core c.val q.hall slot tag true e }
        let u := s.updPump fun p => { p with flight := p.flight.map fun g => if g = f then taken else g }
        (∃ t, Ends s u t (exec (.jobget c rd 0) s) c (q.pc + 4#48) [rd, RegNo.succ rd] 0
          ∧ (t.core c).rd rd = tok ∧ (t.core c).rd (RegNo.succ rd) = copy)
        ∧ ∃ t, Ends s u t (exec (.jobpoll c rd 0) s) c (q.pc + 4#48) [rd, RegNo.succ rd] 4
          ∧ (t.core c).rd rd = tok ∧ (t.core c).rd (RegNo.succ rd) = copy ∧ (t.core c).nzcv.z = true)
      ∧ (first = none →
        (∃ t, Ends s s t (exec (.jobget c rd 0) s) c q.pc [] 0 ∧ (t.core c).jobWait = true)
        ∧ ∃ t, Ends s s t (exec (.jobpoll c rd 0) s) c (q.pc + 4#48) [rd, RegNo.succ rd] 4
          ∧ (t.core c).rd rd = 0 ∧ (t.core c).rd (RegNo.succ rd) = 0 ∧ (t.core c).nzcv.z = false))
    ∧ (let tok := (q.rd ra).toNat
      let res := (q.rd rb).toNat
      let u := drainAll s c
      let mine := fun f : Flight => f.isToken c.val q.hall (bitsOf tok 16 14) (bitsOf tok 31 24)
      ∀ f, s.pump.flight.find? mine = some f → bitsOf tok 47 32 = 0 → bitsOf tok 23 20 = 0 →
        let ended : Flight := { f with done := some ⟨bitsOf res 7 0, bitsOf res 39 8, c.val⟩ }
        ∃ t, Ends s (u.updPump fun p => { p with flight := p.flight.erase f ++ [ended] }) t (exec (.jobdone c ra rb 0) s) c (q.pc + 4#48) [] 4
          ∧ (t.core c).nzcv.z = true ∧ (t.core c).sb = [])
    ∧ (let tok := (q.rd ra).toNat
      (bitsOf tok 47 32 ≠ 0 ∨ bitsOf tok 23 20 ≠ 0 ∨ s.pump.flight.any (·.isToken c.val q.hall (bitsOf tok 16 14) (bitsOf tok 31 24)) = false) →
        ∃ t, Ends s s t (exec (.jobdone c ra rb 0) s) c (q.pc + 4#48) [] 4 ∧ (t.core c).nzcv.z = false)

/-- R499 to R504, R507: HOLD opens a window with the smaller of n and HOLDMAX, or records NEST or DENIED; RELEASE and the two limits end it and
HOLDSTAT records how; nothing else changes. -/
def Obligations.HeldWindowsOpenAndEnd : Prop :=
  ∀ (s : State) (c : CoreId) (n : BitVec 10), s.wired = true →
    let q := s.core c
    let h := q.hall
    let max := (q.cr h (0x088 + q.stair)).toNat
    let kept := fun t : State => SysKept s s t c [] [(h, 0x08D)] 0x200000#48
    let ended := fun (t : State) (code ovr count : Nat) => kept t ∧ (t.core c).hold = none ∧ cswHeld (t.core c).csw = false
      ∧ (t.core c).crField h 0x08D 3 1 = code ∧ (t.core c).crField h 0x08D 0 0 = ovr ∧ (t.core c).crField h 0x08D 15 8 = count
      ∧ (t.core c).crField h 0x08D 23 16 = q.crField h 0x08D 23 16
    (s.ready c = true → q.tpend = false → 1 ≤ n.toNat → n.toNat ≤ 255 →
      ∃ t, exec (.hold c n 0) s = .next t ∧ Advanced s t c ∧ kept t ∧ (t.core c).crField h 0x08D 23 16 = n.toNat
        ∧ match q.hold with
          | some w => (t.core c).hold = some { w with count := w.count + 1 } ∧ (t.core c).crField h 0x08D 4 4 = 1
          | none => if max = 0 then (t.core c).hold = none ∧ (t.core c).crField h 0x08D 5 5 = 1
              else (t.core c).hold = some ⟨n.toNat, min n.toNat max, 0⟩ ∧ cswHeld (t.core c).csw = true)
    ∧ (s.ready c = true → ∃ t, exec (.release c 0) s = .next t ∧ Advanced s t c
        ∧ match q.hold with
          | some _ => ended t 0 (q.crField h 0x08D 0 0) (q.crField h 0x08D 15 8)
          | none => Ends s s t (exec (.release c 0) s) c (q.pc + 4#48) [] 0)
    ∧ ∀ w, q.hold = some w →
      (w.limit ≤ w.count →
        ∃ t, exec (.holdCountLimit c) s = .next t ∧ (t.core c).pc = q.pc ∧ ended t (if w.n ≤ w.limit then 1 else 2) 1 (w.count % 256))
      ∧ (w.count < w.limit → ∃ t, exec (.holdTimeLimit c) s = .next t ∧ (t.core c).pc = q.pc ∧ ended t 3 1 (w.count % 256))

/-- R327 to R329: SLEEP at stairs 0 and 1 retires, ends an open window with EXIT and stops the core until an event that is never held is due or a source
above ILEVEL is requested, or a wake source cancels an entry into the Cistern state (R146); at stairs 2 and 3 it raises Privileged Instruction. -/
def Obligations.SleepStopsTheCore : Prop :=
  ∀ (s : State) (c : CoreId), s.ready c = true → s.wired = true → (s.core c).tpend = false →
    let q := s.core c
    (q.stair < 2 → ∃ t, exec (.sleep c 0) s = .next t ∧ Advanced s t c ∧ SysKept s s t c [] [(q.hall, 0x08D)] 0x200000#48 ∧ (t.core c).hold = none
      ∧ (q.hold.isSome → (t.core c).crField q.hall 0x08D 3 1 = 5)
      ∧ ((t.core c).asleep = true ∨ (t.core c).due ≠ Due.none ∨ (∃ src, t.takeable c.val q.hall (cswIlevel q.csw) src = true)
        ∨ (s.pwr.cis = .entering ∧ t.pwr.cis = .awake)))
    ∧ (2 ≤ q.stair → Raises s (exec (.sleep c 0) s) c 0x0C (Exc.plain 2 0 0))

/-! ### Class 0x0D: system instructions -/

/-- R19, R299: at stairs 2 and 3 every instruction of class 0x0D, whatever its fields, raises Privileged Instruction and does nothing else. -/
def Obligations.SystemClassIsPrivileged : Prop :=
  ∀ (s : State) (c : CoreId) (ra rb : RegNo) (rd : Fin 32) (n : BitVec 10) (m : BitVec 15) (k : BitVec 5), s.ready c = true → (s.core c).tpend = false →
    2 ≤ (s.core c).stair →
      ∀ i ∈ [Instr.ascend c m, .rdcr c ra n, .wrcr c ra n, .eret c m, .openu c m, .closeu c m, .tlbiVa c rd ra rb, .tlbiVaw c rd ra rb, .tlbiTag c rd ra rb,
          .tlbiAll c rd ra rb, .skey c ra rb k],
        Raises s (exec i s) c 0x0D (Exc.plain 2 0 0)

/-- R464 to R468, R470, R517: RDCR reads and WRCR writes the control register that N10 names, in the bank of the hall or, from Hall L stair 0, of Hall
P; bits the table marks as zero stay zero; an undefined index raises Illegal Instruction, a stair above the limit Privileged Instruction; WDKICK reads
zero and services the watchdog of its hall. OPENU and CLOSEU set and clear UOPEN. -/
def Obligations.ControlRegistersAreReadAndWritten : Prop :=
  ∀ (s : State) (c : CoreId) (rd : RegNo) (n : BitVec 10), s.ready c = true → s.wired = true → (s.core c).stair < 2 →
    let q := s.core c
    let h := if 512 ≤ n.toNat then Hall.P else q.hall
    let i := n.toNat % 512
    let far := 512 ≤ n.toNat ∧ (q.hall ≠ .L ∨ q.stair ≠ 0)
    (crInfo h i = none → q.tpend = false → ∀ j ∈ [Instr.rdcr c rd n, .wrcr c rd n], Raises s (exec j s) c 0x0D (Exc.plain 1 0 0))
    ∧ (∀ m r w, crInfo h i = some (m, r, w) →
      ((far ∨ r < q.stair) → q.tpend = false → Raises s (exec (.rdcr c rd n) s) c 0x0D (Exc.plain 2 0 0))
      ∧ ((far ∨ w < q.stair) → q.tpend = false → Raises s (exec (.wrcr c rd n) s) c 0x0D (Exc.plain 2 0 0))
      ∧ (¬ far → q.stair ≤ r → ∃ t, Ends s s t (exec (.rdcr c rd n) s) c (q.pc + 4#48) [rd] 0 ∧ (t.core c).rd rd = written rd (q.cr h i))
      ∧ (¬ far → q.stair ≤ w → i ≠ 0x023 → (i = 0x022 → Variant.hasDsc s.variant = true) →
        ∃ t, exec (.wrcr c rd n) s = .next t ∧ Advanced s t c ∧ SysKept s s t c [] [(h, i)] 0
          ∧ (t.core c).cr h i = (q.rd rd &&& BitVec.ofNat 48 m) ||| (if h = .P ∧ 0x00C ≤ i ∧ i ≤ 0x00E then 0x40000#48 else 0))
      ∧ (¬ far → q.stair ≤ w → i = 0x022 → Variant.hasDsc s.variant = false → ∃ t, Ends s s t (exec (.wrcr c rd n) s) c (q.pc + 4#48) [] 0)
      ∧ (¬ far → i = 0x023 → EndsIn s (match h with | .L => s.wdlRestart | .P => s.wdpRestart) (exec (.wrcr c rd n) s) c))
    ∧ (∃ t, Ends s s t (exec (.openu c 0) s) c (q.pc + 4#48) [] 0x80000#48 ∧ cswUopen (t.core c).csw = true)
    ∧ ∃ t, Ends s s t (exec (.closeu c 0) s) c (q.pc + 4#48) [] 0x80000#48 ∧ cswUopen (t.core c).csw = false

/-- R526, R527: after every earlier store, TLBI removes from the core's buffers the leaves of an address and tag, and with .VAW the table pointers; all
but the global leaves of a tag; or everything of a hall. RD 1 names Hall P, from Hall L stair 0 only. -/
def Obligations.TlbiRemovesBufferedEntries : Prop :=
  ∀ (s : State) (c : CoreId) (rd : Fin 32) (ra rb : RegNo), s.ready c = true → s.wired = true → (s.core c).stair < 2 →
    let q := s.core c
    let h := if rd.val = 1 then Hall.P else q.hall
    let va := (q.rd ra).toNat
    let tag := (q.rd rb).toNat % 65536
    let same := fun (lvl a b : Nat) => a / 2 ^ (12 + 9 * (lvl - 1)) = b / 2 ^ (12 + 9 * (lvl - 1))
    let ofVa := fun e : TlbLeaf => e.hall = h ∧ (bit e.flags 6 = true ∨ e.tag = tag) ∧ same e.level va e.va
    let drops := fun (i : Instr) (leaf : TlbLeaf → Prop) (ptr : WalkEntry → Prop) =>
      ∃ t, Ends s (drainAll s c) t (exec i s) c (q.pc + 4#48) [] 0 ∧ (t.core c).sb = []
        ∧ (∀ e, e ∈ (t.core c).tlb ↔ e ∈ q.tlb ∧ ¬ leaf e) ∧ ∀ e, e ∈ (t.core c).wcache ↔ e ∈ q.wcache ∧ ¬ ptr e
    (rd.val = 0 ∨ (rd.val = 1 ∧ q.hall = .L ∧ q.stair = 0) →
      drops (.tlbiVa c rd ra rb) ofVa (fun _ => False)
      ∧ drops (.tlbiVaw c rd ra rb) ofVa (fun e => e.hall = h ∧ e.tag = tag ∧ same e.level va e.va)
      ∧ drops (.tlbiTag c rd 0 rb) (fun e => e.hall = h ∧ bit e.flags 6 = false ∧ e.tag = tag) (fun e => e.hall = h ∧ e.tag = tag)
      ∧ drops (.tlbiAll c rd 0 0) (fun e => e.hall = h) (fun e => e.hall = h))
    ∧ (rd.val = 1 → ¬ (q.hall = .L ∧ q.stair = 0) → q.tpend = false →
      ∀ i ∈ [Instr.tlbiVa c rd ra rb, .tlbiVaw c rd ra rb, .tlbiTag c rd 0 rb, .tlbiAll c rd 0 0], Raises s (exec i s) c 0x0D (Exc.plain 2 0 0))

/-- R540, R541: SKEY at stair 0 stores Wb[7:0], bits 5:4 as zero, as the key of the frame at Wa, and no core, Pump or engine keeps the entry that covers it.
At stair 1 it is privileged; an address outside installed DRAM, keys off, or a Hall P writer at a locked key raise their exceptions. `u` is the state
with every earlier store performed. -/
def Obligations.SkeyStoresAKey : Prop :=
  ∀ (s : State) (c : CoreId) (ra rb : RegNo), s.ready c = true → s.wired = true →
    let q := s.core c
    let u := drainAll s c
    let pa := (q.rd ra).toNat
    let key := (q.rd rb).toNat % 256 &&& 0xCF
    let old := (u.byte (u.keyAddr pa)).toNat
    let line := pa / 4096 / 16
    let fails := fun e : Exc => q.tpend = false → RaisesAt s u (exec (.skey c ra rb 0) s) c 0x0D e
    (q.stair = 1 → q.tpend = false → Raises s (exec (.skey c ra rb 0) s) c 0x0D (Exc.plain 2 0 0))
    ∧ (q.stair = 0 → u.installed ≤ pa → fails (Exc.at 4 1 1 pa))
    ∧ (q.stair = 0 → pa < u.installed → u.flag F.KEY_CTL_ENABLE = false → fails (Exc.at 4 3 1 pa))
    ∧ (q.stair = 0 → pa < u.installed → u.flag F.KEY_CTL_ENABLE = true → q.hall = .P → (128 ≤ old ∨ 128 ≤ key) →
      fails (Exc.at 7 2 (old % 16 + cswKey q.csw * 16 + 0x100 + bitsOf old 6 6 * 1024) pa))
    ∧ (q.stair = 0 → pa < u.installed → u.flag F.KEY_CTL_ENABLE = true → (q.hall = .P → old < 128 ∧ key < 128) →
      u.fenced 9 = false → u.poison (u.keyAddr pa) 1 = none → (∀ k, (u.core k).sb = []) →
      ∃ t, exec (.skey c ra rb 0) s = .next t ∧ Advanced s t c
        ∧ (∀ a, t.byte a = if a = u.keyAddr pa then BitVec.ofNat 8 key else u.byte a)
        ∧ (∀ (k : CoreId) (b : List Byte), (line, b) ∉ (t.core k).keys)
        ∧ ∀ b, (line, b) ∉ t.pump.keys ∧ (line, b) ∉ t.eng.jnlKeys ∧ (line, b) ∉ t.eng.cpyKeys)

/-! ### Gates, passages and exceptions -/

/-- R449 to R455: DESCEND t,g enters stair t of the hall through gate g: its entry comes from control registers or from the gate table, an open window
ends with EXIT; with an entry outstanding at that stair (`d`) its return registers are pushed on its stack, else SPLOAD loads the stack pointer;
RETPC, RETCSW and RDEPTH take the caller; the Gate Faults are those of R480. `v` is the state with the window ended. -/
def Obligations.DescendEntersALowerStair : Prop :=
  ∀ (s u0 u : State) (c : CoreId) (t : Fin 32) (g : BitVec 10) (e : GateEntry), s.ready c = true → s.wired = true →
    (s.core c).tpend = false → t.val < 3 →
    g.toNat ≤ 255 →
    let q := s.core c
    let h := q.hall
    let k := g.toNat
    let v := endHold s c 5
    let d := (q.cr h (0x010 + t.val)).toNat
    let sp := q.spOf h t.val
    let count := min 248 (q.cr h (0x01C + t.val)).toNat
    let fails := fun (x : State) (n : Nat) => RaisesAt s x (exec (.descend c t g) s) c 0x0C (Exc.plain 0x0F n k)
    (q.stair ≤ t.val → fails v 1)
    ∧ (t.val < q.stair → 8 + count ≤ k → fails v 2)
    ∧ (t.val < q.stair →
      (if k ≤ 7 then u0 = v ∧ e = ⟨q.cr h (0x040 + 8 * t.val + k), q.cr h (0x014 + t.val), (q.cr h (0x060 + 8 * t.val + k)).toNat⟩
        else k < 8 + count ∧ tableRead v c h ((q.cr h (0x018 + t.val)).toNat + 16 * (k - 8)) = (u0, .inr e)) →
      (bit e.ctl 0 = false → fails u0 4)
      ∧ (bit e.ctl 0 = true → bit e.ctl (4 + q.stair) = false → fails u0 5)
      ∧ (bit e.ctl 0 = true → bit e.ctl (4 + q.stair) = true →
        (0 < d → sp.toNat % 16 ≠ 0 → fails u0 6)
        ∧ (255 ≤ d → sp.toNat % 16 = 0 → fails u0 7)
        ∧ ((if d = 0 then u = u0 else d < 255 ∧ sp.toNat % 16 = 0
            ∧ storeBytes u0 c ⟨h, t.val, bitsOf e.ctl 11 8, cswTe q.csw, false⟩ (sp - 16#48).toNat 4096
              (leBytes 6 (q.cr h (0x008 + t.val)).toNat ++ leBytes 6 (q.cr h (0x00C + t.val)).toNat ++ leBytes 4 d) = (u, none)) →
          ∃ t', exec (.descend c t g) s = .next t' ∧ (t'.core c).pc = e.pc &&& pcBits
            ∧ SysKept s u t' c [] [(h, 0x08D), (h, t.val), (h, 0x008 + t.val), (h, 0x00C + t.val), (h, 0x010 + t.val)] 0x2BFF00#48
            ∧ cswStair (t'.core c).csw = t.val ∧ cswIlevel (t'.core c).csw = bitsOf e.ctl 15 12 ∧ cswKey (t'.core c).csw = bitsOf e.ctl 11 8
            ∧ cswUopen (t'.core c).csw = false ∧ (t'.core c).hold = none
            ∧ (t'.core c).cr h (0x008 + t.val) = q.pc + 4#48
            ∧ (t'.core c).cr h (0x00C + t.val) &&& 0x17FF3F#48 = q.csw &&& 0x17FF3F#48
            ∧ (t'.core c).cr h (0x010 + t.val) = BitVec.ofNat 48 ((d + 1) % 256)
            ∧ (t'.core c).spOf h t.val = if d = 0 then (if bit e.ctl 1 then e.sp else sp) else sp - 16#48)))

/-- R459 to R462: PASSAGE p enters Hall L through entry p of its passage table: the stair, ILEVEL, TE and KEY come from the entry, the return registers take
the caller, FCSW is saved in PSAVEFCSW, and W9 to W30, the floating-point registers and the accumulators are cleared. The case shown has no entry
outstanding at that stair. From Hall L it faults. -/
def Obligations.PassageEntersHallL : Prop :=
  ∀ (s u : State) (c : CoreId) (p : BitVec 10) (e : GateEntry), s.ready c = true → s.wired = true → (s.core c).tpend = false → p.toNat ≤ 63 →
    let q := s.core c
    let v := endHold s c 5
    let x := bitsOf e.ctl 3 3
    let units := Variant.hasDsc s.variant
    let fails := fun (y : State) (n : Nat) (toL : Bool) =>
      RaisesAt s y (exec (.passage c p 0) s) c 0x0C ⟨0x0F, n, 0x100 + p.toNat, none, none, toL⟩
    (q.hall = .L → fails v 11 true)
    ∧ (q.hall = .P → min 64 (q.cr .L 0x021).toNat ≤ p.toNat → fails v 2 false)
    ∧ (q.hall = .P → p.toNat < min 64 (q.cr .L 0x021).toNat → tableRead v c .L ((q.cr .L 0x020).toNat + 16 * p.toNat) = (u, .inr e) →
      (bit e.ctl 0 = false → fails u 4 false)
      ∧ (bit e.ctl 0 = true → bit e.ctl (4 + q.stair) = false → fails u 5 false)
      ∧ (bit e.ctl 0 = true → bit e.ctl (4 + q.stair) = true → (q.cr .L (0x010 + x)).toNat = 0 →
        ∃ t, exec (.passage c p 0) s = .next t
          ∧ (t.core c).pc = e.pc &&& pcBits ∧ (t.core c).hall = .L ∧ (t.core c).stair = x ∧ cswIlevel (t.core c).csw = bitsOf e.ctl 15 12
          ∧ cswKey (t.core c).csw = bitsOf e.ctl 11 8 ∧ cswTe (t.core c).csw = bit e.ctl 2 ∧ cswUopen (t.core c).csw = false
          ∧ cswDot (t.core c).csw = false ∧ cswDo (t.core c).csw = false ∧ (t.core c).nzcv = q.nzcv ∧ (t.core c).hold = none
          ∧ (t.core c).cr .L (0x008 + x) = q.pc + 4#48 ∧ (t.core c).cr .L (0x00C + x) &&& 0x17FF3F#48 = q.csw &&& 0x17FF3F#48
          ∧ (t.core c).cr .L (0x010 + x) = 1#48 ∧ (t.core c).spOf .L x = (if bit e.ctl 1 then e.sp else q.spOf .L x)
          ∧ (∀ n : RegNo, 9 ≤ n.val → n.val < 31 → (t.core c).rd n = 0) ∧ (∀ n : RegNo, n.val < 9 → (t.core c).rd n = q.rd n)
          ∧ (if units then (t.core c).cr .L 0x022 = q.fcsw &&& 0x171F3F#48 ∧ (t.core c).fcsw = 0 ∧ (∀ n : RegNo, (t.core c).f[n] = 0)
              ∧ ∀ n : Fin 8, (t.core c).da[n] = 0xC#128
            else (t.core c).fcsw = q.fcsw)
          ∧ (∀ h i, (h, i) ∉ [(Hall.P, 0x08D), (.L, x), (.L, 0x008 + x), (.L, 0x00C + x), (.L, 0x010 + x), (.L, 0x022)] → (t.core c).cr h i = q.cr h i)
          ∧ (∀ k, k ≠ c → (s.core k).Same (t.core k)) ∧ RestKept u t))

/-- R456 to R458, R462: ASCEND returns from the entry outstanding at the stair to RETPC and RETCSW, keeping the flags and clearing UOPEN; with none, or
to a stair of its own hall that is not higher in number, it faults; to Hall P while that is disabled it raises Hall P Reset with cause ENTRY. A return to
Hall P clears what carries no parameters and restores FCSW. The case shown has one entry outstanding. -/
def Obligations.AscendReturnsToTheCaller : Prop :=
  ∀ (s : State) (c : CoreId), s.ready c = true → s.wired = true → (s.core c).tpend = false → (s.core c).stair < 2 →
    let q := s.core c
    let h := q.hall
    let t := q.stair
    let v := endHold s c 5
    let d := (q.cr h (0x010 + t)).toNat
    let target := q.cr h (0x00C + t)
    let units := Variant.hasDsc s.variant
    let fails := RaisesAt s v (exec (.ascend c 0) s) c 0x0D (Exc.plain 0x0F 10 0)
    (d = 0 → fails)
    ∧ (0 < d → cswHall target = h → cswStair target ≤ t → fails)
    ∧ (0 < d → (cswHall target = h → t < cswStair target) →
      (cswHall target = .P → s.flag F.PWR_HALLPCTL_ENABLE = false → RaisesAt s v (exec (.ascend c 0) s) c 0x0D ⟨0x12, 1, 0, none, none, true⟩)
      ∧ (d = 1 → (cswHall target = .P → s.flag F.PWR_HALLPCTL_ENABLE = true) →
        ∃ t', exec (.ascend c 0) s = .next t' ∧ (t'.core c).pc = q.cr h (0x008 + t) &&& pcBits ∧ (t'.core c).hold = none
          ∧ (t'.core c).csw = (q.csw &&& 0xF#48) ||| (target &&& 0x17FF30#48) ∧ (t'.core c).cr h (0x010 + t) = 0
          ∧ (∀ k i, (k, i) ∉ [(h, 0x08D), (h, 0x010 + t)] → (t'.core c).cr k i = q.cr k i)
          ∧ (∀ k, k ≠ c → (s.core k).Same (t'.core k)) ∧ RestKept s t'
          ∧ if cswHall target = h then (∀ n : RegNo, n.val < 31 → (t'.core c).rd n = q.rd n) ∧ q.FKept (t'.core c) [] ∧ q.DaKept (t'.core c) []
                ∧ q.FpKept (t'.core c)
            else (∀ n : RegNo, 9 ≤ n.val → n.val < 31 → (t'.core c).rd n = 0) ∧ (∀ n : RegNo, n.val < 9 → (t'.core c).rd n = q.rd n)
              ∧ if units then (t'.core c).fcsw = q.cr .L 0x022 &&& fcswBits ∧ (∀ n : RegNo, (t'.core c).f[n] = 0)
                  ∧ ∀ n : Fin 8, (t'.core c).da[n] = 0xC#128
                else (t'.core c).fcsw = q.fcsw))

/-- R489, R490: ERET restores PC, CSW, W1, W2, W3 and W30 from the frame at the stack pointer and frees the frame; Hall P cannot leave Hall P, the stair
of the own hall never falls, HELD and UOPEN come back 0, and at stair 0 the reserve stack is free again. A misaligned stack pointer raises Alignment. -/
def Obligations.EretRestoresTheFrame : Prop :=
  ∀ (s u : State) (c : CoreId) (l : List Byte), s.ready c = true → s.wired = true → (s.core c).tpend = false → (s.core c).stair < 2 →
    let q := s.core c
    let h := q.hall
    let sp := q.spOf h q.stair
    let word := fun (k : Nat) => (BitVec.ofNat 48 (ofLe ((l.drop (6 * k)).take 6)) : Word)
    let f := word 1 &&& 0x17FF3F#48
    let hall := if h = .P then Hall.P else cswHall f
    let stair := if hall = h then max (cswStair f) q.stair else cswStair f
    (sp.toNat % 16 ≠ 0 → Raises s (exec (.eret c 0) s) c 0x0D (Exc.at 3 0 8 sp.toNat))
    ∧ (sp.toNat % 16 = 0 → loadBytes s c q.ctx sp.toNat 48 4096 .read = (u, .inr l) →
      (hall = .P → u.flag F.PWR_HALLPCTL_ENABLE = false → RaisesAt s u (exec (.eret c 0) s) c 0x0D ⟨0x12, 1, 0, none, none, true⟩)
      ∧ ((hall = .P → u.flag F.PWR_HALLPCTL_ENABLE = true) →
        ∃ t, exec (.eret c 0) s = .next t ∧ (t.core c).pc = word 0 &&& pcBits ∧ (t.core c).hold = none
          ∧ (t.core c).csw = cswSet (cswSet f 18 18 (hallNat hall)) 17 16 stair
          ∧ (t.core c).rd 1 = word 2 ∧ (t.core c).rd 2 = word 3 ∧ (t.core c).rd 3 = word 4 ∧ (t.core c).rd 30 = word 5
          ∧ (t.core c).spOf h q.stair = sp + 48#48 ∧ (q.stair = 0 → (t.core c).cr h 0x087 = 0)
          ∧ SysKept s u t c [1, 2, 3, 30] [(h, 0x08D), (h, q.stair), (h, if q.stair = 0 then 0x087 else q.stair)] 0x3FFF3F#48))

/-- R475 to R486: taking an exception ends an open window, pushes a frame of 48 bytes (PC, CSW with HELD 0, W1, W2, W3, W30, fault address, syndrome) on
the stack of the target hall and stair, and goes to VBASE plus 64 times the vector, with W1 the syndrome and W2 the fault address; KEY and TE come from
EXCFG, UOPEN and HELD are 0, ILEVEL is 15 from vector 0x11 to 0x16. BRK n is vector 0x10 with INFO n (R311). -/
def Obligations.ExceptionEntryBuildsTheFrame : Prop :=
  (∀ (s : State) (c : CoreId) (n : BitVec 10), s.ready c = true → (s.core c).tpend = false →
    Raises s (exec (.brk c n 0) s) c 0x0C (Exc.plain 0x10 0 n.toNat))
  ∧ ∀ (s u1 u2 : State) (c : CoreId) (e : Exc) (pc : Word) (ps vps : List Part), s.wired = true → e.vec < 0x31 →
    let q := s.core c
    let v := endHold s c (if 0x14 ≤ e.vec ∧ e.vec ≤ 0x16 then 4 else 5)
    let h := if e.toL then Hall.L else q.hall
    let st := if ((1 ≤ e.vec ∧ e.vec ≤ 0xD) ∨ e.vec = 0x10) ∧ 1 ≤ q.stair ∧ bit (q.cr h 0x083).toNat e.vec = true then 1 else 0
    let cfg := (q.cr h 0x082).toNat
    let x : Ctx := if st = 0 then ⟨h, 0, bitsOf cfg 3 0, bit cfg 4, false⟩ else ⟨h, 1, bitsOf cfg 11 8, bit cfg 12, false⟩
    let sp := q.spOf h st
    let va := q.cr h (0x080 + st) + BitVec.ofNat 48 (64 * e.vec)
    let fa := e.fa.getD 0
    let syn : Word := BitVec.ofNat 48 (e.vec * 2 ^ 42 + e.opc.getD (opAt v c pc) * 2 ^ 36 + (if e.fa.isSome then 2 ^ 35 else 0) + q.stair * 2 ^ 32
      + (if q.hall = .P then 2 ^ 31 else 0) + e.cause * 2 ^ 16 + e.info)
    let frame := [pc, cswSet q.csw 21 21 0, q.rd 1, q.rd 2, q.rd 3, q.rd 30, fa, syn].flatMap fun w => leBytes 6 w.toNat
    let u := writeParts u2 c x ps frame
    sp.toNat % 16 = 0 → checkAccess v c x (sp - 48#48).toNat 48 4096 .write false = (u1, .inr ps) →
    checkAccess u1 c x va.toNat 4 4096 .fetch false = (u2, .inr vps) → u.poison (partsPa vps) 4 = none →
      let t := takeException s c e pc
      (t.core c).pc = va ∧ (t.core c).hall = h ∧ (t.core c).stair = st ∧ cswTe (t.core c).csw = x.te ∧ cswKey (t.core c).csw = x.key
        ∧ cswUopen (t.core c).csw = false ∧ cswHeld (t.core c).csw = false
        ∧ cswIlevel (t.core c).csw = (if 0x11 ≤ e.vec ∧ e.vec ≤ 0x16 then 15 else cswIlevel q.csw) ∧ (t.core c).nzcv = q.nzcv
        ∧ (t.core c).rd 1 = syn ∧ (t.core c).rd 2 = fa ∧ (∀ n : RegNo, 3 ≤ n.val → n.val < 31 → (t.core c).rd n = q.rd n)
        ∧ (t.core c).spOf h st = sp - 48#48 ∧ (t.core c).hold = none ∧ (t.core c).asleep = false
        ∧ (∀ k i, (k, i) ∉ [(q.hall, 0x08D), (h, st)] → (t.core c).cr k i = q.cr k i) ∧ q.FKept (t.core c) [] ∧ q.DaKept (t.core c) []
        ∧ q.FpKept (t.core c) ∧ (∀ k, k ≠ c → (s.core k).Same (t.core k)) ∧ RestKept u t

/-- R405, R475, R481, R482, R490, R497: at a boundary the first event due is entered: a machine check (vector 0x14), the device watchdog (0x16), the
watchdog (0x15), the stop of Hall P (0x12, CAUSE 2), then the maskable interrupt of the highest level, at vector 0x30 plus its level, its pending bit
cleared when it is an edge source. EXCEPTION_ENTRY and INTERRUPT_ENTRY enter it; with none due, EXCEPTION_ENTRY raises the exception of the head
instruction: an encoding no row has is illegal, a fetch that faults raises its fault. -/
def Obligations.EventsAreEnteredInOrder : Prop :=
  ∀ (s : State) (c : CoreId) (hd : HeadEvent), s.canRun c = true → (s.core c).tpend = false → (s.core c).hold = none →
    let q := s.core c
    let enters := fun (x : State) (e : Exc) => ∀ i ∈ [Instr.exceptionEntry c hd, .interruptEntry c], exec i s = .next (takeException x c e q.pc).settle
    let drop := fun (f : Due → Due) => s.updCore c fun r => { r with due := f r.due }
    (∀ m l, q.due.mc = m :: l → enters (drop fun d => { d with mc := l }) ⟨0x14, m.cls, m.seg, m.fa, some 0, true⟩)
    ∧ (q.due.mc = [] → q.due.devWatchdog = true → enters (drop fun d => { d with devWatchdog := false }) ⟨0x16, 0, 0, none, some 0, true⟩)
    ∧ (q.due.mc = [] → q.due.devWatchdog = false → q.due.watchdog = true →
      enters (drop fun d => { d with watchdog := false }) ⟨0x15, 0, 0, none, some 0, true⟩)
    ∧ (q.due.mc = [] → q.due.devWatchdog = false → q.due.watchdog = false → q.due.hallPStop = true →
      enters (drop fun d => { d with hallPStop := false }) ⟨0x12, 2, 0, none, none, true⟩)
    ∧ (q.due = Due.none → ∀ src, s.nextInterrupt c = some src →
      let l := s.belLevel src
      let h := s.belHall src
      let st := if q.hall = h ∧ 1 ≤ q.stair ∧ bit (q.cr h 0x084).toNat l = true then 1 else 0
      let x := if (levelBlock src).isSome then s else s.unpend src c.val
      ∀ i ∈ [Instr.exceptionEntry c hd, .interruptEntry c],
        exec i s = .next (enterHall x c h st ⟨⟨0x30 + l, l, src, none, some 0, false⟩, 0, ⟨q.pc, q.csw, q.rd 1, q.rd 2, q.rd 3, q.rd 30⟩⟩).settle)
    ∧ (s.dueEvent c = none → q.jobWait = false → ∀ op : BitVec 6, gateKeep s c op.toNat = none →
      Raises s (exec (.exceptionEntry c (.unassigned op)) s) c op.toNat (Exc.plain 1 0 0))
    ∧ (s.dueEvent c = none → q.jobWait = false → ∀ (u : State) (e : Exc) (ext : Bool),
      checkAccess s c q.ctx (if ext then q.pc + 4#48 else q.pc).toNat 4 4096 .fetch false = (u, .inl e) →
        RaisesAt s u (exec (.exceptionEntry c (.fetch ext)) s) c (e.opc.getD (opAt s c q.pc)) e)

/-- R274, R278, R279: an instruction of classes 0x10 to 0x14 and 0x18 to 0x1B raises Unit Absent on a variant without the unit, CAUSE 1 for the decimal
and string unit and 2 for the floating-point unit. -/
def Obligations.AbsentUnitsRaiseUnitAbsent : Prop :=
  ∀ (s : State) (c : CoreId) (r1 r2 r3 r4 : RegNo) (l1 l2 k : Fin 32) (n : Nat) (p x : Bool) (m2 : BitVec 2) (m3 rm : BitVec 3)
    (m4 : BitVec 4) (m5 : BitVec 5)
    (m10 : BitVec 10) (m15 : BitVec 15) (i : BitVec 16), s.ready c = true → (s.core c).tpend = false → Variant.hasDsc s.variant = false →
    (∀ j ∈ [Instr.dadd c r1 r2 l1 l2, .dsub c r1 r2 l1 l2, .dmul c r1 r2 l1 l2, .ddiv c r1 r2 l1 l2, .drem c r1 r2 l1 l2, .dcmp c r1 r2 l1 l2,
        .dscale c r1 r2 l1 l2], Raises s (exec j s) c 0x10 (Exc.plain 0x0E 1 0))
    ∧ (∀ j ∈ [Instr.daadd c r1 r2 r3, .dasub c r1 r2 r3, .dacmp c r1 r2 r3, .damov c r1 r2 r3, .daneg c r1 r2 r3, .damul c r1 r2 r3, .dashl c r1 r2 k,
        .dashr c r1 r2 k, .dasht c r1 r2 k, .dafromw c r1 r2 r3, .datow c r1 r2 r3, .datowp c r1 r2 r3, .dald c r1 r2 k, .dast c r1 r2 k],
      Raises s (exec j s) c 0x11 (Exc.plain 0x0E 1 0))
    ∧ (∀ j ∈ [Instr.dtob c r1 r2 l1 l2, .dtobP c r1 r2 l1 l2, .btod c r1 r2 l1 l2, .btodP c r1 r2 l1 l2, .ztop c r1 r2 l1 l2, .ptoz c r1 r2 l1 l2,
        .ptozs c r1 r2 l1 l2], Raises s (exec j s) c 0x12 (Exc.plain 0x0E 1 0))
    ∧ (∀ j ∈ [Instr.edit c r1 r2 r3 r4, .editm c r1 r2 r3 r4], Raises s (exec j s) c 0x13 (Exc.plain 0x0E 1 0))
    ∧ (∀ j ∈ [Instr.movs c r1 r2 r3 r4 n, .movb c r1 r2 r3 r4 n, .movt c r1 r2 r3 r4 n, .fills c r1 r2 r3 r4 n, .cmps c r1 r2 r3 r4 n,
        .scns c r1 r2 r3 r4 n, .trts c r1 r2 r3 r4 n], Raises s (exec j s) c 0x14 (Exc.plain 0x0E 1 0))
    ∧ (∀ j ∈ [Instr.fadd c r1 r2 r3 p m4 rm, .fsub c r1 r2 r3 p m4 rm, .fmul c r1 r2 r3 p m4 rm, .fdiv c r1 r2 r3 p m4 rm,
        .fsqrt c r1 r2 r3 p m4 rm, .fmadd c r1 r2 r3 r4 p rm, .fmsub c r1 r2 r3 r4 p rm, .fnmadd c r1 r2 r3 r4 p rm, .fnmsub c r1 r2 r3 r4 p rm,
        .fcvt c r1 r2 r3 p m4 rm, .fcvtFw c r1 r2 r3 p x m3 rm, .fcvtWf c r1 r2 r3 p x m3 rm, .fcmp c r1 r2 r3 p x m3 rm,
        .fclass c r1 r2 r3 p m4 rm, .fmov c r1 r2 p m2 rm, .fneg c r1 r2 p m2 rm, .fabs c r1 r2 p m2 rm, .fcpys c r1 r2 r3 p m2 rm, .fldS c r1 r2 i,
        .fldD c r1 r2 i, .fstS c r1 r2 i, .fstD c r1 r2 i, .fmvwfL c r1 r2 m5, .fmvwfH c r1 r2 m5, .fmvfwL c r1 r2 m5, .fmvfwH c r1 r2 m5,
        .rdfcsw c r1 m10, .wrfcsw c r1 m10, .rdfta c r1 m10, .fbar c m15],
      ∃ op, 0x18 ≤ op ∧ op ≤ 0x1B ∧ Raises s (exec j s) c op (Exc.plain 0x0E 2 0))

/-! ### The Gallery -/

/-- R668, R674, R675, R677: in a running engine each test instruction makes ACC from ACC and the bit that A names, and goes on to the next instruction;
NOT, the flag instructions, the skips and END act as R677 says. Bits 0x100 to 0x13F are edges and their levels, 0x140 to 0x1BF the timers, 0x1C0 to 0x1DF
the flags, and an input reads as the sweep's snapshot. -/
def Claims.GalleryTestsSetTheAccumulator : Prop :=
  ∀ (s : State) (a : BitVec 10) (n : Fin 32) (k : BitVec 8), s.wired = true → s.gal.run = true →
    let x := s.gal.acc
    let y := s.galBit a.toNat
    let makes := fun (i : Instr) (acc : Bool) => Does s (exec i s) [.gallery] [] fun t => t.gal = { s.gal with acc := acc, idx := s.gal.idx + 1 }
    let flags := fun (i : Instr) (ws : List (Fld × Nat)) => Does s (exec i s) [.gallery] ws fun t => t.gal = { s.gal with idx := s.gal.idx + 1 }
    let goes := fun (i : Instr) (j : Nat) => Does s (exec i s) [.gallery] [] fun t => t.gal = { s.gal with idx := j }
    makes (.galLd a) y ∧ makes (.galLdn a) (!y) ∧ makes (.galAnd a) (x && y) ∧ makes (.galAndn a) (x && !y) ∧ makes (.galOr a) (x || y)
    ∧ makes (.galOrn a) (x || !y) ∧ makes (.galXor a) (x ^^ y) ∧ makes .galNot (!x) ∧ goes .galNop (s.gal.idx + 1)
    ∧ flags (.setf n) (if x then [(F.GAL_FLAGS_GF.bitAt n, 1)] else []) ∧ flags (.clrf n) (if x then [(F.GAL_FLAGS_GF.bitAt n, 0)] else [])
    ∧ flags (.stf n) [(F.GAL_FLAGS_GF.bitAt n, if x then 1 else 0)]
    ∧ goes (.skipt k) (s.gal.idx + 1 + if x then k.toNat else 0) ∧ goes (.skipf k) (s.gal.idx + 1 + if x then 0 else k.toNat)
    ∧ goes .galEnd 1024
    ∧ (a.toNat < 0x100 → y = s.gal.snap.testBit a.toNat)
    ∧ (0x100 ≤ a.toNat → a.toNat < 0x120 → y = s.gal.edges.testBit (a.toNat - 0x100))
    ∧ (0x140 ≤ a.toNat → a.toNat < 0x180 → y = (s.gal.timers.getD (a.toNat - 0x140) .idle == .expired))
    ∧ (0x1C0 ≤ a.toNat → a.toNat < 0x1E0 → y = (s.get F.GAL_FLAGS_GF).testBit (a.toNat - 0x1C0)) ∧ (a.toNat = 0x1E0 → y = true)

/-- R672, R679 to R683, R687: with ACC 1 an instruction of a running engine starts or stops a timer, requests a pulse, drives a pin, wakes the device,
fires a bell or queues a template; PULSE and POST leave in ACC whether they were accepted. With ACC 0 none of them does anything, except that GPO in mode 3 drives
the pin to ACC. -/
def Claims.GalleryActsWhenTheAccumulatorIsSet : Prop :=
  ∀ (s : State) (n : Fin 64) (count : BitVec 20) (ch : Fin 4) (door : Fin 32) (k : Fin 8) (m : BitVec 2) (h : Hall) (b : Fin 32) (e : Fin 16),
    s.wired = true → s.gal.run = true →
    let next := { s.gal with idx := s.gal.idx + 1 }
    let cfg := s.galTcfg s.gal.bank n
    let starts := fun (count : Nat) => s.gal.timers.set n (.running (s.tb.toNat + count * [240, 24000, 2400000, 24000000].getD (bitsOf cfg 25 24) 240))
    let pin := (F.GPIO_OUT_MASK.ix (n.val / 32)).bitAt (n.val % 32)
    let old := s.get pin
    (s.gal.acc = false →
      (∀ i ∈ [Instr.tstart n, .tstarti n count, .tstop n, .galPulse ch door k, .galWake h, .galBell b, .post e],
        Does s (exec i s) [.gallery] [] fun t => t.gal = next)
      ∧ Does s (exec (.gpo n m) s) [.gallery] (if m = 3 then [(pin, 0)] else [(pin, old)]) fun t => t.gal = next)
    ∧ (s.gal.acc = true →
      Does s (exec (.tstart n) s) [.gallery] [] (fun t => t.gal = { next with timers := starts (bitsOf cfg 23 0) })
      ∧ Does s (exec (.tstarti n count) s) [.gallery] [] (fun t => t.gal = { next with timers := starts count.toNat })
      ∧ Does s (exec (.tstop n) s) [.gallery] [] (fun t => t.gal = { next with timers := s.gal.timers.set n .idle })
      ∧ Does s (exec (.gpo n m) s) [.gallery] [(pin, [0, 1, 1 - old, 1].getD m.toNat 0)] (fun t => t.gal = next)
      ∧ (ch.val < Variant.latches s.variant → s.pulse ch = none → s.atLoc (· == .latch ch) = false →
        Does s (exec (.galPulse ch door k) s) [.gallery, .latch] [] fun t => t.gal = next
          ∧ ∃ p, t.latch = s.latch.set ch ⟨some p, door, none⟩ ∧ p.door = door ∧ p.profile = k ∧ p.gallery = true ∧ p.phase = .select
            ∧ p.ipull = s.get ((F.LCH_IPULL_IPULL.ix ch).ix k) ∧ p.thold = s.get ((F.LCH_TIME_THOLD.ix ch).ix k))
      ∧ (ch.val < Variant.latches s.variant → (s.pulse ch).isSome = true →
        Does s (exec (.galPulse ch door k) s) [.gallery] [] fun t => t.gal = { next with acc := false })
      ∧ (Variant.latches s.variant ≤ ch.val → Does s (exec (.galPulse ch door k) s) [.gallery]
          [(evtBit 14 4, 1), (F.GAL_ABSREC_VALID, 1), (F.GAL_ABSREC_RUN, 1), (F.GAL_ABSREC_OFFSET, s.gal.idx)] fun t => t.gal = { next with acc := false })
      ∧ (s.pwr.cis = .awake → Does s (exec (.galWake h) s) [.gallery] [] fun t => t.gal = next)
      ∧ (s.pwr.cis = .asleep → (s.get F.PWR_WAKEEN_EN).testBit 0 = true →
        Does s (exec (.galWake h) s) [.gallery, .power] [] fun t => t.gal = next ∧ t.pwr.wakeGalL = (s.pwr.wakeGalL || h == .L))
      ∧ (s.pwr.fabricUp = true → s.belLevel (64 + b) ≠ 0 → s.fenced 8 = false → s.flag (F.BEL_SRC_DELIV.ix (64 + b)) = false →
        Does s (exec (.galBell b) s) [.gallery] [] fun t => t.gal = next
          ∧ ∀ c : CoreId, (s.belCores (64 + b)).testBit c = true → c.val < Variant.cores s.variant → 64 + b.val ∈ t.bel.pend.getD c [])
      ∧ (s.pwr.fabricUp = false → Does s (exec (.galBell b) s) [.gallery] [(F.GAL_BELLPEND_MASK.bitAt b, 1)] fun t => t.gal = next)
      ∧ (s.gal.queue.length < 16 → Does s (exec (.post e) s) [.gallery] [] fun t => t.gal = { next with queue := s.gal.queue ++ [e.val] })
      ∧ (16 ≤ s.gal.queue.length → Does s (exec (.post e) s) [.gallery] [(evtBit 14 5, 1)] fun t => t.gal = { next with acc := false }))

/-- R666 to R674, R684, R690 to R695: flags are set and cleared by software; START and SWAP begin the check of a bank, which refuses it with a record
or lets it take effect, as the active bank after START, at the exchange after SWAP; STOP ends the engine. A sweep of a program that is END alone takes its snapshot,
samples the edges, marks the timers, clears ACC and counts; a missed due time is an OVERRUN. A queued template whose well is absent or not enabled is discarded
with a record. -/
def Claims.GalleryEngineSweepsAndLoads : Prop :=
  ∀ (s : State) (src : Src) (m : Long) (b : Fin 2) (missed : Nat) (n : Fin 64), s.wired = true →
    let u := s.reached src
    let g := s.gal
    let report := fun (carry : Nat → Bool) (forcedT forcedE : Nat → Bool) =>
      let live := fun k => decide (g.timers.getD k .idle ≠ .idle) && !carry k
      [(F.GAL_TCANCEL_MASK.ix 0, packBits 32 live), (F.GAL_TCANCEL_MASK.ix 1, packBits 32 fun k => live (32 + k)), (F.GAL_TFORCED_MASK.ix 0, packBits 32 forcedT),
        (F.GAL_TFORCED_MASK.ix 1, packBits 32 fun k => forcedT (32 + k)), (F.GAL_EFORCED_MASK, packBits 32 forcedE), (evtBit 14 0, 1)]
    (s.reaches src F.GAL_FSET_SET.off m.toNat = true →
      Does u (exec (.flagSet src m) s) [] [(F.GAL_FLAGS_GF, u.get F.GAL_FLAGS_GF ||| m.toNat)] fun _ => True)
    ∧ (s.reaches src F.GAL_FCLR_CLR.off m.toNat = true →
      Does u (exec (.flagClear src m) s) [] [(F.GAL_FLAGS_GF, u.get F.GAL_FLAGS_GF - (u.get F.GAL_FLAGS_GF &&& m.toNat))] fun _ => True)
    ∧ (s.reaches src 0x240100 (1 + b.val * 256) = true → u.gal.run = false → u.gal.check = none →
      Does u (exec (.galleryStart src b) s) [.gallery] [] fun t => t.gal = { u.gal with check := some (true, b.val) })
    ∧ (s.reaches src 0x240100 2 = true → u.gal.check = none →
      Does u (exec (.galleryStop src) s) [.gallery] [] fun t => t.gal = { u.gal with run := false, swapPend := false })
    ∧ (s.reaches src 0x240100 (4 + b.val * 256) = true → u.gal.run = true → u.gal.swapPend = false → u.gal.check = none →
      Does u (exec (.gallerySwap src b) s) [.gallery] [] fun t => t.gal = { u.gal with check := some (false, b.val) })
    ∧ (s.pwr.aonUp = true → ∀ start, g.check = some (start, b.val) →
      let none' := { g with check := none }
      (∀ r off, (start = true ∨ b.val ≠ g.bank) → s.galCheck b = some (r, off) → Does s (exec .galleryCheckDone s) [.gallery]
        [(evtBit 14 1, 1), (F.GAL_LOADREC_VALID, 1), (F.GAL_LOADREC_REASON, r), (F.GAL_LOADREC_OFFSET, off)] fun t => t.gal = none')
      ∧ (start = false → b.val = g.bank → Does s (exec .galleryCheckDone s) [.gallery]
        [(evtBit 14 1, 1), (F.GAL_LOADREC_VALID, 1), (F.GAL_LOADREC_REASON, 8), (F.GAL_LOADREC_OFFSET, 0)] fun t => t.gal = none')
      ∧ (s.galCheck b = none → (∀ o, o < 128 + s.galLen b → s.refAbsent o (s.galLong b o) = false) →
        (start = true → Does s (exec .galleryCheckDone s) [.gallery]
          (report (fun _ => false) (fun _ => false) (fun _ => false) ++ [(F.GAL_SWEEPCNT_COUNT, 0)]) fun t =>
            t.gal = { none' with run := true, bank := b, first := true, timers := List.replicate 64 .idle, fresh := 2 ^ 32 - 1 })
        ∧ (start = false → b.val ≠ g.bank → Does s (exec .galleryCheckDone s) [.gallery] [] fun t => t.gal = { none' with swapPend := true })))
    ∧ (s.pwr.aonUp = true → g.swapPend = true →
      let same := fun (k : Nat) => bitsOf (s.galTcfg g.bank k) 25 24 == bitsOf (s.galTcfg (1 - g.bank) k) 25 24
      let sameE := fun (k : Nat) => bitsOf (s.galEcfg g.bank k) 7 0 == bitsOf (s.galEcfg (1 - g.bank) k) 7 0
      Does s (exec .galleryExchange s) [.gallery]
        (report (fun k => s.galTcarry (1 - g.bank) k && same k) (fun k => s.galTcarry (1 - g.bank) k && !same k)
          fun k => s.galEcarry (1 - g.bank) k && !sameE k) fun t =>
          t.gal.bank = 1 - g.bank ∧ t.gal.swapPend = false ∧ t.gal.first = true ∧ t.gal.run = g.run
          ∧ (∀ k, k < 64 → t.gal.timers[k]? = some (if s.galTcarry (1 - g.bank) k && same k then g.timers.getD k .idle else .idle)))
    ∧ (g.run = true → g.swapPend = false → s.galLen g.bank = 1 → s.galLong g.bank 128 = 0xFC000000 →
      let level := fun (k : Nat) => s.inputNow (bitsOf (s.galEcfg g.bank k) 7 0)
      Does s (exec (.gallerySweep 0) s) [.gallery]
        [(F.GAL_ESTAT_LAST, packBits 32 level), (F.GAL_SWEEPCNT_COUNT, (s.get F.GAL_SWEEPCNT_COUNT + 1) % 2 ^ 32)] fun t =>
        t.gal.acc = false ∧ t.gal.first = false ∧ t.gal.run = true ∧ t.gal.snap = packBits 256 s.inputNow ∧ t.gal.bank = g.bank
        ∧ t.gal.timers = g.timers.map fun x => match x with
          | .running d => if d ≤ s.tb.toNat then .expired else .running d
          | y => y)
    ∧ (g.run = true → 0 < missed → exec (.gallerySweep missed) s
        = exec (.gallerySweep 0) ((s.event 14 2).bump F.GAL_OVRCNT_COUNT missed))
    ∧ (g.run = true → ∀ d, g.timers.getD n .idle = .running d → d ≤ s.tb.toNat →
      Does s (exec (.galleryTimerExpiry n) s) [.gallery] [] fun t => t.gal = { g with timers := g.timers.set n .expired })
    ∧ (∀ e q, g.queue = e :: q → s.pwr.fabricUp = true → s.fenced 5 = false →
      let w := s.get (F.GAL_TPLCTL_WELL.ix e)
      let fails := fun (r : Nat) => Does s (exec .templatePostDelivery s) [.gallery]
        [(evtBit 14 3, 1), (F.GAL_POSTREC_VALID, 1), (F.GAL_POSTREC_REASON, r), (F.GAL_POSTREC_TEMPLATE, e), (F.GAL_POSTREC_WELL, w)] fun t =>
        t.gal = { g with queue := q }
      ((w = 0x7FFF ∨ Variant.wells s.variant ≤ w) → fails 0)
      ∧ (w ≠ 0x7FFF → w < Variant.wells s.variant → (s.flag F.PMP_WTCTL_ON = false ∨ (s.wellOn w).enable = false) → fails 1))

/-! ### Every step -/

/-- With a command at the front of the queue, a step carries out that command with the rest of the queue waiting. -/
def Obligations.StepTakesTheFrontCommand : Prop :=
  ∀ (s : State) (c : Instr) (rest : List Instr), s.pending = c :: rest → step s = exec c { s with pending := rest }

/-- R49, R50: a step on an empty queue is a cycle of the T island (the model's choice, log entry 33). From 24 MHz the timebase advances by 1; from
32.768 kHz by 732 or 733, so that 64 of its counts and the accumulator advance together by 46,875. While the AON island is in reset nothing moves. -/
def Obligations.IdleStepAdvancesTheTimebase : Prop :=
  ∀ s : State, s.pending = [] → ∃ t, step s = .next t ∧ t.pending = []
    ∧ (s.pwr.aonUp = false → t.tb = s.tb ∧ t.pwr.tacc = s.pwr.tacc)
    ∧ (s.pwr.aonUp = true → s.pwr.tsrc32 = false → t.tb = s.tb + 1 ∧ t.pwr.tacc = s.pwr.tacc)
    ∧ (s.pwr.aonUp = true → s.pwr.tsrc32 = true → s.pwr.tacc < 64 → t.pwr.tacc < 64 ∧ ∃ d, t.tb = s.tb + BitVec.ofNat 64 d
        ∧ 64 * d + t.pwr.tacc = s.pwr.tacc + 46875)

/-- R260, R264, R266: whatever step is taken, in the state it leaves the bits of every core that are wired to zero read as zero: PC[1:0], the reserved
bits of CSW and those of FCSW. -/
def Obligations.EveryStepKeepsWiredBits : Prop :=
  ∀ s t : State, step s = .next t → t.wired = true

/-- R260, R264, R266: they read as zero after reset. -/
def Claims.WiredBitsAtReset : Prop := State.reset.wired = true

/-- R113, R263, R43, R49, R221, R693, R719: cold reset: the fabric and AON island held in reset, no timebase count, cores at the boot ROM in Hall L stair 0 with
interrupts masked and every general register zero, windows UNKNOWN, the Gallery stopped and its timers idle, the charger OFF, set-up registers at their
Reset column. The registers for which the spec gives no reset value are at the model's (log entry 5), and no statement is made of them. -/
def Claims.ResetLeavesTheBlockHeld : Prop :=
  State.reset.pwr.aonUp = false ∧ State.reset.pwr.fabricUp = false ∧ State.reset.tb = 0 ∧ State.reset.pending = []
  ∧ (∀ c : CoreId, (State.reset.core c).pc = 0xFFFFFF0000#48 ∧ (State.reset.core c).hall = .L ∧ (State.reset.core c).stair = 0
      ∧ cswIlevel (State.reset.core c).csw = 15 ∧ (State.reset.core c).hold = none ∧ (State.reset.core c).due = Due.none
      ∧ ∀ n : RegNo, (State.reset.core c).rd n = 0)
  ∧ (∀ w ∈ State.reset.wins, w.out = 0 ∧ w.samples = []) ∧ State.reset.gal.run = false ∧ (∀ x ∈ State.reset.gal.timers, x = .idle)
  ∧ State.reset.chg.state = 0 ∧ State.reset.seq.state = .off ∧ State.reset.seq.level = 4 ∧ ∀ off, State.reset.reg off = resetAt State.reset.variant off

/-! ### Latch channels and the charger -/

/-- R702 to R710, R715 to R717: a pulse on a channel goes from its supply check to pull-in, hold, release and its end; sensing is taken in
while the gate may be on; the compliance, open and short rules act on what was sensed. At its end the outcome and the RESULT word are recorded and the channel is
free; a pulse of a well job leaves its completion. -/
def Claims.LatchPulsesRunTheirCourse : Prop :=
  ∀ (s : State) (ch : Fin 4) (x : Sense) (p : Pulse), s.wired = true → s.pulse ch = some p →
    let c := s.latch.getD ch LatchCh.reset
    let gated := p.phase = .pullIn ∨ p.phase = .hold ∨ p.phase = .release
    let q := if gated then
        { p with peak := max p.peak (max x.peak.toNat x.current.toNat), current := x.current.toNat, duty := x.duty.toNat } else p
    let becomes := fun (i : Instr) (r : Pulse) => Does s (exec i s) [.latch] [] fun t => t.latch = s.latch.set ch { c with pulse := some r }
    let rel := fun (r : Pulse) => { r with phase := if p.ramp then PulsePhase.release else .off, armed := false }
    let w := s.get (F.LCH_CFG_VWIN.ix ch)
    let fails := some (q.fault.getD q.phase.code)
    (p.phase = .select → s.flag (F.LCH_CFG_ENABLE.ix ch) = true → (w = 31 ∨ s.winOut w = 2) → becomes (.pulseSupplyCheck ch) { p with phase := .pullIn })
    ∧ (p.phase = .select → (s.flag (F.LCH_CFG_ENABLE.ix ch) = false ∨ (w ≠ 31 ∧ s.winOut w ≠ 2)) →
      becomes (.pulseSupplyCheck ch) { p with phase := .off, nostart := true, fault := some 0 })
    ∧ (p.phase = .pullIn → becomes (.pulseHoldStart ch x) (if p.thold = 0 then rel q else { q with phase := .hold }))
    ∧ (p.phase = .hold → becomes (.pulseRelease ch x) (rel q))
    ∧ ((p.phase = .pullIn ∨ p.phase = .hold) → becomes (.complianceArm ch x) { q with armed := true })
    ∧ becomes (.comply ch x) (if q.armed = true ∧ q.duty = 98 ∧ 10 * q.current < 9 * (if p.phase = .hold then p.ihold else p.ipull) ∧ q.comply = false then
        { q with comply := true, fault := fails } else q)
    ∧ becomes (.pulseOpen ch x) (if p.phase = .pullIn ∧ 5 * q.peak ≤ p.ipull then { q with opened := true, phase := .off, fault := fails } else q)
    ∧ becomes (.pulseShort ch x) (if gated ∧ 3 * p.ipull < 2 * q.current then { q with short := true, phase := .off, fault := fails } else q)
    ∧ ((p.phase = .off ∨ p.phase = .release) →
      let st := if q.short then 0x42 else if q.opened then 0x41 else if q.comply || q.nostart || q.abort then 0x40 else 0
      let word := ofBool q.comply * 2 ^ 31 + ofBool q.nostart * 2 ^ 30 + ofBool q.abort * 2 ^ 29 + q.fault.getD 4 * 2 ^ 24 + q.profile * 2 ^ 21
        + q.door * 2 ^ 16 + min 4095 q.peak
      let ws := [(F.LCH_LAST_RESULT.ix ch, word), (F.LCH_LASTST_VALID.ix ch, 1), (F.LCH_LASTST_SRC.ix ch, ofBool q.gallery), (F.LCH_LASTST_STATUS.ix ch, st),
          (F.LCH_CNT_PULSES.ix ch, min 65535 (s.get (F.LCH_CNT_PULSES.ix ch) + 1))]
        ++ if st = 0 then [] else [(F.LCH_CNT_NOTOK.ix ch, min 65535 (s.get (F.LCH_CNT_NOTOK.ix ch) + 1)), (evtBit 15 ch, 1)]
      let l := s.latch.set ch { c with pulse := none, outcome := some st }
      (p.gallery = true → Does s (exec (.pulseEnd ch x) s) [.latch] ws fun t => t.latch = l)
      ∧ ∀ f, p.gallery = false → s.pump.flight.find? (fun f => f.done.isNone && f.loc == .latch ch) = some f →
        Does s (exec (.pulseEnd ch x) s) [.latch, .pump] ws fun t => t.latch = l
          ∧ t.pump.flight = s.pump.flight.erase f ++ [{ f with done := some ⟨st, word, 6⟩ }])

/-- R703, R708, R713, R714: a latch job in the channel's place is checked; it completes with the status of a failed check, or starts one pulse with the
profile's values then in force. CANCEL turns the gate of a pulse off with ABORT. -/
def Claims.LatchJobsStartPulses : Prop :=
  ∀ (s : State) (src : Src) (ch : Fin 4), s.wired = true →
    let u := s.reached src
    (∀ f, s.pwr.fabricUp = true → s.pump.flight.find? (fun f => f.done.isNone && f.loc == .latch ch) = some f → s.pulse ch = none →
      (∀ st, latchStatus f.job = some st → Does s (exec (.latchPulseJob ch) s) [.pump] [] fun t =>
        t.pump.flight = s.pump.flight.erase f ++ [{ f with done := some ⟨st, 0, 6⟩ }])
      ∧ (latchStatus f.job = none → Does s (exec (.latchPulseJob ch) s) [.latch] [] fun t =>
        let k := bitsOf f.job.param 10 8
        let g := fun (f : Fld) => s.get ((f.ix ch).ix k)
        ∃ p, t.latch = s.latch.set ch ⟨some p, bitsOf f.job.param 4 0, none⟩ ∧ p.door = bitsOf f.job.param 4 0 ∧ p.profile = k ∧ p.gallery = false
          ∧ p.phase = .select ∧ p.ipull = g F.LCH_IPULL_IPULL ∧ p.ihold = g F.LCH_IHOLD_IHOLD ∧ p.tpull = g F.LCH_TIME_TPULL
          ∧ p.thold = g F.LCH_TIME_THOLD ∧ p.trel = g F.LCH_REL_TREL ∧ p.tblank = g F.LCH_REL_TBLANK ∧ p.tcomp = g F.LCH_REL_TCOMP))
    ∧ ∀ p, s.reachesField src (F.LCH_CTL_CANCEL.ix ch) 1 = true → ch.val < Variant.latches u.variant → u.pulse ch = some p →
      Does u (exec (.cancel src ch) s) [.latch] [] fun t => t.latch = u.latch.set ch { u.latch.getD ch LatchCh.reset with
        pulse := some (if p.phase = .off then p else { p with phase := .off, abort := true, fault := some (p.fault.getD p.phase.code) }) }

/-- R720 to R728, R730, R731: each charger command acts on the measurement that comes with it. PRECHARGE goes on to CC, CC to CV, CV to DONE, DONE begins
a charge; a charge begins in PRECHARGE or CC by VBAT, or suspended when the NTC code is outside its window; removal enters ABSENT with a record; three confirming
probes find the cell. -/
def Claims.ChargerFollowsItsMeasurements : Prop :=
  ∀ (s : State) (m : Meas) (rise : BitVec 13) (cause : Fin 3), s.wired = true → s.pwr.aonUp = true →
    let meas := [(F.CHG_MEAS_VBAT, m.vbat.toNat), (F.CHG_MEAS_CURRENT, m.current.toNat)]
    let st := s.chg.state
    let q := { s.chg with vbat := m.vbat.toNat, ntc := m.ntc.toNat }
    let hot := s.get F.CHG_NTC_HOT
    let cold := s.get F.CHG_NTC_COLD
    let inside := hot < q.ntc ∧ q.ntc < cold
    let vcv := [4100, 4200, 3600].getD (s.get F.CHG_CFG_CHEM) 3600
    let vpre := if s.get F.CHG_CFG_PRESEL = 0 then 3000 else 2500
    let enters := fun (i : Instr) (n : Nat) (ws : List (Fld × Nat)) =>
      Does s (exec i s) [.charger] (meas ++ ws) fun t => t.chg = { q with state := n, scause := 0, fcause := 0 }
    let begins := fun (i : Instr) (ws : List (Fld × Nat)) (r : Chg) =>
      (inside → Does s (exec i s) [.charger, .clock] (meas ++ ws ++ [(F.CHG_ELAPSED_MINUTES, 0)]) fun t => t.clk = { s.clk with minute := 0 } ∧ t.tb = s.tb
        ∧ t.chg = { r with state := if q.vbat < vpre then 2 else 3, scause := 0, fcause := 0 })
      ∧ (¬ inside → Does s (exec i s) [.charger, .clock] (meas ++ ws ++ [(F.CHG_ELAPSED_MINUTES, 0), (evtBit 16 6, 1)]) fun t =>
        t.clk = { s.clk with minute := 0 } ∧ t.tb = s.tb ∧ t.chg = { r with state := 6, scause := 1, fcause := 0 })
    let gone := fun (i : Instr) (n : Nat) => Does s (exec i s) [.charger] (meas ++ [(F.CHG_REMREC_VALID, 1), (F.CHG_REMREC_CAUSE, n), (F.CHG_REMREC_STATE, st),
        (F.CHG_REMTIME_TIME, s.tb.toNat % 2 ^ 32), (evtBit 16 0, 1)]) fun t =>
      t.chg = { q with state := 1, scause := 0, fcause := 0, present := false, probes := 0 }
    let confirms := rise.toNat ≤ 150 ∧ q.vbat < vcv ∧ q.ntc < 993
    (st = 2 → vpre + 100 ≤ q.vbat → enters (.prechargeToCc m) 3 [])
    ∧ (st = 2 → Does s (exec .pretimeout s) [.charger] [(evtBit 16 3, 1)] fun t => t.chg = { s.chg with state := 7, fcause := 2, scause := 0 })
    ∧ (st = 3 → vcv ≤ q.vbat → enters (.ccToCv m) 4 [])
    ∧ (st = 4 → 10 * m.current.toNat < s.get F.CHG_CFG_TERM * s.get F.CHG_ICC_ICC → enters (.chargeDone m) 5 [(evtBit 16 2, 1)])
    ∧ (st = 5 → 100 * q.vbat < 97 * vcv → begins (.recharge m) [] q)
    ∧ (2 ≤ st → st ≤ 4 → ¬ inside → Does s (exec (.ntcSuspend m) s) [.charger] (meas ++ [(evtBit 16 6, 1)]) fun t =>
      t.chg = { q with state := 6, scause := 1, fcause := 0 })
    ∧ (st = 6 → s.chg.scause = 1 → hot + 16 < q.ntc → q.ntc + 16 < cold → enters (.ntcResume m) (if q.vbat < vpre then 2 else if q.vbat < vcv then 3 else 4) [])
    ∧ (2 ≤ st → st ≤ 4 → Does s (exec .safetyTimeout s) [.charger] [(F.CHG_ELAPSED_MINUTES, 60 * s.get F.CHG_CFG_TIMER), (evtBit 16 3, 1)] fun t =>
      t.chg = { s.chg with state := 7, fcause := 1, scause := 0 })
    ∧ (s.chg.oncell = false → [st = 3 ∧ vcv + 150 < q.vbat, 2 ≤ st ∧ 993 ≤ q.ntc, (st = 2 ∨ st = 3) ∧ q.vbat < vcv].getD cause False →
      gone (.removed cause m) (cause + 1))
    ∧ (s.chg.oncell = false → st = 1 → ¬ confirms → Does s (exec (.probe rise m) s) [.charger] meas fun t => t.chg = { q with probes := 0 })
    ∧ (s.chg.oncell = false → st = 1 → confirms → s.chg.probes < 2 → Does s (exec (.probe rise m) s) [.charger] meas fun t =>
      t.chg = { q with probes := q.probes + 1 })
    ∧ (s.chg.oncell = false → st = 1 → confirms → 2 ≤ s.chg.probes → begins (.probe rise m) [(evtBit 16 1, 1)] { q with probes := 0, present := true })
    ∧ (s.chg.oncell = false → (st = 5 ∨ (st = 6 ∧ s.chg.scause = 1) ∨ st = 7) → ¬ confirms → gone (.probe rise m) 4)

/-- R720, R728, R732 to R734: ENABLE of a charger that is OFF enters ABSENT, or SUSPEND while VAON is taken from the cell; ENABLE 0 enters OFF; CLEARFAULT in
FAULT begins a charge. VAON goes to the cell and back, suspending and resuming the charge; on the cell, the stop of its regulator is a cold reset. -/
def Claims.ChargerIsCommandedAndSwitched : Prop :=
  ∀ (s : State) (src : Src) (m : Meas), s.wired = true →
    let u := s.reached src
    let v := fun (on : Nat) => putBits (s.readReg src F.CHG_CFG_ENABLE.off) 0 0 on
    let ws := fun (on : Nat) => [(F.CHG_CFG_TIMER, bitsOf (v on) 19 16), (F.CHG_CFG_TERM, bitsOf (v on) 12 8), (F.CHG_CFG_PRESEL, bitsOf (v on) 3 3),
      (F.CHG_CFG_CHEM, bitsOf (v on) 2 1), (F.CHG_CFG_ENABLE, on)]
    let legal := fun (on : Nat) => Variant.hasChg u.variant = true ∧ 1 ≤ bitsOf (v on) 19 16 ∧ bitsOf (v on) 19 16 ≤ 10 ∧ 5 ≤ bitsOf (v on) 12 8
      ∧ bitsOf (v on) 12 8 ≤ 20 ∧ bitsOf (v on) 2 1 ≤ 2
    let vpre := fun (s : State) => if s.get F.CHG_CFG_PRESEL = 0 then 3000 else 2500
    (s.reachesField src F.CHG_CFG_ENABLE 1 = true → legal 1 → u.get F.CHG_CFG_ENABLE = 0 → u.chg.state = 0 →
      (u.chg.oncell = false → Does u (exec (.chargerEnable src) s) [.charger] (ws 1) fun t =>
        t.chg = { u.chg with state := 1, scause := 0, fcause := 0, present := false, probes := 0 })
      ∧ (u.chg.oncell = true → Does u (exec (.chargerEnable src) s) [.charger] (ws 1 ++ [(evtBit 16 6, 1)]) fun t =>
        t.chg = { u.chg with state := 6, scause := 2, fcause := 0, present := true }))
    ∧ (s.reachesField src F.CHG_CFG_ENABLE 0 = true → legal 0 → u.get F.CHG_CFG_ENABLE = 1 → Does u (exec (.chargerDisable src) s) [.charger] (ws 0) fun t =>
      t.chg = { u.chg with state := 0, scause := 0, fcause := 0, present := false, probes := 0 })
    ∧ (s.reachesField src F.CHG_CTL_CLEARFAULT 1 = true → Variant.hasChg u.variant = true → u.chg.state = 7 →
      let inside := u.get F.CHG_NTC_HOT < u.chg.ntc ∧ u.chg.ntc < u.get F.CHG_NTC_COLD
      Does u (exec (.clearfault src) s) [.charger, .clock] ((F.CHG_ELAPSED_MINUTES, 0) :: if inside then [] else [(evtBit 16 6, 1)]) fun t =>
        t.clk = { u.clk with minute := 0 } ∧ t.tb = u.tb
        ∧ t.chg = if inside then { u.chg with state := if u.chg.vbat < vpre u then 2 else 3, scause := 0, fcause := 0 }
          else { u.chg with state := 6, scause := 1, fcause := 0 })
    ∧ (s.pwr.aonUp = true → s.chg.oncell = false → Variant.hasChg s.variant = true →
      (s.chg.state = 0 → Does s (exec .oncell s) [.charger] [(evtBit 16 4, 1)] fun t => t.chg = { s.chg with oncell := true })
      ∧ (s.chg.state ≠ 0 → Does s (exec .oncell s) [.charger] [(evtBit 16 4, 1), (evtBit 16 6, 1)] fun t =>
        t.chg = { s.chg with oncell := true, present := true, state := 6, scause := 2, fcause := 0 }))
    ∧ (s.pwr.aonUp = true → s.chg.oncell = true →
      let meas := [(F.CHG_MEAS_VBAT, m.vbat.toNat), (F.CHG_MEAS_CURRENT, m.current.toNat), (evtBit 16 5, 1)]
      let q := { s.chg with vbat := m.vbat.toNat, ntc := m.ntc.toNat, oncell := false }
      let inside := s.get F.CHG_NTC_HOT < q.ntc ∧ q.ntc < s.get F.CHG_NTC_COLD
      let vcv := [4100, 4200, 3600].getD (s.get F.CHG_CFG_CHEM) 3600
      (¬ (s.chg.state = 6 ∧ s.chg.scause = 2) → Does s (exec (.offcell m) s) [.charger] meas fun t => t.chg = q)
      ∧ (s.chg.state = 6 → s.chg.scause = 2 → inside → Does s (exec (.offcell m) s) [.charger] meas fun t =>
        t.chg = { q with state := if q.vbat < vpre s then 2 else if q.vbat < vcv then 3 else 4, scause := 0, fcause := 0 })
      ∧ (s.chg.state = 6 → s.chg.scause = 2 → ¬ inside → Does s (exec (.offcell m) s) [.charger] (meas ++ [(evtBit 16 6, 1)]) fun t =>
        t.chg = { q with state := 6, scause := 1, fcause := 0 }))
    ∧ (s.chg.oncell = true → exec .cellLdoStop s = exec .coldReset s)
    ∧ (s.chg.oncell = false → Does s (exec .cellLdoStop s) [] [] fun _ => True)

/-! ### Sense windows and the monitor ADC -/

/-- R211, R217, R218, R220, R221, R223, R224: a tick samples the enabled windows of its group; each keeps its last n raw samples, and its output changes
when k of them agree. A change of one window that no slot uses sets its event as EVSEL selects. A write of WIN_CFGn that clears ENABLE empties the window, one that
changes FILT refills its samples. -/
def Claims.WindowsFilterTheirSamples : Prop :=
  ∀ (s : State) (src : Src) (v : Long) (n : Fin 16) (g i : Fin 4) (v0 v1 v2 v3 : Nat), s.wired = true →
    let nv := fun (i : Nat) => [v0, v1, v2, v3].getD i 0
    let old := fun (n : Nat) => s.wins.getD n Win.unknown
    let keep := fun (f : Nat) => [1, 3, 3, 5, 5, 5, 7, 7, 7, 7, 9, 9, 9, 9, 9].getD f 9
    let agree := fun (f : Nat) => [1, 2, 3, 3, 4, 5, 4, 5, 6, 7, 5, 6, 7, 8, 9].getD f 9
    let next := fun (n : Nat) (nv : Nat) =>
      let f := s.get (F.WIN_CFG_FILT.ix n)
      let raw := s.winSample n nv
      let l := (raw :: (old n).samples).take (keep f)
      (⟨if agree f ≤ l.count raw then raw else (old n).out, raw, l⟩ : Win)
    let sampled := (List.range 4).foldl (fun l k => if s.winOn (4 * g + k) then l.set (4 * g + k) (next (4 * g + k) (nv k)) else l) s.wins
    let quiet := fun (k : Nat) => s.winOn (4 * g + k) = true → (next (4 * g + k) (nv k)).out = (old (4 * g + k)).out
    let tick := exec (.windowTick g v0 v1 v2 v3) s
    let m := 4 * g.val + i.val
    let now := (next m (nv i)).out
    let u := s.reached src
    let w := u.wins.getD n Win.unknown
    let f := bitsOf v.toNat 11 8
    let ws := [(F.WIN_CFG_EVSEL.ix n, bitsOf v.toNat 14 12), (F.WIN_CFG_FILT.ix n, f), (F.WIN_CFG_ENABLE.ix n, v.toNat % 2)]
    (s.pwr.aonUp = true →
      ((∀ k, k < 4 → quiet k) → Does s tick [.windows] [] fun t => t.wins = sampled)
      ∧ ((∀ k, k < 4 → k ≠ i.val → quiet k) → m < s.wins.length → s.winOn m = true → now ≠ (old m).out → m ≠ 15 → s.slotsOfWin m = [] → s.seq.rel = [] →
          andNot s.driven s.upSlots = 0 →
        Does s tick [.windows] (if (s.get (F.WIN_CFG_EVSEL.ix m)).testBit (now - 1) then [(evtBit 4 m, 1)] else []) fun t => t.wins = sampled)
      ∧ (∀ k nv', s.slotsOfWin k = [] → s.winSample k nv' =
          if (nv' : Int) - 75000 * signedOf 8 (s.get (F.WIN_TRIM_LOTRIM.ix k)) < 1200000 * s.get (F.WIN_LO_LO.ix k) then 1
          else if 1200000 * (s.get (F.WIN_HI_HI.ix k) : Int) < (nv' : Int) - 75000 * signedOf 8 (s.get (F.WIN_TRIM_HITRIM.ix k)) then 3 else 2))
    ∧ (s.reaches src (F.WIN_CFG_ENABLE.ix n).off v.toNat = true → Variant.win u.variant n = true → f ≤ 14 →
      (v.toNat % 2 = 0 → Does u (exec (.windowConfigWrite src n v) s) [.windows] ws fun t => t.wins = u.wins.set n Win.unknown)
      ∧ (v.toNat % 2 = 1 → f = u.get (F.WIN_CFG_FILT.ix n) → Does u (exec (.windowConfigWrite src n v) s) [.windows] ws fun t => t.wins = u.wins)
      ∧ (v.toNat % 2 = 1 → f ≠ u.get (F.WIN_CFG_FILT.ix n) → Does u (exec (.windowConfigWrite src n v) s) [.windows] ws fun t =>
        t.wins = u.wins.set n { w with samples := if w.out = 0 then [] else List.replicate (keep f) w.out }))

/-- R227 to R234, R236 to R243: START begins the scan at its first entry that names a channel, STOP ends it; a sample is trimmed and written to the buffer, unless it
is full; after the last entry the pass ends. A snapshot request takes the lowest free slot or is lost; a completed snapshot fills its slot in BSRAM; writing 1 to a
VALID bit frees one. -/
def Claims.AdcScansAndTakesSnapshots : Prop :=
  ∀ (s : State) (src : Src) (i : BitVec 6) (m : BitVec 8) (raw : Vector (BitVec 12) 8) (codes : Vector (BitVec 12) 120), s.wired = true →
    let u := s.reached src
    let ctl := fun (f : Fld) => putBits (s.readReg src f.off) f.hi f.lo 1
    let ws := fun (f : Fld) => [(F.ADC_CTL_PERIOD, bitsOf (ctl f) 31 16), (F.ADC_CTL_LAST, bitsOf (ctl f) 11 8), (F.ADC_CTL_MODE, bitsOf (ctl f) 4 4)]
    let first := fun (s : State) (from' last e : Nat) => from' ≤ e ∧ e ≤ last ∧ e < 16 ∧ s.get (F.ADC_ENTRY_CHAN.ix e) ≠ 31
      ∧ ∀ j, from' ≤ j → j < e → s.get (F.ADC_ENTRY_CHAN.ix j) = 31
    let count := fun (s : State) (e : Nat) => s.get (F.ADC_ENTRY_COUNT.ix e) + 1
    let q := s.adc
    (s.reachesField src F.ADC_CTL_START 1 = true → ∀ e, first u 0 (bitsOf (ctl F.ADC_CTL_START) 11 8) e →
      Does u (exec (.adcStart src) s) [.adc] (ws F.ADC_CTL_START) fun t => t.adc = { u.adc with
        run := true, waitPass := false, pass := if u.adc.run then 0 else u.adc.pass, prev := none, settle := 0, entry := e, left := count u e })
    ∧ (s.reachesField src F.ADC_CTL_STOP 1 = true → Does u (exec (.adcStop src) s) [.adc] (ws F.ADC_CTL_STOP) fun t =>
      t.adc = { u.adc with run := false, waitPass := false })
    ∧ (s.reachesField src F.ADC_CTL_SNAP 1 = true →
      (∀ k, u.snapAlloc 2 = some k → Does u (exec (.snap src) s) [.adc] (ws F.ADC_CTL_SNAP) fun t => t.adc = { u.adc with
        snaps := u.adc.snaps ++ [⟨k, 2, u.get F.ADC_SNAPMASK_MASK, u.tb, [0, 0, 0], u.winLive, false⟩] })
      ∧ (u.snapAlloc 2 = none → Does u (exec (.snap src) s) [] (ws F.ADC_CTL_SNAP ++ [(evtBit 5 3, 1)]) fun _ => True))
    ∧ (q.run = true → q.waitPass = true → ∀ e, first s 0 (s.get F.ADC_CTL_LAST) e → Does s (exec .adcPassStart s) [.adc] [] fun t =>
      t.adc = { q with waitPass := false, entry := e, left := count s e })
    ∧ (s.reachesField src F.ADC_RDIDX_IDX i.toNat = true → Does u (exec (.adcReadIndexWrite src i) s) [] [(F.ADC_RDIDX_IDX, i.toNat)] fun _ => True)
    ∧ (q.run = true → q.waitPass = false → (q.snaps = [] ∨ s.pwr.osc24 = false) → s.pwr.cis = .awake →
      let chan := s.get (F.ADC_ENTRY_CHAN.ix q.entry)
      let gain := s.get (F.ADC_ENTRY_GAIN.ix q.entry)
      let d := 2 ^ s.get (F.ADC_ENTRY_ORDER.ix q.entry)
      let l := (List.range d).map fun k => (raw.toList.getD k 0).toNat
      let change := match q.prev with
        | none => max 2 d
        | some (c, g, o) => max (if c = chan then 0 else 1) (max (if g = gain then 0 else 2) (if o = d then 0 else d))
      let settle := max change q.settle
      let w := q.entry * 2 ^ 24 + q.pass % 16 * 2 ^ 20 + (if 4095 ∈ l then 2 ^ 18 else 0) + (if 0 < settle then 2 ^ 17 else 0) + chan * 2 ^ 12
        + s.adcTrimmed ((2 * l.sum + d) / (2 * d))
      let k := s.get F.ADC_WRIDX_IDX
      let buf := if (k + 1) % 64 = s.get F.ADC_RDIDX_IDX then [(evtBit 5 1, 1)]
        else [(F.ADC_BUF_SAMPLE.ix k, w), (F.ADC_WRIDX_IDX, (k + 1) % 64)] ++ if k = 63 then [(F.ADC_WRIDX_WRAP, 1 - s.get F.ADC_WRIDX_WRAP)] else []
      let r := { q with prev := some (chan, gain, d), settle := settle - 1 }
      (1 < q.left → Does s (exec (.adcSample raw) s) [.adc] buf fun t => t.adc = { r with left := q.left - 1 })
      ∧ (q.left ≤ 1 → ∀ e, first s (q.entry + 1) (s.get F.ADC_CTL_LAST) e → Does s (exec (.adcSample raw) s) [.adc] buf fun t =>
        t.adc = { r with entry := e, left := count s e })
      ∧ (q.left ≤ 1 → (∀ e, ¬ first s (q.entry + 1) (s.get F.ADC_CTL_LAST) e) → Does s (exec (.adcSample raw) s) [.adc] (buf ++ [(evtBit 5 0, 1)]) fun t =>
        t.adc = if s.flag F.ADC_CTL_MODE then { r with pass := q.pass + 1, waitPass := true } else { r with pass := q.pass + 1, run := false, waitPass := false }))
    ∧ (∀ r l, q.snaps = r :: l → s.pwr.osc24 = true → r.flt.length = 3 →
      Does s (exec (.snapshotComplete codes) s) [.adc, .memory] [(evtBit 5 2, 1)] fun t =>
        t.adc = { q with snaps := l, seqno := q.seqno + 1, prev := none } ∧ t.dramGen = s.dramGen ∧ t.flashGen = s.flashGen
        ∧ ∀ a, t.byte a = if snapSlot r.slot ≤ a ∧ a < snapSlot r.slot + 512
          then (s.snapImage r fun k => (codes.toList.getD k 0).toNat).getD (a - snapSlot r.slot) 0 else s.byte a)
    ∧ (s.reaches src F.ADC_SNAPSTAT_VALID.off m.toNat = true → Does u (exec (.snapshotSlotFree src m) s) [.memory] [] fun t =>
      t.dramGen = u.dramGen ∧ t.flashGen = u.flashGen
      ∧ ∀ a, t.byte a = if ∃ k, k < 8 ∧ m.toNat.testBit k ∧ a = snapSlot k + 3 then u.byte a &&& 0x7F else u.byte a)

/-! ### Ports, clocks and watchdogs -/

/-- R769, R770: a written frame joins the transmit FIFO, and goes out while the UART is enabled, idle and not paused by CTS; a full FIFO loses it with TXOVF.
RXPOP removes entries; a received frame joins the receive FIFO with its errors, or is lost with RXOVF; a sent frame frees its entry and the next begins. -/
def Claims.UartsMoveFrames : Prop :=
  ∀ (s : State) (src : Src) (n : Fin 4) (d : BitVec 9) (k : BitVec 7) (fe pe brk cts : Bool), s.wired = true →
    let starts := fun (s : State) (q : Uart) =>
      if s.flag (F.UART_CTL_ENABLE.ix n) && !q.sending && !q.tx.isEmpty
          && !(!s.flag (F.UART_CTL_RS485.ix n) && s.flag (F.UART_CTL_FLOW.ix n) && q.ctsHigh)
        then { q with sending := true, de := s.flag (F.UART_CTL_RS485.ix n) } else q
    let u := s.reached src
    let err := F.UART_ERR_ERR.ix n
    let a := u.uart n
    let q := s.uart n
    (s.reaches src (F.UART_TXDATA_DATA.ix n).off d.toNat = true →
      (a.tx.length < 64 → Does u (exec (.transmitData src n d) s) [.uarts] [] fun t =>
        t.uarts = u.uarts.set n (starts u { a with tx := a.tx ++ [d.toNat] }))
      ∧ (64 ≤ a.tx.length → Does u (exec (.transmitData src n d) s) [] [(err, u.get err ||| 1)] fun t => t.evt 18 n = true))
    ∧ (s.reaches src (F.UART_RXPOP_COUNT.ix n).off k.toNat = true → k.toNat ≤ 64 →
      Does u (exec (.rxPop src n k) s) [.uarts] [] fun t => t.uarts = u.uarts.set n { a with rx := a.rx.drop k.toNat })
    ∧ (s.pwr.aonUp = true → s.flag (F.UART_CTL_ENABLE.ix n) = true → (q.de = false ∨ s.flag (F.UART_CTL_ECHO.ix n) = true) →
      (q.rx.length < 64 → Does s (exec (.uartFrameReceive n d fe pe brk) s) [.uarts] [(err, s.get err ||| (ofBool fe * 4 + ofBool pe * 8))] fun t =>
        t.uarts = s.uarts.set n { q with rx := q.rx ++ [d.toNat % 2 ^ s.get (F.UART_CFG_BITS.ix n) + ofBool fe * 2 ^ 12 + ofBool pe * 2 ^ 13
          + ofBool brk * 2 ^ 14 + 2 ^ 15] }
        ∧ ((fe || pe || brk) = true → t.evt 18 n = true))
      ∧ (64 ≤ q.rx.length → Does s (exec (.uartFrameReceive n d fe pe brk) s) [] [(err, s.get err ||| 2)] fun t => t.evt 18 n = true))
    ∧ (s.pwr.aonUp = true → q.sending = true →
      Does s (exec (.uartFrameSent n cts) s) [.uarts] [] fun t =>
        let r := starts s { q with tx := q.tx.drop 1, sending := false, ctsHigh := cts }
        t.uarts = s.uarts.set n (if r.sending then r else { r with de := false }))

/-- R772 to R776: GO starts a transfer on a free port with the address, the bytes of the buffer and the length to read; RECOVER starts bus recovery. The end of a
transfer leaves its RESULT and count, the bytes read in the buffer, and the port free; a stretch time-out ends it with 4, or 5 when SDA stays low. -/
def Claims.I2cRunsTransfers : Prop :=
  ∀ (s : State) (src : Src) (p : Fin 2) (v : Long) (res : BitVec 3) (done : BitVec 7) (l : List Byte) (stuck : Bool), s.wired = true →
    let u := s.reached src
    let word := clrBit (setBit v.toNat 31) 30
    let a := bitsOf v.toNat 22 16
    let w := bitsOf v.toNat 13 8
    let r := bitsOf v.toNat 5 0
    let cmd := [(F.I2C_CMD_ADDR.ix p, a), (F.I2C_CMD_WLEN.ix p, w), (F.I2C_CMD_RLEN.ix p, r)]
    let starts := fun (x : I2cXfer) (t : State) => t.xfer p = some x ∧ t.get (F.I2C_STAT_BUSY.ix p) = 1
    let ended := fun (n : Nat) (t : State) => (p = 0 ∨ s.seq.pmb = [] → t.xfer p = none ∧ t.get (F.I2C_STAT_BUSY.ix p) = 0)
      ∧ t.get (F.I2C_STAT_RESULT.ix p) = n ∧ t.get (F.I2C_STAT_DONE.ix p) = done.toNat % 64 ∧ t.evt 18 (4 + p) = true
    (s.reaches src (F.I2C_CMD_GO.ix p).off word = true → w ≤ 32 → r ≤ 32 →
      (u.xfer p = none → u.i2c.length = 2 → (p = 1 → u.seqOwnsI2c = false) → u.boundAway src 1 p = false →
        Does u (exec (.i2cTransfer src p v) s) [] cmd (starts ⟨false,
          (if w = 0 ∧ 0 < r then [] else 2 * a :: (u.i2cBuf p).take w) ++ (if 0 < r then [2 * a + 1] else []), r, []⟩))
      ∧ ((u.xfer p).isSome = true → ∃ t, exec (.i2cTransfer src p v) s = .next t ∧ t.xfer p = u.xfer p))
    ∧ (s.reachesField src (F.I2C_CMD_RECOVER.ix p) 1 = true → u.xfer p = none → u.i2c.length = 2 →
      let word := putBits (s.readReg src (F.I2C_CMD_RECOVER.ix p).off) 30 30 1
      bitsOf word 13 8 ≤ 32 → bitsOf word 5 0 ≤ 32 →
      Does u (exec (.recover src p) s) [] [(F.I2C_CMD_ADDR.ix p, bitsOf word 22 16), (F.I2C_CMD_WLEN.ix p, bitsOf word 13 8), (F.I2C_CMD_RLEN.ix p, bitsOf word 5 0)]
        (starts ⟨false, [], 0, []⟩))
    ∧ (∀ x, s.pwr.aonUp = true → s.i2c.length = 2 → s.xfer p = some x → x.seqr = false → s.flt.revoking = [] →
      let byte := fun (i : Nat) => if i < x.rlen ∧ i < l.length then (l.getD i 0).toNat else (s.i2cBuf p).getD i 0
      let buf := (List.range 8).map fun k => ((F.I2C_BUF_BYTES.ix p).ix k,
        byte (4 * k) + byte (4 * k + 1) * 2 ^ 8 + byte (4 * k + 2) * 2 ^ 16 + byte (4 * k + 3) * 2 ^ 24)
      Does s (exec (.i2cTransferEnd p res done l) s) [] (if x.rlen = 0 then [] else buf) (ended res.toNat)
      ∧ exec (.stretchto p stuck done) s = exec (.i2cTransferEnd p (if stuck then 5 else 4) done []) s)

/-- R778, R779, R836: an input pin reads its new level, and a selected edge is captured and may request an event; a bank whose supply is down reads 0. R781 to R784, R816:
writing the seconds zeroes their fraction; the alarm fires when the count reaches it; a read of the timebase captures its upper half for the reader; a
watchdog's configuration restarts a running count. -/
def Obligations.PinsClocksAndWatchdogs : Prop :=
  ∀ (s : State) (src : Src) (n : Fin 64) (lvl up : Bool) (k : Fin 6) (pins : Half) (v : Long), s.wired = true →
    let u := s.reached src
    let pin := fun (t : State) (f : Fld) (n : Nat) => (t.get (f.ix (n / 32))).testBit (n % 32)
    let sel := bitsOf (s.get (F.GPIO_EDGECFG_SEL.ix (n / 16))) (2 * (n % 16) + 1) (2 * (n % 16))
    let period := bitsOf v.toNat 15 0
    let on := v.toNat / 2 ^ 31 = 1
    let enabled := fun (f : Fld) => on ∨ u.get f = 1
    (s.pwr.aonUp = true → pin s F.GPIO_DIR_MASK n = false → s.bankUp.getD (2 + n / 16) true = true →
      Does s (exec (.gpioEdge n lvl) s) [] [] fun t => pin t F.GPIO_IN_MASK n = lvl
        ∧ (pin s F.GPIO_IN_MASK n ≠ lvl → sel.testBit (if lvl then 0 else 1) = true → pin t F.GPIO_EDGE_MASK n = true
          ∧ (pin s F.GPIO_EDGEEN_MASK n = true → t.evt 18 6 = true)))
    ∧ Does s (exec (.bankSupplyChange k up pins) s) [.banks] [] (fun t => t.bankUp = s.bankUp.set k up
        ∧ ∀ i, 2 ≤ k.val → i < 16 → pin s F.GPIO_DIR_MASK (16 * (k.val - 2) + i) = false →
          pin t F.GPIO_IN_MASK (16 * (k.val - 2) + i) = (up && pins.getLsbD i))
    ∧ (s.reaches src F.TMB_RTCSEC_SEC.off v.toNat = true →
      Does u (exec (.rtcSecondsWrite src v) s) [] [(F.TMB_RTCSEC_SEC, v.toNat), (F.TMB_RTCSUB_SUB, 0)] fun _ => True)
    ∧ (s.pwr.aonUp = true → s.get F.TMB_RTCCTL_ALMEN = 1 →
      Does s (exec .alarm s) [] [(F.TMB_RTCSEC_SEC, s.get F.TMB_RTCALM_ALM), (F.TMB_RTCSUB_SUB, 0), (evtBit 17 0, 1)] fun _ => True)
    ∧ (s.srcLive src = true → Does s (exec (.timebaseRead src) s) [.clock, .cores, .reply] [] fun t =>
        t.tb = s.tb ∧ t.resp = ⟨0, [s.tb.toNat % 2 ^ 32]⟩ ∧ (∀ c, (s.core c).Same (t.core c))
        ∧ match src with
          | .host => t.clk = { s.clk with hostTbHi := BitVec.ofNat 32 (s.tb.toNat / 2 ^ 32) }
          | .core c _ => t.clk = s.clk ∧ (t.core c).tbHi = BitVec.ofNat 32 (s.tb.toNat / 2 ^ 32))
    ∧ (s.reaches src F.TMB_WDLCFG_PERIOD.off v.toNat = true → 0 < period →
      let ws := [(F.TMB_WDLCFG_ENABLE, if enabled F.TMB_WDLCFG_ENABLE then 1 else 0), (F.TMB_WDLCFG_PERIOD, period)]
      (enabled F.TMB_WDLCFG_ENABLE → Does u (exec (.watchdogConfigWrite src 0 v) s) [.faults] (ws ++ [(F.TMB_WDLCNT_MS, period)]) fun t =>
        t.flt = { u.flt with wdlOnce := false })
      ∧ (¬ enabled F.TMB_WDLCFG_ENABLE → Does u (exec (.watchdogConfigWrite src 0 v) s) [] ws fun _ => True))
    ∧ (s.reaches src F.TMB_WDPCFG_PERIOD.off v.toNat = true → 0 < period →
      Does u (exec (.watchdogConfigWrite src 1 v) s) [] ([(F.TMB_WDPCFG_ENABLE, v.toNat / 2 ^ 31), (F.TMB_WDPCFG_PERIOD, period)]
        ++ if on then [(F.TMB_WDPCNT_MS, period)] else []) fun _ => True)
    ∧ (s.reaches src F.TMB_WDDCFG_PERIOD.off v.toNat = true → 0 < period → bitsOf v.toNat 25 24 ≤ 2 → 1 ≤ bitsOf v.toNat 23 16 →
      (u.get F.TMB_WDDCFG_ENABLE = 0 ∨ (bitsOf v.toNat 25 24 = u.get F.TMB_WDDCFG_SCOPE ∧ bitsOf v.toNat 23 16 = u.get F.TMB_WDDCFG_GRACE)) →
      Does u (exec (.watchdogConfigWrite src 2 v) s) [] ([(F.TMB_WDDCFG_ENABLE, if enabled F.TMB_WDDCFG_ENABLE then 1 else 0),
          (F.TMB_WDDCFG_SCOPE, bitsOf v.toNat 25 24), (F.TMB_WDDCFG_GRACE, bitsOf v.toNat 23 16), (F.TMB_WDDCFG_PERIOD, period)]
        ++ if enabled F.TMB_WDDCFG_ENABLE then [(F.TMB_WDDCNT_MS, period), (F.TMB_WDDCNT_GRACE, 0)] else []) fun _ => True)

/-! ### Link, DRAM and flash -/

/-- R120, R743, R745 to R752: the link comes up at a rate and width within HLK_CFG and goes down; its power and D-states follow the host; configuration writes set what
they name; PME is signalled while it is enabled. Messages held for the host go of themselves once they may. -/
def Claims.LinkFollowsTheHost : Prop :=
  ∀ (s : State) (rate : BitVec 3) (width : BitVec 4) (on d hot : Bool) (w : CfgWrite), s.wired = true →
    let l := s.link
    let becomes := fun (i : Instr) (x : Link) (ws : List (Fld × Nat)) =>
      Does s (exec i s) [.link] ws fun t => t.link = { x with msixWait := t.link.msixWait, msiPend := t.link.msiPend }
    let maxW := s.get F.HLK_CFG_MAXWIDTH
    let usable := l.up = true ∧ l.perst = false
    let r := max 1 (min rate.toNat (s.get F.HLK_CFG_MAXRATE))
    let lanes := if width.toNat < 2 then 1 else if width.toNat < 4 ∨ maxW < 4 then min 2 maxW else 4
    (s.pwr.aonUp = true → becomes (.linkUp rate width)
        { l with up := true, perst := false, lp := 0, dState := 0, wakeN := false, rate := r, width := lanes } [(evtBit 21 0, 1)])
    ∧ (l.up = true → becomes .linkDown { l with up := false, rate := 0, width := 0, lp := 0 } [(evtBit 21 1, 1)])
    ∧ (s.pwr.aonUp = true → s.locksOf (fun o => o.1 == 0) = [] → ∃ t, exec (.linkReset hot) s = .next t
      ∧ t.link.up = false ∧ t.link.bme = false ∧ t.link.dState = 0 ∧ t.link.perst = !hot ∧ t.link.msix = false ∧ t.link.msi = false
      ∧ t.link.pmeEn = l.pmeEn ∧ t.link.pmeStat = l.pmeStat ∧ (hot = true → t.evt 21 2 = true)
      ∧ (∀ off, 0x340000 ≤ off → settlesReg off = false → off ≠ 0x340004 → off ≠ 0x340100 → off ≠ 0x340128 → off < 0x380000 →
          t.reg off = resetAt s.variant off)
      ∧ (∀ off, (off < 0x340000 ∨ 0x380000 ≤ off) → settlesReg off = false → t.reg off = s.reg off)
      ∧ (∀ a, t.byte a = s.byte a) ∧ (∀ c, (s.core c).Same (t.core c)) ∧ t.pump.flight = s.pump.flight ∧ t.pump.wells = s.pump.wells)
    ∧ (usable →
      becomes .pmeTurnOff { l with lp := 4 } []
      ∧ (l.dState ≠ 3 → becomes .d3hotEntry { l with dState := 3 } [(evtBit 21 3, 1)])
      ∧ (l.dState ≠ 0 → becomes .d0Return { l with dState := 0 } [(evtBit 21 3, 1)])
      ∧ becomes (.busMasterEnable on) { l with bme := on } []
      ∧ (l.aspm = true → l.lp = 0 → becomes .aspmL1Request { l with lp := if l.l1ss.testBit 1 then 3 else if l.l1ss.testBit 0 then 2 else 1 } [])
      ∧ exec (.configurationWrite (.power d)) s = exec (if d then .d3hotEntry else .d0Return) s
      ∧ ((∀ d, w ≠ .power d) → becomes (.configurationWrite w) (match w with
        | .command b => { l with bme := b }
        | .timeout v => { l with cto := v.toNat }
        | .msi on log a d => { l with msi := on, msiLog := log.val, msiAddr := a.toNat / 4 * 4, msiData := d.toNat }
        | .msiMask m => { l with msiMask := m.toNat }
        | .msix on m => { l with msix := on, msixMask := m }
        | .pme en c => { l with pmeEn := en, pmeStat := l.pmeStat && !c }
        | .power _ => l
        | .aspm b => { l with aspm := b }
        | .l1ss v => { l with l1ss := v.toNat }
        | .payload a b => { l with mps := min 2 a.val, mrrs := b.val }) []))
    ∧ ((l.dState = 3 ∨ l.perst = true) → s.hostHeld = true → l.pmeEn = true → becomes (.pme none) { l with pmeStat := true, wakeN := l.wakeN || l.perst } [])
    ∧ (∀ c, let u := s.reached (.core c .L)
      s.reachesField (.core c .L) F.HLK_PME_PME 1 = true → u.link.pmeEn = true → Does u (exec (.pme (some (.core c .L))) s) [.link] [] fun t =>
        t.link = { u.link with pmeStat := true, wakeN := (u.link.wakeN || u.link.perst), msixWait := t.link.msixWait, msiPend := t.link.msiPend })

/-- R745, R795: a host request that fails is reported through AER, a completion timeout also in HLK_EVT and its count; bank 6 records it, and the
requester gets a machine check (a core), HOST_ABORT (the journal and a copy lane), or its well disabled (the Pump). -/
def Claims.FailedHostRequestsAreReported : Prop :=
  ∀ (s : State) (k : HostFail), s.wired = true → s.pwr.fabricUp = true →
    let n := s.get F.HLK_CTOCNT_COUNT
    let cto := if k = .timeout then [(evtBit 21 4, 1), (F.HLK_CTOCNT_COUNT, min 65535 (n + 1))] else []
    let f := fun (f : Fld) => f.ix 6
    let records := fun (mce : Nat) =>
      if s.get (f F.FLT_BANK_STAT_VALID) = 1 ∧ s.get (f F.FLT_BANK_STAT_UC) = 1 then [(f F.FLT_BANK_STAT_OVER, 1)]
      else [(f F.FLT_BANK_STAT_VALID, 1), (f F.FLT_BANK_STAT_UC, 1), (f F.FLT_BANK_STAT_MCE, mce), (f F.FLT_BANK_STAT_TYPE, 8), (f F.FLT_BANK_STAT_SEG, 10),
        (f F.FLT_BANK_STAT_OVER, 0), (f F.FLT_BANK_ADDRLO_ADDR, 0), (f F.FLT_BANK_ADDRHI_ADDR, 0), (f F.FLT_BANK_ADDRHI_ADDRV, 0),
        (f F.FLT_BANK_TIME_TIME, s.tb.toNat % 2 ^ 32), (evtBit 22 1, 1)]
    let aer := fun (t : State) => t.link.aer = setBit s.link.aer (if k = .timeout then 1 else 0)
    let ends := fun (g : Flight) (src : Nat) (t : State) => aer t ∧ t.pump.flight = s.pump.flight.erase g ++ [{ g with done := some ⟨0x31, 0, src⟩ }]
    (∀ c : CoreId, s.coreFree c = true → Does s (exec (.completionTimeout (.core c) k) s) [.link, .cores] (cto ++ records 1) fun t =>
      aer t ∧ (t.core c).due.mc = (s.core c).due.mc ++ [⟨2, 10, none⟩] ∧ ∀ c, (s.core c).Same (t.core c))
    ∧ (∀ g, s.pump.flight.find? (fun g => g.done.isNone && g.loc == .journal) = some g →
      Does s (exec (.completionTimeout .journal k) s) [.link, .pump] (cto ++ records 0) (ends g 4))
    ∧ (∀ (i : Fin 4) g, s.pump.flight.find? (fun g => g.done.isNone && g.loc == .copy i) = some g →
      Does s (exec (.completionTimeout (.lane i) k) s) [.link, .pump] (cto ++ records 0) (ends g 5))
    ∧ (∀ w : BitVec 14, s.requests (.pump w) = true → (s.wellOn w.toNat).enable = true →
      ∃ t, exec (.completionTimeout (.pump w) k) s = .next t ∧ aer t ∧ (t.wellOn w.toNat).enable = false ∧ t.evt 10 4 = true)

/-- R754 to R759, R762: DRAM is trained anew on RETRAIN, or when its temperature has drifted by more than 40 °C; the codes found are free. A scrub corrects
the lines with correctable errors; DRAM leaves self-refresh once the oscillator runs. -/
def Claims.DramIsTrainedAndScrubbed : Prop :=
  ∀ (s : State) (src : Src) (code : BitVec 12) (soft bad : List Nat), s.wired = true →
    let u := s.reached src
    let codes := fun (l : Nat → Nat) => (List.range 42).map fun k => (F.MEM_TRAINBUF_WORD.ix k, l k)
    let was := s.get F.MEM_TRAINTEMP_TEMP
    let far := 4000 < 15 * (code.toNat - was + (was - code.toNat))
    (s.pwr.fabricUp = true → s.dram.trained = true → s.dram.selfRef = false →
      (¬ far → Does s (exec (.dramTempCheck code) s) [] [] fun _ => True)
      ∧ (far → ∃ l, Does s (exec (.dramTempCheck code) s) [] (codes l ++ [(F.MEM_TRAINTEMP_TEMP, code.toNat), (evtBit 20 1, 1)]) fun _ => True))
    ∧ (s.reachesField src F.MEM_CTL_RETRAIN 1 = true → u.dram.trained = true →
      ∃ l temp, Does u (exec (.retrain src) s) [] (codes l ++ [(F.MEM_TRAINTEMP_TEMP, temp)]) fun _ => True)
    ∧ (s.pwr.fabricUp = true → s.get F.MEM_CFG_ECC = 1 → s.get F.MEM_SCRUB_PERIOD ≠ 0 → 0 < s.installed →
      ∃ t, exec (.dramScrub soft bad) s = .next t ∧ (∀ i, 64 * i < s.installed → i ∉ t.dram.eccSoft)
        ∧ (∀ i, i ∈ t.dram.eccBad ↔ i ∈ s.dram.eccBad ∨ (i ∈ bad ∧ 64 * i < s.installed)) ∧ (∀ a, t.byte a = s.byte a) ∧ ∀ c, (s.core c).Same (t.core c))
    ∧ (s.pwr.aonUp = true → s.pwr.osc24 = true → Does s (exec .selfRefreshExit s) [.dram] [] fun t => t.dram = { s.dram with selfRef := false, ready := true })
    ∧ (s.pwr.aonUp = true → Does s (exec .oscillatorStartUp s) [.power] [] fun t =>
      t.pwr = { s.pwr with osc24 := true, cis := t.pwr.cis, wakePend := t.pwr.wakePend })

/-- R765 to R767: GO on an idle controller issues the command as FSP_CMD, FSP_ADDR and FSP_BUF then stand. A read that ends fills the buffer; PP clears in the
flash the bits that are 0 in its data; what any other command did to the contents is free. -/
def Claims.FlashCommandsRun : Prop :=
  ∀ (s : State) (src : Src) (v : Long) (ok : Bool) (l : List Byte), s.wired = true →
    let u := s.reached src
    let word := setBit v.toNat 31
    (s.reaches src F.FSP_CMD_GO.off word = true → u.get F.FSP_CMDSTAT_BUSY = 0 → bitsOf v.toNat 24 16 ≤ 256 →
      Does u (exec (.flashCommand src v) s) [.flash] [(F.FSP_CMD_POLL, bitsOf v.toNat 30 30), (F.FSP_CMD_ADDR, bitsOf v.toNat 29 29),
        (F.FSP_CMD_READ, bitsOf v.toNat 28 28), (F.FSP_CMD_LEN, bitsOf v.toNat 24 16), (F.FSP_CMD_BYTES, bitsOf v.toNat 15 0), (F.FSP_CMDSTAT_BUSY, 1)] fun t =>
        t.flashBusy = (u.flashBusy || !(v.toNat.testBit 28 || v.toNat % 256 == u.get F.FSP_OPC_WREN))
        ∧ t.flashCmd = some ⟨t.reg F.FSP_CMD_GO.off, u.get F.FSP_ADDR_OFFSET, u.fspBuf⟩)
    ∧ (∀ c, s.pwr.fabricUp = true → s.flashCmd = some c →
      let done := exec (.flashCommandDone ok l) s
      let len := bitsOf c.cmd 24 16
      let ev := (evtBit 19 (if ok then 0 else 2), 1)
      let kept := fun (t : State) => t.flashCmd = none ∧ t.flashBusy = (s.eng.batch.isSome && s.get F.JNL_CFG_DEST == 2)
      (c.cmd.testBit 28 = true → l.length = len →
        let buf := l ++ s.fspBuf.drop len
        Does s done [.flash] ((F.FSP_CMDSTAT_BUSY, 0) :: (List.range 64).map (fun k => (F.FSP_BUF_BYTES.ix k, longAt buf (4 * k))) ++ [ev]) kept)
      ∧ (c.cmd.testBit 28 = false → c.cmd % 256 = s.get F.FSP_OPC_WREN → Does s done [.flash] [(F.FSP_CMDSTAT_BUSY, 0), ev] kept)
      ∧ (c.cmd.testBit 28 = false → c.cmd % 256 ≠ s.get F.FSP_OPC_WREN → c.cmd % 256 = s.get F.FSP_OPC_PP → c.cmd.testBit 29 = true → ok = true →
          c.addr + len ≤ 2 ^ s.get F.FSP_CFG_SIZE → c.data.length = 256 → len ≤ 256 →
        Does s done [.flash, .memory] [(F.FSP_CMDSTAT_BUSY, 0), ev] fun t => kept t ∧ t.flashGen = s.flashGen ∧ t.dramGen = s.dramGen
          ∧ ∀ a, t.byte a = if flashBase + c.addr ≤ a ∧ a < flashBase + c.addr + len then s.byte a &&& c.data.getD (a - flashBase - c.addr) 0 else s.byte a)
      ∧ (c.cmd.testBit 28 = false → c.cmd % 256 ≠ s.get F.FSP_OPC_WREN → (c.cmd % 256 ≠ s.get F.FSP_OPC_PP ∨ c.cmd.testBit 29 = false ∨ ok = false) →
        Does s done [.flash, .memory] [(F.FSP_CMDSTAT_BUSY, 0), ev] fun t => kept t ∧ t.flashGen = s.flashGen + 1 ∧ t.dramGen = s.dramGen
          ∧ ∀ a, regionOf a ≠ .flash → t.byte a = s.byte a))

/-! ### Resets, OTP, the calibration store, boot, and the Cistern state -/

/-- R263: after a cold reset, a warm reset and a core reset, the registers of each reset core have the values of the rule's table. -/
def Obligations.ResetCoresHoldTheirResetValues : Prop :=
  ∀ (s : State) (src : Src) (k : CoreId), s.wired = true →
    let u := s.reached src
    let v := setBit (s.get F.PWR_CORERST_HOLD) k
    let holds := fun (q : Core) => (∀ n : RegNo, q.rd n = 0) ∧ (∀ (h : Hall) (t : Fin 4), q.spOf h t.val = 0) ∧ (∀ n : RegNo, q.f[n] = 0)
      ∧ (∀ n : Fin 8, q.da[n] = 0xC#128) ∧ q.csw = 0xF000#48 ∧ q.fcsw = 0
    (∃ t, exec .coldReset s = .next t ∧ ∀ c : CoreId, holds (t.core c))
    ∧ (s.pwr.aonUp = true → ∃ t, exec .resetNAssert s = .next t ∧ ∀ c : CoreId, holds (t.core c))
    ∧ (s.reachesField src F.PWR_CORERST_HOLD v = true → v < 2 ^ Variant.cores u.variant → (u.get F.PWR_CORERST_HOLD).testBit k = false →
      (∀ j, j ≠ k.val → v.testBit j = (u.get F.PWR_CORERST_HOLD).testBit j) → ∃ t, exec (.coreResetHold src k) s = .next t ∧ holds (t.core k))

/-- R112 to R117, R119, R841: a cold reset releases nothing and keeps what is non-volatile; a warm reset stops the fabric, records its cause and keeps the AON
island, and keeps DRAM contents only when its cause is one of R115; a Hall P reset stops the cores in Hall P; a released core starts at PWR_COREENT. -/
def Claims.ResetsStopWhatTheyName : Prop :=
  ∀ (s : State) (src : Src) (k : CoreId), s.wired = true →
    let u := s.reached src
    let v := clrBit (s.get F.PWR_CORERST_HOLD) k
    let pc := BitVec.ofNat 48 ((u.get F.PWR_COREENT_HI_ADDR * 2 ^ 31 + u.get F.PWR_COREENT_LO_ADDR) / 4 * 4)
    let warm := fun (t : State) (cause : Nat) => t.pwr.fabricUp = false ∧ (t.get F.PWR_RSTCAUSE_CAUSE).testBit cause = true ∧ t.staged = []
      ∧ t.pump.flight = [] ∧ t.pump.wells = [] ∧ t.adc.run = false ∧ t.pending = s.pending
    (∃ t, exec .coldReset s = .next t ∧ t.pwr.aonUp = false ∧ t.pwr.fabricUp = false ∧ t.tb = 0 ∧ t.pwr.otp = s.pwr.otp
      ∧ (∀ off, settlesReg off = false → t.reg off = resetAt t.variant off)
      ∧ (s.flashBusy = false → ∀ a, regionOf a = .flash → t.byte a = s.byte a) ∧ t.dramGen = s.dramGen + 1 ∧ t.gal.run = false ∧ t.chg.state = 0)
    ∧ (s.pwr.aonUp = true → ∃ t, exec .resetNAssert s = .next t ∧ warm t 1 ∧ t.dramGen = s.dramGen + 1
      ∧ t.gal = s.gal ∧ t.latch = s.latch ∧ t.chg = s.chg ∧ t.wins = s.wins ∧ t.tb = s.tb)
    ∧ (s.reachesField src F.PWR_RSTCTL_WARM 1 = true → u.pwr.aonUp = true → ∃ t, exec (.softReset src) s = .next t ∧ warm t 2 ∧ t.dramGen = u.dramGen
      ∧ t.gal = u.gal ∧ t.latch = u.latch ∧ t.chg = u.chg ∧ t.wins = u.wins ∧ t.tb = u.tb)
    ∧ (s.reachesField src F.PWR_RSTCTL_HALLP 1 = true → ∃ t, exec (.hallPReset src) s = .next t ∧ t.get F.PWR_HALLPCTL_ENABLE = 0
      ∧ (∀ c : CoreId, (t.core c).crP = []) ∧ ∀ c : CoreId, u.coreFree c = true → (u.core c).csw.getLsbD 18 = true →
        (t.core c).due.hallPStop = true ∧ (∀ n : RegNo, n.val < 31 → (t.core c).rd n = 0) ∧ ∀ n : RegNo, (t.core c).f[n] = 0)
    ∧ (s.get F.PWR_HALLPCTL_BUSY = 1 → (∀ f ∈ s.pump.flight, f.engineP = false) → (∀ c : CoreId, (s.core c).due.hallPStop = false) →
      (∀ n ∈ s.flt.revoking, (s.llOwner n).1 ≠ 2) → Does s (exec .hallpdone s) [] [] fun t => t.get F.PWR_HALLPCTL_BUSY = 0 ∧ t.evt 2 2 = true)
    ∧ (s.reachesField src F.PWR_CORERST_HOLD v = true → v < 2 ^ Variant.cores u.variant → k.val < Variant.cores u.variant →
      (u.get F.PWR_CORERST_HOLD).testBit k = true → (∀ j, j ≠ k.val → v.testBit j = (u.get F.PWR_CORERST_HOLD).testBit j) →
      Does u (exec (.coreRelease src k) s) [.cores] [(F.PWR_CORERST_HOLD, v)] fun t => (t.core k).pc = pc ∧ (t.core k).hall = .L ∧ (t.core k).stair = 0
        ∧ (t.core k).csw = 0xF000#48 ∧ ∀ c, c ≠ k → (u.core c).Same (t.core c))

/-- R133 to R135: ID_OTPPROG.GO starts programming a word, or sets ERR while another is programmed or the lifecycle locks the word; bits are only ever set, and a
bit that did not take sets ERR. R141 to R143: CAL_CTL.STORE erases the inactive bank and programs it from the buffer; the bank becomes active once verified. -/
def Claims.NonVolatileStoresProgram : Prop :=
  ∀ (s : State) (src : Src) (n : BitVec 9) (stuck : Long) (ok : Bool), s.wired = true →
    let u := s.reached src
    let word := fun (t : State) (m : Nat) => (lookupKey t.pwr.otp m).getD (0 : Long)
    let target := fun (t : State) => match t.pwr.calActive with
      | some b => 1 - b
      | none => 0
    let bank := fun (t : State) (b : Nat) => if b = 0 then t.pwr.bank0 else t.pwr.bank1
    let locked := u.pwr.lifecycle = 2 ∧ ¬ (n.toNat = 3 ∨ (0x10 ≤ n.toNat ∧ n.toNat ≤ 0x13) ∨ 0x100 ≤ n.toNat)
    (s.reaches src F.ID_OTPPROG_GO.off (2 ^ 31 + n.toNat) = true →
      ((u.get F.ID_OTPSTAT_BUSY = 1 ∨ locked) → Does u (exec (.otpProgram src n) s) [] [(F.ID_OTPSTAT_ERR, 1)] fun _ => True)
      ∧ (u.get F.ID_OTPSTAT_BUSY = 0 → ¬ locked → Does u (exec (.otpProgram src n) s) [.power] [(F.ID_OTPSTAT_BUSY, 1)] fun t =>
        t.pwr.otpBusy = some (n.toNat, BitVec.ofNat 32 (u.get F.ID_OTPDATA_DATA)) ∧ t.pwr.otp = u.pwr.otp))
    ∧ (∀ m v, s.pwr.aonUp = true → s.pwr.otpBusy = some (m, v) → sortedKeys s.pwr.otp = true →
      let new := word s m ||| (v &&& ~~~stuck)
      Does s (exec (.otpProgramDone stuck) s) [.power] ((F.ID_OTPSTAT_BUSY, 0) :: if new &&& v = v then [] else [(F.ID_OTPSTAT_ERR, 1)]) fun t =>
        t.pwr.otpBusy = none ∧ ∀ j, word t j = if j = m then new else word s j)
    ∧ (s.reachesField src F.CAL_CTL_STORE 1 = true → u.pwr.calBusy = false →
      (u.calSeq = some 0xFFFFFFFE → Does u (exec (.calStore src) s) [] [(evtBit 6 1, 1)] fun _ => True)
      ∧ (u.calSeq ≠ some 0xFFFFFFFE → Does u (exec (.calStore src) s) [.power] [] fun t =>
        t.pwr.calBusy = true ∧ bank t (target u) = [] ∧ bank t (1 - target u) = bank u (1 - target u) ∧ t.pwr.calActive = u.pwr.calActive))
    ∧ (s.pwr.aonUp = true → s.pwr.calBusy = true →
      (ok = true → Does s (exec (.calStoreDone ok) s) [.power] [(evtBit 6 0, 1)] fun t =>
        t.pwr.calBusy = false ∧ t.pwr.calActive = some (target s) ∧ bank t (target s) = bankOf s.calNew ∧ t.pwr.otp = s.pwr.otp)
      ∧ (ok = false → Does s (exec (.calStoreDone ok) s) [.power] [(evtBit 6 1, 1)] fun t =>
        t.pwr.calBusy = false ∧ t.pwr.calActive = s.pwr.calActive ∧ bank t (1 - target s) = bank s (1 - target s)))

/-- R113, R121, R125, R129: the AON island is released from a cold reset with its oscillator, and with no valid calibration bank the power-up run starts; the fabric
is released when its supplies are up and no run of the table is under way; core 0 waits for the host's image, or sleeps when DRAM does not train. The start word makes
the boot ROM check the host's image, and one with a wrong magic is refused with code 0x10. -/
def Claims.StartUpReleasesIslandsInOrder : Prop :=
  ∀ (s : State) (klead dramOk profile : Bool) (temp : BitVec 16) (v : Long), s.wired = true →
    (s.pwr.aonUp = false → s.calPick = none → ∃ t, exec (.aonRelease klead) s = .next t ∧ t.pwr.aonUp = true ∧ t.pwr.osc24 = true ∧ t.seq.klead = klead
      ∧ t.pwr.calActive = none ∧ t.pwr.fabricUp = s.pwr.fabricUp ∧ t.seq.state ≠ .off)
    ∧ (s.fabricReady = true →
      (dramOk = false → s.dram.trained = false → Does s (exec (.fabricRelease 0 dramOk temp profile) s) [.power, .link, .cores]
        [(F.PWR_BOOTSTAT_BOOTSEL, 0), (F.HLK_CFG_BAR4EN, 0), (F.PWR_BOOTSTAT_CODE, 0x22), (F.PWR_CISCTL_ALLOW, 0)] fun t => t.pwr.fabricUp = true)
      ∧ (dramOk = true → s.otpWord 3 % 8 ∈ [0, 1, 3] → (s.otpWord 0x14).testBit 0 = false →
        ∃ t, exec (.fabricRelease 2 dramOk temp profile) s = .next t ∧ t.pwr.fabricUp = true ∧ t.pwr.hostBoot = true ∧ t.dram.trained = true ∧ t.link.bar4 = true
          ∧ t.get F.PWR_BOOTSTAT_BOOTSEL = 2 ∧ t.get F.HLK_CFG_BAR4EN = 1))
    ∧ (s.pwr.hostBoot = true → s.bar4Usable = true → s.inDram 0xFFFFC4 4 = true → s.hostPoison 0xFFFFC4 4 = false →
        s.hostRefused 0xFFFFC4 4 .write = none →
      (v ≠ 1 → Does s (exec (.hostBootMailbox v) s) [.link, .memory] [] fun t => t.pwr.hostBoot = true
        ∧ ∀ a, t.byte a = if 0xFFFFC4 ≤ a ∧ a < 0xFFFFC8 then (leBytes 4 v.toNat).getD (a - 0xFFFFC4) 0 else s.byte a)
      ∧ (v = 1 → s.byte 0 ≠ 0x51 → ∃ t, exec (.hostBootMailbox v) s = .next t ∧ t.pwr.hostBoot = false ∧ t.get F.PWR_BOOTSTAT_CODE = 0x10
        ∧ t.get F.PWR_CISCTL_ALLOW = 0 ∧ t.byte 0xFFFFC8 = 0x10))

/-- R51, R60, R144 to R152: entry begins only when every condition holds, and stops M with DRAM in self-refresh and T on its low-speed source; an enabled wake source
cancels entry or is kept for the wake; the wake records its sources and drives the rails; the fabric restarts core 0 at the vector of the woken hall. T returns to 24 MHz.
A stalled segment is fenced and recorded, with a machine check on the core chosen. -/
def Claims.CisternSleepsAndWakes : Prop :=
  ∀ (s : State) (w : WakeSource) (seg : Fin 13) (drained : BitVec 16), s.wired = true →
    let rails := s.get F.PWR_CISRAILS_SLOTS
    let r : RelRun := ⟨.cistern, rails &&& s.driven, 0, false⟩
    let n := match w with
      | .gallery _ => 0
      | .window => 1
      | .gpio => 2
      | .rtc => 3
      | .host => 4
      | .ksync => 5
    let enabled := (s.get F.PWR_WAKEEN_EN).testBit n
    (s.cisternReady = true → s.seq.rel = [] → (s.runEntry r).isSome = true → Does s (exec .cisternEntry s) [.power, .dram, .sequencer] [] fun t =>
      t.pwr.tsrc32 = true ∧ t.pwr.osc24 = s.flag F.PWR_CISCTL_XT24ON ∧ (t.pwr.cis = .entering → t.dram.selfRef = s.dram.trained ∧ t.seq.rel = [r]))
    ∧ (s.cisternReady = false → Does s (exec .cisternEntry s) [] [] fun _ => True)
    ∧ (s.pwr.aonUp = true →
      (enabled = false → Does s (exec (.wakeEvent w) s) [] [] fun _ => True)
      ∧ (enabled = true → (s.pwr.cis = .asleep ∨ s.pwr.cis = .releasing) → Does s (exec (.wakeEvent w) s) [.power] [] fun t =>
        t.pwr.wakePend.testBit n = true ∧ t.pwr.cis = s.pwr.cis)
      ∧ (enabled = true → s.pwr.cis = .entering → Does s (exec (.wakeEvent w) s) [.power] [] fun t =>
        t.pwr.cis = .awake ∧ t.evt 2 1 = true ∧ t.dram.selfRef = false))
    ∧ (s.pwr.wakePend ≠ 0 → (s.pwr.cis = .asleep ∨ s.pwr.cis = .releasing) →
      let ws := [(F.PWR_WAKESRC_SRC, s.pwr.wakePend), (F.PWR_WAKETIME_TIME, s.tb.toNat % 2 ^ 32)]
      let starts := fun (t : State) => t.pwr.cis = .waking ∧ t.evt 2 0 = true ∧ ∀ x ∈ t.seq.rel, x.kind ≠ .cistern
      (andNot rails s.driven = 0 → Does s (exec .cisternWake s) [.power, .sequencer] ws starts)
      ∧ (∀ k, andNot (rails &&& s.driven) s.seq.pg = 0 → s.cisStep = some k →
        let m := packBits 16 fun n => bit (andNot rails s.driven) n && s.get (F.SEQ_SLOT_CFG_UPSTEP.ix n) == k
        Does s (exec .cisternWake s) [.power, .sequencer] (ws ++ [(F.SEQ_UPMASK_DRIVEN, s.driven ||| m)]) fun t => starts t ∧ t.seq.ramping = s.seq.ramping ||| m))
    ∧ (s.pwr.cis = .waking → andNot rails (s.driven &&& s.seq.pg) = 0 → ∃ t, exec .wakeFabricRelease s = .next t
      ∧ t.pwr.fabricUp = true ∧ t.pwr.cis = .awake ∧ t.get F.PWR_CORERST_HOLD = 2 ^ Variant.cores s.variant - 2
      ∧ (t.core 0).rd 1 = BitVec.ofNat 48 (s.get F.PWR_WAKESRC_SRC) ∧ (t.core 0).hall = s.wokenHall
      ∧ (t.core 0).pc = BitVec.ofNat 48 (bsramBase + 4 * match s.wokenHall with
        | .L => s.get F.PWR_WAKEVECL_VEC
        | .P => s.get F.PWR_WAKEVECP_VEC))
    ∧ (s.pwr.tsrc32 = true → s.pwr.osc24 = true → (s.pwr.cis = .awake ∨ s.pwr.cis = .waking) → Does s (exec .tSourceReturn s) [.power] [] fun t =>
      t.pwr.tsrc32 = false ∧ t.pwr.tacc = 0)
    ∧ (s.segPresent seg = true → s.fenced seg = false → s.pwr.fabricUp = true → ∀ c : CoreId, seg.val ≠ 6 → seg.val ≠ 7 → seg.val ≠ c.val →
        s.lowestFree 15 = some c.val →
      Does s (exec (.stallDeclared seg drained) s) [.cores] [(F.FLT_SEGSTAT_FENCED.bitAt seg, 1), (F.FLT_STALLREC0_VALID, 1),
          (F.FLT_STALLREC0_DRAINED, min 255 drained.toNat), (F.FLT_STALLREC0_SEG, seg), (F.FLT_STALLREC1_TIME, s.tb.toNat % 2 ^ 32),
          (F.FLT_DRAINCNT_COUNT, min 65535 (s.get F.FLT_DRAINCNT_COUNT + 1)), (evtBit 22 0, 1)] fun t =>
        (t.core c).due.mc = (s.core c).due.mc ++ [⟨1, seg, none⟩] ∧ ∀ k, (s.core k).Same (t.core k))

/-! ### The rail sequencer -/

/-- R157, R160 to R164, R168, R169, R175: GO checks the table and starts a run, which drives the slots of each up-step in turn and ends with UPDONE; a slot is up
when its power-good and window say so; one that is not up in time, or loses its power-good, fails with a record and a snapshot. -/
def Claims.PowerUpRunsDriveTheirSteps : Prop :=
  ∀ (s : State) (src : Src) (n : Fin 16), s.wired = true →
    let u := s.reached src
    let dly := bitsOf (putBits (s.readReg src F.SEQ_STEPCTL_GO.off) 0 0 1) 23 16
    let idle := u.seq.state = .off ∨ u.seq.state = .on ∨ u.seq.state = .partial'
    let due := fun (k : Nat) => u.slotsThat fun m => u.inUse m && u.get (F.SEQ_SLOT_CFG_UPSTEP.ix m) == k && !bit u.upSlots m
    let allUp := fun (s : State) => andNot (s.slotsThat s.inUse) s.upSlots = 0
    let q := s.seq
    let fails := fun (i : Instr) (cause : Nat) (q : Seq) =>
      let snap := s.snapAlloc 0
      let up := [(F.SEQ_UPMASK_UP, clrBit s.upSlots n)]
      let lost := if snap = none then [(evtBit 5 3, 1)] else []
      let r := { q with failed := q.failed ||| 2 ^ n.val, ramping := clrBit q.ramping n }
      let ends := fun (t : State) => t.seqIs { r with stepDone := q.stepDone || decide ((q.state = .up ∨ q.state = .kwait) ∧ r.ramping = 0) }
        ∧ t.adc.snaps.length = s.adc.snaps.length + if snap = none then 0 else 1
      2 ≤ s.get (F.SEQ_SLOT_CFG_FAULTACT.ix n) → s.kPart = false → q.rel = [] →
        Does s (exec i s) [.sequencer, .adc] ((evtBit 3 2, 1) :: s.faultRecord cause n 0 0 snap ++ lost ++ up) ends
    (s.reachesField src F.SEQ_STEPCTL_GO 1 = true → dly ≤ 100 → idle → u.badTable = true →
      Does u (exec (.powerUpRunGo src) s) [] ([(F.SEQ_STEPCTL_STEPDLY, dly), (evtBit 3 5, 1)] ++ u.faultRecord 6 31 0 0 none) fun _ => True)
    ∧ (s.reachesField src F.SEQ_STEPCTL_GO 1 = true → dly ≤ 100 → idle → u.badTable = false → u.kPart = false →
        (∀ m, m < Variant.slots u.variant → u.margin m = 0) →
      (∀ k, k < 32 → due k ≠ 0 → (∀ j, j < k → due j = 0) →
        Does u (exec (.powerUpRunGo src) s) [.sequencer] [(F.SEQ_STEPCTL_STEPDLY, dly), (F.SEQ_UPMASK_DRIVEN, u.driven ||| due k)] fun t =>
          t.seqIs { u.seq with state := .up, step := k, ramping := due k, failed := 0, stepDone := false, colArmed := u.seq.colArmed || u.winOut 15 == 2 })
      ∧ ((∀ j, j < 32 → due j = 0) → Does u (exec (.powerUpRunGo src) s) [.sequencer, .power] [(F.SEQ_STEPCTL_STEPDLY, dly), (evtBit 3 0, 1)] fun t =>
          t.seq.state = (if allUp u then .on else .partial') ∧ t.pwr.tableRun = false))
    ∧ (q.stepDone = true → s.kPart = false →
      (∀ k, q.step < k → k ≤ q.step + 32 → s.stepSlots k ≠ 0 → (∀ j, q.step < j → j < k → s.stepSlots j = 0) →
        Does s (exec .upStepStart s) [.sequencer] [(F.SEQ_UPMASK_DRIVEN, s.driven ||| s.stepSlots k)] fun t =>
          t.seqIs { q with step := k, ramping := s.stepSlots k, stepDone := false })
      ∧ ((∀ j, q.step < j → j ≤ q.step + 32 → s.stepSlots j = 0) → Does s (exec .upStepStart s) [.sequencer, .power] [(evtBit 3 0, 1)] fun t =>
          t.seq.state = (if allUp s then .on else .partial') ∧ t.pwr.tableRun = false))
    ∧ (s.pwr.aonUp = true →
      let good := fun (k : Nat) => (!s.flag (F.SEQ_SLOT_CFG_PGEN.ix k) || k == n || bit q.pg k)
        && (!s.flag (F.SEQ_SLOT_CFG_WINCHK.ix k) || s.winOut (s.get (F.SEQ_SLOT_CFG_WIN.ix k)) == 2)
      let m := andNot s.driven s.upSlots &&& s.slotsThat good
      let ramping := andNot q.ramping m
      Does s (exec (.slotUp n) s) [.sequencer] (if m = 0 then [] else [(F.SEQ_UPMASK_UP, s.upSlots ||| m &&& s.driven)]) fun t =>
        t.seqIs { q with pg := setBit q.pg n, ramping := if m = 0 then q.ramping else ramping,
                         stepDone := q.stepDone || decide (m ≠ 0 ∧ (q.state = .up ∨ q.state = .kwait) ∧ ramping = 0) })
    ∧ (q.ramping.testBit n = true → fails (.rampTimeout n) 0 q)
    ∧ (s.pwr.aonUp = true → s.upSlots.testBit n = true → s.flag (F.SEQ_SLOT_CFG_DROPCHK.ix n) = true → s.flag (F.SEQ_SLOT_CFG_PGEN.ix n) = true →
      fails (.pgloss n) 1 { q with pg := clrBit q.pg n })

/-- R116, R172, R176 to R178, R184: DOWN starts the shutdown run, which releases the slots of its entries in turn and waits for those with WAITLOW; a restart and the
return of the mains are warm resets that enter the start-up order at its third step. -/
def Claims.ShutdownRunsReleaseTheirSlots : Prop :=
  ∀ (s : State) (src : Src) (r : RelRun) (l : List RelRun) (n : Fin 16), s.wired = true →
    let u := s.reached src
    let dly := bitsOf (putBits (s.readReg src F.SEQ_STEPCTL_DOWN.off) 1 1 1) 23 16
    let down : RelRun := ⟨.down, u.driven, 0, false⟩
    let steady := fun (s : State) => s.pwr.cis ≠ .entering
    let stops := fun (i : Instr) (cause : Nat) => ∃ t, exec i s = .next t ∧ t.pwr.fabricUp = false ∧ (t.get F.PWR_RSTCAUSE_CAUSE).testBit cause = true
      ∧ t.seq.state ≠ .restart ∧ t.seq.state ≠ .collapsed
    let goesOn := { r with idx := r.idx + 1, wait := false }
    (s.reachesField src F.SEQ_STEPCTL_DOWN 1 = true → dly ≤ 100 → (u.seq.state = .off ∨ u.seq.state = .up ∨ u.seq.state = .on ∨ u.seq.state = .partial'
        ∨ u.seq.state = .kwait) → steady u →
      ((u.runEntry down).isSome = true → Does u (exec (.shutdownRun src) s) [.sequencer, .power] [(F.SEQ_STEPCTL_STEPDLY, dly)] fun t =>
        t.seq = { u.seq with state := .down, ramping := 0, stepDone := false, kReady := false, rel := [down] } ∧ t.pwr.tableRun = false)
      ∧ (u.driven = 0 → u.upSlots = 0 → Does u (exec (.shutdownRun src) s) [.sequencer, .power] [(F.SEQ_STEPCTL_STEPDLY, dly), (evtBit 3 1, 1)] fun t =>
        t.seq.state = .off ∧ t.seq.rel = [] ∧ t.seq.colArmed = false ∧ t.pwr.tableRun = false))
    ∧ (s.seq.rel = r :: l → r.wait = false → r.kind ≠ .cistern → steady s → ∀ i, s.runEntry r = some i →
      let k := s.sdSlot i
      (2 ^ k &&& s.pwr.fabricRails = 0 ∨ s.pwr.fabricUp = false) → s.flag (F.SEQ_SD_WAITLOW.ix i) = true → s.slotLow k = false →
      Does s (exec .shutdownEntryRelease s) [.sequencer]
        [(F.SEQ_UPMASK_DRIVEN, andNot s.driven (2 ^ k)), (F.SEQ_UPMASK_UP, andNot s.upSlots (2 ^ k)), (F.SEQ_SLOT_MARG_MARGIN.ix k, 0)] fun t =>
        t.seq.rel = { r with idx := i, wait := true } :: l ∧ t.seq.state = s.seq.state ∧ t.seq.ramping = andNot s.seq.ramping (2 ^ k))
    ∧ (s.seq.rel = r :: l → r.wait = true → steady s → (s.runEntry goesOn).isSome = true →
      Does s (exec .dischargeTimeout s) [.sequencer] (if r.kind = .cistern then [] else [(evtBit 3 9, 1)]) fun t => t.seq = { s.seq with rel := goesOn :: l })
    ∧ (s.pwr.aonUp = true → s.seq.rel = r :: l → r.wait = true → steady s → (s.runEntry goesOn).isSome = true → s.sdSlot r.idx = n →
        s.upSlots.testBit n = false → (s.flag (F.SEQ_SLOT_CFG_WINCHK.ix n) = false ∨ s.winOut (s.get (F.SEQ_SLOT_CFG_WIN.ix n)) = 1) →
      Does s (exec (.powerGoodLow n) s) [.sequencer] [] fun t => t.seq = { s.seq with pg := clrBit s.seq.pg n, rel := goesOn :: l })
    ∧ (s.pwr.aonUp = true → s.seq.state = .restart → s.seq.rel = [] → stops .seqRestart 3)
    ∧ (s.pwr.aonUp = true → s.seq.state = .collapsed → s.winOut 15 = 2 → stops .mainsQualified 4)

/-- R185, R186, R189 to R193: a margin request is refused with its reason, or set at once through a margin DAC, or queued for PMBus; a tempo sample counts
high and low backlogs and moves the level by one within FLOOR and CEIL; the end of SETTLE leaves the new level's thresholds alone. -/
def Claims.MarginsAndTempoMoveSupplies : Prop :=
  ∀ (s : State) (src : Src) (n : Fin 16) (m : BitVec 6), s.wired = true →
    let u := s.reached src
    let q := s.seq
    let method := u.get (F.SEQ_SLOT_MCFG_METHOD.ix n)
    let vout := ((2 * (u.get (F.SEQ_SLOT_VNOM_VNOM.ix n) : Int) * (200 + m.toInt) + 200) / 400).toNat % 65536
    let slot := s.get F.SEQ_TEMPOCTL_SLOT
    let up := if s.get F.SEQ_TEMPOUP_UP ≤ s.backlog then q.upCnt + 1 else 0
    let dn := if s.backlog ≤ s.get F.SEQ_TEMPODN_DN then q.dnCnt + 1 else 0
    let rises := s.get F.SEQ_TEMPOTIM_UPN ≤ up ∧ q.level < s.get F.SEQ_TEMPOCEIL_CEIL
    let falls := ¬ rises ∧ s.get F.SEQ_TEMPOTIM_DNN ≤ dn ∧ s.get F.SEQ_TEMPOFLR_FLOOR < q.level
    (s.reachesField src (F.SEQ_SLOT_MARG_MARGIN.ix n) m.toNat = true → n.val < Variant.slots u.variant → -20 ≤ m.toInt → m.toInt ≤ 20 →
      (∀ r, u.marginRefusal n = some r → Does u (exec (.marginRequest src n m) s) [] [(F.SEQ_SLOT_MARG_RESULT.ix n, r), (evtBit 3 6, 1)] fun _ => True)
      ∧ (u.marginRefusal n = none → 2 ≤ method → Does u (exec (.marginRequest src n m) s) [.sequencer]
          [(F.SEQ_SLOT_MARG_MARGIN.ix n, m.toNat), (F.SEQ_SLOT_MARG_RESULT.ix n, 1), (evtBit 3 7, 1)] fun t =>
        t.seqIs { u.seq with mdac := u.seq.mdac.set (method - 2) (m.toInt * u.get (F.SEQ_SLOT_MCFG_MSTEP.ix n)) })
      ∧ (u.marginRefusal n = none → method = 1 → Does u (exec (.marginRequest src n m) s) [.sequencer] [] fun t =>
        t.seqIs { u.seq with
          pmb := u.seq.pmb ++ [⟨false, n, u.get (F.SEQ_SLOT_MCFG_PMBADDR.ix n), u.get (F.SEQ_SLOT_MCFG_PAGE.ix n), vout, m.toNat⟩] }))
    ∧ (s.flag F.SEQ_TEMPOCTL_ENABLE = true → q.settleFrom = none → s.pwr.cis = .awake → s.upSlots.testBit slot = true → slot < 16 →
        (q.state = .on ∨ q.state = .partial') →
      (¬ rises → ¬ falls → Does s (exec .tempoSample s) [.sequencer] [] fun t => t.seqIs { q with upCnt := min 15 up, dnCnt := min 15 dn })
      ∧ (rises ∨ falls → Does s (exec .tempoSample s) [.sequencer] [(evtBit 3 8, 1)] fun t =>
        t.seq.level = (if rises then q.level + 1 else q.level - 1) ∧ t.seq.settleFrom = some q.level ∧ t.seq.upCnt = 0 ∧ t.seq.dnCnt = 0
        ∧ (s.flag F.SEQ_TEMPOCTL_MODE = false → t.seq.pmb = q.pmb)))
    ∧ Does s (exec .tempoSettleEnd s) [.sequencer] [] fun t => t.seqIs { q with settleFrom := none, upCnt := 0, dnCnt := 0 }

/-- R199 to R206: strobes on KSYNC are counted and start the matching up-step of a device that takes part; the leader drives them; a high of 50 µs completes the step,
one of 2 ms restarts the count; a low of 1 ms is an abort, which stops the run and starts the shutdown run. -/
def Claims.KsyncStepsDevicesTogether : Prop :=
  ∀ (s : State) (src : Src), s.wired = true →
    let u := s.reached src
    let q := s.seq
    let k := s.get F.SEQ_KSTAT_STROBES
    let dly := bitsOf (putBits (s.readReg src F.SEQ_STEPCTL_ABORT.off) 2 2 1) 23 16
    let down : RelRun := ⟨.down, s.driven, 0, false⟩
    (s.kPart = true → q.klead = true → q.state = .up → q.kReady = true → Does s (exec .kralunyStrobeStart s) [.sequencer] [] fun t =>
      t.seqIs { q with kReady := false, kline := false })
    ∧ (s.pwr.aonUp = true → s.kPart = true → s.pwr.cis ≠ .asleep → s.pwr.cis ≠ .releasing → k < 32 →
      ((q.state = .kwait ∨ (q.state = .up ∧ q.klead = true)) →
        Does s (exec .ksyncStrobe s) [.sequencer] [(F.SEQ_KSTAT_STROBES, k + 1), (F.SEQ_UPMASK_DRIVEN, s.driven ||| s.stepSlots k),
          (F.SEQ_KSTAT_HOLDING, if s.stepSlots k = 0 then 0 else 1)] fun t =>
          t.seqIs { q with kline := false, step := k, ramping := s.stepSlots k, stepDone := decide (s.stepSlots k = 0) })
      ∧ (q.state = .on → Does s (exec .ksyncStrobe s) [.sequencer] [(F.SEQ_KSTAT_STROBES, k + 1)] fun t => t.seqIs { q with kline := false }))
    ∧ (q.stepDone = true → s.kPart = true → Does s (exec .upStepStart s) [.sequencer] [(F.SEQ_KSTAT_HOLDING, 0)] fun t => t.seqIs { q with kline := !q.kdrive })
    ∧ Does s (exec .ksyncBreath s) [] [] (fun _ => True)
    ∧ (s.kPart = true → s.flag F.SEQ_KSTAT_HOLDING = false → k ≠ 0 →
      (q.state = .up → q.klead = true → q.step ≠ s.get F.SEQ_KCFG_LAST → Does s (exec .kralunyStepComplete s) [.sequencer] [] fun t =>
        t.seqIs { q with kline := true, kReady := true })
      ∧ (((q.state = .up ∧ q.klead = true ∧ q.step = s.get F.SEQ_KCFG_LAST) ∨ (q.state = .kwait ∧ s.lastUsedStep ≤ q.step)) →
        Does s (exec .kralunyStepComplete s) [.sequencer, .power] [(evtBit 3 0, 1)] fun t => t.pwr.tableRun = false
          ∧ t.seq.state = if andNot (s.slotsThat s.inUse) s.upSlots = 0 then .on else .partial'))
    ∧ (s.pwr.aonUp = true → Does s (exec .ksyncCountReset s) [.sequencer] [(F.SEQ_KSTAT_STROBES, 0)] fun t => t.seqIs { q with kline := true })
    ∧ (s.kPart = true → q.state ≠ .collapsed → s.pwr.cis ≠ .entering → (s.runEntry down).isSome = true →
      Does s (exec .kralunyAbort s) [.sequencer, .power] ([(F.SEQ_KSTAT_STROBES, 0), (F.SEQ_KSTAT_HOLDING, 0),
          (F.SEQ_KSTAT_ABORTS, min 255 (s.get F.SEQ_KSTAT_ABORTS + 1)), (evtBit 3 4, 1)] ++ s.faultRecord 5 31 0 0 none) fun t =>
        t.seq = { q with state := .down, ramping := 0, stepDone := false, kReady := false, kdrive := false, kline := false, rel := [down] }
          ∧ t.pwr.tableRun = false)
    ∧ (s.reachesField src F.SEQ_STEPCTL_ABORT 1 = true → dly ≤ 100 → u.kPart = true → Does u (exec (.abort src) s) [.sequencer] [(F.SEQ_STEPCTL_STEPDLY, dly)] fun t =>
      t.seqIs { u.seq with kdrive := true, kline := false })

/-! ### Wells -/

/-- R549, R550, R602, R861: ON = 1 takes effect only when the whole table lies in installed DRAM, with no well enabled and nothing cached; ON = 0, with no well
enabled or draining and no requeued job, writes every stale image back and empties the cache. -/
def Claims.WellTableLiesInDram : Prop :=
  ∀ (s : State) (src : Src), s.wired = true →
    let u := s.reached src
    let fits := u.get F.PMP_WTBASE_BASE * 4096 + 64 * Variant.wells u.variant ≤ u.installed
    (s.reachesField src F.PMP_WTCTL_ON 1 = true → u.flag F.PMP_WTCTL_ON = false →
      (fits → Does u (exec (.wellTableOn src) s) [.pump] [(F.PMP_WTCTL_ON, 1)] fun t => t.pumpIs { u.pump with wells := [], cache := [] })
      ∧ (¬ fits → Does u (exec (.wellTableOn src) s) [] [(evtBit 10 5, 1)] fun _ => True))
    ∧ (s.reachesField src F.PMP_WTCTL_ON 0 = true → u.flag F.PMP_WTCTL_ON = true → (∀ e ∈ u.pump.wells, e.2.enable = false ∧ e.2.draining = false) →
        u.pump.requeued = [] → (u.pump.cache.map (·.1)).Nodup →
      Does u (exec (.wellTableOff src) s) [.pump, .memory] [(F.PMP_WTCTL_ON, 0)] fun t => t.pumpIs { u.pump with cache := [] }
        ∧ t.dramGen = u.dramGen ∧ t.flashGen = u.flashGen
        ∧ (∀ e ∈ u.pump.cache, e.2.dirty = true → ∀ k, k < 16 → t.bytes (u.ctxAddr e.1 + 4 * k) 4 = leBytes 4 (u.ctxLong e.1 k))
        ∧ ∀ a, (∀ e ∈ u.pump.cache, e.2.dirty = true → a < u.ctxAddr e.1 ∨ u.ctxAddr e.1 + 64 ≤ a) → t.byte a = u.byte a)

/-- R554 to R558: with legal values, a write of PMP_WCTXk of a well that is neither enabled nor draining sets the fields of long k; RING0 is staged, and RING1
commits the pair; longs 7 to 15 take no write. -/
def Claims.ContextWindowWritesTheWell : Prop :=
  ∀ (s : State) (src : Src) (k : Fin 16) (v : Long) (c : WellCtx), s.wired = true →
    let u := s.reached src
    let w := u.wsel src
    let x := v.toNat
    let long := fun (k m y : Nat) => andNot (c.longs.getD k 0) m ||| (y &&& m)
    let i := exec (.wellContextWrite src k v) s
    let holds := fun (c : WellCtx) (t : State) => t.pumpIs { u.pump with cache := u.cacheWith w c }
    let sets := fun (m : Nat) => Does u i [.pump] [] (holds ⟨c.longs.set k (long k m x), true⟩)
    let ring := match lookupKey u.staged (ringKey w) with
      | some y => y.toNat
      | none => c.longs.getD 2 0
    s.reaches src (F.PMP_WCTX_LONG.ix k).off x = true → u.flag F.PMP_WTCTL_ON = true → w ≠ 0x7FFF → u.pump.cache.find? (·.1 == w) = some (w, c) →
    (ofHallL src = true ∨ c.hall = .P) → u.boundAway src 3 w = false → (u.wellOn w).enable = false → (u.wellOn w).draining = false →
      (k = 0 → x % 2 = 0 → (bitsOf x 23 20 < Variant.latches u.variant ∨ bitsOf x 23 20 = 15) → bitsOf x 19 16 ≠ 0 →
          andNot (bitsOf x 19 16) (2 ^ Variant.cores u.variant - 1) = 0 → bitsOf x 10 8 ≤ 4 → bitsOf x 6 5 ≠ 0 → (ofHallL src = true ∨ bitsOf x 4 4 = 1) → sets 0xFFFF7C)
      ∧ (k = 1 → (bitsOf x 31 16 < Variant.rings u.variant ∨ bitsOf x 31 16 = 0xFFFF) → sets 0xFFFF003F)
      ∧ (k = 2 → Does u i [.pump, .staged] [] fun t => holds c t ∧ t.staged = insertKey u.staged (ringKey w) (BitVec.ofNat 32 (x % 2 ^ 31)))
      ∧ (k = 3 → x ≤ 0xFF → 4 ≤ bitsOf ring 30 26 → bitsOf ring 30 26 ≤ 16 → bitsOf ring 25 0 % (min (64 * 2 ^ bitsOf ring 30 26) 4096 / 64) = 0 →
        Does u i [.pump, .staged] [] fun t => t.staged = eraseKey u.staged (ringKey w)
          ∧ holds ⟨(c.longs.set 2 (long 2 0x7FFFFFFF ring)).set 3 (long 3 0xFFFFFFFF x), true⟩ t)
      ∧ (k = 4 → sets 0xFFFFFFFF)
      ∧ (k = 5 → sets 1)
      ∧ (k = 6 → 100 ≤ x → x ≤ 10000000 → sets 0xFFFFFFFF)
      ∧ (7 ≤ k.val → Does u i [.pump] [] (holds c))

/-- R559, R561, R563, R599: ENABLE = 1 enables a well that passes every check, else only CAUSE takes the first that fails; ENABLE = 0 discards what is
fetched, sets CI and EPHASE back, and drains while jobs are in flight. A miss is counted and reads the image into the cache. -/
def Claims.WellsStartAndStop : Prop :=
  ∀ (s : State) (src : Src) (c : WellCtx) (m : BitVec 14), s.wired = true →
    let u := s.reached src
    let w := u.wsel src
    let off := F.PMP_WCTX_LONG.off
    let old := s.readReg src off
    let q := u.pump
    let here := u.flag F.PMP_WTCTL_ON = true ∧ w ≠ 0x7FFF ∧ q.cache.find? (·.1 == w) = some (w, c) ∧ (ofHallL src = true ∨ c.hall = .P)
      ∧ u.boundAway src 3 w = false
    let img : WellCtx := ⟨(List.range 16).map fun k =>
      andNot (ofLe (s.bytes (s.ctxAddr m.toNat + 4 * k) 4)) (if k = 0 then 0x83 else if k = 7 then 0xFFFF else 0), false⟩
    (here → s.reaches src off (old ||| 1) = true → (u.wellOn w).enable = false → (u.wellOn w).draining = false → u.ctxLegal c = true →
      (u.enableCause c = none → Does u (exec (.wellEnable src) s) [.pump] [] fun t =>
        t.pumpIs { q with cache := u.cacheWith w (c.put 0 27 24 0), wells := insertKey q.wells w ⟨true, false, false, none⟩ })
      ∧ (∀ n, u.enableCause c = some n → Does u (exec (.wellEnable src) s) [.pump] [] fun t =>
        t.pumpIs { q with cache := u.cacheWith w (c.put 0 27 24 n) }))
    ∧ (here → s.reaches src off (clrBit old 0) = true → (u.wellOn w).enable = true → c.longs.getD 0 0 &&& 0x83 = 0 → w ∉ q.epPend →
      let back := match q.fetched.find? (·.well == w) with
        | some j => (c.put 4 31 16 j.idx).put 5 0 0 j.phase
        | none => c
      Does u (exec (.wellDisable src) s) [.pump] [] fun t => t.pumpIs { q with
        cache := u.cacheWith w (back.put 0 27 24 0), fetched := q.fetched.filter (·.well != w),
        wells := if u.infl w = 0 then eraseKey q.wells w else insertKey q.wells w ⟨false, true, false, none⟩ })
    ∧ (s.pumpActs = true → s.flag F.PMP_WTCTL_ON = true → m.toNat < Variant.wells s.variant → (∀ e ∈ s.pump.cache, e.1 ≠ m.toNat) →
        s.pump.cache.length < 512 → ((s.wellOn m.toNat).enable = true → s.ctxLegal img = true) →
      Does s (exec (.contextMiss m) s) [.pump] [(F.PMP_CCMISS_COUNT, min (2 ^ 32 - 1) (s.get F.PMP_CCMISS_COUNT + 1))] fun t =>
        t.pumpIs { s.pump with cache := (m.toNat, img) :: s.pump.cache })

/-! ### Fetch, doorbells and kicks -/

/-- R566 to R575, R590: the entry at CI of a running well in DRAM is fetched as a job of one descriptor: CI, EPHASE and FETCNT go on, and a Gen 2 job with
CPLMODE 1 has OWN cleared. A stale entry is counted and read again, STALEMAX times; then fetching stops with a record. -/
def Claims.DescriptorsAreFetched : Prop :=
  ∀ (s : State) (w : BitVec 14) (c : WellCtx), s.wired = true → s.pumpActs = true →
    let x := w.toNat
    let o := s.wellOn x
    let q := s.pump
    let fetch := if o.stale.isNone then exec (.descriptorFetch w) s else exec (.staleReread w) s
    let n := genBytes c.gen
    let a := c.base + n * (c.ci % c.entries)
    let d := s.bytes a n
    let h := longAt d 0
    let clears := c.gen = 2 ∧ c.cplmode = 1
    let job : Job := ⟨x, c.ci, 1, c.gen, c.ephase, c.hall, c.fkey, c.ckind, c.lch, c.coreset, c.cq, !c.needsRing, c.lease, d, d, jobStatus c.gen 1 d, 0⟩
    let next := ((c.put 4 31 16 ((c.ci + 1) % 65536)).put 5 0 0 (if (c.ci + 1) % c.entries = 0 then 1 - c.ephase else c.ephase)).put 9 31 0 (c.f 9 31 0 + 1)
    let counts := (F.PMP_STALECNT_COUNT, min (2 ^ 32 - 1) (s.get F.PMP_STALECNT_COUNT + 1))
    let stale := (c.gen = 2 ∧ h.testBit 8 = false) ∨ (c.gen = 3 ∧ (if h.testBit 8 then 1 else 0) ≠ c.ephase)
    let watched := fun (k : Nat) => Does s fetch [.pump] [counts] fun t =>
      t.pumpIs { q with cache := s.cacheWith x c, wells := insertKey q.wells x { o with stale := some k } }
    s.flag F.PMP_WTCTL_ON = true → x < Variant.wells s.variant → o.enable = true → o.stopped = false → s.pausedCtx c = false → 0 < c.posted →
    x ∉ q.epPend → q.cache.find? (·.1 == x) = some (x, c) → s.plainFor c.base (n * c.entries) = true →
      ((c.gen = 1 ∨ (c.gen = 2 ∧ h.testBit 8 = true ∧ h.testBit 9 = false) ∨ (c.gen = 3 ∧ (if h.testBit 8 then 1 else 0) = c.ephase)) →
          (c.poll = true → q.hot.length < 64) →
        Does s fetch [.pump, .memory] [] fun t =>
          t.pumpIs { q with cache := s.cacheWith x next, wells := insertKey q.wells x { o with stale := none }, fetched := q.fetched ++ [job] }
          ∧ t.dramGen = s.dramGen ∧ t.flashGen = s.flashGen
          ∧ ∀ b, t.byte b = if clears ∧ a ≤ b ∧ b < a + 4 then (leBytes 4 (clrBit h 8)).getD (b - a) 0 else s.byte b)
      ∧ (stale → o.stale = none → watched 0)
      ∧ (∀ k, stale → o.stale = some k → k + 1 < s.get F.PMP_STALECFG_STALEMAX → watched (k + 1))
      ∧ (∀ k, stale → o.stale = some k → s.get F.PMP_STALECFG_STALEMAX ≤ k + 1 →
        Does s fetch [.pump] [counts, (F.PMP_STALEREC_VALID, 1), (F.PMP_STALEREC_WELL, x), (F.PMP_STALEREC_INDEX, c.ci), (evtBit 10 3, 1)] fun t =>
          t.pumpIs { q with cache := s.cacheWith x c, wells := insertKey q.wells x { o with stale := none, stopped := true } })

/-- R579 to R585: a doorbell sets PI when it moves it forward within the ring, and is refused otherwise; one for an absent, disabled or Hall L well is
dropped, one of another shape is refused, with a count, an event and a record. A host read of the window returns CI and the well's state. -/
def Claims.DoorbellsMoveTheProducerIndex : Prop :=
  ∀ (s : State) (src : Src) (w : BitVec 14) (v : Long) (y : Quad) (dw : BitVec 15) (len : BitVec 10) (c : WellCtx), s.wired = true →
    let u := s.reached src
    let x := w.toNat
    let o := u.wellOn x
    let record := fun (reason : Nat) => [(F.PMP_DBREC_VALID, 1), (F.PMP_DBREC_SRC, match src with | .host => 0 | .core _ .L => 1 | .core _ .P => 2),
      (F.PMP_DBREC_REASON, reason), (F.PMP_DBREC_WELL, x)]
    let more := fun (f : Fld) => (f, min (2 ^ 32 - 1) (u.get f + 1))
    let drops := fun (reason : Nat) => [more F.PMP_DBDROP_COUNT, (evtBit 10 1, 1)] ++ record reason
    let refuses := fun (reason : Nat) => [more F.PMP_DBBAD_COUNT, (evtBit 10 2, 1)] ++ record reason
    let q := v.toNat % 65536
    let d := (q + 65536 - c.ci) % 65536
    let on := u.flag F.PMP_WTCTL_ON = true
    let closed := on ∧ (u.ctx x).hall = .L ∧ ofHallL src = false
    let h := s.linkActive
    let n := if len = 0 then 1024 else len.toNat
    let reads := fun (i : Nat) =>
      let k := (4 * dw.toNat + 4 * i) / 8
      let p := h.wellOn k
      if (4 * dw.toNat + 4 * i) % 8 ≠ 0 ∨ h.flag F.PMP_WTCTL_ON = false ∨ Variant.wells h.variant ≤ k then 0
      else (h.ctx k).ci + (if p.enable then 2 ^ 16 else 0) + (if p.enable && h.pausedCtx (h.ctx k) then 2 ^ 17 else 0) + (if p.draining then 2 ^ 18 else 0)
    (s.rings src = true →
      (∀ f, (f = .long v ∨ (v.toNat < 65536 ∧ f = .quad (v.setWidth 64))) →
        let rung := exec (.doorbell src w f) s
        (Variant.wells u.variant ≤ x → Does u rung [] (drops 0) fun _ => True)
        ∧ (x < Variant.wells u.variant → closed → Does u rung [] (drops 2) fun _ => True)
        ∧ (x < Variant.wells u.variant → ¬ closed → (¬ on ∨ o.enable = false) → Does u rung [] (drops 1) fun _ => True)
        ∧ (x < Variant.wells u.variant → ¬ closed → on → o.enable = true → u.pump.cache.find? (·.1 == x) = some (x, c) →
          (c.posted ≤ d → d ≤ c.entries - 1 → Does u rung [.pump] [] fun t => t.pumpIs { u.pump with
            cache := u.cacheWith x ((c.put 4 15 0 q).put 8 31 0 (c.f 8 31 0 + 1)), wells := insertKey u.pump.wells x { o with stopped := false } })
          ∧ (¬ (c.posted ≤ d ∧ d ≤ c.entries - 1) → Does u rung [.pump] (refuses 3) fun t => t.pumpIs { u.pump with cache := u.cacheWith x c })))
      ∧ Does u (exec (.doorbell src w .other) s) [] (refuses 4) (fun _ => True)
      ∧ (bitsOf y.toNat 47 17 ≠ 0 → Does u (exec (.doorbell src w (.quad y)) s) [] (refuses 4) fun _ => True))
    ∧ (s.hostUsable = true → s.fenced 10 = false → s.fenced 5 = false →
      Does h (exec (.hostBar2Read dw len) s) [.reply] [] fun t => t.resp = ⟨0, (List.range n).map reads⟩)
    ∧ (s.hostUsable = true → (s.fenced 10 = true ∨ s.fenced 5 = true) → Does h (exec (.hostBar2Read dw len) s) [.link, .reply] [] fun t =>
      t.resp = ⟨1, []⟩ ∧ t.link = { h.link with aer := setBit h.link.aer 0, msixWait := t.link.msixWait, msiPend := t.link.msiPend })
    ∧ (s.hostUsable = false → Does s (exec (.hostBar2Read dw len) s) [.reply] [] fun t => t.resp = ⟨2, []⟩)

/-- R583, R586, R592 to R594: a kick of a Gen 3 well moves PI over the entries that carry their expected phase; a dropped kick is only counted. A poll scan kicks a hot
well whose entry at PI carries it; a well that cools leaves its place to the longest-waiting cold one. -/
def Claims.KicksFollowThePhases : Prop :=
  ∀ (s : State) (src : Src) (w : BitVec 14) (c : WellCtx) (n : Nat), s.wired = true →
    let x := w.toNat
    let u := s.reached src
    let carries := fun (s : State) (i : Nat) =>
      let y := (c.pi + i) % 65536
      (if (ofLe (s.bytes (c.base + 64 * (y % c.entries)) 4)).testBit 8 then 1 else 0) = c.phaseAt y
    let room := c.entries - 1 - c.posted
    let ends := fun (s : State) => n ≤ room ∧ (∀ i, i < n → carries s i) ∧ (n = room ∨ ¬ carries s n)
    let open' := fun (s : State) => s.flag F.PMP_WTCTL_ON = true ∧ x < Variant.wells s.variant ∧ (s.wellOn x).enable = true ∧ c.gen = 3
      ∧ s.pump.cache.find? (·.1 == x) = some (x, c) ∧ s.plainFor c.base (64 * c.entries) = true
    let kicked := fun (s t : State) => t.pumpIs { s.pump with cache := s.cacheWith x (c.put 4 15 0 ((c.pi + n) % 65536)),
                                                              wells := insertKey s.pump.wells x { s.wellOn x with stopped := false } }
    let cooled : Pump := if s.pump.hot.contains x then match s.pump.coldWait with
        | y :: l => { s.pump with hot := s.pump.hot.filter (· != x) ++ [y], coldWait := l }
        | [] => { s.pump with hot := s.pump.hot.filter (· != x) }
      else { s.pump with coldWait := s.pump.coldWait.filter (· != x) }
    (s.rings src = true →
      (open' u → (c.hall = .P ∨ ofHallL src = true) → ends u → Does u (exec (.doorbellKick src w) s) [.pump] [] (kicked u))
      ∧ ((Variant.wells u.variant ≤ x ∨ u.flag F.PMP_WTCTL_ON = false ∨ (u.wellOn x).enable = false) →
        Does u (exec (.doorbellKick src w) s) [] [(F.PMP_DBDROP_COUNT, min (2 ^ 32 - 1) (u.get F.PMP_DBDROP_COUNT + 1))] fun _ => True))
    ∧ (s.pumpActs = true → s.pump.hot = [x] → open' s → s.pausedCtx c = false → 0 < room → ends s →
      (n = 0 → Does s (exec .pollScan s) [] [] fun _ => True)
      ∧ (n ≠ 0 → Does s (exec .pollScan s) [.pump] [] (kicked s)))
    ∧ (s.pumpActs = true → (∀ y ∈ cooled.hot, (s.wellOn y).enable = true ∧ s.pausedCtx (s.ctx y) = false) →
      Does s (exec (.pollCool w) s) [.pump] [] fun t => t.pump = cooled)

/-! ### Scheduling and completions -/

/-- R603 to R608, R612, R613: a decision that arrives at a cistern adds its weight to its deficit and dispatches the next job of its next well, when the deficit
covers it; the deficit is charged, and cleared when the cistern has no eligible well left. A job whose check failed goes to the Pump, a core job into a slot with
a new tag and its copy in memory. With nothing eligible nothing happens. -/
def Claims.SchedulerDispatchesByDeficit : Prop :=
  ∀ (s : State) (lvl cis w : Nat) (c : WellCtx) (j : Job), s.wired = true → s.pumpActs = true →
    let id := 2 * cis + 1
    let q := s.pump
    let have' := s.get (F.PMP_CIS_DEF.ix cis) + s.get (F.PMP_CIS_WEIGHT.ix cis)
    let decides := exec .schedulingDecision s
    (s.activeLevel = none → Does s decides [] [] fun _ => True)
    ∧ (s.activeLevel = some lvl → q.arrived.getD lvl false = false → cis < 64 → s.nextCis lvl (q.levelAt.getD lvl 0) = some id → s.nextWell id = some w →
        s.mayPin w = true → q.cache.find? (·.1 == w) = some (w, c) → s.waitingJob w = some j → have' < 128 → j.ndesc ≤ have' →
      let flies := fun (areas : List Area) (l : Loc) (d : Option Done) (issue : List Nat) (bytes : State → Prop) =>
        ∃ v, Does s decides areas [(F.PMP_CIS_DEF.ix cis, v)] fun t => bytes t
          ∧ (t.eligibleIn id ≠ [] → v = have' - j.ndesc ∧ t.pump.levelAt = q.levelAt.set lvl id ∧ t.pump.arrived = q.arrived.set lvl true)
          ∧ (t.eligibleIn id = [] → v = 0 ∧ t.pump.levelAt = q.levelAt.set lvl ((id + 1) % 128) ∧ t.pump.arrived = q.arrived.set lvl false)
          ∧ t.pumpIs { q with
              cache := s.cacheWith w c, requeued := if q.requeued.contains j then q.requeued.erase j else q.requeued,
              fetched := if q.requeued.contains j then q.fetched else q.fetched.erase j, flight := q.flight ++ [⟨j, l, d⟩], issue := issue,
              lastWell := insertKey q.lastWell id w, levelAt := t.pump.levelAt, arrived := t.pump.arrived }
      let goes := fun (l : Loc) (d : Option Done) => flies [.pump] l d q.issue fun _ => True
      (∀ st, j.status = some st → goes .pump (some ⟨st, 0, 7⟩))
      ∧ (j.status = none → j.ckind = 2 → goes .journal none)
      ∧ (∀ i, j.status = none → j.ckind = 3 → s.freeLane = some i → goes (.copy i) none)
      ∧ (j.status = none → j.ckind = 4 → goes (.latch j.lch) none)
      ∧ (∀ k slot, j.status = none → j.ckind = 1 → s.pickCore j.coreset j.hall = some k → s.freeSlot k j.hall = some slot →
          let a := s.copyAddr k j.hall slot
          let i := slotIndex k j.hall slot
          let tag := (q.issue.getD i 0 + 1) % 256
          a + j.copy.length ≤ 0x0200000000 →
        flies [.pump, .memory] (.core k j.hall slot tag false false) none (q.issue.set i tag) fun t => t.dramGen = s.dramGen ∧ t.flashGen = s.flashGen
          ∧ ∀ b, t.byte b = if a ≤ b ∧ b < a + j.copy.length then j.copy.getD (b - a) 0 else s.byte b))

/-- R575, R618 to R624: the completion of a finished job is written to its ring at PI, with PHASE, and the job leaves; PI and UNN go on, PHASE inverts at the
wrap, and at MCOUNT, or after MTIME, the ring notifies. A Gen 2 job with CPLMODE 0 completes in its descriptor. -/
def Claims.CompletionsAreWritten : Prop :=
  ∀ (s : State) (k i : Nat) (f : Flight) (d : Done) (m : Fin 2048), s.wired = true → s.pumpActs = true →
    let j := f.job
    let n := j.cq
    let o := s.wellOn j.well
    let drained : WellOn := { o with draining := false }
    let gone : Pump := { s.pump with
      flight := s.pump.flight.eraseIdx i,
      wells := if o.draining = true ∧ s.infl j.well = 1 then if drained = WellOn.none then eraseKey s.pump.wells j.well
        else insertKey s.pump.wells j.well drained else s.pump.wells }
    let pi := s.get (F.CQ_IDX_PI.ix n)
    let size := 2 ^ s.get (F.CQ_BASELO_SIZE.ix n)
    let e := if s.flag (F.CQ_CTL_ESIZE.ix n) then 32 else 16
    let a := s.get (F.CQ_BASEHI_BASE.ix n) * 2 ^ 32 + s.get (F.CQ_BASELO_BASE.ix n) * 64 + e * (pi % size)
    let phase := s.get (F.CQ_ST_PHASE.ix n)
    let entry := leBytes 4 j.tag ++ leBytes 4 d.result ++ leBytes 4 (j.idx + j.well * 2 ^ 16)
      ++ leBytes 4 (d.status + j.gen * 2 ^ 8 + d.src * 2 ^ 10 + (j.ndesc - 1) * 2 ^ 16 + phase * 2 ^ 31)
      ++ if e = 16 then [] else if j.gen = 1 then List.replicate 16 0
        else leBytes 6 j.ltag ++ [0, 0] ++ leBytes 4 (s.tb.toNat % 2 ^ 32) ++ leBytes 4 0
    let unn := min 255 (s.get (F.CQ_ST_UNN.ix n) + 1)
    let ws := [(F.CQ_IDX_PI.ix n, (pi + 1) % 65536)] ++ (if (pi + 1) % 65536 % size = 0 then [(F.CQ_ST_PHASE.ix n, 1 - phase)] else [])
      ++ [(F.CQ_ST_UNN.ix n, if s.get (F.CQ_MOD_MCOUNT.ix n) ≤ unn then 0 else unn)]
    let c := s.ctx j.well
    let slot := c.slotAddr j.idx
    let h := putBits (clrBit (longAt j.bytes 0) 8) 23 16 d.status
    let kept := fun (t : State) => t.dramGen = s.dramGen ∧ t.flashGen = s.flashGen
    (s.writable[k]? = some (i, f) → f.done = some d →
      (j.inPlace = false → s.flag (F.CQ_CTL_ENABLE.ix n) = true → s.flag (F.CQ_CTL_ERR.ix n) = false → s.plainFor a e = true → s.get (F.CQ_CTL_NKIND.ix n) = 0 →
        Does s (exec (.completionWrite k) s) [.pump, .memory] ws fun t => t.pumpIs gone ∧ kept t
          ∧ ∀ b, t.byte b = if a ≤ b ∧ b < a + e then entry.getD (b - a) 0 else s.byte b)
      ∧ (j.inPlace = true → j.ndesc = 1 → s.pausedCtx c = false → s.plainFor slot 64 = true →
        Does s (exec (.completionWrite k) s) [.pump, .memory] [] fun t => t.pumpIs gone ∧ kept t
          ∧ ∀ b, t.byte b = if slot ≤ b ∧ b < slot + 4 then (leBytes 4 h).getD (b - slot) 0
            else if slot + 0x18 ≤ b ∧ b < slot + 0x1C then (leBytes 4 d.result).getD (b - slot - 0x18) 0 else s.byte b))
    ∧ (s.get (F.CQ_CTL_NKIND.ix m) = 0 → s.get (F.CQ_MOD_MTIME.ix m) ≠ 0 → s.get (F.CQ_ST_UNN.ix m) ≠ 0 →
      Does s (exec (.moderationTimeout m) s) [] [(F.CQ_ST_UNN.ix m, 0)] fun _ => True)

/-- R610, R616, R617, R619: ENABLE = 1 of a ring clears CI, PI and ERR; ENABLE = 0 is applied when nothing needs the ring, or in error; CI goes forward only
up to PI, else CQ_EVT.BADCI is set. An inlet area is on only inside installed DRAM. -/
def Claims.CompletionRingsAreManaged : Prop :=
  ∀ (s : State) (src : Src) (n : Fin 2048) (ci : Half) (h : Hall), s.wired = true →
    let u := s.reached src
    let f := fun (f : Fld) => f.ix n.val
    let own := n.val < Variant.rings u.variant ∧ (ofHallL src = true ∨ u.flag (f F.CQ_CTL_HALL) = true)
    let pi := u.get (f F.CQ_IDX_PI)
    let fits := (pi + 65536 - ci.toNat) % 65536 ≤ (pi + 65536 - u.get (f F.CQ_IDX_CI)) % 65536
    let on := match h with
      | .L => F.PMP_INLBASEL_ON
      | .P => F.PMP_INLBASEP_ON
    let base := match h with
      | .L => F.PMP_INLBASEL_BASE
      | .P => F.PMP_INLBASEP_BASE
    (own → s.reachesField src (f F.CQ_CTL_ENABLE) 1 = true → u.flag (f F.CQ_CTL_ENABLE) = false → u.get (f F.CQ_CTL_NKIND) ≤ 2 →
      Does u (exec (.cqEnable src n) s) [] [(f F.CQ_CTL_ENABLE, 1), (f F.CQ_IDX_CI, 0), (f F.CQ_IDX_PI, 0), (f F.CQ_CTL_ERR, 0), (f F.CQ_ST_PHASE, 1)] fun _ => True)
    ∧ (own → s.reachesField src (f F.CQ_CTL_ENABLE) 0 = true → u.flag (f F.CQ_CTL_ENABLE) = true → u.get (f F.CQ_CTL_NKIND) ≤ 2 →
        (u.flag (f F.CQ_CTL_ERR) = true ∨ (u.cqRsv n = 0 ∧ ∀ e ∈ u.pump.wells, e.2.enable = true → (u.ctx e.1).cq ≠ n)) →
      Does u (exec (.cqDisable src n) s) [] [(f F.CQ_CTL_ENABLE, 0)] fun _ => True)
    ∧ (own → s.reachesField src (f F.CQ_IDX_CI) ci.toNat = true →
      (fits → Does u (exec (.cqIndexWrite src n ci) s) [] [(f F.CQ_IDX_CI, ci.toNat)] fun _ => True)
      ∧ (¬ fits → Does u (exec (.cqIndexWrite src n ci) s) []
        [(evtBit 11 0, 1), (F.CQ_EVTREC_VALID, 1), (F.CQ_EVTREC_EVENT, 0), (F.CQ_EVTREC_RING, n.val)] fun _ => True))
    ∧ (s.reachesField src on 1 = true → u.get base % 4 = 0 →
      (u.get base * 4096 + 0x4000 ≤ u.installed → Does u (exec (.inletAreaOn src h) s) [] [(on, 1)] fun _ => True)
      ∧ (u.installed < u.get base * 4096 + 0x4000 → Does u (exec (.inletAreaOn src h) s) [] [(on, 0), (evtBit 10 10, 1)] fun _ => True))

/-! ### Leases and epochs -/

/-- R628 to R630: an expiry marks the lease of the job in a slot and writes PMP_LEASEREC; a revocation of an expired lease requeues the job, with a REQUEUED
completion, while its well allows it, and else abandons it; one of a live lease answers NOTEXPIRED, one of no live token NOJOB. -/
def Claims.LeasesExpireAndAreRevoked : Prop :=
  ∀ (s : State) (src : Src) (k : CoreId) (h : Hall) (slot : Fin 8) (tag : Byte) (f : Flight) (taken : Bool), s.wired = true →
    let u := s.reached src
    let revokes := exec (.leaseRevoke src k h slot tag) s
    let ws := fun (r : Nat) => [(F.PMP_REVOKE_HALL, if h = .P then 1 else 0), (F.PMP_REVOKE_CORE, k.val), (F.PMP_REVOKE_TAG, tag.toNat),
      (F.PMP_REVOKE_SLOT, slot.val), (F.PMP_REVOKE_RES, r)]
    let may := (u.wellOn f.job.well).enable = true ∧ (u.ctx f.job.well).requeue = true
    let limit := u.get F.PMP_LEASECFG_REQMAX
    let ended := fun (st : Nat) => u.pump.flight.erase f ++ [{ f with done := some ⟨st, 0, 7⟩ }]
    let a := u.copyAddr k h slot
    let again : Job := { f.job with requeues := f.job.requeues + 1, copy := u.bytes a f.job.bytes.length }
    (s.pumpActs = true → (∀ g, s.pump.flight.find? (·.inSlot k h slot) = some g → ∃ t b, g.loc = .core k h slot t b true) →
      Does s (exec (.leaseExpiry k h slot) s) [] [] fun _ => True)
    ∧ (s.pumpActs = true → s.pump.flight.find? (·.inSlot k h slot) = some f → f.loc = .core k h slot tag.toNat taken false →
      Does s (exec (.leaseExpiry k h slot) s) [.pump] [(F.PMP_LEASEREC_VALID, 1), (F.PMP_LEASEREC_WELL, f.job.well), (F.PMP_LEASEREC_TAG, tag.toNat),
        (F.PMP_LEASEREC_HALL, if h = .P then 1 else 0), (F.PMP_LEASEREC_CORE, k.val), (F.PMP_LEASEREC_SLOT, slot.val), (evtBit 10 7, 1)] fun t =>
        t.pumpIs { s.pump with flight := s.pump.flight.map fun g => if g = f then { f with loc := .core k h slot tag.toNat taken true } else g })
    ∧ (s.reaches src F.PMP_REVOKE_GO.off (2 ^ 31 + (if h = .P then 2 ^ 18 else 0) + k.val * 2 ^ 16 + tag.toNat * 2 ^ 8 + slot.val) = true →
      (u.pump.flight.find? (·.isToken k h slot tag.toNat) = none → Does u revokes [] (ws 3) fun _ => True)
      ∧ (u.pump.flight.find? (·.isToken k h slot tag.toNat) = some f → f.loc = .core k h slot tag.toNat taken false → Does u revokes [] (ws 2) fun _ => True)
      ∧ (u.pump.flight.find? (·.isToken k h slot tag.toNat) = some f → u.pump.flight.find? (·.inSlot k h slot) = some f →
          f.loc = .core k h slot tag.toNat taken true →
        (may → f.job.requeues < limit → a + f.job.bytes.length ≤ 0x0200000000 → Does u revokes [.pump] (ws 1) fun t =>
          t.pumpIs { u.pump with flight := ended 0x21, requeued := u.pump.requeued ++ [again] })
        ∧ (¬ may → Does u revokes [.pump] (ws 0) fun t => t.pumpIs { u.pump with flight := ended 0x20 })
        ∧ (may → limit ≤ f.job.requeues → Does u revokes [.pump] ([(evtBit 10 8, 1)] ++ ws 0) fun t => t.pumpIs { u.pump with flight := ended 0x20 })))

/-- R98 to R108, R631: GO publishes the list: a single legal entry that names a well affects that well, and leaves BUSY at 1. An affected well with no
job in flight adopts its new settings when the walk reaches it; the last one ends the epoch. -/
def Claims.EpochsArePublishedAndCrossed : Prop :=
  ∀ (s : State) (src : Src) (w : BitVec 14) (c : WellCtx), s.wired = true →
    let u := s.reached src
    let a := u.get F.PMP_EPLBASE_BASE * 4096
    let l := ofLe (u.bytes a 8)
    let x := bitsOf l 63 48
    let kind := bitsOf l 47 44
    let v := bitsOf l 31 0
    let cur := (u.get F.PMP_EPOCH_CUR + 1) % 256
    let ended := fun (cur : Nat) => [(F.PMP_EPOCH_DONE, cur), (F.PMP_EPOCH_BUSY, 0), (evtBit 10 0, 1)]
    let q := s.pump
    let y := w.toNat
    let left := q.epPend.filter (· != y)
    let next := [(0, 1, 5, 0), (1, 1, 31, 16), (2, 0, 19, 16), (3, 6, 31, 0)].foldl (fun (c : WellCtx) e => match s.epValue y e.1 with
      | some v => c.put e.2.1 e.2.2.1 e.2.2.2 v
      | none => c) c
    (s.reachesField src F.PMP_EPOCH_GO 1 = true → u.flag F.PMP_EPOCH_BUSY = false →
      u.get F.PMP_EPLCNT_COUNT = 1 → u.plainFor a 8 = true → x < Variant.wells u.variant →
          ((kind = 0 ∧ v ≤ 63) ∨ (kind = 1 ∧ (v < Variant.rings u.variant ∨ v = 0xFFFF))
            ∨ (kind = 2 ∧ v ≠ 0 ∧ andNot v (2 ^ Variant.cores u.variant - 1) = 0) ∨ (kind = 3 ∧ 100 ≤ v ∧ v ≤ 10000000)) →
        Does u (exec (.epochGo src) s) [.pump] [(F.PMP_EPOCH_LISTERR, 0), (F.PMP_EPOCH_CUR, cur), (F.PMP_EPPEND_PENDING, 1), (F.PMP_EPOCH_BUSY, 1)] fun t =>
          t.pumpIs { u.pump with epPend := [x], epList := [(x, kind, v)] })
    ∧ (s.pwr.fabricUp = true → y ∈ q.epPend → s.infl y = 0 → q.cache.find? (·.1 == y) = some (y, c) →
      Does s (exec (.wellCross w) s) [.pump] ([(F.PMP_EPPEND_PENDING, left.length)] ++ if left = [] then ended (s.get F.PMP_EPOCH_CUR) else []) fun t =>
        t.pumpIs { q with cache := s.cacheWith y next, epPend := left, oldCis := q.oldCis.filter fun o => left.any fun x => (s.ctx x).cistern == o.cis })

/-! ### The journal and copy engines -/

/-- R636 to R648, R656, R657: an APPEND that fails a check ends with its status; else its record, chained by PREV and HASH and with a MAC when asked, is staged after
a pad marker at the ring's end, the head takes its SEQ and HASH, and it ends with the SEQ, or waits for its flush in DURABLE. A FLUSH ends at once when nothing is
staged. SEED sets the head while none is valid. -/
def Claims.JournalAppendsRecords : Prop :=
  ∀ (s : State) (src : Src) (f : Flight) (payload : List Byte), s.wired = true → s.pwr.fabricUp = true → Variant.hasJnl s.variant = true → s.fenced 6 = false →
    let j := f.job
    let p := s.pump
    let ends := fun (st r : Nat) (t : State) => t.pumpIs { p with flight := p.flight.erase f ++ [{ f with done := some ⟨st, r, 4⟩ }] }
    let waits := fun (l : Loc) (t : State) => t.pumpIs { p with flight := p.flight.map fun g => if g.done.isNone && g.loc == .journal then { g with loc := l } else g }
    let mac := j.param.testBit 16 = true ∨ s.get F.JNL_CFG_MACALL = 1
    let valid := s.get F.JNL_HEADCTL_VALID = 1
    let seqNow := s.get F.JNL_HEADSEQH_SEQ * 2 ^ 32 + s.get F.JNL_HEADSEQL_SEQ
    let status := if 2 ^ 17 ≤ j.param then some 0x15 else if 1 < j.ndesc then some 0x11 else if (if mac then 3968 else 4000) < j.len then some 0x11
      else if j.hall = .P then some 0x43 else if ¬ valid then some 0x40 else if mac ∧ s.get F.JNL_MACCTL_LOADED = 0 then some 0x41 else none
    let inline := (j.gen = 2 ∧ j.addr = 0 ∧ j.len ≤ 32) ∨ j.imm = true
    let seq := (seqNow + 1) % 2 ^ 48
    let padded := (payload.length + 7) / 8 * 8
    let len := (if mac then 128 else 96) + padded
    let eight := fun (g : Fld) => (List.range 8).flatMap fun k => leBytes 4 (s.get (g.ix k))
    let body := leBytes 2 0xCE4A ++ leBytes 2 len ++ [1] ++ leBytes 1 (if mac then 1 else 0) ++ leBytes 2 (j.param % 65536) ++ leBytes 6 seq
      ++ leBytes 2 payload.length ++ leBytes 8 s.tb.toNat ++ leBytes 6 j.ltag ++ [0, 0] ++ eight F.JNL_HEADHASH_HASH ++ payload
      ++ List.replicate (padded - payload.length) 0
    let hash := sha256 body
    let record := body ++ hash ++ if mac then hmac256 (eight F.JNL_MACKEY_KEY) hash else []
    let wr := s.get F.JNL_STWR_OFFSET
    let pad := if 0x8000 - wr < record.length then 0x8000 - wr else 0
    let at' := if 0x8000 - wr < record.length then 0 else wr
    let marker := leBytes 2 0xCE50 ++ leBytes 2 pad ++ leBytes 4 0
    let head := fun (l h : Nat) (hash : Nat → Nat) => [(F.JNL_HEADSEQL_SEQ, l), (F.JNL_HEADSEQH_SEQ, h)]
      ++ (List.range 8).map (fun k => (F.JNL_HEADHASH_HASH.ix k, hash k)) ++ [(F.JNL_HEADCTL_VALID, 1)]
    let durable := s.get F.JNL_CFG_MODE = 1 ∨ (s.get F.JNL_CFG_MODE = 2 ∧ s.chg.present = false)
    let flushed := (if valid then seqNow else 0)
    let u := s.reached src
    (p.flight.find? (fun g => g.done.isNone && g.loc == .journal) = some f →
      (j.op ≠ 1 → j.op ≠ 2 → Does s (exec .append s) [.pump] [] (ends 0x10 0))
      ∧ (∀ st, j.op = 1 → status = some st → Does s (exec .append s) [.pump] (if st = 0x40 then [(evtBit 12 4, 1)] else []) (ends st 0))
      ∧ (j.op = 1 → status = none → s.fenced 12 = false → ((inline ∧ payload = ((j.bytes.drop 0x20).take 32).take j.len)
            ∨ (¬ inline ∧ j.sgl = false ∧ 0 < j.len ∧ s.plainFor j.addr j.len = true ∧ payload = s.bytes j.addr j.len)) →
        Does s (exec .append s) [.pump, .memory]
          ((F.JNL_STWR_OFFSET, (at' + record.length) % 0x8000) :: head (seq % 2 ^ 32) (seq / 2 ^ 32) fun k => longAt hash (4 * k)) fun t =>
          (durable → waits (.durable seq) t) ∧ (¬ durable → ends 0 (seq % 2 ^ 32) t) ∧ t.dramGen = s.dramGen ∧ t.flashGen = s.flashGen
          ∧ ∀ a, t.byte a = if bsramBase + at' ≤ a ∧ a < bsramBase + at' + record.length then record.getD (a - bsramBase - at') 0
            else if pad ≠ 0 ∧ bsramBase + wr ≤ a ∧ a < bsramBase + wr + 8 then marker.getD (a - bsramBase - wr) 0 else s.byte a)
      ∧ (j.op = 2 → j.param ≠ 0 → Does s (exec .flush s) [.pump] [] (ends 0x15 0))
      ∧ (j.op = 2 → j.param = 0 → (j.len ≠ 0 ∨ 1 < j.ndesc) → Does s (exec .flush s) [.pump] [] (ends 0x11 0))
      ∧ (j.op = 2 → j.param = 0 → j.len = 0 → j.ndesc ≤ 1 →
        (s.get F.JNL_STFL_OFFSET = wr → Does s (exec .flush s) [.pump] [] (ends 0 (flushed % 2 ^ 32)))
        ∧ (s.get F.JNL_STFL_OFFSET ≠ wr → Does s (exec .flush s) [.pump] [] (waits (.flush flushed)))))
    ∧ (s.reachesField src F.JNL_HEADCTL_SEED 1 = true → u.boundAway src 2 0 = false → u.get F.JNL_HEADCTL_VALID = 0 → u.atLoc Loc.atJournal = false →
      Does u (exec (.journalSeed src) s) [] (head (u.get F.JNL_SEEDSEQL_SEQ) (u.get F.JNL_SEEDSEQH_SEQ) fun k => u.get (F.JNL_SEEDHASH_HASH.ix k)) fun _ => True)

/-- R647, R649 to R652, R665: a batch takes what is staged when it starts and copies it to the destination: to FLASH by programming, to HOST into its ring; a record
that does not fit sets DESTFULL; a program that fails ends the batch. Its end advances JNL_STFL and completes a job that waits for it. The MAC key is loaded
by its last register and cleared by CLEAR. -/
def Claims.JournalFlushesBatches : Prop :=
  ∀ (s : State) (src : Src) (b : Batch) (f : Flight) (v : Long), s.wired = true → s.pwr.fabricUp = true → Variant.hasJnl s.variant = true → s.fenced 6 = false →
    let dest := s.get F.JNL_CFG_DEST
    let base := s.get F.JNL_DBASEHI_BASE * 2 ^ 32 + s.get F.JNL_DBASELO_BASE * 4096
    let size := 2 ^ s.get F.JNL_DBASEHI_SIZE
    let wr := s.get F.JNL_DWR_OFFSET
    let e := s.eng
    let n := ofLe (s.bytes (bsramBase + b.pos + 2) 2)
    let record := s.bytes (bsramBase + b.pos) n
    let room := size - 16
    let used := (wr + room - s.get F.JNL_DRD_OFFSET) % room
    let moved := some { b with pos := b.stEnd }
    let seqOf := fun (l : Loc) => match l with
      | .durable q => some q
      | .flush q => some q
      | _ => none
    let upTo := fun (g : Flight) => g.done.isNone && (seqOf g.loc).any fun q => decide (q ≤ b.lastSeq)
    let ends := fun (st q : Nat) (t : State) => t.pumpIs { s.pump with flight := s.pump.flight.erase f ++ [{ f with done := some ⟨st, q % 2 ^ 32, 4⟩ }] }
    let u := s.reached src
    (∀ ok, e.batch = none → dest = 1 → s.get F.JNL_STFL_OFFSET ≠ s.get F.JNL_STWR_OFFSET → s.linkSends base = false →
      Does s (exec (.flushBatch ok) s) [.engines] [] fun t =>
        t.eng = { e with batch := some ⟨s.get F.JNL_STWR_OFFSET, s.get F.JNL_HEADSEQH_SEQ * 2 ^ 32 + s.get F.JNL_HEADSEQL_SEQ, s.get F.JNL_STFL_OFFSET⟩ })
    ∧ (e.batch = some b → b.pos ≠ b.stEnd → ofLe (s.bytes (bsramBase + b.pos) 2) = 0xCE4A → 0 < n → (b.pos + n) % 0x8000 = b.stEnd →
      (∀ ok, dest = 1 → s.linkSends base = true → regionOf (base + wr) = .link → n ≤ room - wr →
        (used + n < room → Does s (exec (.flushBatch ok) s) [.engines] [(F.JNL_DWR_OFFSET, (wr + n) % room)] fun t => t.eng = { e with batch := moved, destFull := false })
        ∧ (room ≤ used + n → Does s (exec (.flushBatch ok) s) [.engines] [(evtBit 12 3, 1)] fun t => t.eng = { e with destFull := true }))
      ∧ (dest = 2 → base + size ≤ 2 ^ s.get F.FSP_CFG_SIZE →
        (wr + n ≤ size → Does s (exec (.flushBatch true) s) [.engines, .flash, .memory] [(F.JNL_DWR_OFFSET, wr + n)] fun t =>
          t.eng = { e with batch := moved, destFull := false } ∧ t.flashBusy = true ∧ t.flashCmd = s.flashCmd ∧ t.dramGen = s.dramGen ∧ t.flashGen = s.flashGen
          ∧ ∀ a, t.byte a = if flashBase + base + wr ≤ a ∧ a < flashBase + base + wr + n
            then s.byte a &&& record.getD (a - flashBase - base - wr) 0 else s.byte a)
        ∧ Does s (exec (.flushBatch false) s) [.engines, .flash, .memory] [(evtBit 12 2, 1)] fun t =>
          t.eng = { e with batch := none } ∧ t.flashBusy = false ∧ t.flashCmd = s.flashCmd ∧ t.dramGen = s.dramGen ∧ t.flashGen = s.flashGen + 1
          ∧ ∀ a, regionOf a ≠ .flash → t.byte a = s.byte a))
    ∧ (e.batch = some b → b.pos = b.stEnd → (dest = 2 ∨ (dest = 1 ∧ s.linkSends base = true ∧ regionOf (base + (size - 16)) = .link)) →
      let done := fun (areas : List Area) (P : State → Prop) => Does s (exec .flushed s) areas [(F.JNL_STFL_OFFSET, b.stEnd), (evtBit 12 0, 1)] fun t =>
        t.eng = { e with batch := none } ∧ t.flashBusy = false ∧ t.flashCmd = s.flashCmd ∧ P t
      (s.pump.flight.filter upTo = [] → done [.engines, .flash] fun _ => True)
      ∧ (∀ q, s.pump.flight.filter upTo = [f] → seqOf f.loc = some q → done [.engines, .flash, .pump] (ends 0 q)))
    ∧ (∀ q, s.pump.flight.find? (fun g => g.done.isNone && (seqOf g.loc).isSome) = some f → seqOf f.loc = some q →
      Does s (exec .journalFlushTimeout s) [.pump] [(evtBit 12 2, 1)] (ends 0x42 q))
    ∧ (u.boundAway src 2 0 = false →
      (s.reaches src F.JNL_DRD_OFFSET.off v.toNat = true → v.toNat % 8 = 0 →
        Does u (exec (.journalDrdWrite src v) s) [] [(F.JNL_DRD_OFFSET, v.toNat)] fun _ => True)
      ∧ (s.reaches src (F.JNL_MACKEY_KEY.ix 7).off v.toNat = true →
        Does u (exec (.macKeyLoad src v) s) [] [(F.JNL_MACKEY_KEY.ix 7, v.toNat), (F.JNL_MACCTL_LOADED, 1)] fun _ => True)
      ∧ (s.reachesField src F.JNL_MACCTL_CLEAR 1 = true →
        Does u (exec (.macKeyClear src) s) [] ((List.range 8).map (fun k => (F.JNL_MACKEY_KEY.ix k, 0)) ++ [(F.JNL_MACCTL_LOADED, 0)]) fun _ => True))

/-- R659 to R664: the job of a lane ends with the status of its first failed check; a COPY of one range, or a FILL, between disjoint ranges of DRAM writes exactly LEN bytes at its
destination and ends with LEN; one stopped by CPY_CFG.TO after k bursts has written their bytes and ends with CPY_TIMEOUT. -/
def Claims.CopyJobsMoveBytes : Prop :=
  ∀ (s : State) (i : Fin 4) (f : Flight) (k : Nat), s.wired = true → s.pwr.fabricUp = true → s.fenced 7 = false →
    s.pump.flight.find? (fun g => g.done.isNone && g.loc == .copy i.val) = some f →
    let j := f.job
    let runs := if j.op = 2 then exec (.fill i) s else exec (.copy i) s
    let dst := if j.gen = 1 then quadAt j.bytes 0x10 else quadAt j.bytes 0x20
    let ends := fun (st r : Nat) (t : State) => t.pumpIs { s.pump with flight := s.pump.flight.erase f ++ [{ f with done := some ⟨st, r, 5⟩ }] }
    let byte := fun (x : Nat) => if j.op = 2 then BitVec.ofNat 8 j.param else s.byte (j.addr + x)
    let shape := (j.op = 1 ∧ j.param = 0 ∨ j.op = 2 ∧ j.param < 256) ∧ j.imm = false ∧ (j.sgl = true → 2 < j.nseg)
    let sized := 0 < j.len ∧ j.len < 2 ^ 24 ∧ j.ndesc ≤ 1
    let source := j.op = 2 ∨ (j.sgl = false ∧ s.plainFor j.addr j.len = true ∧ (dst + j.len ≤ j.addr ∨ j.addr + j.len ≤ dst))
    let writes := fun (n : Nat) (t : State) => t.dramGen = s.dramGen ∧ t.flashGen = s.flashGen
      ∧ ∀ a, t.byte a = if dst ≤ a ∧ a < dst + n then byte (a - dst) else s.byte a
    (j.op ≠ 1 → j.op ≠ 2 → Does s runs [.pump] [] (ends 0x10 0))
    ∧ ((j.op = 1 ∨ j.op = 2) → ¬ shape → Does s runs [.pump] [] (ends 0x15 0))
    ∧ (shape → ¬ sized → Does s runs [.pump] [] (ends 0x11 0))
    ∧ (shape → sized → (j.op = 2 ∨ j.sgl = false) → s.installed < dst + j.len → (dst < 0x8000000000 ∨ 0xC000000000 < dst + j.len) →
      Does s runs [.pump] [] (ends 0x12 0))
    ∧ (shape → sized → source → s.plainFor dst j.len = true →
      Does s runs [.pump, .memory] [] (fun t => ends 0 j.len t ∧ writes j.len t)
      ∧ (dst % 64 = 0 → 64 * k < j.len → Does s (exec (.cpyTimeout i k) s) [.pump, .memory] [(evtBit 13 0, 1)] fun t => ends 0x40 (64 * k) t ∧ writes (64 * k) t))

/-! ### Set-up space -/

/-- R73 to R82, R86: a permitted write sets the writable fields of its register and nothing else; an illegal value is clamped, counted and logged; a host write that
is not permitted, or not of one dword, is dropped and recorded. A host read returns the registers and changes nothing, but for the capture of TMB_TBHI. -/
def Claims.SetupSpaceIsWrittenAndRead : Prop :=
  ∀ (s : State) (src : Src) (off : BitVec 22) (v : Long) (d : RegD) (i k : Nat) (dw : BitVec 20) (len : BitVec 10) (l : List Byte), s.wired = true →
    let u := s.reached src
    let o := off.toNat
    let x := v.toNat
    let plain := (0x100000 ≤ o ∧ o < 0x103000) ∨ (0x220000 ≤ o ∧ o < 0x240000) ∨ (0x2B3000 ≤ o ∧ o < 0x2B4000) ∨ (0x340000 ≤ o ∧ o < 0x340124)
    let w := x % 1024
    let near := if w = 0 then 1 else 1000
    let h := s.linkActive
    let n := if len = 0 then 1024 else len.toNat
    let at' := fun (j : Nat) => 4 * dw.toNat + 4 * j
    let open' := s.hostUsable = true ∧ ∀ j, j < n → s.hostFence (at' j) = false
    (∀ c, (c = .registerWrite src off v ∨ (src = .host ∧ c = .hostBar0Write off (leBytes 4 x))) → s.reaches src o x = true →
      (plain → o % 4 = 0 → findReg o = some (d, i, k) → d.pres.holds u.variant i = true →
          (∀ f ∈ d.fields, f.acc ≠ .rws ∧ f.acc ≠ .rwk ∧ f.legal.check u o x (f.hi + 1 - f.lo) (bitsOf x f.hi f.lo) = (bitsOf x f.hi f.lo, none)) →
        Does u (exec c s) [] (d.fields.filterMap fun f => match f.acc with
          | .rw => some (⟨o, f.hi, f.lo, 0, 0⟩, bitsOf x f.hi f.lo)
          | .w1c => some (⟨o, f.hi, f.lo, 0, 0⟩, andNot (bitsOf (u.reg o) f.hi f.lo) (bitsOf x f.hi f.lo))
          | .w1s => some (⟨o, f.hi, f.lo, 0, 0⟩, bitsOf (u.reg o) f.hi f.lo ||| bitsOf x f.hi f.lo)
          | _ => none) fun _ => True)
      ∧ (o = F.CPY_CFG_TO.off → (w = 0 ∨ 1000 < w) →
        Does u (exec c s) [] ([(F.CPY_CFG_TO, near)] ++ u.clampLog 0 13 0 0x100 w near) fun _ => True)
      ∧ (o % 4 = 0 → findReg o = none → ¬ (0x1C1000 ≤ o ∧ o < 0x1D1000) → Does u (exec c s) [] [] fun _ => True))
    ∧ (s.hostUsable = true → o % 4 = 0 → s.hostFence o = false → s.permitted .host o x = false →
      Does h (exec (.registerWrite .host off v) s) [] (denied 0 0 o) fun _ => True)
    ∧ (s.hostUsable = true → ¬ (o % 4 = 0 ∧ l.length = 4) → Does h (exec (.hostBar0Write off l) s) [] (denied 0 1 o) fun _ => True)
    ∧ (open' → (∀ j, j < n → at' j ≠ 0x2A0100) → Does h (exec (.hostBar0Read dw len) s) [.reply] [] fun t =>
      t.resp = ⟨0, (List.range n).map fun j => h.readReg .host (at' j)⟩)
    ∧ (s.hostUsable = true → s.hostFence 0x2A0100 = false → Does h (exec (.hostBar0Read 0xA8040 1) s) [.clock, .reply] [] fun t =>
      t.resp = ⟨0, [s.tb.toNat % 2 ^ 32]⟩ ∧ t.tb = s.tb ∧ t.clk = { s.clk with hostTbHi := BitVec.ofNat 32 (s.tb.toNat / 2 ^ 32) })
    ∧ (s.hostUsable = false → Does s (exec (.hostBar0Read dw len) s) [.reply] [] fun t => t.resp = ⟨2, []⟩)

/-- R79, R87 to R96: a write of an opening member is staged; the closing member of a window's pair commits both, the staged value or the current one with it;
ACCLOCK.LOCK is set and then holds the grants; CLEAR empties the clamp log. -/
def Claims.PairsAndLocksOfSetup : Prop :=
  ∀ (s : State) (src : Src) (off : BitVec 22) (v : Long) (d : RegD) (i k : Nat) (n : Fin 16), s.wired = true →
    let u := s.reached src
    let o := off.toNat
    let x := v.toNat
    let lo := (F.WIN_LO_LO.ix n).off
    let low := match lookupKey u.staged lo with
      | some y => y.toNat % 1024
      | none => u.get (F.WIN_LO_LO.ix n)
    (s.reaches src o x = true → o % 4 = 0 → ¬ (0x1C1000 ≤ o ∧ o < 0x1D1000) → findReg o = some (d, i, k) → d.pres.holds u.variant i = true →
        (∃ f ∈ d.fields, f.acc = .rws) → u.guard src o x = .free →
      Does u (exec (.pairedStage src off v) s) [.staged] [] fun t => t.staged = insertKey u.staged o (BitVec.ofNat 32 (x % 2 ^ 31)))
    ∧ (o = (F.WIN_HI_HI.ix n).off → s.reaches src o x = true → Variant.win u.variant n = true → low ≤ x % 1024 →
      Does u (exec (.pairedCommit src off v) s) [.staged] [(F.WIN_LO_LO.ix n, low), (F.WIN_HI_HI.ix n, x % 1024)] fun t => t.staged = eraseKey u.staged lo)
    ∧ (s.reachesField src F.CFG_ACCLOCK_LOCK 1 = true → Does u (exec (.accessLock src) s) [] [(F.CFG_ACCLOCK_LOCK, 1)] fun _ => True)
    ∧ ((o = F.CFG_HOSTACC_GRANT.off ∨ o = F.CFG_HALLPACC_GRANT.off) → s.reaches src o x = true → u.get F.CFG_ACCLOCK_LOCK = 1 →
      Does u (exec (.registerWrite src off v) s) [] [] fun _ => True)
    ∧ (s.reachesField src F.CFG_CLAMPCTL_CLEAR 1 = true → Does u (exec (.clampLogClear src) s) []
      ((List.range 512).map (fun j => (⟨0x10800 + 4 * j, 31, 0, 0, 0⟩, 0)) ++ [(F.CFG_CLAMPWR_NEXT, 0), (F.CFG_CLAMPTOT_TOTAL, 0)]) fun _ => True)

/-! ### Keys, the DRAM window, the watchdogs of the halls -/

/-- R472, R473, R537, R538, R544, R545, R741, R742: a first WDL expiry makes the event due on the lowest free core and restarts the count; a WDP expiry stops its count
and fires its bell. ENABLE of the frame keys empties every key cache, and needs the store in DRAM; LOCK is set. Through BAR4 the host reads and writes DRAM. -/
def Claims.KeysWindowsAndHallWatchdogs : Prop :=
  ∀ (s : State) (src : Src) (c : CoreId) (on : Bool) (dw : BitVec 22) (len : BitVec 10) (x : BitVec 24) (l : List Byte), s.wired = true →
    let u := s.reached src
    let emptied := fun (t : State) => (∀ c : CoreId, (t.core c).keys = [] ∧ (u.core c).Same (t.core c)) ∧ t.pumpIs { u.pump with keys := [] }
      ∧ t.eng = { u.eng with jnlKeys := [], cpyKeys := [] }
    let fits := u.get F.KEY_BASE_BASE * 4096 + u.installed / 4096 ≤ u.installed
    let h := s.linkActive
    let usable := s.hostUsable = true ∧ s.link.bar4 = true
    let n := if len = 0 then 1024 else len.toNat
    let pa := fun (x : Nat) => if s.pwr.hostBoot then x else s.get F.HLK_BAR4MAP_BASE * 2 ^ 24 + x
    let a := pa (4 * dw.toNat)
    let b := pa x.toNat
    let linkIs := fun (bit : Nat) (t : State) =>
      t.link = { h.link with aer := setBit h.link.aer bit, msixWait := t.link.msixWait, msiPend := t.link.msiPend }
    (s.get F.TMB_WDLCFG_ENABLE = 1 → s.wdRuns = true → s.flt.wdlOnce = false → s.lowestFree 15 = some c.val →
      Does s (exec .wdlExpiry s) [.cores, .faults] [(evtBit 17 1, 1), (F.TMB_WDLCNT_MS, s.get F.TMB_WDLCFG_PERIOD)] fun t =>
        t.flt = { s.flt with wdlOnce := true } ∧ (t.core c).due = { (s.core c).due with watchdog := true }
        ∧ (∀ k, k ≠ c → (t.core k).due = (s.core k).due) ∧ ∀ k, (s.core k).Same (t.core k))
    ∧ (s.get F.TMB_WDPCFG_ENABLE = 1 → s.wdRuns = true → s.get F.PWR_HALLPCTL_ENABLE = 1 → Does s (exec .wdpExpiry s) [] [(F.TMB_WDPCNT_MS, 0)] fun t =>
      s.get (F.BEL_SRC_LEVEL.ix 44) ≠ 0 → s.fenced 8 = false → s.get (F.BEL_SRC_DELIV.ix 44) = 0 → (s.get (F.BEL_SRC_CORES.ix 44)).testBit c = true →
        c.val < Variant.cores s.variant → 44 ∈ t.bel.pend.getD c [])
    ∧ (s.reachesField src F.KEY_CTL_ENABLE (if on then 1 else 0) = true → u.get F.KEY_CTL_LOCK = 0 → u.get F.KEY_CTL_ENABLE = (if on then 0 else 1) →
      ((on = true → fits) → Does u (exec (.keyEnable src on) s) [.cores, .pump, .engines] [(F.KEY_CTL_ENABLE, if on then 1 else 0)] emptied)
      ∧ (on = true → ¬ fits → Does u (exec (.keyEnable src on) s) [] [(evtBit 9 0, 1)] fun _ => True))
    ∧ (s.reachesField src F.KEY_CTL_LOCK 1 = true → Does u (exec (.keyLock src) s) [] [(F.KEY_CTL_LOCK, 1)] fun _ => True)
    ∧ (usable → s.plainFor a (4 * n) = true → s.fenced 10 = false → Does h (exec (.hostBar4Read dw len) s) [.reply] [] fun t =>
      t.resp = ⟨0, (List.range n).map fun i => ofLe (s.bytes (a + 4 * i) 4)⟩)
    ∧ (usable → s.installed < a + 4 * n → Does h (exec (.hostBar4Read dw len) s) [.link, .reply] [] fun t => t.resp = ⟨1, []⟩ ∧ linkIs 0 t)
    ∧ (¬ usable → Does s (exec (.hostBar4Read dw len) s) [.reply] [] fun t => t.resp = ⟨2, []⟩)
    ∧ (usable → s.plainFor b l.length = true → s.fenced 10 = false → s.pwr.hostBoot = false → Does h (exec (.hostBar4Write x l) s) [.memory] [] fun t =>
      t.dramGen = s.dramGen ∧ t.flashGen = s.flashGen ∧ ∀ y, t.byte y = if b ≤ y ∧ y < b + l.length then l.getD (y - b) 0 else s.byte y)
    ∧ (usable → s.installed < b + l.length → s.pwr.hostBoot = false → Does h (exec (.hostBar4Write x l) s) [.link] [] (linkIs 2))

/-! ### The JTAG port -/

/-- R786 to R792: an instruction is loaded; a scan captures the levels at the balls and what the device puts there, and the cells take what is shifted in. A permitted
debug access reads or writes a long of memory, or reads half a register of a halted core; HALT, RESUME and STEP act on a core in the hall named; others are denied. -/
def Claims.JtagScansAndDebugs : Prop :=
  ∀ (s : State) (pins : BitVec 163) (cells : BitVec 489) (r : BitVec 80) (k : CoreId) (h : Hall), s.wired = true →
    let j := s.jtag
    let scans := fun (i : Instr) (ir : Nat) => Does s (exec i s) [.jtag] [] fun t => t.jtag.ir = ir ∧ t.jtag.cells = cells ∧ t.jtag.status = j.status ∧ t.jtag.data = j.data
      ∧ ∀ b, b < 163 → t.jtag.captured.getLsbD (3 * b) = (!s.ballAbsent b && s.ballOn b && pins.getLsbD b)
        ∧ t.jtag.captured.getLsbD (3 * b + 1) = (s.ballOut b).1 ∧ t.jtag.captured.getLsbD (3 * b + 2) = (s.ballOut b).2
    let loads := fun (i : Instr) (ir : Nat) => Does s (exec i s) [.jtag] [] fun t => t.jtag = { j with ir := ir }
    let device := match s.variant with
      | .f4 => 0x4801
      | .d2 => 0x4802
      | .b2 => 0x4803
    let allowed := fun (h : Hall) => s.pwr.lifecycle ≤ 1 ∨ (s.pwr.lifecycle = 2 ∧ s.get (if h = .P then F.DBG_CTL_PEN else F.DBG_CTL_LEN) = 1)
    let result := fun (status data : Nat) (t : State) => t.jtag = { j with status := status, data := BitVec.ofNat 32 data }
    let q := s.core k
    let controls := fun (i : Instr) (P : Core → Prop) => Does s (exec i s) [.cores, .jtag] [] fun t => result 0 0 t ∧ (∀ c, (s.core c).Same (t.core c)) ∧ P (t.core k)
    let n := r.toNat
    let g : Hall := if n.testBit 77 then .P else .L
    let a := bitsOf n 71 34
    let access := exec (.debugAccess r) s
    let half := fun (w : Word) (high : Bool) => if high then w.toNat / 2 ^ 32 else w.toNat % 2 ^ 32
    scans (.extest pins cells) 0 ∧ scans (.samplePreload pins cells) 2
    ∧ loads .jtagClamp 3 ∧ loads .highz 4 ∧ loads .bypass 0x1F ∧ loads .dbgacc 8
    ∧ Does s (exec .idcode s) [.jtag, .reply] [] (fun t => t.jtag = { j with ir := 1 }
      ∧ t.resp = ⟨0, [bitsOf (s.reg 4) 7 4 * 2 ^ 28 + device * 2 ^ 12 + bitsOf Config.jtagId.toNat 11 1 * 2 + 1]⟩)
    ∧ (allowed h → s.pwr.fabricUp = true → k.val < Variant.cores s.variant →
      (q.hall = h → s.coreFree k = true → controls (.halt k h) fun q' => q'.halted = true ∧ q'.haltReq = none)
      ∧ (q.hall ≠ h → controls (.halt k h) fun q' => q'.halted = q.halted ∧ q'.haltReq = some h)
      ∧ (q.halted = true → q.haltReq = none → controls (.resume k h) (fun q' => q'.halted = false ∧ q'.stepOne = false)
        ∧ controls (.step k h) fun q' => q'.halted = false ∧ q'.stepOne = true))
    ∧ (¬ allowed h → ∀ i, i = .halt k h ∨ i = .resume k h ∨ i = .step k h → Does s (exec i s) [.jtag] [] (result 2 0))
    ∧ (j.ir = 8 → (bitsOf n 79 78 = 1 ∨ bitsOf n 79 78 = 2) →
      (¬ allowed g → Does s access [.jtag] [] (result 2 0))
      ∧ (allowed g → s.pwr.fabricUp = true → bitsOf n 76 74 = 4 → s.plainFor (4 * a) 4 = true →
        (bitsOf n 79 78 = 1 → Does s access [.jtag] [] (result 0 (ofLe (s.bytes (4 * a) 4))))
        ∧ (bitsOf n 79 78 = 2 → Does s access [.jtag, .memory] [] fun t => result 0 0 t ∧ t.dramGen = s.dramGen ∧ t.flashGen = s.flashGen
          ∧ ∀ y, t.byte y = if 4 * a ≤ y ∧ y < 4 * a + 4 then (leBytes 4 (n % 2 ^ 32)).getD (y - 4 * a) 0 else s.byte y))
      ∧ (∀ (x : RegNo) (high : Bool), allowed g → s.pwr.fabricUp = true → bitsOf n 76 74 = k.val → k.val < Variant.cores s.variant → q.halted = true → q.hall = g →
          a = 0x100 + 2 * x.val + (if high then 1 else 0) → bitsOf n 79 78 = 1 →
        Does s access [.jtag] [] (result 0 (half (q.rd x) high))))
    ∧ (j.ir ≠ 8 → Does s access [] [] fun _ => True)

/-! ### Fault recovery -/

/-- R800 to R807, R820: an unfence request is accepted, or answers NOTFENCED, NEEDRESET or NOTHELD; its end returns the segment to service. A free lock is acquired with
a new GEN; its owner with the ticket renews, releases or clears TAINT; an expired one is revoked by Hall L; expiry sets EXPIRED once. -/
def Claims.FencesAndLocksRecover : Prop :=
  ∀ (s : State) (src : Src) (seg : Fin 16) (n : Fin 64) (ticket : Half) (gen : Byte), s.wired = true →
    let u := s.reached src
    let asks := exec (.unfence src seg) s
    let res := fun (r : Nat) => Does u asks [] [(F.FLT_UNFENCE_SEG, seg.val), (F.FLT_UNFENCE_RES, r)] fun _ => True
    let reset := seg.val = 4 ∨ seg.val = 5 ∨ seg.val = 11 ∨ seg.val = 12
    let free := seg.val < 4 ∧ (u.get F.PWR_CORERST_HOLD).testBit seg = false
    let back := [(F.FLT_SEGSTAT_FENCED, clrBit (s.get F.FLT_SEGSTAT_FENCED) seg.val), (F.FLT_UNFENCE_RES, 0), (evtBit 22 7, 1)]
    let returned := fun (t : State) => t.flt = { s.flt with unfencing := s.flt.unfencing.filter (· != seg.val) }
    let f := fun (f : Fld) => f.ix n.val
    let off := (f F.LL_CTL_OP).off
    let who := match src with
      | .host => (0, 0)
      | .core c .L => (1, c.val)
      | .core c .P => (2, c.val)
    let owns := u.get (f F.LL_STAT_HELD) = 1 ∧ n.val ∉ u.flt.revoking ∧ u.get (f F.LL_STAT_SRC) = who.1 ∧ u.get (f F.LL_STAT_CORE) = who.2
      ∧ u.get (f F.LL_STAT_TICKET) = ticket.toNat
    let asked := fun (op : Nat) => s.reaches src off (op * 2 ^ 28 + ticket.toNat) = true
    let sets := fun (i : Instr) (ws : List (Fld × Nat)) => Does u (exec i s) [] ws fun _ => True
    let next := (u.get (f F.LL_STAT_GEN) + 1) % 256
    (s.reaches src F.FLT_UNFENCE_GO.off (2 ^ 31 + seg.val) = true → seg.val ≤ 12 →
      (u.fenced seg = false → res 1)
      ∧ (u.fenced seg = true → reset → res 3)
      ∧ (u.fenced seg = true → free → res 2)
      ∧ (u.fenced seg = true → ¬ reset → ¬ free → Does u asks [.faults] [(F.FLT_UNFENCE_SEG, seg.val)] fun t =>
        t.flt = { u.flt with unfencing := insertNat u.flt.unfencing seg }))
    ∧ (seg.val ∈ s.flt.unfencing →
      ((seg.val = 6 ∨ seg.val = 7 ∨ seg.val = 8) → Does s (exec (.unfenced seg) s) [.faults] back returned)
      ∧ (seg.val = 9 → Does s (exec (.unfenced seg) s) [.faults, .cores, .pump, .engines] back fun t => returned t
        ∧ (∀ c : CoreId, (t.core c).keys = [] ∧ (s.core c).Same (t.core c)) ∧ t.pumpIs { s.pump with keys := [] }
        ∧ t.eng = { s.eng with jnlKeys := [], cpyKeys := [] }))
    ∧ (seg.val ∉ s.flt.unfencing → Does s (exec (.unfenced seg) s) [] [] fun _ => True)
    ∧ (asked 1 →
      (u.get (f F.LL_STAT_HELD) = 0 → sets (.acquire src n ticket) [(f F.LL_STAT_HELD, 1), (f F.LL_STAT_SRC, who.1), (f F.LL_STAT_CORE, who.2),
        (f F.LL_STAT_TICKET, ticket.toNat), (f F.LL_STAT_GEN, next), (f F.LL_STAT_EXPIRED, 0)])
      ∧ (u.get (f F.LL_STAT_HELD) = 1 → sets (.acquire src n ticket) []))
    ∧ (asked 2 → (owns → sets (.renew src n ticket) [(f F.LL_STAT_EXPIRED, 0)]) ∧ (¬ owns → sets (.renew src n ticket) []))
    ∧ (asked 3 → (owns → sets (.lockRelease src n ticket) [(f F.LL_STAT_HELD, 0)]) ∧ (¬ owns → sets (.lockRelease src n ticket) []))
    ∧ (asked 5 → (owns → sets (.clrtaint src n ticket) [(f F.LL_STAT_TAINT, 0)]) ∧ (¬ owns → sets (.clrtaint src n ticket) []))
    ∧ (s.reaches src off (4 * 2 ^ 28 + gen.toNat * 2 ^ 16) = true →
      let expired := u.get (f F.LL_STAT_HELD) = 1 ∧ u.get (f F.LL_STAT_EXPIRED) = 1 ∧ n.val ∉ u.flt.revoking ∧ u.get (f F.LL_STAT_GEN) = gen.toNat
      (expired → u.get (f F.LL_CFG_BIND) = 0 → Does u (exec (.revoke src n gen) s) [.faults]
        [(f F.LL_STAT_HELD, 0), (f F.LL_STAT_TAINT, 1), (f F.LL_STAT_GEN, next), (evtBit 22 5, 1)] fun t => t.flt = u.flt)
      ∧ (¬ expired → sets (.revoke src n gen) []))
    ∧ (let lives := s.get (f F.LL_STAT_HELD) = 1 ∧ s.get (f F.LL_STAT_EXPIRED) = 0 ∧ n.val ∉ s.flt.revoking
      (lives → Does s (exec (.leaseLockExpiry n) s) [] [(f F.LL_STAT_EXPIRED, 1), (evtBit 22 4, 1)] fun _ => True)
      ∧ (¬ lives → Does s (exec (.leaseLockExpiry n) s) [] [] fun _ => True))

/-- R815 to R818: the two service writes of a Hall L core restart the count; an expiry records what it revokes, makes the event due on the lowest free core and begins GRACE; when GRACE
ends without service, a warm reset follows. -/
def Claims.DeviceWatchdogIsServiced : Prop :=
  ∀ (s : State) (src : Src) (c : CoreId), s.wired = true →
    let u := s.reached src
    let running := s.get F.TMB_WDDCFG_ENABLE = 1 ∧ s.wdRuns = true
    (s.reaches src 0x2A0204 0xA5A5 = true →
      Does u (exec (.wddKick src) s) [.faults] (if u.get F.TMB_WDDCFG_ENABLE = 1 then [(F.TMB_WDDCNT_MS, u.get F.TMB_WDDCFG_PERIOD), (F.TMB_WDDCNT_GRACE, 0)] else [])
        fun t => t.flt = { u.flt with wddHalf := false })
    ∧ (running → s.get F.TMB_WDDCNT_GRACE = 0 → (∀ n, n < 64 → s.get (F.LL_STAT_HELD.ix n) = 0) →
        (∀ f ∈ s.pump.flight, f.done = none → ∀ k h slot tag b e, f.loc ≠ .core k h slot tag b e) → s.lowestFree 15 = some c.val →
      Does s (exec .wddExpiry s) [.cores] [(F.TMB_WDDREC_VALID, 1), (F.TMB_WDDREC_STAGE2, 0), (F.TMB_WDDREC_LOCKS, 0), (F.TMB_WDDREC_LEASES, 0), (evtBit 22 6, 1),
        (F.TMB_WDDCNT_MS, s.get F.TMB_WDDCFG_GRACE), (F.TMB_WDDCNT_GRACE, 1)] fun t =>
        (t.core c).due = { (s.core c).due with devWatchdog := true } ∧ (∀ k, k ≠ c → (t.core k).due = (s.core k).due) ∧ ∀ k, (s.core k).Same (t.core k))
    ∧ (running → s.get F.TMB_WDDCNT_GRACE = 1 → ∃ t, exec .wddGraceExpiry s = .next t ∧ t.pwr.fabricUp = false
      ∧ (t.get F.PWR_RSTCAUSE_CAUSE).testBit causeWdog = true ∧ t.get F.TMB_WDDREC_STAGE2 = 1)

/-! ### Classes 0x10 to 0x12: decimal -/

/-- R341 to R346: on valid packed operands in DRAM, read as they stand, DADD, DSUB, DMUL, DDIV, DREM and DSCALE replace operand 1 by the low digits of
the true result with its preferred sign, and set N, Z, V and DO by it (R332, R337, R338); DCMP sets N and Z only and stores nothing. Overflow while DOT
is 1 traps after all of this (R339). -/
def Claims.DecimalFieldsAreComputed : Prop :=
  ∀ (s : State) (c : CoreId) (ra rb : RegNo) (l1 l2 : Fin 32) (x y : Int), s.ready c = true → s.wired = true → Variant.hasDsc s.variant = true →
    let q := s.core c
    let a := q.rd ra
    let b := q.rd rb
    let n := l1.val + 1
    let m := l2.val + 1
    let e := (BitVec.ofNat 6 b.toNat).toInt
    let field := fun (i : Instr) (v : Int) => DecResult s (exec i s) c 0x10 [] (2 * n - 1) v fun t =>
      ∃ out : List Byte, out.length = n ∧ PackedHas (nibbleOf out) n v ∧ Buffered s t c a.toNat out
    s.quietDram c a n = true → s.sbRoom c 2 = true → PackedIs (nibbleOf (s.bytes a.toNat n)) n x →
      (s.quietDram c b m = true → PackedIs (nibbleOf (s.bytes b.toNat m)) m y →
        field (.dadd c ra rb l1 l2) (x + y) ∧ field (.dsub c ra rb l1 l2) (x - y)
        ∧ (l2 < l1 → l2.val ≤ 15 →
          field (.dmul c ra rb l1 l2) (x * y)
          ∧ (y ≠ 0 → field (.ddiv c ra rb l1 l2) (x.tdiv y) ∧ field (.drem c ra rb l1 l2) (x.tmod y)))
        ∧ ∃ t, Ends s s t (exec (.dcmp c ra rb l1 l2) s) c (q.pc + 4#48) [] flagBits ∧ (t.core c).nzcv = ⟨decide (x < y), decide (x = y), false, false⟩)
      ∧ (l2.val ≤ 4 → field (.dscale c ra rb l1 l2) (if 0 ≤ e then x * 10 ^ e.toNat else scaled l2.val (-e).toNat x))

/-- R335, R336, R341, R345: a length or mode relation that fails raises Illegal Instruction before an operand is read; the first invalid nibble of operand
1, else of operand 2, raises Decimal Data with its cause and the address of its byte; a divisor of zero raises Decimal Divide Check. Nothing is
written. -/
def Claims.DecimalOperandsAreChecked : Prop :=
  ∀ (s : State) (c : CoreId) (ra rb : RegNo) (l1 l2 : Fin 32) (x : Int) (j : Nat), s.ready c = true → s.wired = true →
    Variant.hasDsc s.variant = true → (s.core c).tpend = false →
    let q := s.core c
    let a := q.rd ra
    let b := q.rd rb
    let n := l1.val + 1
    let m := l2.val + 1
    let legal := l2 < l1 ∧ l2.val ≤ 15
    let first := fun (l : List Byte) (k : Nat) => j < 2 * k ∧ badNibble (nibbleOf l) k j ∧ ∀ i < j, ¬ badNibble (nibbleOf l) k i
    let data := fun (k opn : Nat) (va : Word) => Exc.at 9 (if j = 2 * k - 1 then 2 else 1) opn ((va.toNat + j / 2) % 2 ^ 48)
    let products := [Instr.dmul c ra rb l1 l2, .ddiv c ra rb l1 l2, .drem c ra rb l1 l2]
    let sums := [Instr.dadd c ra rb l1 l2, .dsub c ra rb l1 l2, .dcmp c ra rb l1 l2]
    (¬ legal → ∀ i ∈ products, Raises s (exec i s) c 0x10 (Exc.plain 1 0 0))
    ∧ (4 < l2.val → Raises s (exec (.dscale c ra rb l1 l2) s) c 0x10 (Exc.plain 1 0 0))
    ∧ (s.quietDram c a n = true →
      (first (s.bytes a.toNat n) n → l2.val ≤ 4 → Raises s (exec (.dscale c ra rb l1 l2) s) c 0x10 (data n 1 a))
      ∧ (s.quietDram c b m = true →
        (∀ i, (i ∈ sums ∨ (legal ∧ i ∈ products)) →
          (first (s.bytes a.toNat n) n → Raises s (exec i s) c 0x10 (data n 1 a))
          ∧ (PackedIs (nibbleOf (s.bytes a.toNat n)) n x → first (s.bytes b.toNat m) m → Raises s (exec i s) c 0x10 (data m 2 b)))
        ∧ (legal → PackedIs (nibbleOf (s.bytes a.toNat n)) n x → PackedIs (nibbleOf (s.bytes b.toNat m)) m 0 →
          Raises s (exec (.ddiv c ra rb l1 l2) s) c 0x10 (Exc.plain 0x0A 1 0) ∧ Raises s (exec (.drem c ra rb l1 l2) s) c 0x10 (Exc.plain 0x0A 1 0))))

/-- R347 to R349: the conversions between packed, zoned and binary on operands in DRAM: the result, cut to its destination, the flags and DO; a zero field
that is not zero, or a register that is no pair, is illegal, and an invalid source byte raises Decimal Data as operand 2. -/
def Claims.DecimalConversionsConvert : Prop :=
  ∀ (s : State) (c : CoreId) (ra rb : RegNo) (l1 l2 : Fin 32) (y : Int) (j : Nat), s.ready c = true → s.wired = true → Variant.hasDsc s.variant = true →
    let q := s.core c
    let a := q.rd ra
    let b := q.rd rb
    let n := l1.val + 1
    let m := l2.val + 1
    let src := s.bytes b.toNat m
    let packed := fun (v : Int) (t : State) => ∃ out : List Byte, out.length = n ∧ PackedHas (nibbleOf out) n v ∧ Buffered s t c a.toNat out
    let okByte := fun i => (0x30 ≤ (src.getD i 0).toNat ∧ (src.getD i 0).toNat ≤ 0x39) ∨ (i = 0 ∧ (src.getD i 0 = 0x2B#8 ∨ src.getD i 0 = 0x2D#8))
    (s.quietDram c b m = true → PackedIs (nibbleOf src) m y →
      BinResult s (exec (.dtob c ra rb 0 l2) s) c 0x12 [ra] 48 y (fun t r => (t.core c).rd ra = written ra (BitVec.ofNat 48 r))
      ∧ (pairOk ra = true → BinResult s (exec (.dtobP c ra rb 0 l2) s) c 0x12 [ra, RegNo.succ ra] 96 y fun t r => (t.core c).rdPair ra = r)
      ∧ (s.plainDram c a n = true → s.sbRoom c 2 = true →
        DecEnds s (exec (.ptoz c ra rb l1 l2) s) c 0x12 [] [] (decide (y < 0)) (decide (y.natAbs % 10 ^ n = 0)) (decide (10 ^ n ≤ y.natAbs))
          (fun t => ∃ out, ZonedHas out n y.natAbs ∧ Buffered s t c a.toNat out)
        ∧ DecResult s (exec (.ptozs c ra rb l1 l2) s) c 0x12 [] (n - 1) y fun t => ∃ out, ZonedHas out (n - 1) y.natAbs
            ∧ Buffered s t c a.toNat ((if y < 0 ∧ y.natAbs % 10 ^ (n - 1) ≠ 0 then 0x2D#8 else 0x2B#8) :: out)))
    ∧ (s.plainDram c a n = true → s.sbRoom c 2 = true →
      DecResult s (exec (.btod c ra rb l1 0) s) c 0x12 [] (2 * n - 1) (q.rd rb).toInt (packed (q.rd rb).toInt)
      ∧ (pairOk rb = true →
        let v := (BitVec.ofNat 96 (q.rdPair rb)).toInt
        DecResult s (exec (.btodP c ra rb l1 0) s) c 0x12 [] (2 * n - 1) v (packed v))
      ∧ (s.quietDram c b m = true → ZonedIs src y → DecResult s (exec (.ztop c ra rb l1 l2) s) c 0x12 [] (2 * n - 1) y (packed y)))
    ∧ (q.tpend = false →
      (l1 ≠ 0 → Raises s (exec (.dtob c ra rb l1 l2) s) c 0x12 (Exc.plain 1 0 0))
      ∧ ((l1 ≠ 0 ∨ pairOk ra = false) → Raises s (exec (.dtobP c ra rb l1 l2) s) c 0x12 (Exc.plain 1 0 0))
      ∧ (l2 ≠ 0 → Raises s (exec (.btod c ra rb l1 l2) s) c 0x12 (Exc.plain 1 0 0))
      ∧ ((l2 ≠ 0 ∨ pairOk rb = false) → Raises s (exec (.btodP c ra rb l1 l2) s) c 0x12 (Exc.plain 1 0 0))
      ∧ (s.quietDram c b m = true →
        (j < 2 * m → badNibble (nibbleOf src) m j → (∀ i < j, ¬ badNibble (nibbleOf src) m i) →
          let e := Exc.at 9 (if j = 2 * m - 1 then 2 else 1) 2 ((b.toNat + j / 2) % 2 ^ 48)
          Raises s (exec (.dtob c ra rb 0 l2) s) c 0x12 e
          ∧ (pairOk ra = true → Raises s (exec (.dtobP c ra rb 0 l2) s) c 0x12 e)
          ∧ (s.plainDram c a n = true → Raises s (exec (.ptoz c ra rb l1 l2) s) c 0x12 e ∧ Raises s (exec (.ptozs c ra rb l1 l2) s) c 0x12 e))
        ∧ (s.plainDram c a n = true → j < m → ¬ okByte j → (∀ i < j, okByte i) →
          Raises s (exec (.ztop c ra rb l1 l2) s) c 0x12 (Exc.at 9 3 2 ((b.toNat + j) % 2 ^ 48)))))

/-- R350 to R352: on accumulators that hold valid values, the accumulator instructions write the low 31 digits of the true result, or its binary form, and
set the flags and DO by it; DACMP sets N and Z only; DALD reads and DAST stores a packed field in DRAM. An accumulator field above 7, a length above 16
or a zero field that is not zero is illegal. -/
def Claims.AccumulatorsCompute : Prop :=
  ∀ (s : State) (c : CoreId) (d e f : Fin 8) (ra rb : RegNo) (k : Fin 32) (x y z : Int), s.ready c = true → s.wired = true →
    Variant.hasDsc s.variant = true →
    let q := s.core c
    let a := q.rd ra
    let n := k.val + 1
    let D := accNo d
    let E := accNo e
    let acc := fun (i : Instr) (v : Int) => DecResult s (exec i s) c 0x11 [d] 31 v fun t => PackedHas (nibbleAcc ((t.core c).da[d])) 16 v
    acc (.dafromw c D ra 0) a.toInt
    ∧ (PackedIs (nibbleAcc q.da[e]) 16 x →
      acc (.damov c D E 0) x ∧ acc (.daneg c D E 0) (-x)
      ∧ acc (.dashl c D E k) (x * 10 ^ k.val) ∧ acc (.dashr c D E k) (scaled 1 k.val x) ∧ acc (.dasht c D E k) (scaled 0 k.val x)
      ∧ BinResult s (exec (.datow c ra E 0) s) c 0x11 [ra] 48 x (fun t r => (t.core c).rd ra = written ra (BitVec.ofNat 48 r))
      ∧ (pairOk ra = true → BinResult s (exec (.datowp c ra E 0) s) c 0x11 [ra, RegNo.succ ra] 96 x fun t r => (t.core c).rdPair ra = r)
      ∧ (k.val ≤ 15 → s.plainDram c a n = true → s.sbRoom c 2 = true → DecResult s (exec (.dast c E ra k) s) c 0x11 [] (2 * n - 1) x fun t =>
          ∃ out : List Byte, out.length = n ∧ PackedHas (nibbleOf out) n x ∧ Buffered s t c a.toNat out)
      ∧ (PackedIs (nibbleAcc q.da[f]) 16 y →
        acc (.daadd c D E (accNo f)) (x + y) ∧ acc (.dasub c D E (accNo f)) (x - y) ∧ acc (.damul c D E (accNo f)) (x * y)
        ∧ ∃ t, Ends s s t (exec (.dacmp c 0 E (accNo f)) s) c (q.pc + 4#48) [] flagBits
          ∧ (t.core c).nzcv = ⟨decide (x < y), decide (x = y), false, false⟩))
    ∧ (k.val ≤ 15 → s.quietDram c a n = true → PackedIs (nibbleOf (s.bytes a.toNat n)) n z → acc (.dald c D ra k) z)
    ∧ (q.tpend = false →
      (8 ≤ ra.val → ∀ i ∈ [Instr.daadd c ra rb D, .dasub c D ra rb, .damul c D rb ra, .damov c D ra 0, .daneg c ra D 0, .dashl c ra D k, .dashr c D ra k,
          .dasht c ra D k, .dafromw c ra rb 0, .datow c rb ra 0, .datowp c rb ra 0, .dacmp c 0 D ra, .dald c ra rb k, .dast c ra rb k],
        Raises s (exec i s) c 0x11 (Exc.plain 1 0 0))
      ∧ (rb ≠ 0 → ∀ i ∈ [Instr.damov c D E rb, .daneg c D E rb, .dafromw c D ra rb, .datow c ra E rb, .datowp c ra E rb, .dacmp c rb D E],
        Raises s (exec i s) c 0x11 (Exc.plain 1 0 0))
      ∧ (15 < k.val → Raises s (exec (.dald c D ra k) s) c 0x11 (Exc.plain 1 0 0) ∧ Raises s (exec (.dast c D ra k) s) c 0x11 (Exc.plain 1 0 0)))

/-! ### Classes 0x13 and 0x14: edit and strings -/

/-- R364, R368, R370, R376 to R379: on a pattern and source fields in DRAM, EDIT and EDITM write the edited output, at most as many bytes as the pattern
has, and leave RD and RA after the last output and source byte and N, Z and C by the last field; EDITM leaves the mark in RX. An invalid nibble raises
Decimal Data as operand 1, and nothing is written. -/
def Claims.EditsWriteTheirOutput : Prop :=
  ∀ (s : State) (c : CoreId) (rd ra rb rx : RegNo), s.ready c = true → s.wired = true → Variant.hasDsc s.variant = true →
    let q := s.core c
    let x := (q.rd rx).toNat
    let d := q.rd rd
    let a := q.rd ra
    let lp := x % 256 + 1
    let gs := segments (parsePattern lp (s.bytes (q.rd rb).toNat lp))
    let n := (gs.map fieldLen).sum
    let src := s.bytes a.toNat n
    let r := editAll (BitVec.ofNat 8 (x / 256)) gs src ⟨[], none, false, false⟩
    let fin := d + BitVec.ofNat 48 r.out.length
    let done := fun (t : State) => Advanced s t c ∧ (t.core c).rd rd = fin ∧ (t.core c).rd ra = a + BitVec.ofNat 48 n ∧ Buffered s t c d.toNat r.out
    ((rd = 0 ∨ ra = 0 ∨ rx = 0 ∨ rd = ra ∨ rd = rx ∨ ra = rx) → q.tpend = false →
      Raises s (exec (.edit c rd ra rb rx) s) c 0x13 (Exc.plain 1 0 0) ∧ Raises s (exec (.editm c rd ra rb rx) s) c 0x13 (Exc.plain 1 0 0))
    ∧ (rd ≠ 0 → ra ≠ 0 → rx ≠ 0 → rd ≠ ra → rd ≠ rx → ra ≠ rx → s.quietDram c (q.rd rb) lp = true → s.quietDram c a n = true →
        (r.out = [] ∨ s.plainDram c d r.out.length = true) → s.sbRoom c 2 = true →
      (scanFields 0 gs src = none →
        r.out.length ≤ lp
        ∧ (∃ t, exec (.edit c rd ra rb rx) s = .next t ∧ done t ∧ (t.core c).nzcv = ⟨r.neg, r.zero, false, false⟩
          ∧ Leaves s s t c [rd, ra] [] [] flagBits)
        ∧ ∃ t, exec (.editm c rd ra rb rx) s = .next t ∧ done t ∧ (t.core c).nzcv = ⟨r.neg, r.zero, r.mark.isSome, false⟩
          ∧ (t.core c).rd rx = (match r.mark with | some i => d + BitVec.ofNat 48 i | none => fin) ∧ Leaves s s t c [rd, ra, rx] [] [] flagBits)
      ∧ ∀ cause i, scanFields 0 gs src = some (cause, i) → q.tpend = false →
        let e := Exc.at 9 cause 1 ((a.toNat + i) % 2 ^ 48)
        Raises s (exec (.edit c rd ra rb rx) s) c 0x13 e ∧ Raises s (exec (.editm c rd ra rb rx) s) c 0x13 e)

/-- R361, R381 to R383, R386 to R388, R390, R392: MOVS, MOVB, MOVT and FILLS over DRAM, of one unit of a longer string (an execution that an interrupt ends
after it) or whole, up to 2,048 bytes: each byte is written before the next is read, the registers record the progress, no flag changes, and the PC moves
only when the string is done. A length of zero accesses nothing. -/
def Claims.StringMovesCopyByteByByte : Prop :=
  ∀ (s : State) (c : CoreId) (rd ra rb rx : RegNo) (lim k : Nat), s.ready c = true → s.wired = true → Variant.hasDsc s.variant = true →
    let q := s.core c
    let d := (q.rd rd).toNat
    let a := (q.rd ra).toNat
    let tab := (q.rd rx).toNat
    let len := (q.rd rb).toNat % 2 ^ 24
    let distinct := rd ≠ 0 ∧ ra ≠ 0 ∧ rb ≠ 0 ∧ rd ≠ ra ∧ rd ≠ rb ∧ ra ≠ rb
    let fresh := rx ≠ 0 ∧ rx ≠ rd ∧ rx ≠ ra ∧ rx ≠ rb
    let moved := fun (i : Instr) (w : List RegNo) (P : State → Prop) => ∃ t, exec i s = .next t ∧ Leaves s s t c w [] [] 0
      ∧ (t.core c).pc = (if k = len then q.pc + 4#48 else q.pc) ∧ (t.core c).rd rb = BitVec.ofNat 48 (len - k) ∧ P t
    let step := BitVec.ofNat 48 k
    let up := fun (t : State) (f : List Byte → Nat → Byte) => (t.core c).rd rd = q.rd rd + step
      ∧ ∃ out : List Byte, out.length = k ∧ (∀ i < k, out.getD i 0 = f out i) ∧ Buffered s t c d out
    (¬ distinct → q.tpend = false →
      ∀ i ∈ [Instr.movs c rd ra rb 0 lim, .movb c rd ra rb 0 lim, .movt c rd ra rb rx lim, .fills c rd ra rb 0 lim], Raises s (exec i s) c 0x14 (Exc.plain 1 0 0))
    ∧ (rx ≠ 0 → q.tpend = false → ∀ i ∈ [Instr.movs c rd ra rb rx lim, .movb c rd ra rb rx lim, .fills c rd ra rb rx lim],
        Raises s (exec i s) c 0x14 (Exc.plain 1 0 0))
    ∧ (distinct → len = 0 →
      (∀ i ∈ [Instr.movs c rd ra rb 0 lim, .movb c rd ra rb 0 lim, .fills c rd ra rb 0 lim], ∃ t, Ends s s t (exec i s) c (q.pc + 4#48) [] 0)
      ∧ (fresh → ∃ t, Ends s s t (exec (.movt c rd ra rb rx lim) s) c (q.pc + 4#48) [] 0))
    ∧ (distinct → 0 < len → s.sbRoom c 10 = true →
      ((lim = 1 ∧ k = min len (256 - d % 256)) ∨ (lim = 0 ∧ len ≤ 2048 ∧ k = len) → s.plainDram c (q.rd rd) k = true →
        moved (.fills c rd ra rb 0 lim) [rd, rb] (fun t => up t fun _ _ => (q.rd ra).setWidth 8)
        ∧ (s.quietDram c (q.rd ra) k = true →
          moved (.movs c rd ra rb 0 lim) [rd, ra, rb] (fun t => up t (fun out i => s.seen d out i (a + i)) ∧ (t.core c).rd ra = q.rd ra + step)
          ∧ (fresh → s.quietDram c (q.rd rx) 256 = true →
            moved (.movt c rd ra rb rx lim) [rd, ra, rb] fun t =>
              up t (fun out i => s.seen d out i (tab + (s.seen d out i (a + i)).toNat)) ∧ (t.core c).rd ra = q.rd ra + step)))
      ∧ ((lim = 1 ∧ k = min len ((d + (len - 1)) % 256 + 1)) ∨ (lim = 0 ∧ len ≤ 2048 ∧ k = len) → d + len ≤ 2 ^ 48 → a + len ≤ 2 ^ 48 →
        s.plainDram c (q.rd rd + BitVec.ofNat 48 (len - k)) k = true → s.quietDram c (q.rd ra + BitVec.ofNat 48 (len - k)) k = true →
        moved (.movb c rd ra rb 0 lim) [rb] fun t => ∃ out : List Byte, out.length = k
          ∧ (∀ i < k, out.getD i 0 =
              if d < a ∧ a + i < d + k then out.getD (a + i - d) 0 else s.byte (a + (len - k) + i))
          ∧ ∃ es, (t.core c).sb = (s.core c).sb ++ es ∧ tiles es.reverse (d + (len - k)) out))

/-- R381, R382, R384 to R387: CMPS, SCNS and TRTS over DRAM, of any length: where they stop, the flags, the byte found and the registers, which then address
it; at the end of the operand they say so. Nothing is stored. -/
def Claims.StringScansStopAtTheFirst : Prop :=
  ∀ (s : State) (c : CoreId) (rd ra rb rx : RegNo) (i : Nat), s.ready c = true → s.wired = true → Variant.hasDsc s.variant = true →
    let q := s.core c
    let a := (q.rd ra).toNat
    let d := (q.rd rd).toNat
    let tab := (q.rd rx).toNat
    let len := (q.rd rb).toNat % 2 ^ 24
    let len2 := (q.rd rb).toNat / 2 ^ 24
    let pad := (q.rd rx).setWidth 8
    let x := fun j => if j < len then s.byte (d + j) else pad
    let y := fun j => if j < len2 then s.byte (a + j) else pad
    let apart := ra ≠ 0 ∧ rb ≠ 0 ∧ rx ≠ 0 ∧ ra ≠ rb ∧ ra ≠ rx ∧ rb ≠ rx ∧ rd ≠ ra ∧ rd ≠ rb ∧ rd ≠ rx
    let after := fun (j : Instr) (w : List RegNo) (fl : Nzcv) (P : Core → Prop) => ∃ t, exec j s = .next t ∧ Advanced s t c
      ∧ Leaves s s t c w [] [] flagBits ∧ (t.core c).nzcv = fl ∧ P (t.core c)
    let cmps := fun (n1 n2 : Nat) (fl : Nzcv) => after (.cmps c rd ra rb rx 0) [rd, ra, rb] fl fun r =>
      r.rd rd = q.rd rd + BitVec.ofNat 48 n1 ∧ r.rd ra = q.rd ra + BitVec.ofNat 48 n2 ∧ r.rd rb = BitVec.ofNat 48 (len - n1 + (len2 - n2) * 2 ^ 24)
    let bitmap := fun b : Byte => (s.byte (tab + b.toNat / 8)).getLsbD (b.toNat % 8)
    let table := fun b : Byte => s.byte (tab + b.toNat)
    let found := fun (j : Instr) (hit : Byte → Bool) (v : Byte → Byte) =>
      (i < len → hit (s.byte (a + i)) = true → (∀ k < i, hit (s.byte (a + k)) = false) →
        after j [rd, ra, rb] ⟨false, false, false, false⟩ fun r => r.rd rd = written rd ((v (s.byte (a + i))).setWidth 48)
          ∧ r.rd ra = q.rd ra + BitVec.ofNat 48 i ∧ r.rd rb = BitVec.ofNat 48 (len - i))
      ∧ (0 < len → (∀ k < len, hit (s.byte (a + k)) = false) →
        after j [rd, ra, rb] ⟨false, true, false, false⟩ fun r => r.rd rd = 0 ∧ r.rd ra = q.rd ra + BitVec.ofNat 48 len ∧ r.rd rb = 0)
    (apart → rd ≠ 0 → (len = 0 ∨ s.quietDram c (q.rd rd) len = true) → (len2 = 0 ∨ s.quietDram c (q.rd ra) len2 = true) →
      ((∀ j < max len len2, x j = y j) → cmps len len2 ⟨false, true, true, false⟩)
      ∧ (i < max len len2 → x i ≠ y i → (∀ j < i, x j = y j) →
        cmps (min i len) (min i len2) ⟨decide ((x i).toNat < (y i).toNat), false, decide ((y i).toNat < (x i).toNat), false⟩))
    ∧ (apart → len = 0 → ∀ j ∈ [Instr.scns c rd ra rb rx 0, .trts c rd ra rb rx 0], after j [rd] ⟨false, true, false, false⟩ fun r => r.rd rd = 0)
    ∧ (apart → s.quietDram c (q.rd ra) len = true →
      (s.quietDram c (q.rd rx) 32 = true → found (.scns c rd ra rb rx 0) bitmap id)
      ∧ (s.quietDram c (q.rd rx) 256 = true → found (.trts c rd ra rb rx 0) (fun b => table b != 0) table))
    ∧ (¬ apart → q.tpend = false → ∀ j ∈ [Instr.scns c rd ra rb rx 0, .trts c rd ra rb rx 0, .cmps c rd ra rb rx 0],
        Raises s (exec j s) c 0x14 (Exc.plain 1 0 0))
    ∧ (rd = 0 → q.tpend = false → Raises s (exec (.cmps c 0 ra rb rx 0) s) c 0x14 (Exc.plain 1 0 0))

/-! ### Classes 0x18 to 0x1B: floating point -/

/-- R395, R402 to R404, R413 to R415: each arithmetic and conversion instruction writes its format's rounded result of its inputs, by the RM field or, with
7, by FCSW.RM, raises the operation's flags, and follows the subnormal mode; a must-be-zero field that is not zero or a reserved RM is illegal. -/
def Claims.FpArithmeticFollowsTheFormats : Prop :=
  ∀ (s : State) (c : CoreId) (fd fa fb fc rd : RegNo) (p u : Bool) (rm : BitVec 3), s.ready c = true → s.wired = true →
    Variant.hasDsc s.variant = true →
    let q := s.core c
    let t := fmtOf p
    let o := fmtOf !p
    let mode := if rm = 7 then bitsOf q.fcsw.toNat 18 16 else rm.toNat
    let x := fun (f : Fmt) (r : RegNo) => q.f[r].toNat % 2 ^ f.width
    let v := fun (f : Fmt) (r : RegNo) => f.input (x f r)
    let two := [(t, x t fa), (t, x t fb)]
    let put := fun (op : Nat) (i : Instr) (ins : List (Fmt × Nat)) (r : FRes) =>
      FpResult s (exec i s) c op ins [] [fd] r fun w => (w.core c).f[fd] = BitVec.ofNat 64 r.bits
    let three := fun (i : Instr) (np nc ng : Bool) => put 0x19 i (two ++ [(t, x t fc)]) (t.fma mode np nc ng (v t fa) (v t fb) (v t fc))
    let int := if u then ((q.rd fa).toNat : Int) else (q.rd fa).toInt
    let word := toInteger mode u (v t fa)
    (rm ≠ 5 → rm ≠ 6 →
      put 0x18 (.fadd c fd fa fb p 0 rm) two (t.add mode (v t fa) (v t fb))
      ∧ put 0x18 (.fsub c fd fa fb p 0 rm) two (t.sub mode (v t fa) (v t fb))
      ∧ put 0x18 (.fmul c fd fa fb p 0 rm) two (t.mul mode (v t fa) (v t fb))
      ∧ put 0x18 (.fdiv c fd fa fb p 0 rm) two (t.div mode (v t fa) (v t fb))
      ∧ put 0x18 (.fsqrt c fd fa 0 p 0 rm) [(t, x t fa)] (t.sqrt mode (v t fa))
      ∧ three (.fmadd c fd fa fb fc p rm) false false false ∧ three (.fmsub c fd fa fb fc p rm) false true false
      ∧ three (.fnmadd c fd fa fb fc p rm) false false true ∧ three (.fnmsub c fd fa fb fc p rm) true false false
      ∧ ((p = true ∨ rm = 0) → put 0x1A (.fcvt c fd fa 0 p 0 rm) [(o, x o fa)] (o.convert t mode (v o fa)))
      ∧ put 0x1A (.fcvtFw c fd fa 0 p u 0 rm) [] (t.ofInteger mode int)
      ∧ FpResult s (exec (.fcvtWf c rd fa 0 p u 0 rm) s) c 0x1A [(t, x t fa)] [rd] [] ⟨word.1, word.2, false⟩
          fun w => (w.core c).rd rd = written rd (BitVec.ofNat 48 word.1))
    ∧ (q.tpend = false → ∀ (m4 : BitVec 4) (m3 : BitVec 3),
      ((rm = 5 ∨ rm = 6 ∨ m4 ≠ 0) → ∀ i ∈ [Instr.fadd c fd fa fb p m4 rm, .fsub c fd fa fb p m4 rm, .fmul c fd fa fb p m4 rm, .fdiv c fd fa fb p m4 rm,
          .fsqrt c fd fa fb p m4 rm], Raises s (exec i s) c 0x18 (Exc.plain 1 0 0))
      ∧ (fb ≠ 0 → Raises s (exec (.fsqrt c fd fa fb p m4 rm) s) c 0x18 (Exc.plain 1 0 0))
      ∧ ((rm = 5 ∨ rm = 6) → ∀ i ∈ [Instr.fmadd c fd fa fb fc p rm, .fmsub c fd fa fb fc p rm, .fnmadd c fd fa fb fc p rm, .fnmsub c fd fa fb fc p rm],
          Raises s (exec i s) c 0x19 (Exc.plain 1 0 0))
      ∧ ((rm = 5 ∨ rm = 6 ∨ fb ≠ 0 ∨ m4 ≠ 0 ∨ (p = false ∧ rm ≠ 0)) → Raises s (exec (.fcvt c fd fa fb p m4 rm) s) c 0x1A (Exc.plain 1 0 0))
      ∧ ((rm = 5 ∨ rm = 6 ∨ fb ≠ 0 ∨ m3 ≠ 0) → ∀ i ∈ [Instr.fcvtFw c fd fa fb p u m3 rm, .fcvtWf c rd fa fb p u m3 rm],
          Raises s (exec i s) c 0x1A (Exc.plain 1 0 0)))

/-- R396, R398, R413: the formats' operations on numbers that are not subnormal are correctly rounded by each attribute, once, and NX tells whether the
result is exact; a conversion to a word saturates out of range and raises NV. -/
def Claims.FpResultsAreCorrectlyRounded : Prop :=
  ∀ (p u : Bool) (mode a b d : Nat) (n : Int), mode ≤ 4 →
    let t := fmtOf p
    let o := fmtOf !p
    let v := fun b => t.decode b
    let x := fun b => t.value b
    let plain := fun b => t.finite b ∧ t.subnormal b = false
    t.correct mode n (t.ofInteger mode n)
    ∧ (plain a →
      o.correct mode (x a) (t.convert o mode (v a))
      ∧ (0 < x a →
        let r := t.sqrt mode (v a)
        let g := x r.bits
        r.sub = false ∧ t.finite r.bits ∧ 0 < g ∧ r.flags = (if g * g = x a then 0 else 1) ∧ ∀ y, t.finite y → 0 ≤ x y →
          match mode with
          | 1 | 3 => g * g ≤ x a ∧ (x y * x y ≤ x a → x y ≤ g)
          | 2 => x a ≤ g * g ∧ (x a ≤ x y * x y → g ≤ x y)
          | _ => (g < x y → 4 * x a ≤ (g + x y) * (g + x y)) ∧ (x y < g → (g + x y) * (g + x y) ≤ 4 * x a))
      ∧ (let hi : Int := if u then 2 ^ 48 - 1 else 2 ^ 47 - 1
        let lo : Int := if u then 0 else -(2 ^ 47)
        let i := integral mode (x a)
        toInteger mode u (v a) = ((BitVec.ofInt 48 (max lo (min hi i))).toNat, if i < lo ∨ hi < i then 16 else if (i : Rat) = x a then 0 else 1))
      ∧ (plain b →
        t.correct mode (x a + x b) (t.add mode (v a) (v b)) ∧ t.correct mode (x a - x b) (t.sub mode (v a) (v b))
        ∧ t.correct mode (x a * x b) (t.mul mode (v a) (v b)) ∧ (x b ≠ 0 → t.correct mode (x a / x b) (t.div mode (v a) (v b)))
        ∧ (plain d →
          t.correct mode (x a * x b + x d) (t.fma mode false false false (v a) (v b) (v d))
          ∧ t.correct mode (x a * x b - x d) (t.fma mode false true false (v a) (v b) (v d))
          ∧ t.correct mode (-(x a * x b + x d)) (t.fma mode false false true (v a) (v b) (v d))
          ∧ t.correct mode (-(x a * x b) + x d) (t.fma mode true false false (v a) (v b) (v d)))))

/-- R403, R417 to R419: the first NaN of an operation's inputs is its result, quieted; a signalling one raises NV, and an invalid operation without NaN
gives the default NaN and NV; a number that is not zero over zero is an infinity, with DZ. -/
def Claims.FpNansAndInvalidOperations : Prop :=
  ∀ (p : Bool) (mode a b d : Nat), mode ≤ 4 →
    let t := fmtOf p
    let v := fun b => t.decode b
    let nan := fun b => t.isNan b = true
    let sig := fun b => t.isSignalling b = true
    let quiet := fun b => b ||| 2 ^ (t.frac - 1)
    let nv : FRes := ⟨if p then 0x7FC00000 else 0x7FF8000000000000, 16, false⟩
    let mixed := (t.isZero a = true ∧ t.isInf b = true) ∨ (t.isInf a = true ∧ t.isZero b = true)
    a < 2 ^ t.width → b < 2 ^ t.width → d < 2 ^ t.width →
      (∀ op ∈ [Fmt.add, Fmt.sub, Fmt.mul, Fmt.div], nan a ∨ nan b →
        op t mode (v a) (v b) = ⟨quiet (if t.isNan a then a else b), if t.isSignalling a || t.isSignalling b then 16 else 0, false⟩)
      ∧ (nan a → t.sqrt mode (v a) = ⟨quiet a, if t.isSignalling a then 16 else 0, false⟩)
      ∧ (∀ np nc ng,
        (nan a ∨ nan b ∨ (nan d ∧ ¬ mixed) → t.fma mode np nc ng (v a) (v b) (v d) =
          ⟨quiet (if t.isNan a then a else if t.isNan b then b else d),
            if t.isSignalling a || t.isSignalling b || t.isSignalling d then 16 else 0, false⟩)
        ∧ (mixed → ¬ nan d → t.fma mode np nc ng (v a) (v b) (v d) = nv)
        ∧ (mixed → nan d → ¬ sig d → t.fma mode np nc ng (v a) (v b) (v d) = ⟨d, 0, false⟩))
      ∧ (t.isInf a = true → t.isInf b = true → t.div mode (v a) (v b) = nv
        ∧ (t.sign a ≠ t.sign b → t.add mode (v a) (v b) = nv) ∧ (t.sign a = t.sign b → t.sub mode (v a) (v b) = nv))
      ∧ (mixed → t.mul mode (v a) (v b) = nv)
      ∧ (t.isZero a = true → t.isZero b = true → t.div mode (v a) (v b) = nv)
      ∧ (¬ nan a → t.isZero a = false → t.sign a = true → t.sqrt mode (v a) = nv)
      ∧ (t.finite a → t.isZero a = false → t.isZero b = true → t.div mode (v a) (v b) = ⟨t.infinity (t.sign a != t.sign b), 8, false⟩)

/-- R395, R397, R399, R400, R416: FCMP sets the flags by the order of its operands and raises NV for a signalling NaN, or with S for any; FCLASS writes the
class mask; FMOV, FNEG, FABS and FCPYS change the sign bit alone. Subnormals are taken as they are. Fields that must be zero are checked. -/
def Claims.FpComparesAndMovesSigns : Prop :=
  ∀ (s : State) (c : CoreId) (fd fa fb rd : RegNo) (p sg : Bool), s.ready c = true → s.wired = true → Variant.hasDsc s.variant = true →
    let q := s.core c
    let t := fmtOf p
    let a := q.f[fa].toNat % 2 ^ t.width
    let b := q.f[fb].toNat % 2 ^ t.width
    let nan := t.isNan a || t.isNan b
    let top : Nat := 2 ^ (t.width - 1)
    let cls : Nat :=
      if t.isNan a then (if t.isSignalling a then 8 else 9)
      else if t.sign a then (if t.isInf a then 0 else if t.isZero a then 3 else if t.subnormal a then 2 else 1)
      else if t.isInf a then 7 else if t.isZero a then 4 else if t.subnormal a then 5 else 6
    let signed := fun (i : Instr) (r : Nat) => ∃ u, Leaves s s u c [] [fd] [] 0 ∧ exec i s = .next u ∧ Advanced s u c ∧ (u.core c).f[fd] = BitVec.ofNat 64 r
    (∃ u, FpFrame s u (exec (.fcmp c 0 fa fb p sg 0 0) s) c [] [] flagBits
      ∧ Raised s u c (if (sg && nan) || t.isSignalling a || t.isSignalling b then 16 else 0)
      ∧ (u.core c).nzcv = if nan then ⟨false, false, false, true⟩
          else ⟨decide (t.key a < t.key b), decide (t.key a = t.key b), decide (t.key b ≤ t.key a), false⟩)
    ∧ (∃ u, Ends s s u (exec (.fclass c rd fa 0 p 0 0) s) c (q.pc + 4#48) [rd] 0 ∧ (u.core c).rd rd = written rd (BitVec.ofNat 48 (2 ^ cls)))
    ∧ signed (.fmov c fd fa p 0 0) a ∧ signed (.fneg c fd fa p 0 0) (a ^^^ top) ∧ signed (.fabs c fd fa p 0 0) (a % top)
    ∧ signed (.fcpys c fd fa fb p 0 0) (a % top + b / top * top)
    ∧ (q.tpend = false → ∀ (rm m3 : BitVec 3) (m4 : BitVec 4) (m2 : BitVec 2),
      ((rm ≠ 0 ∨ m3 ≠ 0 ∨ fd ≠ 0) → Raises s (exec (.fcmp c fd fa fb p sg m3 rm) s) c 0x1A (Exc.plain 1 0 0))
      ∧ ((rm ≠ 0 ∨ m4 ≠ 0 ∨ fb ≠ 0) → Raises s (exec (.fclass c rd fa fb p m4 rm) s) c 0x1A (Exc.plain 1 0 0))
      ∧ ((rm ≠ 0 ∨ m2 ≠ 0) → ∀ i ∈ [Instr.fmov c fd fa p m2 rm, .fneg c fd fa p m2 rm, .fabs c fd fa p m2 rm, .fcpys c fd fa fb p m2 rm],
          Raises s (exec i s) c 0x1A (Exc.plain 1 0 0)))

/-- R251, R300, R401: the floating-point loads and stores: address, alignment, the register or the bytes, and the exception of an access that cannot be
performed; over DRAM they complete. FMVWF and FMVFW move the halves of a register. -/
def Claims.FpLoadsStoresAndMoves : Prop :=
  ∀ (s : State) (c : CoreId) (fd ra rd fa : RegNo) (i : BitVec 16) (m : BitVec 5), s.ready c = true → s.wired = true → Variant.hasDsc s.variant = true →
    let q := s.core c
    let va := q.rd ra + BitVec.ofInt 48 (i.toInt - i.toInt % 8)
    let loads := fun (j : Instr) (n info : Nat) =>
      (va.toNat % n ≠ 0 → q.tpend = false → Raises s (exec j s) c 0x1B (Exc.at 3 0 info va.toNat))
      ∧ (va.toNat % n = 0 →
        (∀ u r, loadMem s c va n 4096 = (u, r) → match r with
          | .inr l => ∃ t, exec j s = .next t ∧ (t.core c).f[fd] = BitVec.ofNat 64 (ofLe l) ∧ Advanced s t c ∧ Leaves s u t c [] [fd] [] 0
          | .inl e => q.tpend = false → RaisesAt s u (exec j s) c 0x1B e)
        ∧ (s.quietDram c va n = true → ∃ t, exec j s = .next t ∧ (t.core c).f[fd] = BitVec.ofNat 64 (ofLe (s.bytes va.toNat n))
            ∧ Advanced s t c ∧ Leaves s s t c [] [fd] [] 0))
    let stores := fun (j : Instr) (n info : Nat) =>
      let l := leBytes n q.f[fd].toNat
      (va.toNat % n ≠ 0 → q.tpend = false → Raises s (exec j s) c 0x1B (Exc.at 3 0 info va.toNat))
      ∧ (va.toNat % n = 0 →
        (∀ u r, storeMem s c va 4096 l = (u, r) → match r with
          | none => u.pwr.fabricUp && u.coreFree c.val → u.wired = true → ∃ t, exec j s = .next t ∧ Advanced s t c ∧ Leaves u u t c [] [] [] 0
          | some e => q.tpend = false → RaisesAt s u (exec j s) c 0x1B e)
        ∧ (s.plainDram c va n = true → s.sbRoom c 2 = true → ∃ t, exec j s = .next t ∧ Advanced s t c ∧ Leaves s s t c [] [] [] 0
            ∧ Buffered s t c va.toNat l))
    let toW := fun (j : Instr) (v : Nat) => ∃ t, Ends s s t (exec j s) c (q.pc + 4#48) [rd] 0 ∧ (t.core c).rd rd = written rd (BitVec.ofNat 48 v)
    let toF := fun (j : Instr) (v : Nat) => ∃ t, exec j s = .next t ∧ Advanced s t c ∧ Leaves s s t c [] [fd] [] 0 ∧ (t.core c).f[fd] = BitVec.ofNat 64 v
    let low := (q.rd ra).toNat % 2 ^ 32
    loads (.fldS c fd ra i) 4 4 ∧ loads (.fldD c fd ra i) 8 5 ∧ stores (.fstS c fd ra i) 4 4 ∧ stores (.fstD c fd ra i) 8 5
    ∧ toW (.fmvwfL c rd fa 0) (q.f[fa].toNat % 2 ^ 32) ∧ toW (.fmvwfH c rd fa 0) (q.f[fa].toNat / 2 ^ 32)
    ∧ toF (.fmvfwL c fd ra 0) low ∧ toF (.fmvfwH c fd ra 0) (q.f[fd].toNat % 2 ^ 32 + low * 2 ^ 32)
    ∧ (m ≠ 0 → q.tpend = false → ∀ j ∈ [Instr.fmvwfL c rd fa m, .fmvwfH c rd fa m, .fmvfwL c fd ra m, .fmvfwH c fd ra m],
        Raises s (exec j s) c 0x1B (Exc.plain 1 0 0))

/-- R401, R404, R405, R407, R409, R411, R412: RDFCSW and RDFTA read; WRFCSW writes the writable fields, RM 5 to 7 as 0, and makes no trap pending; FBAR does
nothing more. With a trap pending, FBAR, RDFCSW and WRFCSW deliver it in their place: TPEND is cleared, the saved PC is theirs, and the syndrome carries
the flags raised since and the class of the instruction FTA names. -/
def Claims.FpStatusIsMovedAndTrapsDelivered : Prop :=
  ∀ (s : State) (c : CoreId) (r : RegNo) (m10 : BitVec 10) (m15 : BitVec 15), s.ready c = true → s.wired = true → Variant.hasDsc s.variant = true →
    let q := s.core c
    let v := q.rd r
    let w := if 4 < bitsOf v.toNat 18 16 then v &&& ~~~0x70000#48 else v
    let u := s.updCore c fun q => { q with fcsw := q.fcsw &&& ~~~0x200000#48, fpNew := 0 }
    (∃ t, Ends s s t (exec (.rdfta c r 0) s) c (q.pc + 4#48) [r] 0 ∧ (t.core c).rd r = written r q.fta)
    ∧ (q.tpend = false →
      (∃ t, Ends s s t (exec (.rdfcsw c r 0) s) c (q.pc + 4#48) [r] 0 ∧ (t.core c).rd r = written r q.fcsw)
      ∧ (∃ t, FpFrame s t (exec (.wrfcsw c r 0) s) c [] [] 0 ∧ (t.core c).fcsw = w &&& 0x171F3F#48 ∧ (t.core c).fta = q.fta)
      ∧ (∃ t, Ends s s t (exec (.fbar c 0) s) c (q.pc + 4#48) [] 0)
      ∧ (m10 ≠ 0 → ∀ i ∈ [Instr.rdfcsw c r m10, .wrfcsw c r m10, .rdfta c r m10], Raises s (exec i s) c 0x1B (Exc.plain 1 0 0))
      ∧ (m15 ≠ 0 → Raises s (exec (.fbar c m15) s) c 0x1B (Exc.plain 1 0 0)))
    ∧ (q.tpend = true → ∀ i ∈ [Instr.rdfcsw c r 0, .wrfcsw c r 0, .fbar c 0],
        exec i s = .next (takeException u c ⟨0x0C, 0, q.fpNew, none, some q.ftaOp, false⟩ q.pc).settle)

/-! ### Statements of several parts -/

/-- R260, R264, R266: they read as zero after reset. R113, R263, R43, R49, R221, R693, R719: cold reset: the fabric and AON island held in reset, no
timebase count, cores at the boot ROM in Hall L stair 0 with interrupts masked and every general register zero, windows UNKNOWN, the Gallery stopped
and its timers idle, the charger OFF, set-up registers at their Reset column. The registers for which the spec gives no reset value are at the model's
(log entry 5), and no statement is made of them. -/
def Obligations.StateAtReset : Prop :=
  Claims.WiredBitsAtReset ∧ Claims.ResetLeavesTheBlockHeld

/-- R668, R674, R675, R677: in a running engine each test instruction makes ACC from ACC and the bit that A names, and goes on to the next instruction;
NOT, the flag instructions, the skips and END act as R677 says. Bits 0x100 to 0x13F are edges and their levels, 0x140 to 0x1BF the timers, 0x1C0 to
0x1DF the flags, and an input reads as the sweep's snapshot. R672, R679 to R683, R687: with ACC 1 an instruction of a running engine starts or stops a
timer, requests a pulse, drives a pin, wakes the device, fires a bell or queues a template; PULSE and POST leave in ACC whether they were accepted.
With ACC 0 none of them does anything, except that GPO in mode 3 drives the pin to ACC. R666 to R674, R684, R690 to R695: flags are set and cleared by
software; START and SWAP begin the check of a bank, which refuses it with a record or lets it take effect, as the active bank after START, at the
exchange after SWAP; STOP ends the engine. A sweep of a program that is END alone takes its snapshot, samples the edges, marks the timers, clears ACC
and counts; a missed due time is an OVERRUN. A queued template whose well is absent or not enabled is discarded with a record. -/
def Obligations.GalleryRunsItsPrograms : Prop :=
  Claims.GalleryTestsSetTheAccumulator ∧ Claims.GalleryActsWhenTheAccumulatorIsSet ∧ Claims.GalleryEngineSweepsAndLoads

/-- R702 to R710, R715 to R717: a pulse on a channel goes from its supply check to pull-in, hold, release and its end; sensing is taken in while the gate
may be on; the compliance, open and short rules act on what was sensed. At its end the outcome and the RESULT word are recorded and the channel is
free; a pulse of a well job leaves its completion. R703, R708, R713, R714: a latch job in the channel's place is checked; it completes with the status
of a failed check, or starts one pulse with the profile's values then in force. CANCEL turns the gate of a pulse off with ABORT. -/
def Obligations.LatchChannelsRunPulses : Prop :=
  Claims.LatchPulsesRunTheirCourse ∧ Claims.LatchJobsStartPulses

/-- R720 to R728, R730, R731: each charger command acts on the measurement that comes with it. PRECHARGE goes on to CC, CC to CV, CV to DONE, DONE begins
a charge; a charge begins in PRECHARGE or CC by VBAT, or suspended when the NTC code is outside its window; removal enters ABSENT with a record; three
confirming probes find the cell. R720, R728, R732 to R734: ENABLE of a charger that is OFF enters ABSENT, or SUSPEND while VAON is taken from the
cell; ENABLE 0 enters OFF; CLEARFAULT in FAULT begins a charge. VAON goes to the cell and back, suspending and resuming the charge; on the cell, the
stop of its regulator is a cold reset. -/
def Obligations.ChargerRuns : Prop :=
  Claims.ChargerFollowsItsMeasurements ∧ Claims.ChargerIsCommandedAndSwitched

/-- R211, R217, R218, R220, R221, R223, R224: a tick samples the enabled windows of its group; each keeps its last n raw samples, and its output changes
when k of them agree. A change of one window that no slot uses sets its event as EVSEL selects. A write of WIN_CFGn that clears ENABLE empties the
window, one that changes FILT refills its samples. R227 to R234, R236 to R243: START begins the scan at its first entry that names a channel, STOP
ends it; a sample is trimmed and written to the buffer, unless it is full; after the last entry the pass ends. A snapshot request takes the lowest
free slot or is lost; a completed snapshot fills its slot in BSRAM; writing 1 to a VALID bit frees one. -/
def Obligations.SensorsAreSampled : Prop :=
  Claims.WindowsFilterTheirSamples ∧ Claims.AdcScansAndTakesSnapshots

/-- R769, R770: a written frame joins the transmit FIFO, and goes out while the UART is enabled, idle and not paused by CTS; a full FIFO loses it with
TXOVF. RXPOP removes entries; a received frame joins the receive FIFO with its errors, or is lost with RXOVF; a sent frame frees its entry and the
next begins. R772 to R776: GO starts a transfer on a free port with the address, the bytes of the buffer and the length to read; RECOVER starts bus
recovery. The end of a transfer leaves its RESULT and count, the bytes read in the buffer, and the port free; a stretch time-out ends it with 4, or 5
when SDA stays low. -/
def Obligations.SerialPortsMoveData : Prop :=
  Claims.UartsMoveFrames ∧ Claims.I2cRunsTransfers

/-- R120, R743, R745 to R752: the link comes up at a rate and width within HLK_CFG and goes down; its power and D-states follow the host; configuration
writes set what they name; PME is signalled while it is enabled. Messages held for the host go of themselves once they may. R745, R795: a host request
that fails is reported through AER, a completion timeout also in HLK_EVT and its count; bank 6 records it, and the requester gets a machine check (a
core), HOST_ABORT (the journal and a copy lane), or its well disabled (the Pump). -/
def Obligations.LinkFollowsAndReports : Prop :=
  Claims.LinkFollowsTheHost ∧ Claims.FailedHostRequestsAreReported

/-- R754 to R759, R762: DRAM is trained anew on RETRAIN, or when its temperature has drifted by more than 40 °C; the codes found are free. A scrub
corrects the lines with correctable errors; DRAM leaves self-refresh once the oscillator runs. R765 to R767: GO on an idle controller issues the
command as FSP_CMD, FSP_ADDR and FSP_BUF then stand. A read that ends fills the buffer; PP clears in the flash the bits that are 0 in its data; what
any other command did to the contents is free. -/
def Obligations.DramAndFlashRun : Prop :=
  Claims.DramIsTrainedAndScrubbed ∧ Claims.FlashCommandsRun

/-- R112 to R117, R119, R841: a cold reset releases nothing and keeps what is non-volatile; a warm reset stops the fabric, records its cause and keeps the
AON island, and keeps DRAM contents only when its cause is one of R115; a Hall P reset stops the cores in Hall P; a released core starts at
PWR_COREENT. R133 to R135: ID_OTPPROG.GO starts programming a word, or sets ERR while another is programmed or the lifecycle locks the word; bits are
only ever set, and a bit that did not take sets ERR. R141 to R143: CAL_CTL.STORE erases the inactive bank and programs it from the buffer; the bank
becomes active once verified. -/
def Obligations.ResetsAndStores : Prop :=
  Claims.ResetsStopWhatTheyName ∧ Claims.NonVolatileStoresProgram

/-- R113, R121, R125, R129: the AON island is released from a cold reset with its oscillator, and with no valid calibration bank the power-up run starts;
the fabric is released when its supplies are up and no run of the table is under way; core 0 waits for the host's image, or sleeps when DRAM does not
train. The start word makes the boot ROM check the host's image, and one with a wrong magic is refused with code 0x10. R51, R60, R144 to R152: entry
begins only when every condition holds, and stops M with DRAM in self-refresh and T on its low-speed source; an enabled wake source cancels entry or
is kept for the wake; the wake records its sources and drives the rails; the fabric restarts core 0 at the vector of the woken hall. T returns to 24
MHz. A stalled segment is fenced and recorded, with a machine check on the core chosen. -/
def Obligations.StartUpAndSleep : Prop :=
  Claims.StartUpReleasesIslandsInOrder ∧ Claims.CisternSleepsAndWakes

/-- R157, R160 to R164, R168, R169, R175: GO checks the table and starts a run, which drives the slots of each up-step in turn and ends with UPDONE; a
slot is up when its power-good and window say so; one that is not up in time, or loses its power-good, fails with a record and a snapshot. R116, R172,
R176 to R178, R184: DOWN starts the shutdown run, which releases the slots of its entries in turn and waits for those with WAITLOW; a restart and the
return of the mains are warm resets that enter the start-up order at its third step. -/
def Obligations.SequencerRunsSlots : Prop :=
  Claims.PowerUpRunsDriveTheirSteps ∧ Claims.ShutdownRunsReleaseTheirSlots

/-- R185, R186, R189 to R193: a margin request is refused with its reason, or set at once through a margin DAC, or queued for PMBus; a tempo sample counts
high and low backlogs and moves the level by one within FLOOR and CEIL; the end of SETTLE leaves the new level's thresholds alone. R199 to R206:
strobes on KSYNC are counted and start the matching up-step of a device that takes part; the leader drives them; a high of 50 µs completes the step,
one of 2 ms restarts the count; a low of 1 ms is an abort, which stops the run and starts the shutdown run. -/
def Obligations.SequencerTrimsAndSteps : Prop :=
  Claims.MarginsAndTempoMoveSupplies ∧ Claims.KsyncStepsDevicesTogether

/-- R549, R550, R602, R861: ON = 1 takes effect only when the whole table lies in installed DRAM, with no well enabled and nothing cached; ON = 0, with no
well enabled or draining and no requeued job, writes every stale image back and empties the cache. R554 to R558: with legal values, a write of
PMP_WCTXk of a well that is neither enabled nor draining sets the fields of long k; RING0 is staged, and RING1 commits the pair; longs 7 to 15 take no
write. R559, R561, R563, R599: ENABLE = 1 enables a well that passes every check, else only CAUSE takes the first that fails; ENABLE = 0 discards what
is fetched, sets CI and EPHASE back, and drains while jobs are in flight. A miss is counted and reads the image into the cache. -/
def Obligations.WellsAreManaged : Prop :=
  Claims.WellTableLiesInDram ∧ Claims.ContextWindowWritesTheWell ∧ Claims.WellsStartAndStop

/-- R566 to R575, R590: the entry at CI of a running well in DRAM is fetched as a job of one descriptor: CI, EPHASE and FETCNT go on, and a Gen 2 job with
CPLMODE 1 has OWN cleared. A stale entry is counted and read again, STALEMAX times; then fetching stops with a record. R579 to R585: a doorbell sets
PI when it moves it forward within the ring, and is refused otherwise; one for an absent, disabled or Hall L well is dropped, one of another shape is
refused, with a count, an event and a record. A host read of the window returns CI and the well's state. R583, R586, R592 to R594: a kick of a Gen 3
well moves PI over the entries that carry their expected phase; a dropped kick is only counted. A poll scan kicks a hot well whose entry at PI carries
it; a well that cools leaves its place to the longest-waiting cold one. -/
def Obligations.DescriptorsAreFetchedAndAnnounced : Prop :=
  Claims.DescriptorsAreFetched ∧ Claims.DoorbellsMoveTheProducerIndex ∧ Claims.KicksFollowThePhases

/-- R603 to R608, R612, R613: a decision that arrives at a cistern adds its weight to its deficit and dispatches the next job of its next well, when the
deficit covers it; the deficit is charged, and cleared when the cistern has no eligible well left. A job whose check failed goes to the Pump, a core
job into a slot with a new tag and its copy in memory. With nothing eligible nothing happens. R575, R618 to R624: the completion of a finished job is
written to its ring at PI, with PHASE, and the job leaves; PI and UNN go on, PHASE inverts at the wrap, and at MCOUNT, or after MTIME, the ring
notifies. A Gen 2 job with CPLMODE 0 completes in its descriptor. -/
def Obligations.JobsAreScheduledAndCompleted : Prop :=
  Claims.SchedulerDispatchesByDeficit ∧ Claims.CompletionsAreWritten

/-- R610, R616, R617, R619: ENABLE = 1 of a ring clears CI, PI and ERR; ENABLE = 0 is applied when nothing needs the ring, or in error; CI goes forward
only up to PI, else CQ_EVT.BADCI is set. An inlet area is on only inside installed DRAM. R628 to R630: an expiry marks the lease of the job in a slot
and writes PMP_LEASEREC; a revocation of an expired lease requeues the job, with a REQUEUED completion, while its well allows it, and else abandons
it; one of a live lease answers NOTEXPIRED, one of no live token NOJOB. R98 to R108, R631: GO publishes the list: a single legal entry that names a
well affects that well, and leaves BUSY at 1. An affected well with no job in flight adopts its new settings when the walk reaches it; the last one
ends the epoch. -/
def Obligations.RingsLeasesAndEpochs : Prop :=
  Claims.CompletionRingsAreManaged ∧ Claims.LeasesExpireAndAreRevoked ∧ Claims.EpochsArePublishedAndCrossed

/-- R636 to R648, R656, R657: an APPEND that fails a check ends with its status; else its record, chained by PREV and HASH and with a MAC when asked, is
staged after a pad marker at the ring's end, the head takes its SEQ and HASH, and it ends with the SEQ, or waits for its flush in DURABLE. A FLUSH
ends at once when nothing is staged. SEED sets the head while none is valid. R647, R649 to R652, R665: a batch takes what is staged when it starts and
copies it to the destination: to FLASH by programming, to HOST into its ring; a record that does not fit sets DESTFULL; a program that fails ends the
batch. Its end advances JNL_STFL and completes a job that waits for it. The MAC key is loaded by its last register and cleared by CLEAR. R659 to R664:
the job of a lane ends with the status of its first failed check; a COPY of one range, or a FILL, between disjoint ranges of DRAM writes exactly LEN
bytes at its destination and ends with LEN; one stopped by CPY_CFG.TO after k bursts has written their bytes and ends with CPY_TIMEOUT. -/
def Obligations.EnginesRunTheirJobs : Prop :=
  Claims.JournalAppendsRecords ∧ Claims.JournalFlushesBatches ∧ Claims.CopyJobsMoveBytes

/-- R73 to R82, R86: a permitted write sets the writable fields of its register and nothing else; an illegal value is clamped, counted and logged; a host
write that is not permitted, or not of one dword, is dropped and recorded. A host read returns the registers and changes nothing, but for the capture
of TMB_TBHI. R79, R87 to R96: a write of an opening member is staged; the closing member of a window's pair commits both, the staged value or the
current one with it; ACCLOCK.LOCK is set and then holds the grants; CLEAR empties the clamp log. -/
def Obligations.SetupSpaceIsKept : Prop :=
  Claims.SetupSpaceIsWrittenAndRead ∧ Claims.PairsAndLocksOfSetup

/-- R472, R473, R537, R538, R544, R545, R741, R742: a first WDL expiry makes the event due on the lowest free core and restarts the count; a WDP expiry
stops its count and fires its bell. ENABLE of the frame keys empties every key cache, and needs the store in DRAM; LOCK is set. Through BAR4 the host
reads and writes DRAM. R786 to R792: an instruction is loaded; a scan captures the levels at the balls and what the device puts there, and the cells
take what is shifted in. A permitted debug access reads or writes a long of memory, or reads half a register of a halted core; HALT, RESUME and STEP
act on a core in the hall named; others are denied. -/
def Obligations.KeysAndDebug : Prop :=
  Claims.KeysWindowsAndHallWatchdogs ∧ Claims.JtagScansAndDebugs

/-- R800 to R807, R820: an unfence request is accepted, or answers NOTFENCED, NEEDRESET or NOTHELD; its end returns the segment to service. A free lock is
acquired with a new GEN; its owner with the ticket renews, releases or clears TAINT; an expired one is revoked by Hall L; expiry sets EXPIRED once.
R815 to R818: the two service writes of a Hall L core restart the count; an expiry records what it revokes, makes the event due on the lowest free
core and begins GRACE; when GRACE ends without service, a warm reset follows. -/
def Obligations.FaultsAreRecovered : Prop :=
  Claims.FencesAndLocksRecover ∧ Claims.DeviceWatchdogIsServiced

/-- R288 and R294: a register shift takes its count from the low six bits of Wb; with S, C is the last bit shifted out for a count of 1 to 48, and V is 0.
The immediate forms take a count of 0 to 63 and leave the flags. R286: SXB, SXH and SXL extend the sign of a byte, half and long; CLZ counts the zero
bits above the highest bit set; POPC counts the bits set. RB is zero. -/
def Obligations.ShiftsExtensionsAndCounts : Prop :=
  Claims.ShiftsGiveResultAndCarry ∧ Claims.ExtensionsAndCountsGiveResult

/-- R248, R282, R296: a load from installed DRAM, translation and keys off, reads the bytes of memory, the lowest address least significant. R427, R428: a
store to installed DRAM, translation and keys off, enters the core's store buffer: no byte of memory changes, and while the buffer has room nothing
leaves it. R429, R430: a load of the bytes that the same core has just stored reads the value stored, whether the store still waits in the buffer or
not. -/
def Obligations.DramLoadsAndStores : Prop :=
  Claims.LoadFromDramReadsItsBytes ∧ Claims.StoreToDramWaitsInTheBuffer ∧ Claims.LoadAfterStoreReadsTheValue

/-- R341 to R346: on valid packed operands in DRAM, read as they stand, DADD, DSUB, DMUL, DDIV, DREM and DSCALE replace operand 1 by the low digits of the
true result with its preferred sign, and set N, Z, V and DO by it (R332, R337, R338); DCMP sets N and Z only and stores nothing. Overflow while DOT is
1 traps after all of this (R339). R335, R336, R341, R345: a length or mode relation that fails raises Illegal Instruction before an operand is read;
the first invalid nibble of operand 1, else of operand 2, raises Decimal Data with its cause and the address of its byte; a divisor of zero raises
Decimal Divide Check. Nothing is written. -/
def Obligations.DecimalFieldsAreReplaced : Prop :=
  Claims.DecimalFieldsAreComputed ∧ Claims.DecimalOperandsAreChecked

/-- R347 to R349: the conversions between packed, zoned and binary on operands in DRAM: the result, cut to its destination, the flags and DO; a zero field
that is not zero, or a register that is no pair, is illegal, and an invalid source byte raises Decimal Data as operand 2. R350 to R352: on
accumulators that hold valid values, the accumulator instructions write the low 31 digits of the true result, or its binary form, and set the flags
and DO by it; DACMP sets N and Z only; DALD reads and DAST stores a packed field in DRAM. An accumulator field above 7, a length above 16 or a zero
field that is not zero is illegal. -/
def Obligations.DecimalConversionsAndAccumulators : Prop :=
  Claims.DecimalConversionsConvert ∧ Claims.AccumulatorsCompute

/-- R364, R368, R370, R376 to R379: on a pattern and source fields in DRAM, EDIT and EDITM write the edited output, at most as many bytes as the pattern
has, and leave RD and RA after the last output and source byte and N, Z and C by the last field; EDITM leaves the mark in RX. An invalid nibble raises
Decimal Data as operand 1, and nothing is written. R361, R381 to R383, R386 to R388, R390, R392: MOVS, MOVB, MOVT and FILLS over DRAM, of one unit of
a longer string (an execution that an interrupt ends after it) or whole, up to 2,048 bytes: each byte is written before the next is read, the
registers record the progress, no flag changes, and the PC moves only when the string is done. A length of zero accesses nothing. R381, R382, R384 to
R387: CMPS, SCNS and TRTS over DRAM, of any length: where they stop, the flags, the byte found and the registers, which then address it; at the end of
the operand they say so. Nothing is stored. -/
def Obligations.EditsAndStrings : Prop :=
  Claims.EditsWriteTheirOutput ∧ Claims.StringMovesCopyByteByByte ∧ Claims.StringScansStopAtTheFirst

/-- R395, R402 to R404, R413 to R415: each arithmetic and conversion instruction writes its format's rounded result of its inputs, by the RM field or,
with 7, by FCSW.RM, raises the operation's flags, and follows the subnormal mode; a must-be-zero field that is not zero or a reserved RM is illegal.
R396, R398, R413: the formats' operations on numbers that are not subnormal are correctly rounded by each attribute, once, and NX tells whether the
result is exact; a conversion to a word saturates out of range and raises NV. R403, R417 to R419: the first NaN of an operation's inputs is its
result, quieted; a signalling one raises NV, and an invalid operation without NaN gives the default NaN and NV; a number that is not zero over zero is
an infinity, with DZ. -/
def Obligations.FloatingPointArithmetic : Prop :=
  Claims.FpArithmeticFollowsTheFormats ∧ Claims.FpResultsAreCorrectlyRounded ∧ Claims.FpNansAndInvalidOperations

/-- R395, R397, R399, R400, R416: FCMP sets the flags by the order of its operands and raises NV for a signalling NaN, or with S for any; FCLASS writes
the class mask; FMOV, FNEG, FABS and FCPYS change the sign bit alone. Subnormals are taken as they are. Fields that must be zero are checked. R251,
R300, R401: the floating-point loads and stores: address, alignment, the register or the bytes, and the exception of an access that cannot be
performed; over DRAM they complete. FMVWF and FMVFW move the halves of a register. R401, R404, R405, R407, R409, R411, R412: RDFCSW and RDFTA read;
WRFCSW writes the writable fields, RM 5 to 7 as 0, and makes no trap pending; FBAR does nothing more. With a trap pending, FBAR, RDFCSW and WRFCSW
deliver it in their place: TPEND is cleared, the saved PC is theirs, and the syndrome carries the flags raised since and the class of the instruction
FTA names. -/
def Obligations.FloatingPointMovesAndStatus : Prop :=
  Claims.FpComparesAndMovesSigns ∧ Claims.FpLoadsStoresAndMoves ∧ Claims.FpStatusIsMovedAndTrapsDelivered
end

