-- ==== Sys2Proof/Laws/State.lean ====
section
/-! SUPPORT. What each update of the state leaves: one lemma per field and update, so that no later proof unfolds a record update. -/
namespace Sys2Proof.Machine

variable (s : State) (k : Core) (c : CoreId) (g : Core → Core) (fld : Fld) (o v n : Nat) (b : Bool)


/-! ### updSeq -/

@[simp] theorem State.updSeq_pending (f : Seq → Seq) : (s.updSeq f).pending = s.pending := rfl
@[simp] theorem State.updSeq_variant (f : Seq → Seq) : (s.updSeq f).variant = s.variant := rfl
@[simp] theorem State.updSeq_freeCtr (f : Seq → Seq) : (s.updSeq f).freeCtr = s.freeCtr := rfl
@[simp] theorem State.updSeq_regs (f : Seq → Seq) : (s.updSeq f).regs = s.regs := rfl
@[simp] theorem State.updSeq_staged (f : Seq → Seq) : (s.updSeq f).staged = s.staged := rfl
@[simp] theorem State.updSeq_mem (f : Seq → Seq) : (s.updSeq f).mem = s.mem := rfl
@[simp] theorem State.updSeq_host (f : Seq → Seq) : (s.updSeq f).host = s.host := rfl
@[simp] theorem State.updSeq_dramGen (f : Seq → Seq) : (s.updSeq f).dramGen = s.dramGen := rfl
@[simp] theorem State.updSeq_dram (f : Seq → Seq) : (s.updSeq f).dram = s.dram := rfl
@[simp] theorem State.updSeq_flashGen (f : Seq → Seq) : (s.updSeq f).flashGen = s.flashGen := rfl
@[simp] theorem State.updSeq_flashBusy (f : Seq → Seq) : (s.updSeq f).flashBusy = s.flashBusy := rfl
@[simp] theorem State.updSeq_flashCmd (f : Seq → Seq) : (s.updSeq f).flashCmd = s.flashCmd := rfl
@[simp] theorem State.updSeq_link (f : Seq → Seq) : (s.updSeq f).link = s.link := rfl
@[simp] theorem State.updSeq_tb (f : Seq → Seq) : (s.updSeq f).tb = s.tb := rfl
@[simp] theorem State.updSeq_clk (f : Seq → Seq) : (s.updSeq f).clk = s.clk := rfl
@[simp] theorem State.updSeq_cores (f : Seq → Seq) : (s.updSeq f).cores = s.cores := rfl
@[simp] theorem State.updSeq_pwr (f : Seq → Seq) : (s.updSeq f).pwr = s.pwr := rfl
@[simp] theorem State.updSeq_seq (f : Seq → Seq) : (s.updSeq f).seq = f s.seq := rfl
@[simp] theorem State.updSeq_wins (f : Seq → Seq) : (s.updSeq f).wins = s.wins := rfl
@[simp] theorem State.updSeq_adc (f : Seq → Seq) : (s.updSeq f).adc = s.adc := rfl
@[simp] theorem State.updSeq_bel (f : Seq → Seq) : (s.updSeq f).bel = s.bel := rfl
@[simp] theorem State.updSeq_pump (f : Seq → Seq) : (s.updSeq f).pump = s.pump := rfl
@[simp] theorem State.updSeq_eng (f : Seq → Seq) : (s.updSeq f).eng = s.eng := rfl
@[simp] theorem State.updSeq_gal (f : Seq → Seq) : (s.updSeq f).gal = s.gal := rfl
@[simp] theorem State.updSeq_latch (f : Seq → Seq) : (s.updSeq f).latch = s.latch := rfl
@[simp] theorem State.updSeq_chg (f : Seq → Seq) : (s.updSeq f).chg = s.chg := rfl
@[simp] theorem State.updSeq_uarts (f : Seq → Seq) : (s.updSeq f).uarts = s.uarts := rfl
@[simp] theorem State.updSeq_i2c (f : Seq → Seq) : (s.updSeq f).i2c = s.i2c := rfl
@[simp] theorem State.updSeq_bankUp (f : Seq → Seq) : (s.updSeq f).bankUp = s.bankUp := rfl
@[simp] theorem State.updSeq_jtag (f : Seq → Seq) : (s.updSeq f).jtag = s.jtag := rfl
@[simp] theorem State.updSeq_flt (f : Seq → Seq) : (s.updSeq f).flt = s.flt := rfl
@[simp] theorem State.updSeq_resp (f : Seq → Seq) : (s.updSeq f).resp = s.resp := rfl

/-! ### updPwr -/

@[simp] theorem State.updPwr_pending (f : Pwr → Pwr) : (s.updPwr f).pending = s.pending := rfl
@[simp] theorem State.updPwr_variant (f : Pwr → Pwr) : (s.updPwr f).variant = s.variant := rfl
@[simp] theorem State.updPwr_freeCtr (f : Pwr → Pwr) : (s.updPwr f).freeCtr = s.freeCtr := rfl
@[simp] theorem State.updPwr_regs (f : Pwr → Pwr) : (s.updPwr f).regs = s.regs := rfl
@[simp] theorem State.updPwr_staged (f : Pwr → Pwr) : (s.updPwr f).staged = s.staged := rfl
@[simp] theorem State.updPwr_mem (f : Pwr → Pwr) : (s.updPwr f).mem = s.mem := rfl
@[simp] theorem State.updPwr_host (f : Pwr → Pwr) : (s.updPwr f).host = s.host := rfl
@[simp] theorem State.updPwr_dramGen (f : Pwr → Pwr) : (s.updPwr f).dramGen = s.dramGen := rfl
@[simp] theorem State.updPwr_dram (f : Pwr → Pwr) : (s.updPwr f).dram = s.dram := rfl
@[simp] theorem State.updPwr_flashGen (f : Pwr → Pwr) : (s.updPwr f).flashGen = s.flashGen := rfl
@[simp] theorem State.updPwr_flashBusy (f : Pwr → Pwr) : (s.updPwr f).flashBusy = s.flashBusy := rfl
@[simp] theorem State.updPwr_flashCmd (f : Pwr → Pwr) : (s.updPwr f).flashCmd = s.flashCmd := rfl
@[simp] theorem State.updPwr_link (f : Pwr → Pwr) : (s.updPwr f).link = s.link := rfl
@[simp] theorem State.updPwr_tb (f : Pwr → Pwr) : (s.updPwr f).tb = s.tb := rfl
@[simp] theorem State.updPwr_clk (f : Pwr → Pwr) : (s.updPwr f).clk = s.clk := rfl
@[simp] theorem State.updPwr_cores (f : Pwr → Pwr) : (s.updPwr f).cores = s.cores := rfl
@[simp] theorem State.updPwr_pwr (f : Pwr → Pwr) : (s.updPwr f).pwr = f s.pwr := rfl
@[simp] theorem State.updPwr_seq (f : Pwr → Pwr) : (s.updPwr f).seq = s.seq := rfl
@[simp] theorem State.updPwr_wins (f : Pwr → Pwr) : (s.updPwr f).wins = s.wins := rfl
@[simp] theorem State.updPwr_adc (f : Pwr → Pwr) : (s.updPwr f).adc = s.adc := rfl
@[simp] theorem State.updPwr_bel (f : Pwr → Pwr) : (s.updPwr f).bel = s.bel := rfl
@[simp] theorem State.updPwr_pump (f : Pwr → Pwr) : (s.updPwr f).pump = s.pump := rfl
@[simp] theorem State.updPwr_eng (f : Pwr → Pwr) : (s.updPwr f).eng = s.eng := rfl
@[simp] theorem State.updPwr_gal (f : Pwr → Pwr) : (s.updPwr f).gal = s.gal := rfl
@[simp] theorem State.updPwr_latch (f : Pwr → Pwr) : (s.updPwr f).latch = s.latch := rfl
@[simp] theorem State.updPwr_chg (f : Pwr → Pwr) : (s.updPwr f).chg = s.chg := rfl
@[simp] theorem State.updPwr_uarts (f : Pwr → Pwr) : (s.updPwr f).uarts = s.uarts := rfl
@[simp] theorem State.updPwr_i2c (f : Pwr → Pwr) : (s.updPwr f).i2c = s.i2c := rfl
@[simp] theorem State.updPwr_bankUp (f : Pwr → Pwr) : (s.updPwr f).bankUp = s.bankUp := rfl
@[simp] theorem State.updPwr_jtag (f : Pwr → Pwr) : (s.updPwr f).jtag = s.jtag := rfl
@[simp] theorem State.updPwr_flt (f : Pwr → Pwr) : (s.updPwr f).flt = s.flt := rfl
@[simp] theorem State.updPwr_resp (f : Pwr → Pwr) : (s.updPwr f).resp = s.resp := rfl

/-! ### updBel -/

@[simp] theorem State.updBel_pending (f : Bells → Bells) : (s.updBel f).pending = s.pending := rfl
@[simp] theorem State.updBel_variant (f : Bells → Bells) : (s.updBel f).variant = s.variant := rfl
@[simp] theorem State.updBel_freeCtr (f : Bells → Bells) : (s.updBel f).freeCtr = s.freeCtr := rfl
@[simp] theorem State.updBel_regs (f : Bells → Bells) : (s.updBel f).regs = s.regs := rfl
@[simp] theorem State.updBel_staged (f : Bells → Bells) : (s.updBel f).staged = s.staged := rfl
@[simp] theorem State.updBel_mem (f : Bells → Bells) : (s.updBel f).mem = s.mem := rfl
@[simp] theorem State.updBel_host (f : Bells → Bells) : (s.updBel f).host = s.host := rfl
@[simp] theorem State.updBel_dramGen (f : Bells → Bells) : (s.updBel f).dramGen = s.dramGen := rfl
@[simp] theorem State.updBel_dram (f : Bells → Bells) : (s.updBel f).dram = s.dram := rfl
@[simp] theorem State.updBel_flashGen (f : Bells → Bells) : (s.updBel f).flashGen = s.flashGen := rfl
@[simp] theorem State.updBel_flashBusy (f : Bells → Bells) : (s.updBel f).flashBusy = s.flashBusy := rfl
@[simp] theorem State.updBel_flashCmd (f : Bells → Bells) : (s.updBel f).flashCmd = s.flashCmd := rfl
@[simp] theorem State.updBel_link (f : Bells → Bells) : (s.updBel f).link = s.link := rfl
@[simp] theorem State.updBel_tb (f : Bells → Bells) : (s.updBel f).tb = s.tb := rfl
@[simp] theorem State.updBel_clk (f : Bells → Bells) : (s.updBel f).clk = s.clk := rfl
@[simp] theorem State.updBel_cores (f : Bells → Bells) : (s.updBel f).cores = s.cores := rfl
@[simp] theorem State.updBel_pwr (f : Bells → Bells) : (s.updBel f).pwr = s.pwr := rfl
@[simp] theorem State.updBel_seq (f : Bells → Bells) : (s.updBel f).seq = s.seq := rfl
@[simp] theorem State.updBel_wins (f : Bells → Bells) : (s.updBel f).wins = s.wins := rfl
@[simp] theorem State.updBel_adc (f : Bells → Bells) : (s.updBel f).adc = s.adc := rfl
@[simp] theorem State.updBel_bel (f : Bells → Bells) : (s.updBel f).bel = f s.bel := rfl
@[simp] theorem State.updBel_pump (f : Bells → Bells) : (s.updBel f).pump = s.pump := rfl
@[simp] theorem State.updBel_eng (f : Bells → Bells) : (s.updBel f).eng = s.eng := rfl
@[simp] theorem State.updBel_gal (f : Bells → Bells) : (s.updBel f).gal = s.gal := rfl
@[simp] theorem State.updBel_latch (f : Bells → Bells) : (s.updBel f).latch = s.latch := rfl
@[simp] theorem State.updBel_chg (f : Bells → Bells) : (s.updBel f).chg = s.chg := rfl
@[simp] theorem State.updBel_uarts (f : Bells → Bells) : (s.updBel f).uarts = s.uarts := rfl
@[simp] theorem State.updBel_i2c (f : Bells → Bells) : (s.updBel f).i2c = s.i2c := rfl
@[simp] theorem State.updBel_bankUp (f : Bells → Bells) : (s.updBel f).bankUp = s.bankUp := rfl
@[simp] theorem State.updBel_jtag (f : Bells → Bells) : (s.updBel f).jtag = s.jtag := rfl
@[simp] theorem State.updBel_flt (f : Bells → Bells) : (s.updBel f).flt = s.flt := rfl
@[simp] theorem State.updBel_resp (f : Bells → Bells) : (s.updBel f).resp = s.resp := rfl

/-! ### updLink -/

@[simp] theorem State.updLink_pending (f : Link → Link) : (s.updLink f).pending = s.pending := rfl
@[simp] theorem State.updLink_variant (f : Link → Link) : (s.updLink f).variant = s.variant := rfl
@[simp] theorem State.updLink_freeCtr (f : Link → Link) : (s.updLink f).freeCtr = s.freeCtr := rfl
@[simp] theorem State.updLink_regs (f : Link → Link) : (s.updLink f).regs = s.regs := rfl
@[simp] theorem State.updLink_staged (f : Link → Link) : (s.updLink f).staged = s.staged := rfl
@[simp] theorem State.updLink_mem (f : Link → Link) : (s.updLink f).mem = s.mem := rfl
@[simp] theorem State.updLink_host (f : Link → Link) : (s.updLink f).host = s.host := rfl
@[simp] theorem State.updLink_dramGen (f : Link → Link) : (s.updLink f).dramGen = s.dramGen := rfl
@[simp] theorem State.updLink_dram (f : Link → Link) : (s.updLink f).dram = s.dram := rfl
@[simp] theorem State.updLink_flashGen (f : Link → Link) : (s.updLink f).flashGen = s.flashGen := rfl
@[simp] theorem State.updLink_flashBusy (f : Link → Link) : (s.updLink f).flashBusy = s.flashBusy := rfl
@[simp] theorem State.updLink_flashCmd (f : Link → Link) : (s.updLink f).flashCmd = s.flashCmd := rfl
@[simp] theorem State.updLink_link (f : Link → Link) : (s.updLink f).link = f s.link := rfl
@[simp] theorem State.updLink_tb (f : Link → Link) : (s.updLink f).tb = s.tb := rfl
@[simp] theorem State.updLink_clk (f : Link → Link) : (s.updLink f).clk = s.clk := rfl
@[simp] theorem State.updLink_cores (f : Link → Link) : (s.updLink f).cores = s.cores := rfl
@[simp] theorem State.updLink_pwr (f : Link → Link) : (s.updLink f).pwr = s.pwr := rfl
@[simp] theorem State.updLink_seq (f : Link → Link) : (s.updLink f).seq = s.seq := rfl
@[simp] theorem State.updLink_wins (f : Link → Link) : (s.updLink f).wins = s.wins := rfl
@[simp] theorem State.updLink_adc (f : Link → Link) : (s.updLink f).adc = s.adc := rfl
@[simp] theorem State.updLink_bel (f : Link → Link) : (s.updLink f).bel = s.bel := rfl
@[simp] theorem State.updLink_pump (f : Link → Link) : (s.updLink f).pump = s.pump := rfl
@[simp] theorem State.updLink_eng (f : Link → Link) : (s.updLink f).eng = s.eng := rfl
@[simp] theorem State.updLink_gal (f : Link → Link) : (s.updLink f).gal = s.gal := rfl
@[simp] theorem State.updLink_latch (f : Link → Link) : (s.updLink f).latch = s.latch := rfl
@[simp] theorem State.updLink_chg (f : Link → Link) : (s.updLink f).chg = s.chg := rfl
@[simp] theorem State.updLink_uarts (f : Link → Link) : (s.updLink f).uarts = s.uarts := rfl
@[simp] theorem State.updLink_i2c (f : Link → Link) : (s.updLink f).i2c = s.i2c := rfl
@[simp] theorem State.updLink_bankUp (f : Link → Link) : (s.updLink f).bankUp = s.bankUp := rfl
@[simp] theorem State.updLink_jtag (f : Link → Link) : (s.updLink f).jtag = s.jtag := rfl
@[simp] theorem State.updLink_flt (f : Link → Link) : (s.updLink f).flt = s.flt := rfl
@[simp] theorem State.updLink_resp (f : Link → Link) : (s.updLink f).resp = s.resp := rfl

/-! ### updPump -/

@[simp] theorem State.updPump_pending (f : Pump → Pump) : (s.updPump f).pending = s.pending := rfl
@[simp] theorem State.updPump_variant (f : Pump → Pump) : (s.updPump f).variant = s.variant := rfl
@[simp] theorem State.updPump_freeCtr (f : Pump → Pump) : (s.updPump f).freeCtr = s.freeCtr := rfl
@[simp] theorem State.updPump_regs (f : Pump → Pump) : (s.updPump f).regs = s.regs := rfl
@[simp] theorem State.updPump_staged (f : Pump → Pump) : (s.updPump f).staged = s.staged := rfl
@[simp] theorem State.updPump_mem (f : Pump → Pump) : (s.updPump f).mem = s.mem := rfl
@[simp] theorem State.updPump_host (f : Pump → Pump) : (s.updPump f).host = s.host := rfl
@[simp] theorem State.updPump_dramGen (f : Pump → Pump) : (s.updPump f).dramGen = s.dramGen := rfl
@[simp] theorem State.updPump_dram (f : Pump → Pump) : (s.updPump f).dram = s.dram := rfl
@[simp] theorem State.updPump_flashGen (f : Pump → Pump) : (s.updPump f).flashGen = s.flashGen := rfl
@[simp] theorem State.updPump_flashBusy (f : Pump → Pump) : (s.updPump f).flashBusy = s.flashBusy := rfl
@[simp] theorem State.updPump_flashCmd (f : Pump → Pump) : (s.updPump f).flashCmd = s.flashCmd := rfl
@[simp] theorem State.updPump_link (f : Pump → Pump) : (s.updPump f).link = s.link := rfl
@[simp] theorem State.updPump_tb (f : Pump → Pump) : (s.updPump f).tb = s.tb := rfl
@[simp] theorem State.updPump_clk (f : Pump → Pump) : (s.updPump f).clk = s.clk := rfl
@[simp] theorem State.updPump_cores (f : Pump → Pump) : (s.updPump f).cores = s.cores := rfl
@[simp] theorem State.updPump_pwr (f : Pump → Pump) : (s.updPump f).pwr = s.pwr := rfl
@[simp] theorem State.updPump_seq (f : Pump → Pump) : (s.updPump f).seq = s.seq := rfl
@[simp] theorem State.updPump_wins (f : Pump → Pump) : (s.updPump f).wins = s.wins := rfl
@[simp] theorem State.updPump_adc (f : Pump → Pump) : (s.updPump f).adc = s.adc := rfl
@[simp] theorem State.updPump_bel (f : Pump → Pump) : (s.updPump f).bel = s.bel := rfl
@[simp] theorem State.updPump_pump (f : Pump → Pump) : (s.updPump f).pump = f s.pump := rfl
@[simp] theorem State.updPump_eng (f : Pump → Pump) : (s.updPump f).eng = s.eng := rfl
@[simp] theorem State.updPump_gal (f : Pump → Pump) : (s.updPump f).gal = s.gal := rfl
@[simp] theorem State.updPump_latch (f : Pump → Pump) : (s.updPump f).latch = s.latch := rfl
@[simp] theorem State.updPump_chg (f : Pump → Pump) : (s.updPump f).chg = s.chg := rfl
@[simp] theorem State.updPump_uarts (f : Pump → Pump) : (s.updPump f).uarts = s.uarts := rfl
@[simp] theorem State.updPump_i2c (f : Pump → Pump) : (s.updPump f).i2c = s.i2c := rfl
@[simp] theorem State.updPump_bankUp (f : Pump → Pump) : (s.updPump f).bankUp = s.bankUp := rfl
@[simp] theorem State.updPump_jtag (f : Pump → Pump) : (s.updPump f).jtag = s.jtag := rfl
@[simp] theorem State.updPump_flt (f : Pump → Pump) : (s.updPump f).flt = s.flt := rfl
@[simp] theorem State.updPump_resp (f : Pump → Pump) : (s.updPump f).resp = s.resp := rfl

/-! ### updEng -/

@[simp] theorem State.updEng_pending (f : Engines → Engines) : (s.updEng f).pending = s.pending := rfl
@[simp] theorem State.updEng_variant (f : Engines → Engines) : (s.updEng f).variant = s.variant := rfl
@[simp] theorem State.updEng_freeCtr (f : Engines → Engines) : (s.updEng f).freeCtr = s.freeCtr := rfl
@[simp] theorem State.updEng_regs (f : Engines → Engines) : (s.updEng f).regs = s.regs := rfl
@[simp] theorem State.updEng_staged (f : Engines → Engines) : (s.updEng f).staged = s.staged := rfl
@[simp] theorem State.updEng_mem (f : Engines → Engines) : (s.updEng f).mem = s.mem := rfl
@[simp] theorem State.updEng_host (f : Engines → Engines) : (s.updEng f).host = s.host := rfl
@[simp] theorem State.updEng_dramGen (f : Engines → Engines) : (s.updEng f).dramGen = s.dramGen := rfl
@[simp] theorem State.updEng_dram (f : Engines → Engines) : (s.updEng f).dram = s.dram := rfl
@[simp] theorem State.updEng_flashGen (f : Engines → Engines) : (s.updEng f).flashGen = s.flashGen := rfl
@[simp] theorem State.updEng_flashBusy (f : Engines → Engines) : (s.updEng f).flashBusy = s.flashBusy := rfl
@[simp] theorem State.updEng_flashCmd (f : Engines → Engines) : (s.updEng f).flashCmd = s.flashCmd := rfl
@[simp] theorem State.updEng_link (f : Engines → Engines) : (s.updEng f).link = s.link := rfl
@[simp] theorem State.updEng_tb (f : Engines → Engines) : (s.updEng f).tb = s.tb := rfl
@[simp] theorem State.updEng_clk (f : Engines → Engines) : (s.updEng f).clk = s.clk := rfl
@[simp] theorem State.updEng_cores (f : Engines → Engines) : (s.updEng f).cores = s.cores := rfl
@[simp] theorem State.updEng_pwr (f : Engines → Engines) : (s.updEng f).pwr = s.pwr := rfl
@[simp] theorem State.updEng_seq (f : Engines → Engines) : (s.updEng f).seq = s.seq := rfl
@[simp] theorem State.updEng_wins (f : Engines → Engines) : (s.updEng f).wins = s.wins := rfl
@[simp] theorem State.updEng_adc (f : Engines → Engines) : (s.updEng f).adc = s.adc := rfl
@[simp] theorem State.updEng_bel (f : Engines → Engines) : (s.updEng f).bel = s.bel := rfl
@[simp] theorem State.updEng_pump (f : Engines → Engines) : (s.updEng f).pump = s.pump := rfl
@[simp] theorem State.updEng_eng (f : Engines → Engines) : (s.updEng f).eng = f s.eng := rfl
@[simp] theorem State.updEng_gal (f : Engines → Engines) : (s.updEng f).gal = s.gal := rfl
@[simp] theorem State.updEng_latch (f : Engines → Engines) : (s.updEng f).latch = s.latch := rfl
@[simp] theorem State.updEng_chg (f : Engines → Engines) : (s.updEng f).chg = s.chg := rfl
@[simp] theorem State.updEng_uarts (f : Engines → Engines) : (s.updEng f).uarts = s.uarts := rfl
@[simp] theorem State.updEng_i2c (f : Engines → Engines) : (s.updEng f).i2c = s.i2c := rfl
@[simp] theorem State.updEng_bankUp (f : Engines → Engines) : (s.updEng f).bankUp = s.bankUp := rfl
@[simp] theorem State.updEng_jtag (f : Engines → Engines) : (s.updEng f).jtag = s.jtag := rfl
@[simp] theorem State.updEng_flt (f : Engines → Engines) : (s.updEng f).flt = s.flt := rfl
@[simp] theorem State.updEng_resp (f : Engines → Engines) : (s.updEng f).resp = s.resp := rfl

/-! ### updDram -/

@[simp] theorem State.updDram_pending (f : DramCtl → DramCtl) : (s.updDram f).pending = s.pending := rfl
@[simp] theorem State.updDram_variant (f : DramCtl → DramCtl) : (s.updDram f).variant = s.variant := rfl
@[simp] theorem State.updDram_freeCtr (f : DramCtl → DramCtl) : (s.updDram f).freeCtr = s.freeCtr := rfl
@[simp] theorem State.updDram_regs (f : DramCtl → DramCtl) : (s.updDram f).regs = s.regs := rfl
@[simp] theorem State.updDram_staged (f : DramCtl → DramCtl) : (s.updDram f).staged = s.staged := rfl
@[simp] theorem State.updDram_mem (f : DramCtl → DramCtl) : (s.updDram f).mem = s.mem := rfl
@[simp] theorem State.updDram_host (f : DramCtl → DramCtl) : (s.updDram f).host = s.host := rfl
@[simp] theorem State.updDram_dramGen (f : DramCtl → DramCtl) : (s.updDram f).dramGen = s.dramGen := rfl
@[simp] theorem State.updDram_dram (f : DramCtl → DramCtl) : (s.updDram f).dram = f s.dram := rfl
@[simp] theorem State.updDram_flashGen (f : DramCtl → DramCtl) : (s.updDram f).flashGen = s.flashGen := rfl
@[simp] theorem State.updDram_flashBusy (f : DramCtl → DramCtl) : (s.updDram f).flashBusy = s.flashBusy := rfl
@[simp] theorem State.updDram_flashCmd (f : DramCtl → DramCtl) : (s.updDram f).flashCmd = s.flashCmd := rfl
@[simp] theorem State.updDram_link (f : DramCtl → DramCtl) : (s.updDram f).link = s.link := rfl
@[simp] theorem State.updDram_tb (f : DramCtl → DramCtl) : (s.updDram f).tb = s.tb := rfl
@[simp] theorem State.updDram_clk (f : DramCtl → DramCtl) : (s.updDram f).clk = s.clk := rfl
@[simp] theorem State.updDram_cores (f : DramCtl → DramCtl) : (s.updDram f).cores = s.cores := rfl
@[simp] theorem State.updDram_pwr (f : DramCtl → DramCtl) : (s.updDram f).pwr = s.pwr := rfl
@[simp] theorem State.updDram_seq (f : DramCtl → DramCtl) : (s.updDram f).seq = s.seq := rfl
@[simp] theorem State.updDram_wins (f : DramCtl → DramCtl) : (s.updDram f).wins = s.wins := rfl
@[simp] theorem State.updDram_adc (f : DramCtl → DramCtl) : (s.updDram f).adc = s.adc := rfl
@[simp] theorem State.updDram_bel (f : DramCtl → DramCtl) : (s.updDram f).bel = s.bel := rfl
@[simp] theorem State.updDram_pump (f : DramCtl → DramCtl) : (s.updDram f).pump = s.pump := rfl
@[simp] theorem State.updDram_eng (f : DramCtl → DramCtl) : (s.updDram f).eng = s.eng := rfl
@[simp] theorem State.updDram_gal (f : DramCtl → DramCtl) : (s.updDram f).gal = s.gal := rfl
@[simp] theorem State.updDram_latch (f : DramCtl → DramCtl) : (s.updDram f).latch = s.latch := rfl
@[simp] theorem State.updDram_chg (f : DramCtl → DramCtl) : (s.updDram f).chg = s.chg := rfl
@[simp] theorem State.updDram_uarts (f : DramCtl → DramCtl) : (s.updDram f).uarts = s.uarts := rfl
@[simp] theorem State.updDram_i2c (f : DramCtl → DramCtl) : (s.updDram f).i2c = s.i2c := rfl
@[simp] theorem State.updDram_bankUp (f : DramCtl → DramCtl) : (s.updDram f).bankUp = s.bankUp := rfl
@[simp] theorem State.updDram_jtag (f : DramCtl → DramCtl) : (s.updDram f).jtag = s.jtag := rfl
@[simp] theorem State.updDram_flt (f : DramCtl → DramCtl) : (s.updDram f).flt = s.flt := rfl
@[simp] theorem State.updDram_resp (f : DramCtl → DramCtl) : (s.updDram f).resp = s.resp := rfl

/-! ### updAdc -/

@[simp] theorem State.updAdc_pending (f : Adc → Adc) : (s.updAdc f).pending = s.pending := rfl
@[simp] theorem State.updAdc_variant (f : Adc → Adc) : (s.updAdc f).variant = s.variant := rfl
@[simp] theorem State.updAdc_freeCtr (f : Adc → Adc) : (s.updAdc f).freeCtr = s.freeCtr := rfl
@[simp] theorem State.updAdc_regs (f : Adc → Adc) : (s.updAdc f).regs = s.regs := rfl
@[simp] theorem State.updAdc_staged (f : Adc → Adc) : (s.updAdc f).staged = s.staged := rfl
@[simp] theorem State.updAdc_mem (f : Adc → Adc) : (s.updAdc f).mem = s.mem := rfl
@[simp] theorem State.updAdc_host (f : Adc → Adc) : (s.updAdc f).host = s.host := rfl
@[simp] theorem State.updAdc_dramGen (f : Adc → Adc) : (s.updAdc f).dramGen = s.dramGen := rfl
@[simp] theorem State.updAdc_dram (f : Adc → Adc) : (s.updAdc f).dram = s.dram := rfl
@[simp] theorem State.updAdc_flashGen (f : Adc → Adc) : (s.updAdc f).flashGen = s.flashGen := rfl
@[simp] theorem State.updAdc_flashBusy (f : Adc → Adc) : (s.updAdc f).flashBusy = s.flashBusy := rfl
@[simp] theorem State.updAdc_flashCmd (f : Adc → Adc) : (s.updAdc f).flashCmd = s.flashCmd := rfl
@[simp] theorem State.updAdc_link (f : Adc → Adc) : (s.updAdc f).link = s.link := rfl
@[simp] theorem State.updAdc_tb (f : Adc → Adc) : (s.updAdc f).tb = s.tb := rfl
@[simp] theorem State.updAdc_clk (f : Adc → Adc) : (s.updAdc f).clk = s.clk := rfl
@[simp] theorem State.updAdc_cores (f : Adc → Adc) : (s.updAdc f).cores = s.cores := rfl
@[simp] theorem State.updAdc_pwr (f : Adc → Adc) : (s.updAdc f).pwr = s.pwr := rfl
@[simp] theorem State.updAdc_seq (f : Adc → Adc) : (s.updAdc f).seq = s.seq := rfl
@[simp] theorem State.updAdc_wins (f : Adc → Adc) : (s.updAdc f).wins = s.wins := rfl
@[simp] theorem State.updAdc_adc (f : Adc → Adc) : (s.updAdc f).adc = f s.adc := rfl
@[simp] theorem State.updAdc_bel (f : Adc → Adc) : (s.updAdc f).bel = s.bel := rfl
@[simp] theorem State.updAdc_pump (f : Adc → Adc) : (s.updAdc f).pump = s.pump := rfl
@[simp] theorem State.updAdc_eng (f : Adc → Adc) : (s.updAdc f).eng = s.eng := rfl
@[simp] theorem State.updAdc_gal (f : Adc → Adc) : (s.updAdc f).gal = s.gal := rfl
@[simp] theorem State.updAdc_latch (f : Adc → Adc) : (s.updAdc f).latch = s.latch := rfl
@[simp] theorem State.updAdc_chg (f : Adc → Adc) : (s.updAdc f).chg = s.chg := rfl
@[simp] theorem State.updAdc_uarts (f : Adc → Adc) : (s.updAdc f).uarts = s.uarts := rfl
@[simp] theorem State.updAdc_i2c (f : Adc → Adc) : (s.updAdc f).i2c = s.i2c := rfl
@[simp] theorem State.updAdc_bankUp (f : Adc → Adc) : (s.updAdc f).bankUp = s.bankUp := rfl
@[simp] theorem State.updAdc_jtag (f : Adc → Adc) : (s.updAdc f).jtag = s.jtag := rfl
@[simp] theorem State.updAdc_flt (f : Adc → Adc) : (s.updAdc f).flt = s.flt := rfl
@[simp] theorem State.updAdc_resp (f : Adc → Adc) : (s.updAdc f).resp = s.resp := rfl

/-! ### updGal -/

@[simp] theorem State.updGal_pending (f : Gal → Gal) : (s.updGal f).pending = s.pending := rfl
@[simp] theorem State.updGal_variant (f : Gal → Gal) : (s.updGal f).variant = s.variant := rfl
@[simp] theorem State.updGal_freeCtr (f : Gal → Gal) : (s.updGal f).freeCtr = s.freeCtr := rfl
@[simp] theorem State.updGal_regs (f : Gal → Gal) : (s.updGal f).regs = s.regs := rfl
@[simp] theorem State.updGal_staged (f : Gal → Gal) : (s.updGal f).staged = s.staged := rfl
@[simp] theorem State.updGal_mem (f : Gal → Gal) : (s.updGal f).mem = s.mem := rfl
@[simp] theorem State.updGal_host (f : Gal → Gal) : (s.updGal f).host = s.host := rfl
@[simp] theorem State.updGal_dramGen (f : Gal → Gal) : (s.updGal f).dramGen = s.dramGen := rfl
@[simp] theorem State.updGal_dram (f : Gal → Gal) : (s.updGal f).dram = s.dram := rfl
@[simp] theorem State.updGal_flashGen (f : Gal → Gal) : (s.updGal f).flashGen = s.flashGen := rfl
@[simp] theorem State.updGal_flashBusy (f : Gal → Gal) : (s.updGal f).flashBusy = s.flashBusy := rfl
@[simp] theorem State.updGal_flashCmd (f : Gal → Gal) : (s.updGal f).flashCmd = s.flashCmd := rfl
@[simp] theorem State.updGal_link (f : Gal → Gal) : (s.updGal f).link = s.link := rfl
@[simp] theorem State.updGal_tb (f : Gal → Gal) : (s.updGal f).tb = s.tb := rfl
@[simp] theorem State.updGal_clk (f : Gal → Gal) : (s.updGal f).clk = s.clk := rfl
@[simp] theorem State.updGal_cores (f : Gal → Gal) : (s.updGal f).cores = s.cores := rfl
@[simp] theorem State.updGal_pwr (f : Gal → Gal) : (s.updGal f).pwr = s.pwr := rfl
@[simp] theorem State.updGal_seq (f : Gal → Gal) : (s.updGal f).seq = s.seq := rfl
@[simp] theorem State.updGal_wins (f : Gal → Gal) : (s.updGal f).wins = s.wins := rfl
@[simp] theorem State.updGal_adc (f : Gal → Gal) : (s.updGal f).adc = s.adc := rfl
@[simp] theorem State.updGal_bel (f : Gal → Gal) : (s.updGal f).bel = s.bel := rfl
@[simp] theorem State.updGal_pump (f : Gal → Gal) : (s.updGal f).pump = s.pump := rfl
@[simp] theorem State.updGal_eng (f : Gal → Gal) : (s.updGal f).eng = s.eng := rfl
@[simp] theorem State.updGal_gal (f : Gal → Gal) : (s.updGal f).gal = f s.gal := rfl
@[simp] theorem State.updGal_latch (f : Gal → Gal) : (s.updGal f).latch = s.latch := rfl
@[simp] theorem State.updGal_chg (f : Gal → Gal) : (s.updGal f).chg = s.chg := rfl
@[simp] theorem State.updGal_uarts (f : Gal → Gal) : (s.updGal f).uarts = s.uarts := rfl
@[simp] theorem State.updGal_i2c (f : Gal → Gal) : (s.updGal f).i2c = s.i2c := rfl
@[simp] theorem State.updGal_bankUp (f : Gal → Gal) : (s.updGal f).bankUp = s.bankUp := rfl
@[simp] theorem State.updGal_jtag (f : Gal → Gal) : (s.updGal f).jtag = s.jtag := rfl
@[simp] theorem State.updGal_flt (f : Gal → Gal) : (s.updGal f).flt = s.flt := rfl
@[simp] theorem State.updGal_resp (f : Gal → Gal) : (s.updGal f).resp = s.resp := rfl

/-! ### updChg -/

@[simp] theorem State.updChg_pending (f : Chg → Chg) : (s.updChg f).pending = s.pending := rfl
@[simp] theorem State.updChg_variant (f : Chg → Chg) : (s.updChg f).variant = s.variant := rfl
@[simp] theorem State.updChg_freeCtr (f : Chg → Chg) : (s.updChg f).freeCtr = s.freeCtr := rfl
@[simp] theorem State.updChg_regs (f : Chg → Chg) : (s.updChg f).regs = s.regs := rfl
@[simp] theorem State.updChg_staged (f : Chg → Chg) : (s.updChg f).staged = s.staged := rfl
@[simp] theorem State.updChg_mem (f : Chg → Chg) : (s.updChg f).mem = s.mem := rfl
@[simp] theorem State.updChg_host (f : Chg → Chg) : (s.updChg f).host = s.host := rfl
@[simp] theorem State.updChg_dramGen (f : Chg → Chg) : (s.updChg f).dramGen = s.dramGen := rfl
@[simp] theorem State.updChg_dram (f : Chg → Chg) : (s.updChg f).dram = s.dram := rfl
@[simp] theorem State.updChg_flashGen (f : Chg → Chg) : (s.updChg f).flashGen = s.flashGen := rfl
@[simp] theorem State.updChg_flashBusy (f : Chg → Chg) : (s.updChg f).flashBusy = s.flashBusy := rfl
@[simp] theorem State.updChg_flashCmd (f : Chg → Chg) : (s.updChg f).flashCmd = s.flashCmd := rfl
@[simp] theorem State.updChg_link (f : Chg → Chg) : (s.updChg f).link = s.link := rfl
@[simp] theorem State.updChg_tb (f : Chg → Chg) : (s.updChg f).tb = s.tb := rfl
@[simp] theorem State.updChg_clk (f : Chg → Chg) : (s.updChg f).clk = s.clk := rfl
@[simp] theorem State.updChg_cores (f : Chg → Chg) : (s.updChg f).cores = s.cores := rfl
@[simp] theorem State.updChg_pwr (f : Chg → Chg) : (s.updChg f).pwr = s.pwr := rfl
@[simp] theorem State.updChg_seq (f : Chg → Chg) : (s.updChg f).seq = s.seq := rfl
@[simp] theorem State.updChg_wins (f : Chg → Chg) : (s.updChg f).wins = s.wins := rfl
@[simp] theorem State.updChg_adc (f : Chg → Chg) : (s.updChg f).adc = s.adc := rfl
@[simp] theorem State.updChg_bel (f : Chg → Chg) : (s.updChg f).bel = s.bel := rfl
@[simp] theorem State.updChg_pump (f : Chg → Chg) : (s.updChg f).pump = s.pump := rfl
@[simp] theorem State.updChg_eng (f : Chg → Chg) : (s.updChg f).eng = s.eng := rfl
@[simp] theorem State.updChg_gal (f : Chg → Chg) : (s.updChg f).gal = s.gal := rfl
@[simp] theorem State.updChg_latch (f : Chg → Chg) : (s.updChg f).latch = s.latch := rfl
@[simp] theorem State.updChg_chg (f : Chg → Chg) : (s.updChg f).chg = f s.chg := rfl
@[simp] theorem State.updChg_uarts (f : Chg → Chg) : (s.updChg f).uarts = s.uarts := rfl
@[simp] theorem State.updChg_i2c (f : Chg → Chg) : (s.updChg f).i2c = s.i2c := rfl
@[simp] theorem State.updChg_bankUp (f : Chg → Chg) : (s.updChg f).bankUp = s.bankUp := rfl
@[simp] theorem State.updChg_jtag (f : Chg → Chg) : (s.updChg f).jtag = s.jtag := rfl
@[simp] theorem State.updChg_flt (f : Chg → Chg) : (s.updChg f).flt = s.flt := rfl
@[simp] theorem State.updChg_resp (f : Chg → Chg) : (s.updChg f).resp = s.resp := rfl

/-! ### updJtag -/

@[simp] theorem State.updJtag_pending (f : Jtag → Jtag) : (s.updJtag f).pending = s.pending := rfl
@[simp] theorem State.updJtag_variant (f : Jtag → Jtag) : (s.updJtag f).variant = s.variant := rfl
@[simp] theorem State.updJtag_freeCtr (f : Jtag → Jtag) : (s.updJtag f).freeCtr = s.freeCtr := rfl
@[simp] theorem State.updJtag_regs (f : Jtag → Jtag) : (s.updJtag f).regs = s.regs := rfl
@[simp] theorem State.updJtag_staged (f : Jtag → Jtag) : (s.updJtag f).staged = s.staged := rfl
@[simp] theorem State.updJtag_mem (f : Jtag → Jtag) : (s.updJtag f).mem = s.mem := rfl
@[simp] theorem State.updJtag_host (f : Jtag → Jtag) : (s.updJtag f).host = s.host := rfl
@[simp] theorem State.updJtag_dramGen (f : Jtag → Jtag) : (s.updJtag f).dramGen = s.dramGen := rfl
@[simp] theorem State.updJtag_dram (f : Jtag → Jtag) : (s.updJtag f).dram = s.dram := rfl
@[simp] theorem State.updJtag_flashGen (f : Jtag → Jtag) : (s.updJtag f).flashGen = s.flashGen := rfl
@[simp] theorem State.updJtag_flashBusy (f : Jtag → Jtag) : (s.updJtag f).flashBusy = s.flashBusy := rfl
@[simp] theorem State.updJtag_flashCmd (f : Jtag → Jtag) : (s.updJtag f).flashCmd = s.flashCmd := rfl
@[simp] theorem State.updJtag_link (f : Jtag → Jtag) : (s.updJtag f).link = s.link := rfl
@[simp] theorem State.updJtag_tb (f : Jtag → Jtag) : (s.updJtag f).tb = s.tb := rfl
@[simp] theorem State.updJtag_clk (f : Jtag → Jtag) : (s.updJtag f).clk = s.clk := rfl
@[simp] theorem State.updJtag_cores (f : Jtag → Jtag) : (s.updJtag f).cores = s.cores := rfl
@[simp] theorem State.updJtag_pwr (f : Jtag → Jtag) : (s.updJtag f).pwr = s.pwr := rfl
@[simp] theorem State.updJtag_seq (f : Jtag → Jtag) : (s.updJtag f).seq = s.seq := rfl
@[simp] theorem State.updJtag_wins (f : Jtag → Jtag) : (s.updJtag f).wins = s.wins := rfl
@[simp] theorem State.updJtag_adc (f : Jtag → Jtag) : (s.updJtag f).adc = s.adc := rfl
@[simp] theorem State.updJtag_bel (f : Jtag → Jtag) : (s.updJtag f).bel = s.bel := rfl
@[simp] theorem State.updJtag_pump (f : Jtag → Jtag) : (s.updJtag f).pump = s.pump := rfl
@[simp] theorem State.updJtag_eng (f : Jtag → Jtag) : (s.updJtag f).eng = s.eng := rfl
@[simp] theorem State.updJtag_gal (f : Jtag → Jtag) : (s.updJtag f).gal = s.gal := rfl
@[simp] theorem State.updJtag_latch (f : Jtag → Jtag) : (s.updJtag f).latch = s.latch := rfl
@[simp] theorem State.updJtag_chg (f : Jtag → Jtag) : (s.updJtag f).chg = s.chg := rfl
@[simp] theorem State.updJtag_uarts (f : Jtag → Jtag) : (s.updJtag f).uarts = s.uarts := rfl
@[simp] theorem State.updJtag_i2c (f : Jtag → Jtag) : (s.updJtag f).i2c = s.i2c := rfl
@[simp] theorem State.updJtag_bankUp (f : Jtag → Jtag) : (s.updJtag f).bankUp = s.bankUp := rfl
@[simp] theorem State.updJtag_jtag (f : Jtag → Jtag) : (s.updJtag f).jtag = f s.jtag := rfl
@[simp] theorem State.updJtag_flt (f : Jtag → Jtag) : (s.updJtag f).flt = s.flt := rfl
@[simp] theorem State.updJtag_resp (f : Jtag → Jtag) : (s.updJtag f).resp = s.resp := rfl

/-! ### updFlt -/

@[simp] theorem State.updFlt_pending (f : Flt → Flt) : (s.updFlt f).pending = s.pending := rfl
@[simp] theorem State.updFlt_variant (f : Flt → Flt) : (s.updFlt f).variant = s.variant := rfl
@[simp] theorem State.updFlt_freeCtr (f : Flt → Flt) : (s.updFlt f).freeCtr = s.freeCtr := rfl
@[simp] theorem State.updFlt_regs (f : Flt → Flt) : (s.updFlt f).regs = s.regs := rfl
@[simp] theorem State.updFlt_staged (f : Flt → Flt) : (s.updFlt f).staged = s.staged := rfl
@[simp] theorem State.updFlt_mem (f : Flt → Flt) : (s.updFlt f).mem = s.mem := rfl
@[simp] theorem State.updFlt_host (f : Flt → Flt) : (s.updFlt f).host = s.host := rfl
@[simp] theorem State.updFlt_dramGen (f : Flt → Flt) : (s.updFlt f).dramGen = s.dramGen := rfl
@[simp] theorem State.updFlt_dram (f : Flt → Flt) : (s.updFlt f).dram = s.dram := rfl
@[simp] theorem State.updFlt_flashGen (f : Flt → Flt) : (s.updFlt f).flashGen = s.flashGen := rfl
@[simp] theorem State.updFlt_flashBusy (f : Flt → Flt) : (s.updFlt f).flashBusy = s.flashBusy := rfl
@[simp] theorem State.updFlt_flashCmd (f : Flt → Flt) : (s.updFlt f).flashCmd = s.flashCmd := rfl
@[simp] theorem State.updFlt_link (f : Flt → Flt) : (s.updFlt f).link = s.link := rfl
@[simp] theorem State.updFlt_tb (f : Flt → Flt) : (s.updFlt f).tb = s.tb := rfl
@[simp] theorem State.updFlt_clk (f : Flt → Flt) : (s.updFlt f).clk = s.clk := rfl
@[simp] theorem State.updFlt_cores (f : Flt → Flt) : (s.updFlt f).cores = s.cores := rfl
@[simp] theorem State.updFlt_pwr (f : Flt → Flt) : (s.updFlt f).pwr = s.pwr := rfl
@[simp] theorem State.updFlt_seq (f : Flt → Flt) : (s.updFlt f).seq = s.seq := rfl
@[simp] theorem State.updFlt_wins (f : Flt → Flt) : (s.updFlt f).wins = s.wins := rfl
@[simp] theorem State.updFlt_adc (f : Flt → Flt) : (s.updFlt f).adc = s.adc := rfl
@[simp] theorem State.updFlt_bel (f : Flt → Flt) : (s.updFlt f).bel = s.bel := rfl
@[simp] theorem State.updFlt_pump (f : Flt → Flt) : (s.updFlt f).pump = s.pump := rfl
@[simp] theorem State.updFlt_eng (f : Flt → Flt) : (s.updFlt f).eng = s.eng := rfl
@[simp] theorem State.updFlt_gal (f : Flt → Flt) : (s.updFlt f).gal = s.gal := rfl
@[simp] theorem State.updFlt_latch (f : Flt → Flt) : (s.updFlt f).latch = s.latch := rfl
@[simp] theorem State.updFlt_chg (f : Flt → Flt) : (s.updFlt f).chg = s.chg := rfl
@[simp] theorem State.updFlt_uarts (f : Flt → Flt) : (s.updFlt f).uarts = s.uarts := rfl
@[simp] theorem State.updFlt_i2c (f : Flt → Flt) : (s.updFlt f).i2c = s.i2c := rfl
@[simp] theorem State.updFlt_bankUp (f : Flt → Flt) : (s.updFlt f).bankUp = s.bankUp := rfl
@[simp] theorem State.updFlt_jtag (f : Flt → Flt) : (s.updFlt f).jtag = s.jtag := rfl
@[simp] theorem State.updFlt_flt (f : Flt → Flt) : (s.updFlt f).flt = f s.flt := rfl
@[simp] theorem State.updFlt_resp (f : Flt → Flt) : (s.updFlt f).resp = s.resp := rfl

/-! ### updClk -/

@[simp] theorem State.updClk_pending (f : Clk → Clk) : (s.updClk f).pending = s.pending := rfl
@[simp] theorem State.updClk_variant (f : Clk → Clk) : (s.updClk f).variant = s.variant := rfl
@[simp] theorem State.updClk_freeCtr (f : Clk → Clk) : (s.updClk f).freeCtr = s.freeCtr := rfl
@[simp] theorem State.updClk_regs (f : Clk → Clk) : (s.updClk f).regs = s.regs := rfl
@[simp] theorem State.updClk_staged (f : Clk → Clk) : (s.updClk f).staged = s.staged := rfl
@[simp] theorem State.updClk_mem (f : Clk → Clk) : (s.updClk f).mem = s.mem := rfl
@[simp] theorem State.updClk_host (f : Clk → Clk) : (s.updClk f).host = s.host := rfl
@[simp] theorem State.updClk_dramGen (f : Clk → Clk) : (s.updClk f).dramGen = s.dramGen := rfl
@[simp] theorem State.updClk_dram (f : Clk → Clk) : (s.updClk f).dram = s.dram := rfl
@[simp] theorem State.updClk_flashGen (f : Clk → Clk) : (s.updClk f).flashGen = s.flashGen := rfl
@[simp] theorem State.updClk_flashBusy (f : Clk → Clk) : (s.updClk f).flashBusy = s.flashBusy := rfl
@[simp] theorem State.updClk_flashCmd (f : Clk → Clk) : (s.updClk f).flashCmd = s.flashCmd := rfl
@[simp] theorem State.updClk_link (f : Clk → Clk) : (s.updClk f).link = s.link := rfl
@[simp] theorem State.updClk_tb (f : Clk → Clk) : (s.updClk f).tb = s.tb := rfl
@[simp] theorem State.updClk_clk (f : Clk → Clk) : (s.updClk f).clk = f s.clk := rfl
@[simp] theorem State.updClk_cores (f : Clk → Clk) : (s.updClk f).cores = s.cores := rfl
@[simp] theorem State.updClk_pwr (f : Clk → Clk) : (s.updClk f).pwr = s.pwr := rfl
@[simp] theorem State.updClk_seq (f : Clk → Clk) : (s.updClk f).seq = s.seq := rfl
@[simp] theorem State.updClk_wins (f : Clk → Clk) : (s.updClk f).wins = s.wins := rfl
@[simp] theorem State.updClk_adc (f : Clk → Clk) : (s.updClk f).adc = s.adc := rfl
@[simp] theorem State.updClk_bel (f : Clk → Clk) : (s.updClk f).bel = s.bel := rfl
@[simp] theorem State.updClk_pump (f : Clk → Clk) : (s.updClk f).pump = s.pump := rfl
@[simp] theorem State.updClk_eng (f : Clk → Clk) : (s.updClk f).eng = s.eng := rfl
@[simp] theorem State.updClk_gal (f : Clk → Clk) : (s.updClk f).gal = s.gal := rfl
@[simp] theorem State.updClk_latch (f : Clk → Clk) : (s.updClk f).latch = s.latch := rfl
@[simp] theorem State.updClk_chg (f : Clk → Clk) : (s.updClk f).chg = s.chg := rfl
@[simp] theorem State.updClk_uarts (f : Clk → Clk) : (s.updClk f).uarts = s.uarts := rfl
@[simp] theorem State.updClk_i2c (f : Clk → Clk) : (s.updClk f).i2c = s.i2c := rfl
@[simp] theorem State.updClk_bankUp (f : Clk → Clk) : (s.updClk f).bankUp = s.bankUp := rfl
@[simp] theorem State.updClk_jtag (f : Clk → Clk) : (s.updClk f).jtag = s.jtag := rfl
@[simp] theorem State.updClk_flt (f : Clk → Clk) : (s.updClk f).flt = s.flt := rfl
@[simp] theorem State.updClk_resp (f : Clk → Clk) : (s.updClk f).resp = s.resp := rfl

/-! ### updUart -/

@[simp] theorem State.updUart_pending (f : Uart → Uart) : (s.updUart n f).pending = s.pending := rfl
@[simp] theorem State.updUart_variant (f : Uart → Uart) : (s.updUart n f).variant = s.variant := rfl
@[simp] theorem State.updUart_freeCtr (f : Uart → Uart) : (s.updUart n f).freeCtr = s.freeCtr := rfl
@[simp] theorem State.updUart_regs (f : Uart → Uart) : (s.updUart n f).regs = s.regs := rfl
@[simp] theorem State.updUart_staged (f : Uart → Uart) : (s.updUart n f).staged = s.staged := rfl
@[simp] theorem State.updUart_mem (f : Uart → Uart) : (s.updUart n f).mem = s.mem := rfl
@[simp] theorem State.updUart_host (f : Uart → Uart) : (s.updUart n f).host = s.host := rfl
@[simp] theorem State.updUart_dramGen (f : Uart → Uart) : (s.updUart n f).dramGen = s.dramGen := rfl
@[simp] theorem State.updUart_dram (f : Uart → Uart) : (s.updUart n f).dram = s.dram := rfl
@[simp] theorem State.updUart_flashGen (f : Uart → Uart) : (s.updUart n f).flashGen = s.flashGen := rfl
@[simp] theorem State.updUart_flashBusy (f : Uart → Uart) : (s.updUart n f).flashBusy = s.flashBusy := rfl
@[simp] theorem State.updUart_flashCmd (f : Uart → Uart) : (s.updUart n f).flashCmd = s.flashCmd := rfl
@[simp] theorem State.updUart_link (f : Uart → Uart) : (s.updUart n f).link = s.link := rfl
@[simp] theorem State.updUart_tb (f : Uart → Uart) : (s.updUart n f).tb = s.tb := rfl
@[simp] theorem State.updUart_clk (f : Uart → Uart) : (s.updUart n f).clk = s.clk := rfl
@[simp] theorem State.updUart_cores (f : Uart → Uart) : (s.updUart n f).cores = s.cores := rfl
@[simp] theorem State.updUart_pwr (f : Uart → Uart) : (s.updUart n f).pwr = s.pwr := rfl
@[simp] theorem State.updUart_seq (f : Uart → Uart) : (s.updUart n f).seq = s.seq := rfl
@[simp] theorem State.updUart_wins (f : Uart → Uart) : (s.updUart n f).wins = s.wins := rfl
@[simp] theorem State.updUart_adc (f : Uart → Uart) : (s.updUart n f).adc = s.adc := rfl
@[simp] theorem State.updUart_bel (f : Uart → Uart) : (s.updUart n f).bel = s.bel := rfl
@[simp] theorem State.updUart_pump (f : Uart → Uart) : (s.updUart n f).pump = s.pump := rfl
@[simp] theorem State.updUart_eng (f : Uart → Uart) : (s.updUart n f).eng = s.eng := rfl
@[simp] theorem State.updUart_gal (f : Uart → Uart) : (s.updUart n f).gal = s.gal := rfl
@[simp] theorem State.updUart_latch (f : Uart → Uart) : (s.updUart n f).latch = s.latch := rfl
@[simp] theorem State.updUart_chg (f : Uart → Uart) : (s.updUart n f).chg = s.chg := rfl
@[simp] theorem State.updUart_uarts (f : Uart → Uart) : (s.updUart n f).uarts = setAt s.uarts n (f (s.uarts.getD n Uart.reset)) := rfl
@[simp] theorem State.updUart_i2c (f : Uart → Uart) : (s.updUart n f).i2c = s.i2c := rfl
@[simp] theorem State.updUart_bankUp (f : Uart → Uart) : (s.updUart n f).bankUp = s.bankUp := rfl
@[simp] theorem State.updUart_jtag (f : Uart → Uart) : (s.updUart n f).jtag = s.jtag := rfl
@[simp] theorem State.updUart_flt (f : Uart → Uart) : (s.updUart n f).flt = s.flt := rfl
@[simp] theorem State.updUart_resp (f : Uart → Uart) : (s.updUart n f).resp = s.resp := rfl

/-! ### updLatch -/

@[simp] theorem State.updLatch_pending (f : LatchCh → LatchCh) : (s.updLatch n f).pending = s.pending := rfl
@[simp] theorem State.updLatch_variant (f : LatchCh → LatchCh) : (s.updLatch n f).variant = s.variant := rfl
@[simp] theorem State.updLatch_freeCtr (f : LatchCh → LatchCh) : (s.updLatch n f).freeCtr = s.freeCtr := rfl
@[simp] theorem State.updLatch_regs (f : LatchCh → LatchCh) : (s.updLatch n f).regs = s.regs := rfl
@[simp] theorem State.updLatch_staged (f : LatchCh → LatchCh) : (s.updLatch n f).staged = s.staged := rfl
@[simp] theorem State.updLatch_mem (f : LatchCh → LatchCh) : (s.updLatch n f).mem = s.mem := rfl
@[simp] theorem State.updLatch_host (f : LatchCh → LatchCh) : (s.updLatch n f).host = s.host := rfl
@[simp] theorem State.updLatch_dramGen (f : LatchCh → LatchCh) : (s.updLatch n f).dramGen = s.dramGen := rfl
@[simp] theorem State.updLatch_dram (f : LatchCh → LatchCh) : (s.updLatch n f).dram = s.dram := rfl
@[simp] theorem State.updLatch_flashGen (f : LatchCh → LatchCh) : (s.updLatch n f).flashGen = s.flashGen := rfl
@[simp] theorem State.updLatch_flashBusy (f : LatchCh → LatchCh) : (s.updLatch n f).flashBusy = s.flashBusy := rfl
@[simp] theorem State.updLatch_flashCmd (f : LatchCh → LatchCh) : (s.updLatch n f).flashCmd = s.flashCmd := rfl
@[simp] theorem State.updLatch_link (f : LatchCh → LatchCh) : (s.updLatch n f).link = s.link := rfl
@[simp] theorem State.updLatch_tb (f : LatchCh → LatchCh) : (s.updLatch n f).tb = s.tb := rfl
@[simp] theorem State.updLatch_clk (f : LatchCh → LatchCh) : (s.updLatch n f).clk = s.clk := rfl
@[simp] theorem State.updLatch_cores (f : LatchCh → LatchCh) : (s.updLatch n f).cores = s.cores := rfl
@[simp] theorem State.updLatch_pwr (f : LatchCh → LatchCh) : (s.updLatch n f).pwr = s.pwr := rfl
@[simp] theorem State.updLatch_seq (f : LatchCh → LatchCh) : (s.updLatch n f).seq = s.seq := rfl
@[simp] theorem State.updLatch_wins (f : LatchCh → LatchCh) : (s.updLatch n f).wins = s.wins := rfl
@[simp] theorem State.updLatch_adc (f : LatchCh → LatchCh) : (s.updLatch n f).adc = s.adc := rfl
@[simp] theorem State.updLatch_bel (f : LatchCh → LatchCh) : (s.updLatch n f).bel = s.bel := rfl
@[simp] theorem State.updLatch_pump (f : LatchCh → LatchCh) : (s.updLatch n f).pump = s.pump := rfl
@[simp] theorem State.updLatch_eng (f : LatchCh → LatchCh) : (s.updLatch n f).eng = s.eng := rfl
@[simp] theorem State.updLatch_gal (f : LatchCh → LatchCh) : (s.updLatch n f).gal = s.gal := rfl
@[simp] theorem State.updLatch_latch (f : LatchCh → LatchCh) : (s.updLatch n f).latch = setAt s.latch n (f (s.latch.getD n LatchCh.reset)) := rfl
@[simp] theorem State.updLatch_chg (f : LatchCh → LatchCh) : (s.updLatch n f).chg = s.chg := rfl
@[simp] theorem State.updLatch_uarts (f : LatchCh → LatchCh) : (s.updLatch n f).uarts = s.uarts := rfl
@[simp] theorem State.updLatch_i2c (f : LatchCh → LatchCh) : (s.updLatch n f).i2c = s.i2c := rfl
@[simp] theorem State.updLatch_bankUp (f : LatchCh → LatchCh) : (s.updLatch n f).bankUp = s.bankUp := rfl
@[simp] theorem State.updLatch_jtag (f : LatchCh → LatchCh) : (s.updLatch n f).jtag = s.jtag := rfl
@[simp] theorem State.updLatch_flt (f : LatchCh → LatchCh) : (s.updLatch n f).flt = s.flt := rfl
@[simp] theorem State.updLatch_resp (f : LatchCh → LatchCh) : (s.updLatch n f).resp = s.resp := rfl

/-! ### Cores -/

@[simp] theorem State.setCore_pending : (s.setCore c k).pending = s.pending := rfl
@[simp] theorem State.updCore_pending : (s.updCore c g).pending = s.pending := rfl
@[simp] theorem State.setCore_variant : (s.setCore c k).variant = s.variant := rfl
@[simp] theorem State.updCore_variant : (s.updCore c g).variant = s.variant := rfl
@[simp] theorem State.setCore_freeCtr : (s.setCore c k).freeCtr = s.freeCtr := rfl
@[simp] theorem State.updCore_freeCtr : (s.updCore c g).freeCtr = s.freeCtr := rfl
@[simp] theorem State.setCore_regs : (s.setCore c k).regs = s.regs := rfl
@[simp] theorem State.updCore_regs : (s.updCore c g).regs = s.regs := rfl
@[simp] theorem State.setCore_staged : (s.setCore c k).staged = s.staged := rfl
@[simp] theorem State.updCore_staged : (s.updCore c g).staged = s.staged := rfl
@[simp] theorem State.setCore_mem : (s.setCore c k).mem = s.mem := rfl
@[simp] theorem State.updCore_mem : (s.updCore c g).mem = s.mem := rfl
@[simp] theorem State.setCore_host : (s.setCore c k).host = s.host := rfl
@[simp] theorem State.updCore_host : (s.updCore c g).host = s.host := rfl
@[simp] theorem State.setCore_dramGen : (s.setCore c k).dramGen = s.dramGen := rfl
@[simp] theorem State.updCore_dramGen : (s.updCore c g).dramGen = s.dramGen := rfl
@[simp] theorem State.setCore_dram : (s.setCore c k).dram = s.dram := rfl
@[simp] theorem State.updCore_dram : (s.updCore c g).dram = s.dram := rfl
@[simp] theorem State.setCore_flashGen : (s.setCore c k).flashGen = s.flashGen := rfl
@[simp] theorem State.updCore_flashGen : (s.updCore c g).flashGen = s.flashGen := rfl
@[simp] theorem State.setCore_flashBusy : (s.setCore c k).flashBusy = s.flashBusy := rfl
@[simp] theorem State.updCore_flashBusy : (s.updCore c g).flashBusy = s.flashBusy := rfl
@[simp] theorem State.setCore_flashCmd : (s.setCore c k).flashCmd = s.flashCmd := rfl
@[simp] theorem State.updCore_flashCmd : (s.updCore c g).flashCmd = s.flashCmd := rfl
@[simp] theorem State.setCore_link : (s.setCore c k).link = s.link := rfl
@[simp] theorem State.updCore_link : (s.updCore c g).link = s.link := rfl
@[simp] theorem State.setCore_tb : (s.setCore c k).tb = s.tb := rfl
@[simp] theorem State.updCore_tb : (s.updCore c g).tb = s.tb := rfl
@[simp] theorem State.setCore_clk : (s.setCore c k).clk = s.clk := rfl
@[simp] theorem State.updCore_clk : (s.updCore c g).clk = s.clk := rfl
@[simp] theorem State.setCore_cores : (s.setCore c k).cores = s.cores.set c k := rfl
@[simp] theorem State.updCore_cores : (s.updCore c g).cores = s.cores.set c (g (s.core c)) := rfl
@[simp] theorem State.setCore_pwr : (s.setCore c k).pwr = s.pwr := rfl
@[simp] theorem State.updCore_pwr : (s.updCore c g).pwr = s.pwr := rfl
@[simp] theorem State.setCore_seq : (s.setCore c k).seq = s.seq := rfl
@[simp] theorem State.updCore_seq : (s.updCore c g).seq = s.seq := rfl
@[simp] theorem State.setCore_wins : (s.setCore c k).wins = s.wins := rfl
@[simp] theorem State.updCore_wins : (s.updCore c g).wins = s.wins := rfl
@[simp] theorem State.setCore_adc : (s.setCore c k).adc = s.adc := rfl
@[simp] theorem State.updCore_adc : (s.updCore c g).adc = s.adc := rfl
@[simp] theorem State.setCore_bel : (s.setCore c k).bel = s.bel := rfl
@[simp] theorem State.updCore_bel : (s.updCore c g).bel = s.bel := rfl
@[simp] theorem State.setCore_pump : (s.setCore c k).pump = s.pump := rfl
@[simp] theorem State.updCore_pump : (s.updCore c g).pump = s.pump := rfl
@[simp] theorem State.setCore_eng : (s.setCore c k).eng = s.eng := rfl
@[simp] theorem State.updCore_eng : (s.updCore c g).eng = s.eng := rfl
@[simp] theorem State.setCore_gal : (s.setCore c k).gal = s.gal := rfl
@[simp] theorem State.updCore_gal : (s.updCore c g).gal = s.gal := rfl
@[simp] theorem State.setCore_latch : (s.setCore c k).latch = s.latch := rfl
@[simp] theorem State.updCore_latch : (s.updCore c g).latch = s.latch := rfl
@[simp] theorem State.setCore_chg : (s.setCore c k).chg = s.chg := rfl
@[simp] theorem State.updCore_chg : (s.updCore c g).chg = s.chg := rfl
@[simp] theorem State.setCore_uarts : (s.setCore c k).uarts = s.uarts := rfl
@[simp] theorem State.updCore_uarts : (s.updCore c g).uarts = s.uarts := rfl
@[simp] theorem State.setCore_i2c : (s.setCore c k).i2c = s.i2c := rfl
@[simp] theorem State.updCore_i2c : (s.updCore c g).i2c = s.i2c := rfl
@[simp] theorem State.setCore_bankUp : (s.setCore c k).bankUp = s.bankUp := rfl
@[simp] theorem State.updCore_bankUp : (s.updCore c g).bankUp = s.bankUp := rfl
@[simp] theorem State.setCore_jtag : (s.setCore c k).jtag = s.jtag := rfl
@[simp] theorem State.updCore_jtag : (s.updCore c g).jtag = s.jtag := rfl
@[simp] theorem State.setCore_flt : (s.setCore c k).flt = s.flt := rfl
@[simp] theorem State.updCore_flt : (s.updCore c g).flt = s.flt := rfl
@[simp] theorem State.setCore_resp : (s.setCore c k).resp = s.resp := rfl
@[simp] theorem State.updCore_resp : (s.updCore c g).resp = s.resp := rfl

/-! ### Registers -/

@[simp] theorem State.setReg_pending : (s.setReg o v).pending = s.pending := by unfold State.setReg; split <;> rfl
@[simp] theorem State.setReg_variant : (s.setReg o v).variant = s.variant := by unfold State.setReg; split <;> rfl
@[simp] theorem State.setReg_freeCtr : (s.setReg o v).freeCtr = s.freeCtr := by unfold State.setReg; split <;> rfl
@[simp] theorem State.setReg_staged : (s.setReg o v).staged = s.staged := by unfold State.setReg; split <;> rfl
@[simp] theorem State.setReg_mem : (s.setReg o v).mem = s.mem := by unfold State.setReg; split <;> rfl
@[simp] theorem State.setReg_host : (s.setReg o v).host = s.host := by unfold State.setReg; split <;> rfl
@[simp] theorem State.setReg_dramGen : (s.setReg o v).dramGen = s.dramGen := by unfold State.setReg; split <;> rfl
@[simp] theorem State.setReg_dram : (s.setReg o v).dram = s.dram := by unfold State.setReg; split <;> rfl
@[simp] theorem State.setReg_flashGen : (s.setReg o v).flashGen = s.flashGen := by unfold State.setReg; split <;> rfl
@[simp] theorem State.setReg_flashBusy : (s.setReg o v).flashBusy = s.flashBusy := by unfold State.setReg; split <;> rfl
@[simp] theorem State.setReg_flashCmd : (s.setReg o v).flashCmd = s.flashCmd := by unfold State.setReg; split <;> rfl
@[simp] theorem State.setReg_link : (s.setReg o v).link = s.link := by unfold State.setReg; split <;> rfl
@[simp] theorem State.setReg_tb : (s.setReg o v).tb = s.tb := by unfold State.setReg; split <;> rfl
@[simp] theorem State.setReg_clk : (s.setReg o v).clk = s.clk := by unfold State.setReg; split <;> rfl
@[simp] theorem State.setReg_cores : (s.setReg o v).cores = s.cores := by unfold State.setReg; split <;> rfl
@[simp] theorem State.setReg_pwr : (s.setReg o v).pwr = s.pwr := by unfold State.setReg; split <;> rfl
@[simp] theorem State.setReg_seq : (s.setReg o v).seq = s.seq := by unfold State.setReg; split <;> rfl
@[simp] theorem State.setReg_wins : (s.setReg o v).wins = s.wins := by unfold State.setReg; split <;> rfl
@[simp] theorem State.setReg_adc : (s.setReg o v).adc = s.adc := by unfold State.setReg; split <;> rfl
@[simp] theorem State.setReg_bel : (s.setReg o v).bel = s.bel := by unfold State.setReg; split <;> rfl
@[simp] theorem State.setReg_pump : (s.setReg o v).pump = s.pump := by unfold State.setReg; split <;> rfl
@[simp] theorem State.setReg_eng : (s.setReg o v).eng = s.eng := by unfold State.setReg; split <;> rfl
@[simp] theorem State.setReg_gal : (s.setReg o v).gal = s.gal := by unfold State.setReg; split <;> rfl
@[simp] theorem State.setReg_latch : (s.setReg o v).latch = s.latch := by unfold State.setReg; split <;> rfl
@[simp] theorem State.setReg_chg : (s.setReg o v).chg = s.chg := by unfold State.setReg; split <;> rfl
@[simp] theorem State.setReg_uarts : (s.setReg o v).uarts = s.uarts := by unfold State.setReg; split <;> rfl
@[simp] theorem State.setReg_i2c : (s.setReg o v).i2c = s.i2c := by unfold State.setReg; split <;> rfl
@[simp] theorem State.setReg_bankUp : (s.setReg o v).bankUp = s.bankUp := by unfold State.setReg; split <;> rfl
@[simp] theorem State.setReg_jtag : (s.setReg o v).jtag = s.jtag := by unfold State.setReg; split <;> rfl
@[simp] theorem State.setReg_flt : (s.setReg o v).flt = s.flt := by unfold State.setReg; split <;> rfl
@[simp] theorem State.setReg_resp : (s.setReg o v).resp = s.resp := by unfold State.setReg; split <;> rfl

@[simp] theorem State.set_pending : (s.set fld v).pending = s.pending := by simp [State.set]
@[simp] theorem State.set_variant : (s.set fld v).variant = s.variant := by simp [State.set]
@[simp] theorem State.set_freeCtr : (s.set fld v).freeCtr = s.freeCtr := by simp [State.set]
@[simp] theorem State.set_staged : (s.set fld v).staged = s.staged := by simp [State.set]
@[simp] theorem State.set_mem : (s.set fld v).mem = s.mem := by simp [State.set]
@[simp] theorem State.set_host : (s.set fld v).host = s.host := by simp [State.set]
@[simp] theorem State.set_dramGen : (s.set fld v).dramGen = s.dramGen := by simp [State.set]
@[simp] theorem State.set_dram : (s.set fld v).dram = s.dram := by simp [State.set]
@[simp] theorem State.set_flashGen : (s.set fld v).flashGen = s.flashGen := by simp [State.set]
@[simp] theorem State.set_flashBusy : (s.set fld v).flashBusy = s.flashBusy := by simp [State.set]
@[simp] theorem State.set_flashCmd : (s.set fld v).flashCmd = s.flashCmd := by simp [State.set]
@[simp] theorem State.set_link : (s.set fld v).link = s.link := by simp [State.set]
@[simp] theorem State.set_tb : (s.set fld v).tb = s.tb := by simp [State.set]
@[simp] theorem State.set_clk : (s.set fld v).clk = s.clk := by simp [State.set]
@[simp] theorem State.set_cores : (s.set fld v).cores = s.cores := by simp [State.set]
@[simp] theorem State.set_pwr : (s.set fld v).pwr = s.pwr := by simp [State.set]
@[simp] theorem State.set_seq : (s.set fld v).seq = s.seq := by simp [State.set]
@[simp] theorem State.set_wins : (s.set fld v).wins = s.wins := by simp [State.set]
@[simp] theorem State.set_adc : (s.set fld v).adc = s.adc := by simp [State.set]
@[simp] theorem State.set_bel : (s.set fld v).bel = s.bel := by simp [State.set]
@[simp] theorem State.set_pump : (s.set fld v).pump = s.pump := by simp [State.set]
@[simp] theorem State.set_eng : (s.set fld v).eng = s.eng := by simp [State.set]
@[simp] theorem State.set_gal : (s.set fld v).gal = s.gal := by simp [State.set]
@[simp] theorem State.set_latch : (s.set fld v).latch = s.latch := by simp [State.set]
@[simp] theorem State.set_chg : (s.set fld v).chg = s.chg := by simp [State.set]
@[simp] theorem State.set_uarts : (s.set fld v).uarts = s.uarts := by simp [State.set]
@[simp] theorem State.set_i2c : (s.set fld v).i2c = s.i2c := by simp [State.set]
@[simp] theorem State.set_bankUp : (s.set fld v).bankUp = s.bankUp := by simp [State.set]
@[simp] theorem State.set_jtag : (s.set fld v).jtag = s.jtag := by simp [State.set]
@[simp] theorem State.set_flt : (s.set fld v).flt = s.flt := by simp [State.set]
@[simp] theorem State.set_resp : (s.set fld v).resp = s.resp := by simp [State.set]

@[simp] theorem State.put_pending : (s.put fld b).pending = s.pending := by simp [State.put]
@[simp] theorem State.put_variant : (s.put fld b).variant = s.variant := by simp [State.put]
@[simp] theorem State.put_freeCtr : (s.put fld b).freeCtr = s.freeCtr := by simp [State.put]
@[simp] theorem State.put_staged : (s.put fld b).staged = s.staged := by simp [State.put]
@[simp] theorem State.put_mem : (s.put fld b).mem = s.mem := by simp [State.put]
@[simp] theorem State.put_host : (s.put fld b).host = s.host := by simp [State.put]
@[simp] theorem State.put_dramGen : (s.put fld b).dramGen = s.dramGen := by simp [State.put]
@[simp] theorem State.put_dram : (s.put fld b).dram = s.dram := by simp [State.put]
@[simp] theorem State.put_flashGen : (s.put fld b).flashGen = s.flashGen := by simp [State.put]
@[simp] theorem State.put_flashBusy : (s.put fld b).flashBusy = s.flashBusy := by simp [State.put]
@[simp] theorem State.put_flashCmd : (s.put fld b).flashCmd = s.flashCmd := by simp [State.put]
@[simp] theorem State.put_link : (s.put fld b).link = s.link := by simp [State.put]
@[simp] theorem State.put_tb : (s.put fld b).tb = s.tb := by simp [State.put]
@[simp] theorem State.put_clk : (s.put fld b).clk = s.clk := by simp [State.put]
@[simp] theorem State.put_cores : (s.put fld b).cores = s.cores := by simp [State.put]
@[simp] theorem State.put_pwr : (s.put fld b).pwr = s.pwr := by simp [State.put]
@[simp] theorem State.put_seq : (s.put fld b).seq = s.seq := by simp [State.put]
@[simp] theorem State.put_wins : (s.put fld b).wins = s.wins := by simp [State.put]
@[simp] theorem State.put_adc : (s.put fld b).adc = s.adc := by simp [State.put]
@[simp] theorem State.put_bel : (s.put fld b).bel = s.bel := by simp [State.put]
@[simp] theorem State.put_pump : (s.put fld b).pump = s.pump := by simp [State.put]
@[simp] theorem State.put_eng : (s.put fld b).eng = s.eng := by simp [State.put]
@[simp] theorem State.put_gal : (s.put fld b).gal = s.gal := by simp [State.put]
@[simp] theorem State.put_latch : (s.put fld b).latch = s.latch := by simp [State.put]
@[simp] theorem State.put_chg : (s.put fld b).chg = s.chg := by simp [State.put]
@[simp] theorem State.put_uarts : (s.put fld b).uarts = s.uarts := by simp [State.put]
@[simp] theorem State.put_i2c : (s.put fld b).i2c = s.i2c := by simp [State.put]
@[simp] theorem State.put_bankUp : (s.put fld b).bankUp = s.bankUp := by simp [State.put]
@[simp] theorem State.put_jtag : (s.put fld b).jtag = s.jtag := by simp [State.put]
@[simp] theorem State.put_flt : (s.put fld b).flt = s.flt := by simp [State.put]
@[simp] theorem State.put_resp : (s.put fld b).resp = s.resp := by simp [State.put]

@[simp] theorem State.bump_pending : (s.bump fld n).pending = s.pending := by simp [State.bump]
@[simp] theorem State.bump_variant : (s.bump fld n).variant = s.variant := by simp [State.bump]
@[simp] theorem State.bump_freeCtr : (s.bump fld n).freeCtr = s.freeCtr := by simp [State.bump]
@[simp] theorem State.bump_staged : (s.bump fld n).staged = s.staged := by simp [State.bump]
@[simp] theorem State.bump_mem : (s.bump fld n).mem = s.mem := by simp [State.bump]
@[simp] theorem State.bump_host : (s.bump fld n).host = s.host := by simp [State.bump]
@[simp] theorem State.bump_dramGen : (s.bump fld n).dramGen = s.dramGen := by simp [State.bump]
@[simp] theorem State.bump_dram : (s.bump fld n).dram = s.dram := by simp [State.bump]
@[simp] theorem State.bump_flashGen : (s.bump fld n).flashGen = s.flashGen := by simp [State.bump]
@[simp] theorem State.bump_flashBusy : (s.bump fld n).flashBusy = s.flashBusy := by simp [State.bump]
@[simp] theorem State.bump_flashCmd : (s.bump fld n).flashCmd = s.flashCmd := by simp [State.bump]
@[simp] theorem State.bump_link : (s.bump fld n).link = s.link := by simp [State.bump]
@[simp] theorem State.bump_tb : (s.bump fld n).tb = s.tb := by simp [State.bump]
@[simp] theorem State.bump_clk : (s.bump fld n).clk = s.clk := by simp [State.bump]
@[simp] theorem State.bump_cores : (s.bump fld n).cores = s.cores := by simp [State.bump]
@[simp] theorem State.bump_pwr : (s.bump fld n).pwr = s.pwr := by simp [State.bump]
@[simp] theorem State.bump_seq : (s.bump fld n).seq = s.seq := by simp [State.bump]
@[simp] theorem State.bump_wins : (s.bump fld n).wins = s.wins := by simp [State.bump]
@[simp] theorem State.bump_adc : (s.bump fld n).adc = s.adc := by simp [State.bump]
@[simp] theorem State.bump_bel : (s.bump fld n).bel = s.bel := by simp [State.bump]
@[simp] theorem State.bump_pump : (s.bump fld n).pump = s.pump := by simp [State.bump]
@[simp] theorem State.bump_eng : (s.bump fld n).eng = s.eng := by simp [State.bump]
@[simp] theorem State.bump_gal : (s.bump fld n).gal = s.gal := by simp [State.bump]
@[simp] theorem State.bump_latch : (s.bump fld n).latch = s.latch := by simp [State.bump]
@[simp] theorem State.bump_chg : (s.bump fld n).chg = s.chg := by simp [State.bump]
@[simp] theorem State.bump_uarts : (s.bump fld n).uarts = s.uarts := by simp [State.bump]
@[simp] theorem State.bump_i2c : (s.bump fld n).i2c = s.i2c := by simp [State.bump]
@[simp] theorem State.bump_bankUp : (s.bump fld n).bankUp = s.bankUp := by simp [State.bump]
@[simp] theorem State.bump_jtag : (s.bump fld n).jtag = s.jtag := by simp [State.bump]
@[simp] theorem State.bump_flt : (s.bump fld n).flt = s.flt := by simp [State.bump]
@[simp] theorem State.bump_resp : (s.bump fld n).resp = s.resp := by simp [State.bump]

@[simp] theorem State.event_pending : (s.event o n).pending = s.pending := by simp [State.event]
@[simp] theorem State.event_variant : (s.event o n).variant = s.variant := by simp [State.event]
@[simp] theorem State.event_freeCtr : (s.event o n).freeCtr = s.freeCtr := by simp [State.event]
@[simp] theorem State.event_staged : (s.event o n).staged = s.staged := by simp [State.event]
@[simp] theorem State.event_mem : (s.event o n).mem = s.mem := by simp [State.event]
@[simp] theorem State.event_host : (s.event o n).host = s.host := by simp [State.event]
@[simp] theorem State.event_dramGen : (s.event o n).dramGen = s.dramGen := by simp [State.event]
@[simp] theorem State.event_dram : (s.event o n).dram = s.dram := by simp [State.event]
@[simp] theorem State.event_flashGen : (s.event o n).flashGen = s.flashGen := by simp [State.event]
@[simp] theorem State.event_flashBusy : (s.event o n).flashBusy = s.flashBusy := by simp [State.event]
@[simp] theorem State.event_flashCmd : (s.event o n).flashCmd = s.flashCmd := by simp [State.event]
@[simp] theorem State.event_link : (s.event o n).link = s.link := by simp [State.event]
@[simp] theorem State.event_tb : (s.event o n).tb = s.tb := by simp [State.event]
@[simp] theorem State.event_clk : (s.event o n).clk = s.clk := by simp [State.event]
@[simp] theorem State.event_cores : (s.event o n).cores = s.cores := by simp [State.event]
@[simp] theorem State.event_pwr : (s.event o n).pwr = s.pwr := by simp [State.event]
@[simp] theorem State.event_seq : (s.event o n).seq = s.seq := by simp [State.event]
@[simp] theorem State.event_wins : (s.event o n).wins = s.wins := by simp [State.event]
@[simp] theorem State.event_adc : (s.event o n).adc = s.adc := by simp [State.event]
@[simp] theorem State.event_bel : (s.event o n).bel = s.bel := by simp [State.event]
@[simp] theorem State.event_pump : (s.event o n).pump = s.pump := by simp [State.event]
@[simp] theorem State.event_eng : (s.event o n).eng = s.eng := by simp [State.event]
@[simp] theorem State.event_gal : (s.event o n).gal = s.gal := by simp [State.event]
@[simp] theorem State.event_latch : (s.event o n).latch = s.latch := by simp [State.event]
@[simp] theorem State.event_chg : (s.event o n).chg = s.chg := by simp [State.event]
@[simp] theorem State.event_uarts : (s.event o n).uarts = s.uarts := by simp [State.event]
@[simp] theorem State.event_i2c : (s.event o n).i2c = s.i2c := by simp [State.event]
@[simp] theorem State.event_bankUp : (s.event o n).bankUp = s.bankUp := by simp [State.event]
@[simp] theorem State.event_jtag : (s.event o n).jtag = s.jtag := by simp [State.event]
@[simp] theorem State.event_flt : (s.event o n).flt = s.flt := by simp [State.event]
@[simp] theorem State.event_resp : (s.event o n).resp = s.resp := by simp [State.event]

/-! ### One byte of memory -/

@[simp] theorem State.putByte_pending (a : Nat) (y : Byte) : (s.putByte a y).pending = s.pending := by unfold State.putByte; split <;> rfl
@[simp] theorem State.putByte_variant (a : Nat) (y : Byte) : (s.putByte a y).variant = s.variant := by unfold State.putByte; split <;> rfl
@[simp] theorem State.putByte_freeCtr (a : Nat) (y : Byte) : (s.putByte a y).freeCtr = s.freeCtr := by unfold State.putByte; split <;> rfl
@[simp] theorem State.putByte_regs (a : Nat) (y : Byte) : (s.putByte a y).regs = s.regs := by unfold State.putByte; split <;> rfl
@[simp] theorem State.putByte_staged (a : Nat) (y : Byte) : (s.putByte a y).staged = s.staged := by unfold State.putByte; split <;> rfl
@[simp] theorem State.putByte_host (a : Nat) (y : Byte) : (s.putByte a y).host = s.host := by unfold State.putByte; split <;> rfl
@[simp] theorem State.putByte_dramGen (a : Nat) (y : Byte) : (s.putByte a y).dramGen = s.dramGen := by unfold State.putByte; split <;> rfl
@[simp] theorem State.putByte_dram (a : Nat) (y : Byte) : (s.putByte a y).dram = s.dram := by unfold State.putByte; split <;> rfl
@[simp] theorem State.putByte_flashGen (a : Nat) (y : Byte) : (s.putByte a y).flashGen = s.flashGen := by unfold State.putByte; split <;> rfl
@[simp] theorem State.putByte_flashBusy (a : Nat) (y : Byte) : (s.putByte a y).flashBusy = s.flashBusy := by unfold State.putByte; split <;> rfl
@[simp] theorem State.putByte_flashCmd (a : Nat) (y : Byte) : (s.putByte a y).flashCmd = s.flashCmd := by unfold State.putByte; split <;> rfl
@[simp] theorem State.putByte_link (a : Nat) (y : Byte) : (s.putByte a y).link = s.link := by unfold State.putByte; split <;> rfl
@[simp] theorem State.putByte_tb (a : Nat) (y : Byte) : (s.putByte a y).tb = s.tb := by unfold State.putByte; split <;> rfl
@[simp] theorem State.putByte_clk (a : Nat) (y : Byte) : (s.putByte a y).clk = s.clk := by unfold State.putByte; split <;> rfl
@[simp] theorem State.putByte_cores (a : Nat) (y : Byte) : (s.putByte a y).cores = s.cores := by unfold State.putByte; split <;> rfl
@[simp] theorem State.putByte_pwr (a : Nat) (y : Byte) : (s.putByte a y).pwr = s.pwr := by unfold State.putByte; split <;> rfl
@[simp] theorem State.putByte_seq (a : Nat) (y : Byte) : (s.putByte a y).seq = s.seq := by unfold State.putByte; split <;> rfl
@[simp] theorem State.putByte_wins (a : Nat) (y : Byte) : (s.putByte a y).wins = s.wins := by unfold State.putByte; split <;> rfl
@[simp] theorem State.putByte_adc (a : Nat) (y : Byte) : (s.putByte a y).adc = s.adc := by unfold State.putByte; split <;> rfl
@[simp] theorem State.putByte_bel (a : Nat) (y : Byte) : (s.putByte a y).bel = s.bel := by unfold State.putByte; split <;> rfl
@[simp] theorem State.putByte_pump (a : Nat) (y : Byte) : (s.putByte a y).pump = s.pump := by unfold State.putByte; split <;> rfl
@[simp] theorem State.putByte_eng (a : Nat) (y : Byte) : (s.putByte a y).eng = s.eng := by unfold State.putByte; split <;> rfl
@[simp] theorem State.putByte_gal (a : Nat) (y : Byte) : (s.putByte a y).gal = s.gal := by unfold State.putByte; split <;> rfl
@[simp] theorem State.putByte_latch (a : Nat) (y : Byte) : (s.putByte a y).latch = s.latch := by unfold State.putByte; split <;> rfl
@[simp] theorem State.putByte_chg (a : Nat) (y : Byte) : (s.putByte a y).chg = s.chg := by unfold State.putByte; split <;> rfl
@[simp] theorem State.putByte_uarts (a : Nat) (y : Byte) : (s.putByte a y).uarts = s.uarts := by unfold State.putByte; split <;> rfl
@[simp] theorem State.putByte_i2c (a : Nat) (y : Byte) : (s.putByte a y).i2c = s.i2c := by unfold State.putByte; split <;> rfl
@[simp] theorem State.putByte_bankUp (a : Nat) (y : Byte) : (s.putByte a y).bankUp = s.bankUp := by unfold State.putByte; split <;> rfl
@[simp] theorem State.putByte_jtag (a : Nat) (y : Byte) : (s.putByte a y).jtag = s.jtag := by unfold State.putByte; split <;> rfl
@[simp] theorem State.putByte_flt (a : Nat) (y : Byte) : (s.putByte a y).flt = s.flt := by unfold State.putByte; split <;> rfl
@[simp] theorem State.putByte_resp (a : Nat) (y : Byte) : (s.putByte a y).resp = s.resp := by unfold State.putByte; split <;> rfl

end Sys2Proof.Machine
end

