-- ==== Sys2Proof/Laws/Registers.lean ====
section
/-! SUPPORT. The laws of association lists, bit fields, set-up registers and general registers: what is read after a write, and what a write
leaves. -/
namespace Sys2Proof.Machine

/-! ### Association lists -/

variable {β : Type}

@[simp] theorem lookupKey_insertKey (l : List (Nat × β)) (a b : Nat) (v : β) :
    lookupKey (insertKey l a v) b = if a = b then some v else lookupKey l b := by
  induction l with
  | nil => simp [insertKey, lookupKey]
  | cons p l ih =>
    obtain ⟨k, w⟩ := p
    unfold insertKey
    by_cases h1 : a < k
    · simp [h1, lookupKey]
    · by_cases h2 : k = a
      · subst h2
        by_cases h3 : k = b <;> simp [lookupKey, h3]
      · simp only [h1, h2, if_false, lookupKey, ih]
        by_cases h3 : k = b
        · subst h3; simp [Ne.symm h2]
        · simp [h3]

@[simp] theorem lookupKey_eraseKey (l : List (Nat × β)) (a b : Nat) :
    lookupKey (eraseKey l a) b = if a = b then none else lookupKey l b := by
  induction l with
  | nil => simp [eraseKey, lookupKey]
  | cons p l ih =>
    obtain ⟨k, w⟩ := p
    unfold eraseKey
    by_cases h : k = a
    · subst h
      rw [if_pos rfl, ih]
      by_cases h3 : k = b <;> simp [lookupKey, h3]
    · rw [if_neg h]
      simp only [lookupKey, ih]
      by_cases h3 : k = b
      · subst h3; simp [Ne.symm h]
      · simp [h3]

/-- Every key of a list is above a bound. -/
def keysAbove (a : Nat) (l : List (Nat × β)) : Prop := ∀ p ∈ l, a < p.1

theorem sortedKeys_cons (k : Nat) (v : β) (l : List (Nat × β)) :
    sortedKeys ((k, v) :: l) = true ↔ keysAbove k l ∧ sortedKeys l = true := by
  induction l generalizing k v with
  | nil => simp [sortedKeys, keysAbove]
  | cons p l ih =>
    obtain ⟨k', v'⟩ := p
    have h := ih k' v'
    simp only [sortedKeys, Bool.and_eq_true, decide_eq_true_eq]
    constructor
    · rintro ⟨h1, h2⟩
      refine ⟨?_, h2⟩
      intro p hp
      rcases List.mem_cons.1 hp with rfl | hp
      · exact h1
      · exact lt_trans h1 ((h.1 h2).1 p hp)
    · rintro ⟨h1, h2⟩
      exact ⟨h1 _ List.mem_cons_self, h2⟩

theorem mem_insertKey (l : List (Nat × β)) (a : Nat) (v : β) (p : Nat × β) (h : p ∈ insertKey l a v) : p = (a, v) ∨ p ∈ l := by
  induction l with
  | nil => simpa [insertKey] using h
  | cons q l ih =>
    obtain ⟨k, w⟩ := q
    unfold insertKey at h
    split at h
    · simpa using h
    · split at h
      · rcases List.mem_cons.1 h with h | h
        · exact .inl h
        · exact .inr (List.mem_cons_of_mem _ h)
      · rcases List.mem_cons.1 h with h | h
        · exact .inr (h ▸ List.mem_cons_self)
        · rcases ih h with h | h
          · exact .inl h
          · exact .inr (List.mem_cons_of_mem _ h)

theorem mem_eraseKey (l : List (Nat × β)) (a : Nat) (p : Nat × β) (h : p ∈ eraseKey l a) : p ∈ l := by
  induction l with
  | nil => simp [eraseKey] at h
  | cons q l ih =>
    obtain ⟨k, w⟩ := q
    unfold eraseKey at h
    split at h
    · exact List.mem_cons_of_mem _ (ih h)
    · rcases List.mem_cons.1 h with h | h
      · exact h ▸ List.mem_cons_self
      · exact List.mem_cons_of_mem _ (ih h)

theorem sortedKeys_insertKey (l : List (Nat × β)) (a : Nat) (v : β) (h : sortedKeys l = true) : sortedKeys (insertKey l a v) = true := by
  induction l with
  | nil => simp [insertKey, sortedKeys]
  | cons q l ih =>
    obtain ⟨k, w⟩ := q
    have hs := (sortedKeys_cons k w l).1 h
    unfold insertKey
    split
    · rename_i hk
      exact (sortedKeys_cons a v _).2 ⟨fun p hp => by
        rcases List.mem_cons.1 hp with rfl | hp
        · exact hk
        · exact lt_trans hk (hs.1 p hp), h⟩
    · split
      · rename_i hk
        subst hk
        exact (sortedKeys_cons k v l).2 hs
      · rename_i h1 h2
        refine (sortedKeys_cons k w _).2 ⟨fun p hp => ?_, ih hs.2⟩
        rcases mem_insertKey l a v p hp with rfl | hp
        · exact Nat.lt_of_le_of_ne (Nat.le_of_not_lt h1) h2
        · exact hs.1 p hp

theorem sortedKeys_eraseKey (l : List (Nat × β)) (a : Nat) (h : sortedKeys l = true) : sortedKeys (eraseKey l a) = true := by
  induction l with
  | nil => simp [eraseKey, sortedKeys]
  | cons q l ih =>
    obtain ⟨k, w⟩ := q
    have hs := (sortedKeys_cons k w l).1 h
    unfold eraseKey
    split
    · exact ih hs.2
    · exact (sortedKeys_cons k w _).2 ⟨fun p hp => hs.1 p (mem_eraseKey l a p hp), ih hs.2⟩

/-! ### Bit fields -/

theorem bitsOf_eq (x hi lo : Nat) : bitsOf x hi lo = x / 2 ^ lo % 2 ^ (hi + 1 - lo) := by
  simp [bitsOf, Nat.shiftRight_eq_div_pow]

theorem bitsOf_lt (x hi lo : Nat) : bitsOf x hi lo < 2 ^ (hi + 1 - lo) := by
  rw [bitsOf_eq]; exact Nat.mod_lt _ (Nat.two_pow_pos _)

theorem testBit_bitsOf (x hi lo i : Nat) : (bitsOf x hi lo).testBit i = (decide (i < hi + 1 - lo) && x.testBit (i + lo)) := by
  rw [bitsOf, Nat.testBit_mod_two_pow, Nat.testBit_shiftRight, Nat.add_comm lo i]

/-- The bits of a number with a field replaced. -/
theorem testBit_putBits (x hi lo v i : Nat) :
    (putBits x hi lo v).testBit i = if lo ≤ i ∧ i < lo + (hi + 1 - lo) then v.testBit (i - lo) else x.testBit i := by
  have hsplit : x = x % 2 ^ lo + 2 ^ lo * (bitsOf x hi lo + 2 ^ (hi + 1 - lo) * (x / 2 ^ lo / 2 ^ (hi + 1 - lo))) := by
    rw [bitsOf_eq, Nat.mod_add_div, Nat.mod_add_div]
  have hput : putBits x hi lo v = x % 2 ^ lo + 2 ^ lo * (v % 2 ^ (hi + 1 - lo) + 2 ^ (hi + 1 - lo) * (x / 2 ^ lo / 2 ^ (hi + 1 - lo))) := by
    unfold putBits
    have h1 : bitsOf x hi lo * 2 ^ lo ≤ x := by
      conv_rhs => rw [hsplit]
      nlinarith [Nat.zero_le (x % 2 ^ lo), Nat.zero_le (2 ^ lo * (2 ^ (hi + 1 - lo) * (x / 2 ^ lo / 2 ^ (hi + 1 - lo))))]
    have h2 : x - bitsOf x hi lo * 2 ^ lo = x % 2 ^ lo + 2 ^ lo * (2 ^ (hi + 1 - lo) * (x / 2 ^ lo / 2 ^ (hi + 1 - lo))) := by
      have : x = bitsOf x hi lo * 2 ^ lo + (x % 2 ^ lo + 2 ^ lo * (2 ^ (hi + 1 - lo) * (x / 2 ^ lo / 2 ^ (hi + 1 - lo)))) := by
        conv_lhs => rw [hsplit]
        ring
      omega
    rw [h2]
    ring
  rw [hput]
  have hlt : x % 2 ^ lo < 2 ^ lo := Nat.mod_lt _ (Nat.two_pow_pos _)
  rw [Nat.add_comm, Nat.testBit_two_pow_mul_add _ hlt]
  by_cases h1 : i < lo
  · simp [h1, Nat.not_le.2 h1]
  · have h1' : lo ≤ i := Nat.le_of_not_lt h1
    simp only [h1, if_false, h1', true_and]
    have hlt2 : v % 2 ^ (hi + 1 - lo) < 2 ^ (hi + 1 - lo) := Nat.mod_lt _ (Nat.two_pow_pos _)
    rw [Nat.add_comm, Nat.testBit_two_pow_mul_add _ hlt2]
    by_cases h2 : i < lo + (hi + 1 - lo)
    · have h3 : i - lo < hi + 1 - lo := by omega
      simp [h2, h3]
    · have h3 : ¬ i - lo < hi + 1 - lo := by omega
      simp only [h3, if_false, h2, Nat.testBit_div_two_pow]
      congr 1
      omega

/-- A field reads as what was put in it. -/
theorem bitsOf_putBits_same (x hi lo v : Nat) : bitsOf (putBits x hi lo v) hi lo = v % 2 ^ (hi + 1 - lo) := by
  apply Nat.eq_of_testBit_eq
  intro i
  rw [testBit_bitsOf, testBit_putBits, Nat.testBit_mod_two_pow]
  by_cases h : i < hi + 1 - lo
  · have : lo ≤ i + lo ∧ i + lo < lo + (hi + 1 - lo) := by omega
    simp [h, this]
  · simp [h]

/-- A field that does not overlap the one written keeps its value. -/
theorem bitsOf_putBits_of_disjoint (x hi lo v h l : Nat) (hd : h < lo ∨ lo + (hi + 1 - lo) ≤ l) :
    bitsOf (putBits x hi lo v) h l = bitsOf x h l := by
  apply Nat.eq_of_testBit_eq
  intro i
  rw [testBit_bitsOf, testBit_bitsOf, testBit_putBits]
  by_cases hi' : i < h + 1 - l
  · have : ¬ (lo ≤ i + l ∧ i + l < lo + (hi + 1 - lo)) := by omega
    simp [this]
  · simp [hi']

theorem bitsOf_mod (x n hi lo : Nat) (h : hi < n) : bitsOf (x % 2 ^ n) hi lo = bitsOf x hi lo := by
  apply Nat.eq_of_testBit_eq
  intro i
  rw [testBit_bitsOf, testBit_bitsOf, Nat.testBit_mod_two_pow]
  by_cases hi' : i < hi + 1 - lo
  · have : i + lo < n := by omega
    simp [this]
  · simp [hi']

/-! ### Set-up registers -/

variable (s : State) (o o' v : Nat)

@[simp] theorem State.reg_setReg : (s.setReg o v).reg o' = if o = o' then v % 2 ^ 32 else s.reg o' := by
  unfold State.setReg State.reg
  by_cases h : v % 2 ^ 32 = resetAt s.variant o
  · rw [if_pos h]
    by_cases ho : o = o'
    · subst ho; simpa using h.symm
    · simp [ho]
  · rw [if_neg h]
    by_cases ho : o = o'
    · subst ho; simp
    · simp [ho]

@[simp] theorem State.reg_updCore (c : CoreId) (g : Core → Core) : (s.updCore c g).reg o = s.reg o := rfl
@[simp] theorem State.get_updCore (c : CoreId) (g : Core → Core) (f : Fld) : (s.updCore c g).get f = s.get f := rfl

/-- A set-up field reads as what was set in it. -/
theorem State.get_set_same (f : Fld) (h : f.hi < 32) : (s.set f v).get f = v % 2 ^ (f.hi + 1 - f.lo) := by
  simp only [State.set, State.get, State.reg_setReg, if_true]
  rw [bitsOf_mod _ _ _ _ h, bitsOf_putBits_same]

/-- A field of another register, or one that does not overlap, keeps its value. -/
theorem State.get_set_of_ne (f g : Fld) (hg : g.hi < 32) (h : f.off ≠ g.off ∨ g.hi < f.lo ∨ f.lo + (f.hi + 1 - f.lo) ≤ g.lo) :
    (s.set f v).get g = s.get g := by
  simp only [State.set, State.get, State.reg_setReg]
  by_cases ho : f.off = g.off
  · rw [if_pos ho, bitsOf_mod _ _ _ _ hg, ho, bitsOf_putBits_of_disjoint _ _ _ _ _ _ (h.resolve_left (absurd ho))]
  · rw [if_neg ho]

/-! ### General registers -/

@[simp] theorem State.core_updCore (c c' : CoreId) (g : Core → Core) :
    (s.updCore c g).core c' = if c = c' then g (s.core c) else s.core c' := by
  unfold State.updCore State.setCore State.core
  by_cases h : c = c'
  · subst h; simp
  · have h' : c.val ≠ c'.val := fun e => h (Fin.ext e)
    simp [h, Vector.getElem_set_ne _ _ h']

variable (q : Core) (r r' : RegNo) (x : Word)

@[simp] theorem Core.hall_wr : (q.wr r x).hall = q.hall := by unfold Core.wr Core.setSp; split <;> try split
                                                              all_goals rfl
@[simp] theorem Core.stair_wr : (q.wr r x).stair = q.stair := by unfold Core.wr Core.setSp; split <;> try split
                                                                 all_goals rfl
@[simp] theorem Core.csw_wr : (q.wr r x).csw = q.csw := by unfold Core.wr Core.setSp; split <;> try split
                                                           all_goals rfl

/-- W0 reads as zero (R257). -/
@[simp] theorem Core.rd_zero : q.rd 0 = 0 := by simp [Core.rd]

/-- What a general register reads as after a write to one: a write to W0 is discarded (R257). -/
theorem Core.rd_wr : (q.wr r x).rd r' = if r = r' ∧ r ≠ 0 then x else q.rd r' := by
  have hv : ∀ a b : RegNo, a.val = b.val ↔ a = b := fun a b => Fin.ext_iff.symm
  have h0 : ∀ a : RegNo, a.val = 0 ↔ a = 0 := fun a => by rw [← hv a 0]; rfl
  by_cases hr : r.val = 0
  · have : r = 0 := (h0 r).1 hr
    simp [Core.wr, this]
  · have hr0 : r ≠ 0 := fun e => hr ((h0 r).2 e)
    by_cases hlt : r.val < 31
    · have hw : q.wr r x = { q with w := q.w.set r.val x } := by simp [Core.wr, hr, hlt]
      rw [hw]
      by_cases e : r = r'
      · subst e; simp [Core.rd, hr, hlt, hr0]
      · have e' : r.val ≠ r'.val := fun h => e ((hv r r').1 h)
        simp only [e, false_and, if_false]
        unfold Core.rd
        by_cases hr'0 : r'.val = 0
        · simp [hr'0]
        · simp only [hr'0, if_false]
          by_cases hl' : r'.val < 31
          · simp [hl', Vector.getElem_set_ne _ _ e']
          · simp [hl']; rfl
    · have hw : q.wr r x = q.setSp q.hall q.stair x := by simp [Core.wr, hr, hlt]
      have h31 : r.val = 31 := by have := r.isLt; omega
      rw [hw]
      by_cases e : r = r'
      · subst e
        simp only [Core.rd, hr, hlt, if_false, dif_neg, not_false_eq_true, hr0, ne_eq, and_self, if_true]
        show ((q.sp.set (spIndex q.hall q.stair) x)[spIndex q.hall q.stair]) = x
        simp
      · have e' : r.val ≠ r'.val := fun h => e ((hv r r').1 h)
        have hl' : r'.val < 31 := by have := r'.isLt; omega
        simp only [e, false_and, if_false]
        unfold Core.rd
        simp [hl', Core.setSp]

end Sys2Proof.Machine
end

