-- ==== Sys2Proof/Laws/Memory.lean ====
section
/-! SUPPORT. Memory: what a write leaves each byte, and that every memory operation keeps the canonical form. -/
namespace Sys2Proof.Machine
variable {s : State}

theorem State.putByte_mem (a : Nat) (b : Byte) :
    (s.putByte a b).mem = if unlisted a = some b then eraseKey s.mem a else insertKey s.mem a b := by
  unfold State.putByte
  split <;> rfl

/-- A byte reads as written, and a write leaves every other byte. -/
theorem State.byte_putByte (a x : Nat) (b : Byte) : (s.putByte a b).byte x = if x = a then b else s.byte x := by
  unfold State.byte
  rw [State.putByte_mem, State.putByte_dramGen, State.putByte_flashGen]
  by_cases hu : unlisted a = some b
  · rw [if_pos hu, lookupKey_eraseKey]
    by_cases hx : x = a
    · subst hx
      unfold unlisted at hu
      split at hu
      · rename_i hr
        simp only [hr, if_true]
        simpa using hu
      · simp at hu
    · rw [if_neg (Ne.symm hx), if_neg hx]
  · rw [if_neg hu, lookupKey_insertKey]
    by_cases hx : x = a
    · subst hx; simp
    · rw [if_neg (Ne.symm hx), if_neg hx]

/-- Bytes read as written, and every other byte stays. -/
theorem State.byte_putBytes (a x : Nat) (l : List Byte) :
    (s.putBytes a l).byte x = if h : a ≤ x ∧ x - a < l.length then l[x - a]'h.2 else s.byte x := by
  induction l generalizing s a with
  | nil => simp [State.putBytes]
  | cons b l ih =>
    simp only [State.putBytes, ih, State.byte_putByte]
    by_cases h1 : x = a
    · subst h1
      simp
    · by_cases h2 : a + 1 ≤ x ∧ x - (a + 1) < l.length
      · rw [dif_pos h2, dif_pos (by simp; omega)]
        have : x - a = (x - (a + 1)) + 1 := by omega
        simp [this]
      · rw [dif_neg h2, if_neg h1, dif_neg (by simp; omega)]

/-! ### The canonical form -/

theorem Memory.wf_iff (m : List Host.Cell) : Memory.wf m = true ↔ sortedKeys m = true ∧ ∀ c ∈ m, unlisted c.1 ≠ some c.2 := by
  simp [Memory.wf, List.all_eq_true]

theorem Memory.wf_putByte (h : Memory.wf s.mem = true) (a : Nat) (b : Byte) : Memory.wf (s.putByte a b).mem = true := by
  rw [Memory.wf_iff] at h ⊢
  rw [State.putByte_mem]
  split
  · exact ⟨sortedKeys_eraseKey _ _ h.1, fun c hc => h.2 c (mem_eraseKey _ _ _ hc)⟩
  · rename_i hu
    refine ⟨sortedKeys_insertKey _ _ _ h.1, fun c hc => ?_⟩
    rcases mem_insertKey _ _ _ _ hc with rfl | hc
    · exact hu
    · exact h.2 c hc

theorem Memory.wf_putBytes (h : Memory.wf s.mem = true) (a : Nat) (l : List Byte) : Memory.wf (s.putBytes a l).mem = true := by
  induction l generalizing s a with
  | nil => exact h
  | cons b l ih => exact ih (Memory.wf_putByte h a b) _

theorem State.putHost_mem (a : Nat) (l : List Byte) : (s.putHost a l).mem = s.mem := by
  induction l generalizing s a with
  | nil => rfl
  | cons b l ih => simp only [State.putHost, ih]

theorem Memory.wf_physWrite (h : Memory.wf s.mem = true) (a : Nat) (l : List Byte) : Memory.wf (s.physWrite a l).mem = true := by
  unfold State.physWrite
  split
  · rw [State.putHost_mem]; exact h
  · exact Memory.wf_putBytes h a l

theorem sortedKeys_filter {β : Type} (l : List (Nat × β)) (p : Nat × β → Bool) (h : sortedKeys l = true) : sortedKeys (l.filter p) = true := by
  induction l with
  | nil => rfl
  | cons q l ih =>
    obtain ⟨k, w⟩ := q
    rw [sortedKeys_cons] at h
    rw [List.filter_cons]
    split
    · rw [sortedKeys_cons]
      exact ⟨fun x hx => h.1 x (List.mem_filter.1 hx).1, ih h.2⟩
    · exact ih h.2

/-- Memory that is lost in part: the contents of a range of it (R112, R753, R765). -/
theorem Memory.wf_filter {m : List Host.Cell} (h : Memory.wf m = true) (p : Host.Cell → Bool) : Memory.wf (m.filter p) = true := by
  rw [Memory.wf_iff] at h ⊢
  exact ⟨sortedKeys_filter _ _ h.1, fun c hc => h.2 c (List.mem_filter.1 hc).1⟩

theorem sortedKeys_map {β : Type} (l : List (Nat × β)) (f : Nat × β → Nat × β) (hf : ∀ c, (f c).1 = c.1) (h : sortedKeys l = true) :
    sortedKeys (l.map f) = true := by
  induction l with
  | nil => rfl
  | cons q l ih =>
    obtain ⟨k, w⟩ := q
    rw [sortedKeys_cons] at h
    have e : f (k, w) = (k, (f (k, w)).2) := Prod.ext (hf _) rfl
    rw [List.map_cons, e, sortedKeys_cons]
    refine ⟨fun x hx => ?_, ih h.2⟩
    obtain ⟨y, hy, rfl⟩ := List.mem_map.1 hx
    rw [hf]
    exact h.1 y hy

/-- Dirty lines that are lost (R112, R119). -/
theorem Memory.wf_linesLost (h : Memory.wf s.mem = true) : Memory.wf s.linesLost.mem = true := by
  rw [Memory.wf_iff] at h ⊢
  refine ⟨sortedKeys_map _ _ (fun c => by split <;> rfl) h.1, fun c hc => ?_⟩
  obtain ⟨y, hy, rfl⟩ := List.mem_map.1 hc
  split
  · rename_i hd
    unfold unlisted
    rw [hd.1]
    simp
  · exact h.2 y hy

theorem Memory.wf_dramLost (h : Memory.wf s.mem = true) : Memory.wf s.dramLost.mem = true := Memory.wf_filter h _

theorem Memory.wf_reset : Memory.wf State.reset.mem = true := rfl

end Sys2Proof.Machine
end

