-- ==== Sys2Proof/Laws/Settle.lean ====
section
/-! SUPPORT. What settling leaves of a state: one relation for everything the end of a command can change of itself, shown for each unit and
for the whole. -/
namespace Sys2Proof.Machine

/-- A source that is pending on a core stays pending on it. -/
def PendKept (a b : Bells) : Prop := ∀ k src, k < 4 → src ∈ a.pend.getD k [] → src ∈ b.pend.getD k []

@[refl] theorem PendKept.refl (a : Bells) : PendKept a a := fun _ _ _ h => h

/-- Either the phase of the Cistern state and every core's sleep stay, or a wake source cancels an entry into it (R146). -/
def WakeKept (a b : CisPhase × Vector Core 4) : Prop :=
  (b.1 = a.1 ∧ ∀ c : CoreId, b.2[c].asleep = a.2[c].asleep) ∨ (a.1 = .entering ∧ b.1 = .awake)

@[refl] theorem WakeKept.refl (a : CisPhase × Vector Core 4) : WakeKept a a := .inl ⟨rfl, fun _ => rfl⟩

theorem WakeKept.trans {a b c : CisPhase × Vector Core 4} (h : WakeKept a b) (k : WakeKept b c) : WakeKept a c := by
  rcases h with ⟨h1, h2⟩ | ⟨h1, h2⟩ <;> rcases k with ⟨k1, k2⟩ | ⟨k1, k2⟩
  · exact .inl ⟨k1.trans h1, fun c => (k2 c).trans (h2 c)⟩
  · exact .inr ⟨h1.symm.trans k1, k2⟩
  · exact .inr ⟨h1, k1.trans h2⟩
  · exact .inr ⟨h1, k2⟩

/-- What the units leave at the end of a command. -/
structure Settles (s t : State) : Prop where
  pending : t.pending = s.pending
  variant : t.variant = s.variant
  freeCtr : t.freeCtr = s.freeCtr
  staged : t.staged = s.staged
  mem : t.mem = s.mem
  dramGen : t.dramGen = s.dramGen
  flashGen : t.flashGen = s.flashGen
  flashBusy : t.flashBusy = s.flashBusy
  flashCmd : t.flashCmd = s.flashCmd
  tb : t.tb = s.tb
  clk : t.clk = s.clk
  wins : t.wins = s.wins
  adc : t.adc = s.adc
  eng : t.eng = s.eng
  gal : t.gal = s.gal
  latch : t.latch = s.latch
  chg : t.chg = s.chg
  uarts : t.uarts = s.uarts
  bankUp : t.bankUp = s.bankUp
  jtag : t.jtag = s.jtag
  flt : t.flt = s.flt
  resp : t.resp = s.resp
  cores : ∀ c, t.core c = { s.core c with asleep := (t.core c).asleep }
  pump : t.pump = { s.pump with hot := t.pump.hot, coldWait := t.pump.coldWait }
  seq : t.seq = { s.seq with rel := t.seq.rel }
  dram : t.dram = { s.dram with selfRef := t.dram.selfRef }
  pwr : t.pwr = { s.pwr with cis := t.pwr.cis, wakePend := t.pwr.wakePend }
  link : t.link = { s.link with msixWait := t.link.msixWait, msiPend := t.link.msiPend }
  reg : ∀ off, settlesReg off = false → t.reg off = s.reg off
  pend : PendKept s.bel t.bel
  wake : WakeKept (s.pwr.cis, s.cores) (t.pwr.cis, t.cores)

theorem Settles.refl (s : State) : Settles s s := by constructor <;> (try intros) <;> rfl

theorem Settles.trans {s t u : State} (h : Settles s t) (k : Settles t u) : Settles s u where
  pending := k.pending.trans h.pending
  variant := k.variant.trans h.variant
  freeCtr := k.freeCtr.trans h.freeCtr
  staged := k.staged.trans h.staged
  mem := k.mem.trans h.mem
  dramGen := k.dramGen.trans h.dramGen
  flashGen := k.flashGen.trans h.flashGen
  flashBusy := k.flashBusy.trans h.flashBusy
  flashCmd := k.flashCmd.trans h.flashCmd
  tb := k.tb.trans h.tb
  clk := k.clk.trans h.clk
  wins := k.wins.trans h.wins
  adc := k.adc.trans h.adc
  eng := k.eng.trans h.eng
  gal := k.gal.trans h.gal
  latch := k.latch.trans h.latch
  chg := k.chg.trans h.chg
  uarts := k.uarts.trans h.uarts
  bankUp := k.bankUp.trans h.bankUp
  jtag := k.jtag.trans h.jtag
  flt := k.flt.trans h.flt
  resp := k.resp.trans h.resp
  cores c := by rw [k.cores c, h.cores c]
  pump := by rw [k.pump, h.pump]
  seq := by rw [k.seq, h.seq]
  dram := by rw [k.dram, h.dram]
  pwr := by rw [k.pwr, h.pwr]
  link := by rw [k.link, h.link]
  reg off ho := (k.reg off ho).trans (h.reg off ho)
  pend c src l m := k.pend c src l (h.pend c src l m)
  wake := h.wake.trans k.wake

/-- A fold of steps that each settle settles. -/
theorem Settles.foldl {α : Type} (f : State → α → State) (hf : ∀ s a, Settles s (f s a)) (l : List α) (s : State) :
    Settles s (l.foldl f s) := by
  induction l generalizing s with
  | nil => exact .refl s
  | cons a l ih => exact (hf s a).trans (ih _)

theorem Settles.ite {s t u : State} {p : Prop} [Decidable p] (h : Settles s t) (k : Settles s u) : Settles s (if p then t else u) := by
  split <;> assumption

/-- A change of registers that change of themselves. -/
theorem Settles.of_setReg (s : State) (o v : Nat) (h : settlesReg o = true) : Settles s (s.setReg o v) := by
  have hb : PendKept s.bel (s.setReg o v).bel := by rw [State.setReg_bel]
  have hc : WakeKept (s.pwr.cis, s.cores) ((s.setReg o v).pwr.cis, (s.setReg o v).cores) := by rw [State.setReg_pwr, State.setReg_cores]
  constructor <;> (try exact hb) <;> (try exact hc) <;> (try intros) <;> simp [State.core]
  rename_i off ho
  intro e
  subst e
  simp [h] at ho

theorem Settles.of_set (s : State) (f : Fld) (v : Nat) (h : settlesReg f.off = true) : Settles s (s.set f v) := .of_setReg s _ _ h
theorem Settles.of_put (s : State) (f : Fld) (b : Bool) (h : settlesReg f.off = true) : Settles s (s.put f b) := .of_setReg s _ _ h
theorem Settles.of_event (s : State) (b n : Nat) (h : settlesReg (blockBase b + 4) = true) : Settles s (s.event b n) := .of_setReg s _ _ h

theorem Settles.of_updBel (s : State) (f : Bells → Bells) (h : PendKept s.bel (f s.bel)) : Settles s (s.updBel f) := by
  constructor <;> first | exact h | (try intros; rfl)

/-- A change of PWR's wake bits alone. -/
theorem Settles.of_wakePend (s : State) (n : Nat) : Settles s (s.updPwr fun q => { q with wakePend := n }) := by
  constructor <;> (try intros) <;> rfl

theorem Settles.of_putHost (s : State) (l : List Byte) (h : Nat) : Settles s (s.putHost h l) := by
  induction l generalizing s h with
  | nil => exact .refl s
  | cons b l ih =>
    refine Settles.trans ?_ (ih _ _)
    constructor <;> (try intros) <;> rfl

theorem settles_hallPDone (s : State) : Settles s s.hallPDone := by
  unfold State.hallPDone
  split
  · exact (Settles.of_put s _ _ (by decide)).trans (.of_event _ _ _ (by decide))
  · exact .refl s

theorem settles_wake (s : State) (n : Nat) : Settles s (s.wake n) := by
  unfold State.wake
  split
  · exact .refl s
  · cases h : s.pwr.cis <;> simp only
    case entering =>
      refine Settles.trans ?_ (.of_event _ _ _ (by decide))
      constructor <;> first | exact .inr ⟨h, rfl⟩ | ((try intros); first | rfl | simp [State.core])
    case releasing => exact .of_wakePend s _
    case asleep => exact .of_wakePend s _
    all_goals exact .refl s

theorem settles_gpioEdge (s : State) (n : Nat) (b : Bool) (h : n < 64) : Settles s (s.gpioEdge n b) := by
  have hd : n / 32 = 0 ∨ n / 32 = 1 := by omega
  have hin : settlesReg (F.GPIO_IN_MASK.ix (n / 32)).off = true := by rcases hd with h | h <;> rw [h] <;> decide
  have hed : settlesReg (F.GPIO_EDGE_MASK.ix (n / 32)).off = true := by rcases hd with h | h <;> rw [h] <;> decide
  unfold State.gpioEdge
  refine .ite (.refl s) ?_
  refine Settles.ite (.of_set s _ _ hin) ?_
  refine .ite ?_ ?_
  · exact (((Settles.of_set s _ _ hin).trans (.of_set _ _ _ hed)).trans (.of_event _ _ _ (by decide))).trans (settles_wake _ _)
  · exact (Settles.of_set s _ _ hin).trans (.of_set _ _ _ hed)

theorem settles_gpioDrive (s : State) (w : Nat) (hw : w < 2) : Settles s (s.gpioDrive w) := by
  unfold State.gpioDrive
  refine .ite (.refl s) ?_
  generalize s.gpioStale w = m
  suffices ∀ l : List Nat, (∀ i ∈ l, i < 32) → ∀ s : State, Settles s (l.foldl (fun s i =>
      if bit m i then s.gpioEdge (32 * w + i) (bit (s.get (F.GPIO_OUT_MASK.ix w)) i) else s) s) from
    this _ (fun i hi => List.mem_range.1 hi) s
  intro l
  induction l with
  | nil => intro _ s; exact .refl s
  | cons i l ih =>
    intro hl s
    have hi := hl i List.mem_cons_self
    refine Settles.trans ?_ (ih (fun j hj => hl j (List.mem_cons_of_mem _ hj)) _)
    exact .ite (settles_gpioEdge s _ _ (by omega)) (.refl s)

theorem settles_i2cSeq (s : State) : Settles s s.i2cSeq := by
  unfold State.i2cSeq
  split
  · exact .refl s
  · refine .ite (.refl s) ?_
    split
    · refine Settles.trans (t := { s with i2c := _ }) ?_ (.of_put _ _ _ (by decide))
      constructor <;> (try intros) <;> rfl
    · exact .refl s

theorem settles_pollCool (s : State) (w : Nat) : Settles s (s.pollCool w) := by
  unfold State.pollCool
  refine .ite ?_ ?_
  · constructor <;> (try intros) <;> rfl
  · constructor <;> (try intros) <;> try rfl
    simp only [State.updPump_pump]
    cases s.pump.coldWait <;> rfl

theorem settles_hotCheck (s : State) : Settles s s.hotCheck := Settles.foldl _ settles_pollCool _ s

theorem mem_insertNat (l : List Nat) (a b : Nat) : b ∈ insertNat l a ↔ b = a ∨ b ∈ l := by
  induction l with
  | nil => simp [insertNat]
  | cons x l ih =>
    unfold insertNat
    split
    · simp
    · split
      · rename_i h
        subst h
        simp
      · simp only [List.mem_cons, ih]
        tauto

/-- What is pending on core k after a source becomes pending on a set of cores (R492). -/
theorem pend_pendOn (s : State) (src m k : Nat) : (s.pendOn src m).bel.pend.getD k [] =
    if k < 4 then (if bit m k && decide (k < Variant.cores s.variant) then insertNat (s.bel.pend.getD k []) src else s.bel.pend.getD k []) else [] := by
  unfold State.pendOn State.updBel
  by_cases h : k < 4
  · simp [List.getD, h]
  · simp [List.getD, h]

theorem pendKept_pendOn (s : State) (src m : Nat) : PendKept s.bel (s.pendOn src m).bel := by
  intro k x hk hx
  rw [pend_pendOn, if_pos hk]
  split
  · exact (mem_insertNat _ _ _).2 (.inr hx)
  · exact hx

theorem settles_pendOn (s : State) (src m : Nat) : Settles s (s.pendOn src m) := by
  have h := pendKept_pendOn s src m
  unfold State.pendOn at h ⊢
  exact .of_updBel s _ h

theorem settles_deliverHeld (s : State) : Settles s s.deliverHeld := by
  refine Settles.foldl _ ?_ _ s
  intro s src
  split
  · exact (settles_pendOn s _ _).trans (.of_updBel _ _ (.refl _))
  · exact .refl s

theorem settles_setPba (s : State) (v : Nat) (b : Bool) : Settles s (s.setPba v b) := by
  refine .of_set s _ _ ?_
  simp [settlesReg, Fld.ix, F.HLK_PBA_PENDING]

theorem settles_sendMsix (s : State) (v : Nat) : Settles s (s.sendMsix v) := by
  unfold State.sendMsix
  refine .ite (settles_setPba s _ _) (.ite (.of_putHost s _ _) ?_)
  constructor <;> (try intros) <;> rfl

theorem settles_sendMsi (s : State) (v : Nat) : Settles s (s.sendMsi v) := by
  unfold State.sendMsi
  refine .ite ?_ (.of_putHost s _ _)
  constructor <;> (try intros) <;> rfl

theorem settles_releaseMsgs (s : State) : Settles s s.releaseMsgs := by
  unfold State.releaseMsgs
  refine .ite (.refl s) ?_
  have h1 : Settles s (s.link.msixWait.foldl (fun s v => s.sendMsix v) (s.updLink fun l => { l with msixWait := [] })) := by
    refine Settles.trans (t := s.updLink fun l => { l with msixWait := [] }) ?_ (Settles.foldl _ settles_sendMsix _ _)
    constructor <;> (try intros) <;> rfl
  have h2 : ∀ (u : State) (p : Prop) [Decidable p], Settles s u → Settles s (if p then
        (List.range 64).foldl (fun s i =>
          let m := s.get (F.HLK_PBA_PENDING.ix i)
          if m = 0 then s
          else (List.range 32).foldl (fun s j =>
            if bit m j && !s.msixMasked (i * 32 + j) then (s.setPba (i * 32 + j) false).sendMsix (i * 32 + j) else s) s) u
      else u) := by
    intro u p _ hu
    refine .ite (hu.trans (Settles.foldl _ ?_ _ _)) hu
    intro s i
    refine .ite (.refl s) (Settles.foldl _ ?_ _ _)
    intro s j
    exact .ite ((settles_setPba s _ _).trans (settles_sendMsix _ _)) (.refl s)
  have h3 : ∀ (u : State) (p : Prop) [Decidable p], Settles s u → Settles s (if p then
      (List.range 32).foldl (fun s v =>
        if bit s.link.msiPend v && !bit s.link.msiMask v then
          (s.updLink fun l => { l with msiPend := clrBit l.msiPend v }).sendMsi v else s) u
      else u) := by
    intro u p _ hu
    refine .ite (hu.trans (Settles.foldl _ ?_ _ _)) hu
    intro s j
    refine .ite (Settles.trans (t := s.updLink fun l => { l with msiPend := clrBit l.msiPend j }) ?_ (settles_sendMsi _ _)) (.refl s)
    constructor <;> (try intros) <;> rfl
  exact h3 _ _ (h2 _ _ h1)

/-- The units at the end of a command. -/
theorem settles_settleUnits (s : State) : Settles s s.settleUnits :=
  ((((((settles_hallPDone s).trans (settles_gpioDrive _ 0 (by omega))).trans (settles_gpioDrive _ 1 (by omega))).trans
    (settles_i2cSeq _)).trans (settles_hotCheck _)).trans (settles_deliverHeld _)).trans (settles_releaseMsgs _)

/-! ### The whole -/

/-- A core at the end of a command: the wired bits are cleared; it may wake, halt, or drop a halt request. -/
theorem core_settle (s : State) (c : CoreId) : ∃ a h r, s.settle.core c =
    { s.core c with pc := (s.core c).pc &&& pcBits, csw := (s.core c).csw &&& cswBits, fcsw := (s.core c).fcsw &&& fcswBits,
                    asleep := a, halted := h, haltReq := r } := by
  have h := (settles_settleUnits s).cores c
  have hc : s.settle.core c = s.settleUnits.settleCore c (s.settleUnits.core c) := by
    simp [State.settle, State.settleCores, State.core]
  rw [hc, State.settleCore, h]
  exact ⟨_, _, _, rfl⟩

variable (s : State)

theorem settle_pend : PendKept s.bel s.settle.bel := (settles_settleUnits s).pend
@[simp] theorem settle_pending : s.settle.pending = s.pending := ((settles_settleUnits s).pending :)
@[simp] theorem settle_variant : s.settle.variant = s.variant := ((settles_settleUnits s).variant :)
@[simp] theorem settle_freeCtr : s.settle.freeCtr = s.freeCtr := ((settles_settleUnits s).freeCtr :)
@[simp] theorem settle_staged : s.settle.staged = s.staged := ((settles_settleUnits s).staged :)
@[simp] theorem settle_mem : s.settle.mem = s.mem := ((settles_settleUnits s).mem :)
@[simp] theorem settle_dramGen : s.settle.dramGen = s.dramGen := ((settles_settleUnits s).dramGen :)
@[simp] theorem settle_flashGen : s.settle.flashGen = s.flashGen := ((settles_settleUnits s).flashGen :)
@[simp] theorem settle_flashBusy : s.settle.flashBusy = s.flashBusy := ((settles_settleUnits s).flashBusy :)
@[simp] theorem settle_flashCmd : s.settle.flashCmd = s.flashCmd := ((settles_settleUnits s).flashCmd :)
@[simp] theorem settle_tb : s.settle.tb = s.tb := ((settles_settleUnits s).tb :)
@[simp] theorem settle_clk : s.settle.clk = s.clk := ((settles_settleUnits s).clk :)
@[simp] theorem settle_wins : s.settle.wins = s.wins := ((settles_settleUnits s).wins :)
@[simp] theorem settle_adc : s.settle.adc = s.adc := ((settles_settleUnits s).adc :)
@[simp] theorem settle_eng : s.settle.eng = s.eng := ((settles_settleUnits s).eng :)
@[simp] theorem settle_gal : s.settle.gal = s.gal := ((settles_settleUnits s).gal :)
@[simp] theorem settle_latch : s.settle.latch = s.latch := ((settles_settleUnits s).latch :)
@[simp] theorem settle_chg : s.settle.chg = s.chg := ((settles_settleUnits s).chg :)
@[simp] theorem settle_uarts : s.settle.uarts = s.uarts := ((settles_settleUnits s).uarts :)
@[simp] theorem settle_bankUp : s.settle.bankUp = s.bankUp := ((settles_settleUnits s).bankUp :)
@[simp] theorem settle_jtag : s.settle.jtag = s.jtag := ((settles_settleUnits s).jtag :)
@[simp] theorem settle_flt : s.settle.flt = s.flt := ((settles_settleUnits s).flt :)
@[simp] theorem settle_resp : s.settle.resp = s.resp := ((settles_settleUnits s).resp :)
@[simp] theorem settle_pump_wells : s.settle.pump.wells = s.pump.wells := (congrArg Pump.wells (settles_settleUnits s).pump :)
@[simp] theorem settle_pump_cache : s.settle.pump.cache = s.pump.cache := (congrArg Pump.cache (settles_settleUnits s).pump :)
@[simp] theorem settle_pump_fetched : s.settle.pump.fetched = s.pump.fetched := (congrArg Pump.fetched (settles_settleUnits s).pump :)
@[simp] theorem settle_pump_requeued : s.settle.pump.requeued = s.pump.requeued := (congrArg Pump.requeued (settles_settleUnits s).pump :)
@[simp] theorem settle_pump_flight : s.settle.pump.flight = s.pump.flight := (congrArg Pump.flight (settles_settleUnits s).pump :)
@[simp] theorem settle_pump_issue : s.settle.pump.issue = s.pump.issue := (congrArg Pump.issue (settles_settleUnits s).pump :)
@[simp] theorem settle_pump_levelAt : s.settle.pump.levelAt = s.pump.levelAt := (congrArg Pump.levelAt (settles_settleUnits s).pump :)
@[simp] theorem settle_pump_arrived : s.settle.pump.arrived = s.pump.arrived := (congrArg Pump.arrived (settles_settleUnits s).pump :)
@[simp] theorem settle_pump_lastWell : s.settle.pump.lastWell = s.pump.lastWell := (congrArg Pump.lastWell (settles_settleUnits s).pump :)
@[simp] theorem settle_pump_epPend : s.settle.pump.epPend = s.pump.epPend := (congrArg Pump.epPend (settles_settleUnits s).pump :)
@[simp] theorem settle_pump_epList : s.settle.pump.epList = s.pump.epList := (congrArg Pump.epList (settles_settleUnits s).pump :)
@[simp] theorem settle_pump_oldCis : s.settle.pump.oldCis = s.pump.oldCis := (congrArg Pump.oldCis (settles_settleUnits s).pump :)
@[simp] theorem settle_pump_keys : s.settle.pump.keys = s.pump.keys := (congrArg Pump.keys (settles_settleUnits s).pump :)
@[simp] theorem settle_pump_wsel : s.settle.pump.wsel = s.pump.wsel := (congrArg Pump.wsel (settles_settleUnits s).pump :)
@[simp] theorem settle_seq_state : s.settle.seq.state = s.seq.state := (congrArg Seq.state (settles_settleUnits s).seq :)
@[simp] theorem settle_seq_step : s.settle.seq.step = s.seq.step := (congrArg Seq.step (settles_settleUnits s).seq :)
@[simp] theorem settle_seq_ramping : s.settle.seq.ramping = s.seq.ramping := (congrArg Seq.ramping (settles_settleUnits s).seq :)
@[simp] theorem settle_seq_failed : s.settle.seq.failed = s.seq.failed := (congrArg Seq.failed (settles_settleUnits s).seq :)
@[simp] theorem settle_seq_stepDone : s.settle.seq.stepDone = s.seq.stepDone := (congrArg Seq.stepDone (settles_settleUnits s).seq :)
@[simp] theorem settle_seq_kReady : s.settle.seq.kReady = s.seq.kReady := (congrArg Seq.kReady (settles_settleUnits s).seq :)
@[simp] theorem settle_seq_pg : s.settle.seq.pg = s.seq.pg := (congrArg Seq.pg (settles_settleUnits s).seq :)
@[simp] theorem settle_seq_colArmed : s.settle.seq.colArmed = s.seq.colArmed := (congrArg Seq.colArmed (settles_settleUnits s).seq :)
@[simp] theorem settle_seq_klead : s.settle.seq.klead = s.seq.klead := (congrArg Seq.klead (settles_settleUnits s).seq :)
@[simp] theorem settle_seq_kline : s.settle.seq.kline = s.seq.kline := (congrArg Seq.kline (settles_settleUnits s).seq :)
@[simp] theorem settle_seq_kdrive : s.settle.seq.kdrive = s.seq.kdrive := (congrArg Seq.kdrive (settles_settleUnits s).seq :)
@[simp] theorem settle_seq_level : s.settle.seq.level = s.seq.level := (congrArg Seq.level (settles_settleUnits s).seq :)
@[simp] theorem settle_seq_upCnt : s.settle.seq.upCnt = s.seq.upCnt := (congrArg Seq.upCnt (settles_settleUnits s).seq :)
@[simp] theorem settle_seq_dnCnt : s.settle.seq.dnCnt = s.seq.dnCnt := (congrArg Seq.dnCnt (settles_settleUnits s).seq :)
@[simp] theorem settle_seq_settleFrom : s.settle.seq.settleFrom = s.seq.settleFrom := (congrArg Seq.settleFrom (settles_settleUnits s).seq :)
@[simp] theorem settle_seq_pmb : s.settle.seq.pmb = s.seq.pmb := (congrArg Seq.pmb (settles_settleUnits s).seq :)
@[simp] theorem settle_seq_mdac : s.settle.seq.mdac = s.seq.mdac := (congrArg Seq.mdac (settles_settleUnits s).seq :)
@[simp] theorem settle_dram_trained : s.settle.dram.trained = s.dram.trained := (congrArg DramCtl.trained (settles_settleUnits s).dram :)
@[simp] theorem settle_dram_usable : s.settle.dram.usable = s.dram.usable := (congrArg DramCtl.usable (settles_settleUnits s).dram :)
@[simp] theorem settle_dram_mr8 : s.settle.dram.mr8 = s.dram.mr8 := (congrArg DramCtl.mr8 (settles_settleUnits s).dram :)
@[simp] theorem settle_dram_eccBad : s.settle.dram.eccBad = s.dram.eccBad := (congrArg DramCtl.eccBad (settles_settleUnits s).dram :)
@[simp] theorem settle_dram_eccSoft : s.settle.dram.eccSoft = s.dram.eccSoft := (congrArg DramCtl.eccSoft (settles_settleUnits s).dram :)
@[simp] theorem settle_dram_ready : s.settle.dram.ready = s.dram.ready := (congrArg DramCtl.ready (settles_settleUnits s).dram :)
@[simp] theorem settle_pwr_aonUp : s.settle.pwr.aonUp = s.pwr.aonUp := (congrArg Pwr.aonUp (settles_settleUnits s).pwr :)
@[simp] theorem settle_pwr_fabricUp : s.settle.pwr.fabricUp = s.pwr.fabricUp := (congrArg Pwr.fabricUp (settles_settleUnits s).pwr :)
@[simp] theorem settle_pwr_tableRun : s.settle.pwr.tableRun = s.pwr.tableRun := (congrArg Pwr.tableRun (settles_settleUnits s).pwr :)
@[simp] theorem settle_pwr_hostBoot : s.settle.pwr.hostBoot = s.pwr.hostBoot := (congrArg Pwr.hostBoot (settles_settleUnits s).pwr :)
@[simp] theorem settle_pwr_bootLen : s.settle.pwr.bootLen = s.pwr.bootLen := (congrArg Pwr.bootLen (settles_settleUnits s).pwr :)
@[simp] theorem settle_pwr_lifecycle : s.settle.pwr.lifecycle = s.pwr.lifecycle := (congrArg Pwr.lifecycle (settles_settleUnits s).pwr :)
@[simp] theorem settle_pwr_fabricRails : s.settle.pwr.fabricRails = s.pwr.fabricRails := (congrArg Pwr.fabricRails (settles_settleUnits s).pwr :)
@[simp] theorem settle_pwr_otp : s.settle.pwr.otp = s.pwr.otp := (congrArg Pwr.otp (settles_settleUnits s).pwr :)
@[simp] theorem settle_pwr_otpBusy : s.settle.pwr.otpBusy = s.pwr.otpBusy := (congrArg Pwr.otpBusy (settles_settleUnits s).pwr :)
@[simp] theorem settle_pwr_bank0 : s.settle.pwr.bank0 = s.pwr.bank0 := (congrArg Pwr.bank0 (settles_settleUnits s).pwr :)
@[simp] theorem settle_pwr_bank1 : s.settle.pwr.bank1 = s.pwr.bank1 := (congrArg Pwr.bank1 (settles_settleUnits s).pwr :)
@[simp] theorem settle_pwr_calActive : s.settle.pwr.calActive = s.pwr.calActive := (congrArg Pwr.calActive (settles_settleUnits s).pwr :)
@[simp] theorem settle_pwr_calBusy : s.settle.pwr.calBusy = s.pwr.calBusy := (congrArg Pwr.calBusy (settles_settleUnits s).pwr :)
@[simp] theorem settle_pwr_adcTrim : s.settle.pwr.adcTrim = s.pwr.adcTrim := (congrArg Pwr.adcTrim (settles_settleUnits s).pwr :)
@[simp] theorem settle_pwr_tsrc32 : s.settle.pwr.tsrc32 = s.pwr.tsrc32 := (congrArg Pwr.tsrc32 (settles_settleUnits s).pwr :)
@[simp] theorem settle_pwr_tacc : s.settle.pwr.tacc = s.pwr.tacc := (congrArg Pwr.tacc (settles_settleUnits s).pwr :)
@[simp] theorem settle_pwr_osc24 : s.settle.pwr.osc24 = s.pwr.osc24 := (congrArg Pwr.osc24 (settles_settleUnits s).pwr :)
@[simp] theorem settle_pwr_wakeGalL : s.settle.pwr.wakeGalL = s.pwr.wakeGalL := (congrArg Pwr.wakeGalL (settles_settleUnits s).pwr :)
@[simp] theorem settle_link_up : s.settle.link.up = s.link.up := (congrArg Link.up (settles_settleUnits s).link :)
@[simp] theorem settle_link_bme : s.settle.link.bme = s.link.bme := (congrArg Link.bme (settles_settleUnits s).link :)
@[simp] theorem settle_link_dState : s.settle.link.dState = s.link.dState := (congrArg Link.dState (settles_settleUnits s).link :)
@[simp] theorem settle_link_lp : s.settle.link.lp = s.link.lp := (congrArg Link.lp (settles_settleUnits s).link :)
@[simp] theorem settle_link_perst : s.settle.link.perst = s.link.perst := (congrArg Link.perst (settles_settleUnits s).link :)
@[simp] theorem settle_link_rate : s.settle.link.rate = s.link.rate := (congrArg Link.rate (settles_settleUnits s).link :)
@[simp] theorem settle_link_width : s.settle.link.width = s.link.width := (congrArg Link.width (settles_settleUnits s).link :)
@[simp] theorem settle_link_bar4 : s.settle.link.bar4 = s.link.bar4 := (congrArg Link.bar4 (settles_settleUnits s).link :)
@[simp] theorem settle_link_msi : s.settle.link.msi = s.link.msi := (congrArg Link.msi (settles_settleUnits s).link :)
@[simp] theorem settle_link_msix : s.settle.link.msix = s.link.msix := (congrArg Link.msix (settles_settleUnits s).link :)
@[simp] theorem settle_link_msixMask : s.settle.link.msixMask = s.link.msixMask := (congrArg Link.msixMask (settles_settleUnits s).link :)
@[simp] theorem settle_link_msiLog : s.settle.link.msiLog = s.link.msiLog := (congrArg Link.msiLog (settles_settleUnits s).link :)
@[simp] theorem settle_link_msiAddr : s.settle.link.msiAddr = s.link.msiAddr := (congrArg Link.msiAddr (settles_settleUnits s).link :)
@[simp] theorem settle_link_msiData : s.settle.link.msiData = s.link.msiData := (congrArg Link.msiData (settles_settleUnits s).link :)
@[simp] theorem settle_link_msiMask : s.settle.link.msiMask = s.link.msiMask := (congrArg Link.msiMask (settles_settleUnits s).link :)
@[simp] theorem settle_link_cto : s.settle.link.cto = s.link.cto := (congrArg Link.cto (settles_settleUnits s).link :)
@[simp] theorem settle_link_pmeEn : s.settle.link.pmeEn = s.link.pmeEn := (congrArg Link.pmeEn (settles_settleUnits s).link :)
@[simp] theorem settle_link_pmeStat : s.settle.link.pmeStat = s.link.pmeStat := (congrArg Link.pmeStat (settles_settleUnits s).link :)
@[simp] theorem settle_link_wakeN : s.settle.link.wakeN = s.link.wakeN := (congrArg Link.wakeN (settles_settleUnits s).link :)
@[simp] theorem settle_link_aspm : s.settle.link.aspm = s.link.aspm := (congrArg Link.aspm (settles_settleUnits s).link :)
@[simp] theorem settle_link_l1ss : s.settle.link.l1ss = s.link.l1ss := (congrArg Link.l1ss (settles_settleUnits s).link :)
@[simp] theorem settle_link_mps : s.settle.link.mps = s.link.mps := (congrArg Link.mps (settles_settleUnits s).link :)
@[simp] theorem settle_link_mrrs : s.settle.link.mrrs = s.link.mrrs := (congrArg Link.mrrs (settles_settleUnits s).link :)
@[simp] theorem settle_link_aer : s.settle.link.aer = s.link.aer := (congrArg Link.aer (settles_settleUnits s).link :)

theorem settle_reg (o : Nat) (h : settlesReg o = false) : s.settle.reg o = s.reg o := ((settles_settleUnits s).reg o h :)
theorem settle_get (f : Fld) (h : settlesReg f.off = false) : s.settle.get f = s.get f := by
  unfold State.get
  rw [settle_reg s f.off h]

@[simp] theorem settle_byte (a : Nat) : s.settle.byte a = s.byte a := by
  unfold State.byte
  rw [settle_mem, settle_dramGen, settle_flashGen]

end Sys2Proof.Machine
end

