-- ==== Sys2Proof/Laws/Run.lean ====
section
/-! SUPPORT. How an instruction that is ready ends: the state a command leaves after a body that goes on, jumps or raises an exception. -/
namespace Sys2Proof.Machine

/-! ### Fields of CSW and FCSW -/

theorem putBits_lt (x hi lo v n : Nat) (hx : x < 2 ^ n) (hn : hi < n) : putBits x hi lo v < 2 ^ n := by
  apply Nat.lt_pow_two_of_testBit
  intro i hi'
  rw [testBit_putBits, if_neg (by omega)]
  exact Nat.testBit_lt_two_pow (lt_of_lt_of_le hx (Nat.pow_le_pow_right (by omega) hi'))

/-- The bits of CSW with a field set. -/
theorem getLsbD_cswSet (v : Word) (hi lo x i : Nat) (h : hi < 48) :
    (cswSet v hi lo x).getLsbD i = if lo ≤ i ∧ i < lo + (hi + 1 - lo) then x.testBit (i - lo) else v.getLsbD i := by
  rw [cswSet, BitVec.getLsbD_ofNat, testBit_putBits]
  by_cases hi' : i < 48
  · simp [hi', BitVec.getLsbD]
  · simp only [hi', decide_false, Bool.false_and]
    rw [if_neg (by omega)]
    exact (BitVec.getLsbD_of_ge _ _ (by omega)).symm

theorem bitsOf_cswSet_of_disjoint (v : Word) (hi lo x h l : Nat) (hhi : hi < 48) (hd : h < lo ∨ lo + (hi + 1 - lo) ≤ l) :
    bitsOf (cswSet v hi lo x).toNat h l = bitsOf v.toNat h l := by
  rw [cswSet, BitVec.toNat_ofNat, Nat.mod_eq_of_lt (putBits_lt _ _ _ _ _ v.isLt hhi), bitsOf_putBits_of_disjoint _ _ _ _ _ _ hd]

variable (q r : Core) (n : RegNo)

/-- A general register depends on the hall and the stair beside the registers themselves (R259). -/
theorem Core.rd_congr (hw : r.w = q.w) (hs : r.sp = q.sp) (hh : r.hall = q.hall) (ht : r.stair = q.stair) : r.rd n = q.rd n := by
  unfold Core.rd Core.spOf
  rw [hw, hs, hh, ht]

@[simp] theorem Core.hall_setFlags (f : Nzcv) : (q.setFlags f).hall = q.hall := by
  unfold Core.hall Core.setFlags cswHall
  rw [getLsbD_cswSet _ _ _ _ _ (by omega)]; rfl

@[simp] theorem Core.stair_setFlags (f : Nzcv) : (q.setFlags f).stair = q.stair :=
  bitsOf_cswSet_of_disjoint _ _ _ _ _ _ (by omega) (by omega)

@[simp] theorem Core.rd_setFlags (f : Nzcv) : (q.setFlags f).rd n = q.rd n := Core.rd_congr _ _ _ rfl rfl (by simp) (by simp)

/-- Flags read as written. -/
@[simp] theorem Core.nzcv_setFlags (f : Nzcv) : (q.setFlags f).nzcv = f := by
  unfold Core.nzcv Core.setFlags cswN cswZ cswC cswV
  simp only [getLsbD_cswSet _ _ _ _ _ (show 3 < 48 by omega)]
  obtain ⟨a, b, c, d⟩ := f
  cases a <;> cases b <;> cases c <;> cases d <;> rfl

theorem Core.nzcv_congr (h : r.csw = q.csw) : r.nzcv = q.nzcv := by unfold Core.nzcv; rw [h]

/-- Only the flags of CSW change when they are written. -/
theorem Core.cswKept_setFlags (f : Nzcv) : q.CswKept (q.setFlags f) flagBits := by
  unfold Core.CswKept Core.setFlags
  apply BitVec.eq_of_getLsbD_eq
  intro i hi
  simp only [BitVec.getLsbD_and, getLsbD_cswSet _ _ _ _ _ (show 3 < 48 by omega), BitVec.getLsbD_not, flagBits]
  by_cases h : i < 4
  · have : (0xF#48).getLsbD i = true := by interval_cases i <;> rfl
    simp [this]
  · rw [if_neg (by omega)]

/-! ### Wired bits -/

theorem and_of_and_not {w : Nat} {x m : BitVec w} (h : x &&& ~~~m = 0) : x &&& m = x := by
  apply BitVec.eq_of_getLsbD_eq
  intro i hi
  have hb := congrArg (·.getLsbD i) h
  simp only [BitVec.getLsbD_and, BitVec.getLsbD_not, hi, decide_true, Bool.true_and, BitVec.ofNat_eq_ofNat, BitVec.getLsbD_zero] at hb ⊢
  revert hb
  cases x.getLsbD i <;> cases m.getLsbD i <;> simp

/-- PC[1:0] are zero when the address is a multiple of 4 (R260). -/
theorem and_pcBits_iff (y : Word) : y &&& pcBits = y ↔ y.toNat % 4 = 0 := by
  have h4 : y.toNat % 4 = 0 ↔ y.toNat.testBit 0 = false ∧ y.toNat.testBit 1 = false := by
    rw [Nat.testBit_zero, Nat.testBit_succ, Nat.testBit_zero]
    simp only [decide_eq_false_iff_not]
    omega
  rw [h4]
  constructor
  · intro h
    have h0 := congrArg (·.getLsbD 0) h
    have h1 := congrArg (·.getLsbD 1) h
    simp only [BitVec.getLsbD_and] at h0 h1
    have e0 : pcBits.getLsbD 0 = false := rfl
    have e1 : pcBits.getLsbD 1 = false := rfl
    rw [e0, Bool.and_false] at h0
    rw [e1, Bool.and_false] at h1
    exact ⟨h0.symm, h1.symm⟩
  · rintro ⟨h0, h1⟩
    apply BitVec.eq_of_getLsbD_eq
    intro i hi
    rw [BitVec.getLsbD_and]
    by_cases hlt : i < 2
    · have hf : y.getLsbD i = false := by
        interval_cases i
        · exact h0
        · exact h1
      simp [hf]
    · have ht : pcBits.getLsbD i = true := by
        unfold pcBits
        interval_cases i <;> first | omega | rfl
      simp [ht]

theorem wired_pc {q : Core} (h : q.wired = true) : q.pc.toNat % 4 = 0 := by
  simp only [Core.wired, Bool.and_eq_true, beq_iff_eq] at h
  exact (and_pcBits_iff _).1 (and_of_and_not h.1.1)

theorem wired_csw {q : Core} (h : q.wired = true) : q.csw &&& cswBits = q.csw := by
  simp only [Core.wired, Bool.and_eq_true, beq_iff_eq] at h
  exact and_of_and_not h.1.2

theorem wired_fcsw {q : Core} (h : q.wired = true) : q.fcsw &&& fcswBits = q.fcsw := by
  simp only [Core.wired, Bool.and_eq_true, beq_iff_eq] at h
  exact and_of_and_not h.2

theorem State.wired_core {s : State} (h : s.wired = true) (c : CoreId) : (s.core c).wired = true := of_decide_eq_true h c

/-- The next instruction's address keeps PC[1:0] zero. -/
theorem pc_add_four {pc : Word} (h : pc.toNat % 4 = 0) : (pc + 4#48) &&& pcBits = pc + 4#48 := by
  rw [and_pcBits_iff, BitVec.toNat_add]
  have : (4#48 : Word).toNat = 4 := rfl
  omega

/-- The masks of CSW leave the flags and the fields that name the hall and the stair. -/
theorem Core.hall_and (v : Word) : cswHall (v &&& cswBits) = cswHall v := by
  unfold cswHall
  rw [BitVec.getLsbD_and]
  have : cswBits.getLsbD 18 = true := rfl
  rw [this, Bool.and_true]

theorem Core.stair_and (v : Word) : cswStair (v &&& cswBits) = cswStair v := by
  unfold cswStair
  apply Nat.eq_of_testBit_eq
  intro i
  rw [testBit_bitsOf, testBit_bitsOf]
  by_cases h : i < 2
  · have ht : cswBits.getLsbD (i + 16) = true := by interval_cases i <;> rfl
    have := BitVec.getLsbD_and (x := v) (y := cswBits) (i := i + 16)
    rw [ht, Bool.and_true] at this
    simp only [BitVec.getLsbD] at this
    rw [this]
  · simp [h]

theorem Core.nzcv_and (v : Word) (q : Core) : Core.nzcv { q with csw := v &&& cswBits } = Core.nzcv { q with csw := v } := by
  have h3 : cswBits.getLsbD 3 = true := rfl
  have h2 : cswBits.getLsbD 2 = true := rfl
  have h1 : cswBits.getLsbD 1 = true := rfl
  have h0 : cswBits.getLsbD 0 = true := rfl
  simp only [Core.nzcv, cswN, cswZ, cswC, cswV, BitVec.getLsbD_and, h3, h2, h1, h0, Bool.and_true]

/-! ### A core after settling and after retiring -/

section
variable (s : State) (c : CoreId) (n : RegNo) (b : Bool) (pc : Word)

@[simp] theorem w_settle : (s.settle.core c).w = (s.core c).w := by obtain ⟨x, y, z, e⟩ := core_settle s c; rw [e]
@[simp] theorem sp_settle : (s.settle.core c).sp = (s.core c).sp := by obtain ⟨x, y, z, e⟩ := core_settle s c; rw [e]
@[simp] theorem f_settle : (s.settle.core c).f = (s.core c).f := by obtain ⟨x, y, z, e⟩ := core_settle s c; rw [e]
@[simp] theorem da_settle : (s.settle.core c).da = (s.core c).da := by obtain ⟨x, y, z, e⟩ := core_settle s c; rw [e]
@[simp] theorem fta_settle : (s.settle.core c).fta = (s.core c).fta := by obtain ⟨x, y, z, e⟩ := core_settle s c; rw [e]
@[simp] theorem ftaOp_settle : (s.settle.core c).ftaOp = (s.core c).ftaOp := by obtain ⟨x, y, z, e⟩ := core_settle s c; rw [e]
@[simp] theorem fpNew_settle : (s.settle.core c).fpNew = (s.core c).fpNew := by obtain ⟨x, y, z, e⟩ := core_settle s c; rw [e]
@[simp] theorem crL_settle : (s.settle.core c).crL = (s.core c).crL := by obtain ⟨x, y, z, e⟩ := core_settle s c; rw [e]
@[simp] theorem crP_settle : (s.settle.core c).crP = (s.core c).crP := by obtain ⟨x, y, z, e⟩ := core_settle s c; rw [e]
@[simp] theorem sb_settle : (s.settle.core c).sb = (s.core c).sb := by obtain ⟨x, y, z, e⟩ := core_settle s c; rw [e]
@[simp] theorem tlb_settle : (s.settle.core c).tlb = (s.core c).tlb := by obtain ⟨x, y, z, e⟩ := core_settle s c; rw [e]
@[simp] theorem wcache_settle : (s.settle.core c).wcache = (s.core c).wcache := by obtain ⟨x, y, z, e⟩ := core_settle s c; rw [e]
@[simp] theorem keys_settle : (s.settle.core c).keys = (s.core c).keys := by obtain ⟨x, y, z, e⟩ := core_settle s c; rw [e]
@[simp] theorem hold_settle : (s.settle.core c).hold = (s.core c).hold := by obtain ⟨x, y, z, e⟩ := core_settle s c; rw [e]
@[simp] theorem due_settle : (s.settle.core c).due = (s.core c).due := by obtain ⟨x, y, z, e⟩ := core_settle s c; rw [e]
@[simp] theorem jobWait_settle : (s.settle.core c).jobWait = (s.core c).jobWait := by obtain ⟨x, y, z, e⟩ := core_settle s c; rw [e]
@[simp] theorem stepOne_settle : (s.settle.core c).stepOne = (s.core c).stepOne := by obtain ⟨x, y, z, e⟩ := core_settle s c; rw [e]
@[simp] theorem tbHi_settle : (s.settle.core c).tbHi = (s.core c).tbHi := by obtain ⟨x, y, z, e⟩ := core_settle s c; rw [e]
theorem pc_settle : (s.settle.core c).pc = (s.core c).pc &&& pcBits := by obtain ⟨x, y, z, e⟩ := core_settle s c; rw [e]
theorem csw_settle : (s.settle.core c).csw = (s.core c).csw &&& cswBits := by obtain ⟨x, y, z, e⟩ := core_settle s c; rw [e]
theorem fcsw_settle : (s.settle.core c).fcsw = (s.core c).fcsw &&& fcswBits := by obtain ⟨x, y, z, e⟩ := core_settle s c; rw [e]
@[simp] theorem hall_settle : (s.settle.core c).hall = (s.core c).hall := by unfold Core.hall; rw [csw_settle, Core.hall_and]
@[simp] theorem stair_settle : (s.settle.core c).stair = (s.core c).stair := by unfold Core.stair; rw [csw_settle, Core.stair_and]
@[simp] theorem rd_settle : (s.settle.core c).rd n = (s.core c).rd n := Core.rd_congr _ _ _ (by simp) (by simp) (by simp) (by simp)
@[simp] theorem spOf_settle (h : Hall) (t : Nat) : (s.settle.core c).spOf h t = (s.core c).spOf h t := by unfold Core.spOf; rw [sp_settle]
@[simp] theorem nzcv_settle : (s.settle.core c).nzcv = (s.core c).nzcv := by
  rw [Core.nzcv_congr { s.core c with csw := (s.core c).csw &&& cswBits } _ (csw_settle s c), Core.nzcv_and]
@[simp] theorem cr_settle (h : Hall) (i : Nat) : (s.settle.core c).cr h i = (s.core c).cr h i := by
  cases h <;> simp [Core.cr, Core.bank]

variable (q : Core)
@[simp] theorem Core.w_retire : (q.retire b pc).w = q.w := rfl
@[simp] theorem Core.sp_retire : (q.retire b pc).sp = q.sp := rfl
@[simp] theorem Core.f_retire : (q.retire b pc).f = q.f := rfl
@[simp] theorem Core.da_retire : (q.retire b pc).da = q.da := rfl
@[simp] theorem Core.csw_retire : (q.retire b pc).csw = q.csw := rfl
@[simp] theorem Core.fcsw_retire : (q.retire b pc).fcsw = q.fcsw := rfl
@[simp] theorem Core.fta_retire : (q.retire b pc).fta = q.fta := rfl
@[simp] theorem Core.ftaOp_retire : (q.retire b pc).ftaOp = q.ftaOp := rfl
@[simp] theorem Core.fpNew_retire : (q.retire b pc).fpNew = q.fpNew := rfl
@[simp] theorem Core.crL_retire : (q.retire b pc).crL = q.crL := rfl
@[simp] theorem Core.crP_retire : (q.retire b pc).crP = q.crP := rfl
@[simp] theorem Core.sb_retire : (q.retire b pc).sb = q.sb := rfl
@[simp] theorem Core.tlb_retire : (q.retire b pc).tlb = q.tlb := rfl
@[simp] theorem Core.wcache_retire : (q.retire b pc).wcache = q.wcache := rfl
@[simp] theorem Core.keys_retire : (q.retire b pc).keys = q.keys := rfl
@[simp] theorem Core.due_retire : (q.retire b pc).due = q.due := rfl
@[simp] theorem Core.asleep_retire : (q.retire b pc).asleep = q.asleep := rfl
@[simp] theorem Core.haltReq_retire : (q.retire b pc).haltReq = q.haltReq := rfl
@[simp] theorem Core.tbHi_retire : (q.retire b pc).tbHi = q.tbHi := rfl
@[simp] theorem Core.pc_retire : (q.retire b pc).pc = pc := rfl
@[simp] theorem Core.hall_retire : (q.retire b pc).hall = q.hall := rfl
@[simp] theorem Core.stair_retire : (q.retire b pc).stair = q.stair := rfl
@[simp] theorem Core.nzcv_retire : (q.retire b pc).nzcv = q.nzcv := rfl
@[simp] theorem Core.rd_retire : (q.retire b pc).rd n = q.rd n := rfl
@[simp] theorem Core.spOf_retire (h : Hall) (t : Nat) : (q.retire b pc).spOf h t = q.spOf h t := rfl
@[simp] theorem Core.cr_retire (h : Hall) (i : Nat) : (q.retire b pc).cr h i = q.cr h i := by cases h <;> rfl
end

/-! ### Execution -/

variable {s : State} {c : CoreId} {op len : Nat} {bar jg : Bool} {body : State → State × IRes}

theorem State.ready_canRun (h : s.ready c = true) : s.canRun c = true := by
  simp only [State.ready, Bool.and_eq_true] at h; exact h.1.1.1

theorem State.ready_jobWait (h : s.ready c = true) : (s.core c).jobWait = false := by
  simp only [State.ready, Bool.and_eq_true, Bool.not_eq_true'] at h; exact h.1.1.2

theorem State.ready_boundary (h : s.ready c = true) : boundary s c = s := by
  simp only [State.ready, Bool.and_eq_true] at h
  have hh := h.1.2
  unfold boundary
  cases e : (s.core c).hold with
  | none => rfl
  | some w =>
    rw [e] at hh
    simp only [Option.all_some, decide_eq_true_eq] at hh
    simp [Nat.not_le.2 hh]

theorem State.ready_dueEvent (h : s.ready c = true) : s.dueEvent c = none := by
  simp only [State.ready, Bool.and_eq_true, Option.isNone_iff_eq_none] at h; exact h.2

theorem State.ready_free (h : s.ready c = true) : s.pwr.fabricUp = true ∧ s.coreFree c.val = true := by
  have := State.ready_canRun h
  simp only [State.canRun, Bool.and_eq_true] at this
  exact ⟨this.1.1.1.1, this.1.1.1.2⟩

/-- An instruction that is ready and passes the checks before its operands executes its body. -/
theorem runWith_ready (h : s.ready c = true) (hg : gateKeep s c op = none) (ht : bar = false ∨ (s.core c).tpend = false) :
    runWith s c op len bar jg body = conclude s c op len (body s) := by
  have hb : (bar && (s.core c).tpend) = false := by rcases ht with h | h <;> simp [h]
  simp only [runWith, State.ready_canRun h, State.ready_jobWait h, Bool.not_true, Bool.false_or, Bool.false_and, Bool.false_eq_true,
    if_false, State.ready_boundary h, State.ready_dueEvent h, hg, hb]

theorem run_ready (h : s.ready c = true) (hg : gateKeep s c op = none) : run s c op body = conclude s c op 4 (body s) :=
  runWith_ready h hg (.inl rfl)

/-- The classes that every variant has and that no stair is barred from. -/
theorem gateKeep_none (h : op < 0x0D ∨ (0x0D < op ∧ op < 0x10)) : gateKeep s c op = none := by
  have h1 : unitAbsent s.variant op = none := by
    unfold unitAbsent
    split
    · rfl
    · rw [if_neg (by omega), if_neg (by omega)]
  simp only [gateKeep, h1]
  rw [if_neg (by omega)]

/-- A core whose own registers alone a body changes retires the instruction. -/
theorem retireAt_updCore (h : s.ready c = true) (f : Core → Core) (b : Bool) (pc : Word) :
    retireAt (s.updCore c f) c b pc = s.updCore c fun q => (f q).retire b pc := by
  have hf := State.ready_free h
  have : ((s.updCore c f).pwr.fabricUp && (s.updCore c f).coreFree c.val) = true := by
    rw [Bool.and_eq_true]; exact hf
  simp only [retireAt, this, if_true]
  simp [State.updCore, State.setCore, State.core]

theorem runCore_ready (h : s.ready c = true) (hg : gateKeep s c op = none) (f : Core → Core) :
    runCore s c op f = s.updCore c fun q => (f q).retire q.hold.isSome (q.pc + 4#48) := by
  rw [runCore, run_ready h hg]
  simp only [conclude]
  exact retireAt_updCore h f _ _

/-! ### The end of an instruction that changes its core alone -/

theorem Core.same_of {q r : Core} (h : q.wired = true)
    (e : ∃ a b d, r = { q with pc := q.pc &&& pcBits, csw := q.csw &&& cswBits, fcsw := q.fcsw &&& fcswBits,
                               asleep := a, halted := b, haltReq := d }) : q.Same r := by
  rw [wired_csw h, wired_fcsw h, (and_pcBits_iff _).2 (wired_pc h)] at e
  obtain ⟨a, b, d, rfl⟩ := e
  constructor <;> (try rfl)
  · constructor <;> intros <;> rfl
  · intro _ _; rfl
  · intro _ _; rfl
  · exact ⟨rfl, rfl⟩
  · exact ⟨rfl, rfl⟩

/-- Settling keeps the block beside its cores. -/
theorem restKept_settle (s : State) : RestKept s s.settle := by
  constructor
  case regs => exact settle_reg s
  all_goals simp

theorem RestKept.trans {s t u : State} (h : RestKept s t) (k : RestKept t u) : RestKept s u where
  bytes a := (k.bytes a).trans (h.bytes a)
  regs o e := (k.regs o e).trans (h.regs o e)
  staged := k.staged.trans h.staged
  timebase := ⟨k.timebase.1.trans h.timebase.1, k.timebase.2.trans h.timebase.2⟩
  sense := ⟨k.sense.1.trans h.sense.1, k.sense.2.trans h.sense.2⟩
  engines := ⟨k.engines.1.trans h.engines.1, k.engines.2.1.trans h.engines.2.1, k.engines.2.2.trans h.engines.2.2⟩
  units := ⟨k.units.1.trans h.units.1, k.units.2.1.trans h.units.2.1, k.units.2.2.1.trans h.units.2.2.1,
    k.units.2.2.2.1.trans h.units.2.2.2.1, k.units.2.2.2.2.1.trans h.units.2.2.2.2.1, k.units.2.2.2.2.2.trans h.units.2.2.2.2.2⟩
  reply := k.reply.trans h.reply

theorem restKept_updCore (s : State) (c : CoreId) (f : Core → Core) : RestKept s (s.updCore c f) := by
  constructor <;> (try intros) <;> simp [State.byte]

theorem othersKept_updCore (hw : s.wired = true) (f : Core → Core) : OthersKept s (s.updCore c f).settle c := by
  refine ⟨(restKept_updCore s c f).trans (restKept_settle _), fun k hk => ?_⟩
  have hc := core_settle (s.updCore c f) k
  rw [State.core_updCore, if_neg (Ne.symm hk)] at hc
  exact Core.same_of (State.wired_core hw k) hc

/-! ### Instructions that write general registers alone -/

/-- A bit of CSW outside the mask of what may change. -/
theorem cswKept_bit {q r : Core} {m : Word} (h : q.CswKept r m) (i : Nat) (hi : i < 48) (hm : m.getLsbD i = false) : r.csw.getLsbD i = q.csw.getLsbD i := by
  unfold Core.CswKept at h
  have := congrArg (·.getLsbD i) h
  simpa only [BitVec.getLsbD_and, BitVec.getLsbD_not, hi, decide_true, Bool.true_and, hm, Bool.not_false, Bool.and_true] using this

/-- CSW at the end of a command, outside a mask. -/
theorem Core.cswKept_settle {q : Core} {r : Core} {v m : Word} (hq : q.csw &&& cswBits = q.csw) (h : q.CswKept r m) (e : v = r.csw &&& cswBits) :
   v &&& ~~~m = q.csw &&& ~~~m := by
  subst e
  unfold Core.CswKept at h
  rw [BitVec.and_assoc, BitVec.and_comm cswBits, ← BitVec.and_assoc, h, BitVec.and_assoc, BitVec.and_comm _ cswBits, ← BitVec.and_assoc, hq]

/-- The end of an instruction that changes only its core's own registers. -/
theorem regOnly_end (hw : s.wired = true) (f : Core → Core) (dst : List RegNo) (m : Word) (pc : Word) (b : Bool)
   (hr : (s.core c).WKept (f (s.core c)) dst) (hf : (f (s.core c)).f = (s.core c).f) (hd : (f (s.core c)).da = (s.core c).da)
   (hcr : (s.core c).CrKept (f (s.core c))) (hfc : (f (s.core c)).fcsw = (s.core c).fcsw) (hfta : (f (s.core c)).fta = (s.core c).fta)
   (hcsw : (s.core c).CswKept (f (s.core c)) m) :
   RegOnly s (s.updCore c fun q => (f q).retire b pc).settle c dst m := by
  refine ⟨⟨?_, ?_⟩, ?_, ?_, ?_, ?_, ?_, othersKept_updCore hw _⟩
  · intro n hn
    simpa using hr.regs n hn
  · intro x t hx
    simpa using hr.pointers x t hx
  · intro n _; simp [hf]
  · intro n _; simp [hd]
  · constructor
    · simpa using hcr.1
    · simpa using hcr.2
  · constructor
    · rw [fcsw_settle]; simp [hfc, wired_fcsw (State.wired_core hw c)]
    · simp [hfta]
  · unfold Core.CswKept
    refine Core.cswKept_settle (wired_csw (State.wired_core hw c)) hcsw ?_
    rw [csw_settle]; simp

/-- The next instruction's address at the end of a command. -/
theorem advanced_end (hw : s.wired = true) (f : Core → Core) (b : Bool) : 
    Advanced s (s.updCore c fun q => (f q).retire b (q.pc + 4#48)).settle c := by
  unfold Advanced
  rw [pc_settle]
  simp only [State.core_updCore, if_true, Core.pc_retire]
  exact pc_add_four (wired_pc (State.wired_core hw c))

/-- No general register changes. -/
theorem Core.wKept_refl (q : Core) (l) : q.WKept q l := ⟨fun _ _ => rfl, fun _ _ _ => rfl⟩
/-- A write of one general register leaves the others. -/
theorem Core.wKept_wr (q : Core) (rd : RegNo) (v : Word) : q.WKept (q.wr rd v) [rd] := by
  constructor
  · intro n hn
    rw [Core.rd_wr, if_neg]
    rintro ⟨rfl, -⟩
    simp at hn
  · intro x t hx
    unfold Core.wr
    split
    · rfl
    · split
      · rfl
      · simp only [Core.setSp, Core.spOf]
        have hne : (spIndex q.hall q.stair).val ≠ (spIndex x t.val).val := by
          intro e
          apply hx
          have h1 : ∀ h : Hall, hallNat h < 2 := by intro h; cases h <;> decide
          have h2 := h1 q.hall; have h3 := h1 x
          have hs : q.stair < 4 := by
            unfold Core.stair cswStair; exact bitsOf_lt _ _ _
          have ht := t.isLt
          simp only [spIndex, Fin.val_ofNat] at e
          have e2 : hallNat q.hall = hallNat x ∧ q.stair = t.val := by omega
          refine ⟨?_, e2.2.symm⟩
          cases hq : q.hall <;> cases x <;> simp [hq, hallNat] at e2 ⊢
        exact Vector.getElem_set_ne _ _ hne

/-- An instruction that changes general registers and flags of its core alone. -/
theorem intResult_end (hw : s.wired = true) (f : Core → Core) (rd : RegNo) (v : Word) (fl : Option Nzcv)
   (hr : (s.core c).WKept (f (s.core c)) [rd]) (hf : (f (s.core c)).f = (s.core c).f) (hd : (f (s.core c)).da = (s.core c).da)
   (hcr : (s.core c).CrKept (f (s.core c))) (hfc : (f (s.core c)).fcsw = (s.core c).fcsw) (hfta : (f (s.core c)).fta = (s.core c).fta)
   (hcsw : (s.core c).CswKept (f (s.core c)) flagBits) (hv : (f (s.core c)).rd rd = written rd v)
   (hn : (f (s.core c)).nzcv = fl.getD (s.core c).nzcv) :
   IntResult s (finish (s.updCore c fun q => (f q).retire q.hold.isSome (q.pc + 4#48))) c rd v fl := by
  refine ⟨_, rfl, ?_, ?_, advanced_end hw f _, ?_⟩
  · simpa using hv
  · simpa using hn
  · exact regOnly_end hw f [rd] flagBits _ _ hr hf hd hcr hfc hfta hcsw

/-- What a write of a general register leaves of a core beside the general registers. -/
theorem Core.f_wr (q : Core) (r : RegNo) (v : Word) : (q.wr r v).f = q.f ∧ (q.wr r v).da = q.da ∧ (q.wr r v).crL = q.crL ∧ (q.wr r v).crP = q.crP ∧ (q.wr r v).fcsw = q.fcsw ∧ (q.wr r v).fta = q.fta := by
  unfold Core.wr Core.setSp
  split
  · simp
  · split <;> simp

/-- A general register reads as written. -/
theorem Core.rd_wr_same (q : Core) (r : RegNo) (v : Word) : (q.wr r v).rd r = written r v := by
  rw [Core.rd_wr]
  by_cases h : r = 0
  · subst h; simp [written]
  · simp [h, written]

/-- An instruction that writes one general register, and with S the flags. -/
theorem intResult_wr (hw : s.wired = true) (rd : RegNo) (v : Core → Word) (st : Bool) (fl : Core → Nzcv) (v' : Word) (fl' : Option Nzcv)
   (hv : v (s.core c) = v') (hfl : fl' = if st then some (fl (s.core c)) else none) :
   IntResult s (finish (s.updCore c fun q => (Core.wr (if st then q.setFlags (fl q) else q) rd (v q)).retire q.hold.isSome (q.pc + 4#48))) c rd v' fl' := by
  subst hv hfl
  have hx := Core.f_wr (if st then (s.core c).setFlags (fl (s.core c)) else (s.core c)) rd (v (s.core c))
  refine intResult_end hw (fun q => (Core.wr (if st then q.setFlags (fl q) else q) rd (v q))) rd _ _ ?_ ?_ ?_ ?_ ?_ ?_ ?_ ?_ ?_
  · have := Core.wKept_wr (if st then (s.core c).setFlags (fl (s.core c)) else (s.core c)) rd (v (s.core c))
    cases st
    · exact this
    · constructor
      · intro n hn; rw [this.regs n hn]; simp
      · intro x t hx
        have := this.pointers x t (by simpa using hx)
        rw [this]; rfl
  · rw [hx.1]; cases st <;> rfl
  · rw [hx.2.1]; cases st <;> rfl
  · refine ⟨?_, ?_⟩
    · rw [hx.2.2.1]; cases st <;> rfl
    · rw [hx.2.2.2.1]; cases st <;> rfl
  · rw [hx.2.2.2.2.1]; cases st <;> rfl
  · rw [hx.2.2.2.2.2]; cases st <;> rfl
  · unfold Core.CswKept; rw [Core.csw_wr]
    cases st
    · rfl
    · exact Core.cswKept_setFlags _ _
  · exact Core.rd_wr_same _ _ _
  · rw [Core.nzcv_congr _ _ (Core.csw_wr _ _ _)]
    cases st
    · rfl
    · simp

/-- What an INT.R instruction does to a state that is ready for it. -/
theorem intR_eq (h : s.ready c = true) (rd ra rb : RegNo) (st : Bool) (f : Core → Word → Word → Word × Nzcv) :
   intR s c rd ra rb st f = s.updCore c fun q => (Core.wr (if st then q.setFlags (f q (q.rd ra) (q.rd rb)).2 else q) rd (f q (q.rd ra) (q.rd rb)).1).retire q.hold.isSome (q.pc + 4#48) := by
  unfold intR
  rw [runCore_ready h (gateKeep_none (by omega))]
  rfl


/-! ### Register pairs -/

theorem pairOk_ne {rd : RegNo} (h : pairOk rd = true) :
    rd ≠ 0 ∧ RegNo.succ rd ≠ 0 ∧ rd ≠ RegNo.succ rd ∧ rd.val < 31 ∧ (RegNo.succ rd).val < 31 := by
  revert h; revert rd; decide

/-- A pair reads as the value written (R254). -/
theorem Core.rdPair_wrPair (q : Core) {rd : RegNo} (h : pairOk rd = true) (v : Nat) (hv : v < 2 ^ 96) : (q.wrPair rd v).rdPair rd = v := by
  obtain ⟨h0, h1, hne, -⟩ := pairOk_ne h
  have e1 : ((q.wrPair rd v).rd rd).toNat = v % 2 ^ 48 := by
    unfold Core.wrPair
    rw [Core.rd_wr, if_neg (fun e => hne e.1.symm), Core.rd_wr, if_pos ⟨rfl, h0⟩, BitVec.toNat_ofNat]
  have e2 : ((q.wrPair rd v).rd (RegNo.succ rd)).toNat = v / 2 ^ 48 := by
    unfold Core.wrPair
    rw [Core.rd_wr, if_pos ⟨rfl, h1⟩, BitVec.toNat_ofNat]
    exact Nat.mod_eq_of_lt (Nat.div_lt_of_lt_mul (by rw [← pow_add]; exact hv))
  unfold Core.rdPair
  rw [e1, e2]
  omega

/-- What a write of a pair leaves of a core. -/
theorem Core.f_wrPair (q : Core) (r : RegNo) (v : Nat) : (q.wrPair r v).f = q.f ∧ (q.wrPair r v).da = q.da ∧ (q.wrPair r v).crL = q.crL
    ∧ (q.wrPair r v).crP = q.crP ∧ (q.wrPair r v).fcsw = q.fcsw ∧ (q.wrPair r v).fta = q.fta := by
  have e1 := Core.f_wr q r (BitVec.ofNat 48 v)
  have e2 := Core.f_wr (q.wr r (BitVec.ofNat 48 v)) (RegNo.succ r) (BitVec.ofNat 48 (v / 2 ^ 48))
  unfold Core.wrPair
  exact ⟨e2.1.trans e1.1, e2.2.1.trans e1.2.1, e2.2.2.1.trans e1.2.2.1, e2.2.2.2.1.trans e1.2.2.2.1, e2.2.2.2.2.1.trans e1.2.2.2.2.1,
    e2.2.2.2.2.2.trans e1.2.2.2.2.2⟩

@[simp] theorem Core.csw_wrPair (q : Core) (r : RegNo) (v : Nat) : (q.wrPair r v).csw = q.csw := by unfold Core.wrPair; simp

/-- A write of a pair leaves the other general registers. -/
theorem Core.wKept_wrPair (q : Core) {rd : RegNo} (h : pairOk rd = true) (v : Nat) : q.WKept (q.wrPair rd v) [rd, RegNo.succ rd] := by
  obtain ⟨-, -, -, hl0, hl1⟩ := pairOk_ne h
  constructor
  · intro n hn
    simp only [List.mem_cons, List.not_mem_nil, or_false, not_or] at hn
    unfold Core.wrPair
    rw [Core.rd_wr, if_neg (fun e => hn.2 e.1.symm), Core.rd_wr, if_neg (fun e => hn.1 e.1.symm)]
  · intro x t _
    have hs : ∀ (q : Core) (r : RegNo) (w : Word), r.val < 31 → (q.wr r w).sp = q.sp := by
      intro q r w hr
      unfold Core.wr
      split
      · rfl
      · rfl
    unfold Core.spOf Core.wrPair
    rw [hs _ _ _ hl1, hs _ _ _ hl0]

theorem Core.WKept.of_same {q q' r : Core} {l : List RegNo} (h : q'.WKept r l) (hw : q'.w = q.w) (hs : q'.sp = q.sp) (hh : q'.hall = q.hall)
    (ht : q'.stair = q.stair) : q.WKept r l where
  regs n hn := (h.regs n hn).trans (Core.rd_congr _ _ _ hw hs hh ht)
  pointers x t hx := (h.pointers x t (by rwa [hh, ht])).trans (by unfold Core.spOf; rw [hs])

/-- An instruction whose body changes its core alone. -/
theorem runBody_next (h : s.ready c = true) (hg : gateKeep s c op = none) (f : Core → Core) (body : State → State × IRes) (hb : body s = (s.updCore c f, .next)) :
   run s c op body = s.updCore c fun q => (f q).retire q.hold.isSome (q.pc + 4#48) := by
  rw [run_ready h hg, hb]
  simp only [conclude]
  exact retireAt_updCore h f _ _

/-- An instruction whose body raises an exception. -/
theorem run_exc (h : s.ready c = true) (hg : gateKeep s c op = none) (ht : (s.core c).tpend = false) (e : Exc) (he : e.opc = none) (body : State → State × IRes) (hb : body s = (s, .exc e)) :
   Raises s (finish (run s c op body)) c op e := by
  rw [run_ready h hg, hb]
  simp only [conclude, ht, Bool.false_eq_true, if_false, he]
  rfl

/-- Writing V alone writes the flags with V changed. -/
theorem Core.setV_eq (q : Core) (b : Bool) : q.setV b = q.setFlags { q.nzcv with v := b } := by
  unfold Core.setV Core.setFlags
  congr 1
  apply BitVec.eq_of_getLsbD_eq
  intro i hi
  rw [getLsbD_cswSet _ _ _ _ _ (by omega), getLsbD_cswSet _ _ _ _ _ (by omega)]
  by_cases h0 : i = 0
  · subst h0
    rw [if_pos (by omega), if_pos (by omega)]
    show Nat.testBit _ 0 = Nat.testBit _ 0
    simp only [Nzcv.toNat, Core.nzcv, cswN, cswZ, cswC]
    cases q.csw.getLsbD 1 <;> cases q.csw.getLsbD 2 <;> cases q.csw.getLsbD 3 <;> cases b <;> rfl
  · rw [if_neg (by omega)]
    by_cases h4 : i < 4
    · rw [if_pos (by omega)]
      have : i = 1 ∨ i = 2 ∨ i = 3 := by omega
      rcases this with rfl | rfl | rfl
      · show _ = Nat.testBit _ 1
        simp only [Nzcv.toNat, Core.nzcv, cswN, cswZ, cswC]
        cases q.csw.getLsbD 1 <;> cases q.csw.getLsbD 2 <;> cases q.csw.getLsbD 3 <;> cases b <;> rfl
      · show _ = Nat.testBit _ 2
        simp only [Nzcv.toNat, Core.nzcv, cswN, cswZ, cswC]
        cases q.csw.getLsbD 1 <;> cases q.csw.getLsbD 2 <;> cases q.csw.getLsbD 3 <;> cases b <;> rfl
      · show _ = Nat.testBit _ 3
        simp only [Nzcv.toNat, Core.nzcv, cswN, cswZ, cswC]
        cases q.csw.getLsbD 1 <;> cases q.csw.getLsbD 2 <;> cases q.csw.getLsbD 3 <;> cases b <;> rfl
    · rw [if_neg (by omega)]

/-- The end of a command leaves the wired bits at zero, whatever it did (R260, R264, R266). -/
theorem wired_settle (s : State) : s.settle.wired = true := by
  apply decide_eq_true
  intro k
  simp only [Core.wired, pc_settle, csw_settle, fcsw_settle]
  have h : ∀ {w : Nat} (x m : BitVec w), x &&& m &&& ~~~m = 0 := by
    intro w x m
    apply BitVec.eq_of_getLsbD_eq
    intro i hi
    simp only [BitVec.getLsbD_and, BitVec.getLsbD_not, hi, decide_true, Bool.true_and, BitVec.ofNat_eq_ofNat, BitVec.getLsbD_zero]
    cases x.getLsbD i <;> cases m.getLsbD i <;> rfl
  rw [h, h, h]
  rfl

end Sys2Proof.Machine
end

