-- ==== Sys2Proof/Laws/Access.lean ====
section
/-! SUPPORT. What an access leaves: one relation for everything that translating, checking, reading memory and draining stores may change, shown
for each of those operations. -/
namespace Sys2Proof.Machine

/-- A core with the buffers, the events due and the timebase capture of another. -/
def Core.buffersOf (q r : Core) : Core :=
  { q with sb := r.sb, tlb := r.tlb, wcache := r.wcache, keys := r.keys, due := r.due, tbHi := r.tbHi }

/-- What accesses leave: of the cores all but store buffers, look-aside buffers, key caches, events due and timebase captures; the power state;
the registers that hold cores, fence segments and enable keys; the DRAM installed. -/
structure Accessed (s u : State) : Prop where
  core : ∀ k, u.core k = (s.core k).buffersOf (u.core k)
  pwr : u.pwr = s.pwr
  variant : u.variant = s.variant
  hold : u.reg 0x2010C = s.reg 0x2010C
  fence : u.reg 0x380104 = s.reg 0x380104
  keys : u.reg F.KEY_CTL_ENABLE.off = s.reg F.KEY_CTL_ENABLE.off
  usable : u.dram.usable = s.dram.usable

theorem Accessed.refl (s : State) : Accessed s s := ⟨fun _ => rfl, rfl, rfl, rfl, rfl, rfl, rfl⟩

theorem Accessed.trans {s t u : State} (h : Accessed s t) (k : Accessed t u) : Accessed s u where
  core c := by rw [k.core c, h.core c]; rfl
  pwr := k.pwr.trans h.pwr
  variant := k.variant.trans h.variant
  hold := k.hold.trans h.hold
  fence := k.fence.trans h.fence
  keys := k.keys.trans h.keys
  usable := k.usable.trans h.usable

theorem Accessed.ite {s t u : State} {p : Prop} [Decidable p] (h : Accessed s t) (k : Accessed s u) : Accessed s (if p then t else u) := by
  split <;> assumption

theorem Accessed.foldl {α : Type} (f : State → α → State) (hf : ∀ s a, Accessed s (f s a)) (l : List α) (s : State) :
    Accessed s (l.foldl f s) := by
  induction l generalizing s with
  | nil => exact .refl s
  | cons a l ih => exact (hf s a).trans (ih _)

/-- A register other than the two that decide which cores execute. -/
theorem accessed_setReg (s : State) (o v : Nat) (h : o ≠ 0x2010C ∧ o ≠ 0x380104 ∧ o ≠ F.KEY_CTL_ENABLE.off) : Accessed s (s.setReg o v) := by
  refine ⟨fun k => ?_, ?_, ?_, ?_, ?_, ?_, ?_⟩
  · simp only [State.core, State.setReg_cores]; rfl
  all_goals simp [h]

theorem accessed_set (s : State) (f : Fld) (v : Nat) (h : f.off ≠ 0x2010C ∧ f.off ≠ 0x380104 ∧ f.off ≠ F.KEY_CTL_ENABLE.off) : Accessed s (s.set f v) := accessed_setReg s _ _ h
theorem accessed_put (s : State) (f : Fld) (b : Bool) (h : f.off ≠ 0x2010C ∧ f.off ≠ 0x380104 ∧ f.off ≠ F.KEY_CTL_ENABLE.off) : Accessed s (s.put f b) := accessed_setReg s _ _ h
theorem accessed_bump (s : State) (f : Fld) (n : Nat) (h : f.off ≠ 0x2010C ∧ f.off ≠ 0x380104 ∧ f.off ≠ F.KEY_CTL_ENABLE.off) : Accessed s (s.bump f n) := accessed_setReg s _ _ h
theorem accessed_event (s : State) (b n : Nat) (h : blockBase b + 4 ≠ 0x2010C ∧ blockBase b + 4 ≠ 0x380104 ∧ blockBase b + 4 ≠ F.KEY_CTL_ENABLE.off) : Accessed s (s.event b n) :=
  accessed_setReg s _ _ h

/-- A change of what accesses may change of one core. -/
theorem accessed_updCore (s : State) (c : CoreId) (f : Core → Core) (h : ∀ q, f q = q.buffersOf (f q)) : Accessed s (s.updCore c f) := by
  refine ⟨fun k => ?_, rfl, rfl, rfl, rfl, rfl, rfl⟩
  simp only [State.core_updCore]
  by_cases e : c = k
  · subst e
    simp only [if_true]
    exact h _
  · simp only [e, if_false]
    rfl

theorem accessed_putByte (s : State) (a : Nat) (b : Byte) : Accessed s (s.putByte a b) := by
  refine ⟨fun k => ?_, ?_, ?_, ?_, ?_, ?_, ?_⟩
  · simp only [State.core, State.putByte_cores]; rfl
  all_goals simp [State.reg]

theorem accessed_putBytes (s : State) (a : Nat) (l : List Byte) : Accessed s (s.putBytes a l) := by
  induction l generalizing s a with
  | nil => exact .refl s
  | cons b l ih => exact (accessed_putByte s a b).trans (ih _ _)

theorem accessed_putHost (s : State) (a : Nat) (l : List Byte) : Accessed s (s.putHost a l) := by
  induction l generalizing s a with
  | nil => exact .refl s
  | cons b l ih =>
    refine Accessed.trans ?_ (ih _ _)
    exact ⟨fun _ => rfl, rfl, rfl, rfl, rfl, rfl, rfl⟩

theorem accessed_physWrite (s : State) (a : Nat) (l : List Byte) : Accessed s (s.physWrite a l) :=
  .ite (accessed_putHost s _ _) (accessed_putBytes s _ _)

theorem accessed_flashReadEvent (s : State) (a : Nat) : Accessed s (s.flashReadEvent a) := .ite (accessed_event s _ _ (by decide)) (.refl s)

/-- The registers of an error bank are not those of Accessed. -/
theorem bank_off (f : Fld) (b : Nat) (h : 0x380200 ≤ f.off) : (f.ix b).off ≠ 0x2010C ∧ (f.ix b).off ≠ 0x380104 ∧ (f.ix b).off ≠ F.KEY_CTL_ENABLE.off := by
  have : F.KEY_CTL_ENABLE.off = 0x140104 := rfl
  unfold Fld.ix; dsimp only; omega

theorem accessed_logError (s : State) (b type seg : Nat) (mce : Bool) (addr : Option Nat) : Accessed s (s.logError b type seg mce addr) := by
  have hb : ∀ f : Fld, 0x380200 ≤ f.off → (f.ix b).off ≠ 0x2010C ∧ (f.ix b).off ≠ 0x380104 ∧ (f.ix b).off ≠ F.KEY_CTL_ENABLE.off := fun f h => bank_off f b h
  refine .ite (accessed_put s _ _ (hb _ (by decide))) ?_
  exact ((((((((((accessed_put s _ _ (hb _ (by decide))).trans (accessed_put _ _ _ (hb _ (by decide)))).trans
    (accessed_put _ _ _ (hb _ (by decide)))).trans (accessed_set _ _ _ (hb _ (by decide)))).trans (accessed_set _ _ _ (hb _ (by decide)))).trans
    (accessed_put _ _ _ (hb _ (by decide)))).trans (accessed_set _ _ _ (hb _ (by decide)))).trans (accessed_set _ _ _ (hb _ (by decide)))).trans
    (accessed_put _ _ _ (hb _ (by decide)))).trans (accessed_set _ _ _ (hb _ (by decide)))).trans (accessed_event _ _ _ (by decide))

theorem accessed_logCorrected (s : State) (b type seg addr : Nat) : Accessed s (s.logCorrected b type seg addr) := by
  have hb : ∀ f : Fld, 0x380200 ≤ f.off → (f.ix b).off ≠ 0x2010C ∧ (f.ix b).off ≠ 0x380104 ∧ (f.ix b).off ≠ F.KEY_CTL_ENABLE.off := fun f h => bank_off f b h
  have h1 : Accessed s (s.bump (F.FLT_BANK_CECNT_COUNT.ix b) 1) := accessed_bump s _ _ (hb _ (by decide))
  have h2 : Accessed s (if s.get (F.FLT_BANK_CECNT_COUNT.ix b) + 1 = (s.bump (F.FLT_BANK_CECNT_COUNT.ix b) 1).get F.FLT_CETHR_THRESH then
      (s.bump (F.FLT_BANK_CECNT_COUNT.ix b) 1).event 22 2 else s.bump (F.FLT_BANK_CECNT_COUNT.ix b) 1) :=
    .ite (h1.trans (accessed_event _ _ _ (by decide))) h1
  refine .ite h2 ?_
  exact (((((((h2.trans (accessed_put _ _ _ (hb _ (by decide)))).trans (accessed_put _ _ _ (hb _ (by decide)))).trans
    (accessed_set _ _ _ (hb _ (by decide)))).trans (accessed_set _ _ _ (hb _ (by decide)))).trans (accessed_set _ _ _ (hb _ (by decide)))).trans
    (accessed_set _ _ _ (hb _ (by decide)))).trans (accessed_put _ _ _ (hb _ (by decide)))).trans (accessed_set _ _ _ (hb _ (by decide)))

theorem accessed_eccFix (s : State) (pa n : Nat) : Accessed s (s.eccFix pa n) := by
  refine .ite (.refl s) ?_
  refine Accessed.trans (t := s.updDram _) ⟨fun _ => rfl, rfl, rfl, rfl, rfl, rfl, rfl⟩ (Accessed.foldl _ (fun s l => ?_) _ _)
  exact ((accessed_bump s _ _ (by decide)).trans (accessed_event _ _ _ (by decide))).trans (accessed_logCorrected _ _ _ _ _)

theorem accessed_denyRec (s : State) (src cause off : Nat) : Accessed s (s.denyRec src cause off) :=
  ((((accessed_put s _ _ (by decide)).trans (accessed_set _ _ _ (by decide))).trans (accessed_set _ _ _ (by decide))).trans
    (accessed_set _ _ _ (by decide))).trans (accessed_set _ _ _ (by decide))

/-! ### Stores leaving the buffer -/

theorem accessed_performStore (s : State) (c : CoreId) (e : SbEntry) : Accessed s (performStore s c e) := by
  unfold performStore
  split
  · exact accessed_physWrite s _ _
  · exact (accessed_logError s _ _ _ _ _).trans (accessed_updCore _ _ _ fun _ => rfl)

theorem accessed_drainOne (s : State) (c : CoreId) : Accessed s (drainOne s c) := by
  unfold drainOne
  split
  · exact .refl s
  · exact (accessed_updCore s c _ fun _ => rfl).trans (accessed_performStore _ _ _)

theorem accessed_drainN (s : State) (c : CoreId) (n : Nat) : Accessed s (drainN s c n) := by
  induction n generalizing s with
  | zero => exact .refl s
  | succ n ih => exact (accessed_drainOne s c).trans (ih _)

theorem accessed_drainAll (s : State) (c : CoreId) : Accessed s (drainAll s c) := accessed_drainN s c _
theorem accessed_drainWeak (s : State) (c : CoreId) : Accessed s (drainWeak s c) := accessed_drainN s c _

theorem accessed_drainAt (s : State) (c : CoreId) (k : Nat) : Accessed s (drainAt s c k) := by
  unfold drainAt
  simp only
  split
  · exact .ite ((accessed_updCore s c _ fun _ => rfl).trans (accessed_performStore _ _ _)) (.refl s)
  · exact .refl s

/-! ### Translation and checks -/

theorem accessed_walk (s : State) (x : Ctx) (k : Kind) (tag va n table : Nat) (wc : List WalkEntry) :
    Accessed s (walk s x k tag va n table wc).1 := by
  induction n generalizing table wc with
  | zero => exact .refl s
  | succ n ih =>
    unfold walk
    simp only
    split
    · exact .refl s
    split
    · exact .refl s
    split
    · exact .refl s
    split
    · exact .refl s
    split
    · exact .refl s
    split
    · exact ih _ _
    · exact .ite (.refl s) (accessed_putBytes s _ _)

theorem accessed_useLeaf (s : State) (c : CoreId) (x : Ctx) (va : Nat) (k : Kind) (a : Bool) (e : TlbLeaf) :
    Accessed s (useLeaf s c x va k a e).1 := by
  unfold useLeaf
  dsimp only
  split
  · exact accessed_updCore s c (fun q => q.dropLeaf e) fun _ => rfl
  · exact .refl s

theorem accessed_afterWalk {s : State} {r : State × List WalkEntry × (Exc ⊕ TlbLeaf)} (h : Accessed s r.1) (c : CoreId) (x : Ctx) (va : Nat)
    (k : Kind) (a : Bool) : Accessed s (afterWalk c x va k a r).1 := by
  unfold afterWalk
  split
  · exact h.trans (accessed_updCore _ c (fun q => q.bufferPtrs r.2.1) fun _ => rfl)
  · rename_i e _
    exact (h.trans (accessed_updCore _ c (fun q => q.buffer e r.2.1) fun _ => rfl)).trans (accessed_useLeaf _ _ _ _ _ _ _)

theorem accessed_afterRewalk {s : State} {r : State × List WalkEntry × (Exc ⊕ TlbLeaf)} (h : Accessed s r.1) (c : CoreId) (x : Ctx) (va : Nat)
    (k : Kind) (a : Bool) (old : TlbLeaf) : Accessed s (afterRewalk c x va k a old r).1 := by
  unfold afterRewalk
  split
  · exact h
  · rename_i e _
    exact (h.trans (accessed_updCore _ c (fun q => (q.dropLeaf old).buffer e r.2.1) fun _ => rfl)).trans (accessed_useLeaf _ _ _ _ _ _ _)

theorem accessed_translate (s : State) (c : CoreId) (x : Ctx) (va : Nat) (k : Kind) (a : Bool) : Accessed s (translate s c x va k a).1 := by
  unfold translate
  refine iteInduction (motive := fun r : State × XRes => Accessed s r.1) (fun _ => ?_) fun _ => ?_
  · split <;> exact .refl s
  · dsimp only
    split
    · refine iteInduction (motive := fun r : State × XRes => Accessed s r.1) (fun _ => ?_) fun _ => accessed_useLeaf _ _ _ _ _ _ _
      exact accessed_afterRewalk (accessed_walk _ _ _ _ _ _ _ _) _ _ _ _ _ _
    · exact accessed_afterWalk (accessed_walk _ _ _ _ _ _ _ _) _ _ _ _ _

theorem accessed_markDirty (s : State) (c : CoreId) (x : Ctx) (va : Nat) : Accessed s (markDirty s c x va) := by
  unfold markDirty
  refine .ite (.refl s) ?_
  simp only
  split
  · exact .refl s
  · exact .ite (.refl s) ((accessed_putBytes s _ _).trans (accessed_updCore _ _ _ fun _ => rfl))

theorem accessed_logWalk (s : State) (c : CoreId) (e : Exc) : Accessed s (logWalk s c e) := .ite (accessed_logError s _ _ _ _ _) (.refl s)

theorem accessed_translateAll (s : State) (c : CoreId) (x : Ctx) (a : Bool) (l : List Piece) : Accessed s (translateAll s c x a l).1 := by
  induction l generalizing s with
  | nil => exact .refl s
  | cons p ps ih =>
    have ht := accessed_translate s c x p.va p.kind a
    unfold translateAll
    split
    · rename_i e; rw [e] at ht; exact ht.trans (accessed_logWalk _ _ _)
    · rename_i e
      rw [e] at ht
      have := ht.trans (ih _)
      split
      · rename_i e'; rw [e'] at this; exact this
      · rename_i e'; rw [e'] at this; exact this

theorem accessed_keyFill (s : State) (c : CoreId) (l : List (Nat × List Byte)) : Accessed s (s.updCore c fun q => { q with keys := l }) :=
  accessed_updCore s c (fun q => { q with keys := l }) fun _ => rfl

theorem accessed_checkPhys (s : State) (c : CoreId) (x : Ctx) (va n : Nat) (k : Kind) (a : Bool) (pa mt : Nat) :
    Accessed s (checkPhys s c x va n k a pa mt).1 := by
  unfold checkPhys
  dsimp only
  split
  · exact .refl s
  · refine iteInduction (motive := fun r : State × Option Exc => Accessed s r.1) (fun _ => by dsimp only; exact accessed_denyRec _ _ _ _) fun _ => ?_
    refine iteInduction (motive := fun r : State × Option Exc => Accessed s r.1) (fun _ => .refl s) fun _ => ?_
    refine iteInduction (motive := fun r : State × Option Exc => Accessed s r.1) (fun _ => .refl s) fun _ => ?_
    refine iteInduction (motive := fun r : State × Option Exc => Accessed s r.1) (fun _ => .refl s) fun _ => ?_
    refine iteInduction (motive := fun r : State × Option Exc => Accessed s r.1) (fun _ => .refl s) fun _ => ?_
    refine iteInduction (motive := fun r : State × Option Exc => Accessed s r.1) (fun _ => accessed_logError _ _ _ _ _ _) fun _ => ?_
    split <;> exact accessed_keyFill s c _

theorem accessed_checkEach (s : State) (c : CoreId) (x : Ctx) (a : Bool) (l : List (Piece × Nat × Nat)) : Accessed s (checkEach s c x a l).1 := by
  induction l generalizing s with
  | nil => exact .refl s
  | cons p ps ih =>
    obtain ⟨p, pa, mt⟩ := p
    have ht := accessed_checkPhys s c x p.va p.size p.kind a pa mt
    unfold checkEach
    split
    · rename_i e; rw [e] at ht; exact ht
    · rename_i e; rw [e] at ht; exact ht.trans (ih _)

theorem accessed_checkAll (s : State) (c : CoreId) (x : Ctx) (a : Bool) (l : List Piece) : Accessed s (checkAll s c x a l).1 := by
  have ht := accessed_translateAll s c x a l
  unfold checkAll
  split
  · rename_i e; rw [e] at ht; exact ht
  · rename_i t m e
    rw [e] at ht
    dsimp only at ht
    have h1 := ht.trans (accessed_checkEach t c x a (m.filter fun e => regionOf e.2.1 != .setup))
    split
    · rename_i e'; rw [e'] at h1; exact h1
    · rename_i t' e'
      rw [e'] at h1
      dsimp only at h1
      have h2 := h1.trans (accessed_checkEach t' c x a (m.filter fun e => regionOf e.2.1 == .setup))
      split
      · rename_i e''; rw [e''] at h2; exact h2
      · rename_i e''; rw [e''] at h2; exact h2

theorem accessed_checkAccess (s : State) (c : CoreId) (x : Ctx) (va n cut : Nat) (k : Kind) (a : Bool) :
    Accessed s (checkAccess s c x va n cut k a).1 := accessed_checkAll _ _ _ _ _

/-! ### Reads and writes -/

theorem accessed_readPhys (s : State) (c : CoreId) (p : Part) : Accessed s (readPhys s c p).1 := by
  unfold readPhys
  split
  · exact (accessed_flashReadEvent _ _).trans (accessed_logError _ _ _ _ _ _)
  · exact accessed_eccFix _ _ _

theorem accessed_readPart (s : State) (c : CoreId) (p : Part) : Accessed s (readPart s c p).1 := by
  unfold readPart
  dsimp only
  have h0 : Accessed s (if p.mt = 2 then drainAll s c else s) := .ite (accessed_drainAll _ _) (.refl s)
  generalize (if p.mt = 2 then drainAll s c else s) = t at h0 ⊢
  split
  · exact h0
  · exact (h0.trans (accessed_drainN t c _)).trans (accessed_readPhys _ _ _)

theorem accessed_readParts (s : State) (c : CoreId) (l : List Part) : Accessed s (readParts s c l).1 := by
  induction l generalizing s with
  | nil => exact .refl s
  | cons p ps ih =>
    have ht := accessed_readPart s c p
    unfold readParts
    split
    · rename_i e; rw [e] at ht; exact ht
    · rename_i t m e
      rw [e] at ht
      dsimp only at ht
      have := ht.trans (ih t)
      split
      · rename_i e'; rw [e'] at this; exact this
      · rename_i e'; rw [e'] at this; exact this

theorem accessed_enqueue (s : State) (c : CoreId) (e : SbEntry) : Accessed s (s.updCore c fun q => { q with sb := q.sb ++ [e] }) :=
  accessed_updCore s c (fun q => { q with sb := q.sb ++ [e] }) fun _ => rfl

theorem accessed_writePart (s : State) (c : CoreId) (x : Ctx) (p : Part) (l : List Byte) : Accessed s (writePart s c x p l) := by
  unfold writePart
  dsimp only
  have h0 := accessed_markDirty s c x p.va
  refine .ite ((h0.trans (accessed_drainAll _ _)).trans (accessed_performStore _ _ _)) ?_
  exact (h0.trans (Accessed.ite (accessed_drainOne _ _) (.refl _))).trans (accessed_enqueue _ _ _)

theorem accessed_writeParts (s : State) (c : CoreId) (x : Ctx) (ps : List Part) (l : List Byte) : Accessed s (writeParts s c x ps l) := by
  induction ps generalizing s l with
  | nil => exact .refl s
  | cons p ps ih => exact (accessed_writePart s c x p _).trans (ih _ _)

theorem accessed_setupRead (s : State) (src : Src) (off : Nat) : Accessed s (s.setupRead src off).1 := by
  unfold State.setupRead
  dsimp only
  refine iteInduction (motive := fun r : State × Nat => Accessed s r.1) (fun _ => ?_) fun _ => .refl s
  cases src with
  | host => exact ⟨fun _ => rfl, rfl, rfl, rfl, rfl, rfl, rfl⟩
  | core c h => exact accessed_updCore s c (fun q => { q with tbHi := _ }) fun _ => rfl

theorem accessed_setupLoad (s : State) (c : CoreId) (off : Nat) : Accessed s (setupLoad s c off).1 := by
  unfold setupLoad
  dsimp only
  have h0 := accessed_drainAll s c
  refine iteInduction (motive := fun r : State × (Exc ⊕ List Byte) => Accessed s r.1) (fun _ => h0.trans (accessed_logError _ _ _ _ _ _)) fun _ => ?_
  exact h0.trans (accessed_setupRead _ _ _)

/-- A load by the running code. -/
theorem accessed_loadMem (s : State) (c : CoreId) (va : Word) (n cut : Nat) : Accessed s (loadMem s c va n cut).1 := by
  have ht := accessed_checkAccess s c (s.core c).ctx va.toNat n cut .read false
  unfold loadMem
  split
  · rename_i e; rw [e] at ht; exact ht
  · rename_i t ps e
    rw [e] at ht
    dsimp only at ht
    split
    · exact ht.trans (accessed_setupLoad _ _ _)
    · have h1 := ht.trans (accessed_readParts t c ps)
      split
      · rename_i e'; rw [e'] at h1; exact h1
      · rename_i e'; rw [e'] at h1; exact h1

theorem accessed_loadBytes (s : State) (c : CoreId) (x : Ctx) (va n cut : Nat) (k : Kind) : Accessed s (loadBytes s c x va n cut k).1 := by
  have ht := accessed_checkAccess s c x va n cut k false
  unfold loadBytes
  split
  · rename_i e; rw [e] at ht; exact ht
  · rename_i t ps e
    rw [e] at ht
    dsimp only at ht
    have h1 := ht.trans (accessed_readParts t c ps)
    split
    · rename_i e'; rw [e'] at h1; exact h1
    · rename_i e'; rw [e'] at h1; exact h1

theorem accessed_storeBytes (s : State) (c : CoreId) (x : Ctx) (va cut : Nat) (l : List Byte) : Accessed s (storeBytes s c x va cut l).1 := by
  have ht := accessed_checkAccess s c x va l.length cut .write false
  unfold storeBytes
  split
  · rename_i e; rw [e] at ht; exact ht
  · rename_i t ps e
    rw [e] at ht
    exact ht.trans (accessed_writeParts _ _ _ _ _)

/-! ### What Accessed gives -/

theorem Accessed.pc {s u : State} (h : Accessed s u) (k : CoreId) : (u.core k).pc = (s.core k).pc := by rw [h.core k]; rfl
theorem Accessed.csw {s u : State} (h : Accessed s u) (k : CoreId) : (u.core k).csw = (s.core k).csw := by rw [h.core k]; rfl
theorem Accessed.rd {s u : State} (h : Accessed s u) (k : CoreId) (n : RegNo) : (u.core k).rd n = (s.core k).rd n := by rw [h.core k]; rfl
theorem Accessed.hold' {s u : State} (h : Accessed s u) (k : CoreId) : (u.core k).hold = (s.core k).hold := by rw [h.core k]; rfl

/-- Accesses leave a core free to execute. -/
theorem Accessed.free {s u : State} (h : Accessed s u) (c : CoreId) (hf : (s.pwr.fabricUp && s.coreFree c.val) = true) :
    (u.pwr.fabricUp && u.coreFree c.val) = true := by
  have hr : ∀ f : Fld, f.off = 0x2010C → u.get f = s.get f := fun f hf => by unfold State.get; rw [hf, h.hold]
  have hr' : ∀ f : Fld, f.off = 0x380104 → u.get f = s.get f := fun f hf => by unfold State.get; rw [hf, h.fence]
  rw [h.pwr]
  have : u.coreFree c.val = s.coreFree c.val := by
    unfold State.coreFree State.fenced
    rw [hr _ rfl, hr' _ rfl, h.variant]
  rw [this]; exact hf

/-- Accesses leave the wired bits. -/
theorem Accessed.wired {s u : State} (h : Accessed s u) (hw : s.wired = true) : u.wired = true := by
  apply decide_eq_true
  intro k
  have := State.wired_core hw k
  rw [h.core k]
  exact this

/-- Accesses leave a core's own registers. -/
theorem Accessed.same {s u : State} (h : Accessed s u) (k : CoreId) : (s.core k).Same (u.core k) := by
  rw [h.core k]
  exact ⟨⟨fun _ _ => rfl, fun _ _ _ => rfl⟩, fun _ _ => rfl, fun _ _ => rfl, ⟨rfl, rfl⟩, ⟨rfl, rfl⟩, rfl, rfl⟩

/-! ### Instructions with accesses -/

variable {s u : State} {c : CoreId} {op : Nat} {body : State → State × IRes}

/-- An instruction whose accesses leave `u`, and that then changes its core alone and goes on to the next. -/
theorem run_next (h : s.ready c = true) (hg : gateKeep s c op = none) (ha : Accessed s u) (f : Core → Core) (hb : body s = (u.updCore c f, .next)) :
    run s c op body = u.updCore c fun q => (f q).retire q.hold.isSome (q.pc + 4#48) := by
  have hf : ((u.updCore c f).pwr.fabricUp && (u.updCore c f).coreFree c.val) = true :=
    ha.free c (by rw [Bool.and_eq_true]; exact State.ready_free h)
  rw [run_ready h hg, hb]
  simp only [conclude, retireAt, hf, if_true, ← ha.pc c, ← ha.hold' c]
  simp [State.updCore, State.setCore, State.core]

/-- The other cores and the rest at the end of an instruction with accesses. -/
theorem leaves_rest (hw : s.wired = true) (ha : Accessed s u) (f : Core → Core) :
    (∀ k, k ≠ c → (s.core k).Same ((u.updCore c f).settle.core k)) ∧ RestKept u (u.updCore c f).settle := by
  refine ⟨fun k hk => ?_, (restKept_updCore u c f).trans (restKept_settle _)⟩
  have h1 := ha.same k
  have h2 := (othersKept_updCore (c := c) (ha.wired hw) f).2 k hk
  exact ⟨⟨fun n hn => (h2.w.regs n hn).trans (h1.w.regs n hn), fun a b d => by
      have e : (u.core k).hall = (s.core k).hall ∧ (u.core k).stair = (s.core k).stair := by rw [ha.core k]; exact ⟨rfl, rfl⟩
      exact (h2.w.pointers a b (by rwa [e.1, e.2])).trans (h1.w.pointers a b d)⟩,
    fun n hn => (h2.f n hn).trans (h1.f n hn), fun n hn => (h2.da n hn).trans (h1.da n hn),
    ⟨h2.cr.1.trans h1.cr.1, h2.cr.2.trans h1.cr.2⟩, ⟨h2.fp.1.trans h1.fp.1, h2.fp.2.trans h1.fp.2⟩,
    h2.csw.trans h1.csw, h2.pc.trans h1.pc⟩

/-- The frame of an instruction with accesses, from what its change of the core leaves. -/
theorem leaves_end (hw : s.wired = true) (ha : Accessed s u) (f : Core → Core) (w fl : List RegNo) (d : List (Fin 8)) (m pc : Word) (b : Bool)
    (hr : (u.core c).WKept (f (u.core c)) w) (hf : (u.core c).FKept (f (u.core c)) fl) (hd : (u.core c).DaKept (f (u.core c)) d)
    (hcr : (u.core c).CrKept (f (u.core c))) (hfp : (u.core c).FpKept (f (u.core c))) (hcsw : (u.core c).CswKept (f (u.core c)) m) :
    Leaves s u (u.updCore c fun q => (f q).retire b pc).settle c w fl d m := by
  have e : u.core c = (s.core c).buffersOf (u.core c) := ha.core c
  have hw' := ha.wired hw
  obtain ⟨h1, h2⟩ := leaves_rest (c := c) hw ha (fun q => (f q).retire b pc)
  have e1 : ∀ n, (u.core c).rd n = (s.core c).rd n := ha.rd c
  refine ⟨⟨?_, ?_⟩, ?_, ?_, ?_, ?_, ?_, h1, h2⟩
  · intro n hn
    simpa using (hr.regs n hn).trans (e1 n)
  · intro x t hx
    have eh : (u.core c).hall = (s.core c).hall ∧ (u.core c).stair = (s.core c).stair ∧ (u.core c).sp = (s.core c).sp := by
      rw [e]; exact ⟨rfl, rfl, rfl⟩
    have := hr.pointers x t (by rwa [eh.1, eh.2.1])
    have e3 : (u.core c).spOf x t.val = (s.core c).spOf x t.val := by unfold Core.spOf; rw [eh.2.2]
    simpa using this.trans e3
  · intro n hn
    have e3 : (u.core c).f = (s.core c).f := by rw [e]; rfl
    have := hf n hn
    rw [e3] at this
    simpa using this
  · intro n hn
    have e3 : (u.core c).da = (s.core c).da := by rw [e]; rfl
    have := hd n hn
    rw [e3] at this
    simpa using this
  · have e3 : (u.core c).crL = (s.core c).crL ∧ (u.core c).crP = (s.core c).crP := by rw [e]; exact ⟨rfl, rfl⟩
    exact ⟨by simpa using hcr.1.trans e3.1, by simpa using hcr.2.trans e3.2⟩
  · have e3 : (u.core c).fcsw = (s.core c).fcsw ∧ (u.core c).fta = (s.core c).fta := by rw [e]; exact ⟨rfl, rfl⟩
    constructor
    · rw [fcsw_settle]
      simp only [State.core_updCore, if_true, Core.fcsw_retire]
      rw [hfp.1, e3.1]
      exact wired_fcsw (State.wired_core hw c)
    · simpa using hfp.2.trans e3.2
  · have e3 := ha.csw c
    unfold Core.CswKept at hcsw ⊢
    rw [e3] at hcsw
    refine Core.cswKept_settle (r := f (u.core c)) (wired_csw (State.wired_core hw c)) hcsw ?_
    rw [csw_settle]; simp

/-- The next instruction's address after an instruction with accesses. -/
theorem advanced_access (hw : s.wired = true) (ha : Accessed s u) (f : Core → Core) (b : Bool) :
    Advanced s (u.updCore c fun q => (f q).retire b (q.pc + 4#48)).settle c := by
  unfold Advanced
  rw [pc_settle]
  simp only [State.core_updCore, if_true, Core.pc_retire]
  rw [ha.pc c]
  exact pc_add_four (wired_pc (State.wired_core hw c))

/-- An instruction whose accesses leave `u` and whose body raises an exception. -/
theorem run_raises (h : s.ready c = true) (hg : gateKeep s c op = none) (ht : (s.core c).tpend = false) (e : Exc) (hb : body s = (u, .exc e)) :
    RaisesAt s u (finish (run s c op body)) c op e := by
  rw [run_ready h hg, hb]
  simp only [conclude, ht, Bool.false_eq_true, if_false]
  rfl

/-! ### How many bytes an access reads -/

theorem translateAll_pieces {s t : State} {c : CoreId} {x : Ctx} {a : Bool} {ps : List Piece} {l} (h : translateAll s c x a ps = (t, .inr l)) :
    l.map (·.1) = ps := by
  induction ps generalizing s t l with
  | nil => simp [translateAll] at h; obtain ⟨-, rfl⟩ := h; rfl
  | cons p ps ih =>
    unfold translateAll at h
    split at h
    · simp at h
    · split at h
      · simp at h
      · rename_i e
        simp only [Prod.mk.injEq, Sum.inr.injEq] at h
        obtain ⟨-, rfl⟩ := h
        simp [ih e]

theorem checkAll_lens {s t : State} {c : CoreId} {x : Ctx} {a : Bool} {ps : List Piece} {l} (h : checkAll s c x a ps = (t, .inr l)) :
    l.map (·.len) = ps.map (·.len) := by
  unfold checkAll at h
  split at h
  · simp at h
  · rename_i m e
    have := translateAll_pieces e
    split at h
    · simp at h
    · split at h
      · simp at h
      · simp only [Prod.mk.injEq, Sum.inr.injEq] at h
        obtain ⟨-, rfl⟩ := h
        rw [← this]
        simp [List.map_map, Function.comp_def]

theorem checkAccess_lens {s t : State} {c : CoreId} {x : Ctx} {va n cut : Nat} {k : Kind} {a : Bool} {l}
    (h : checkAccess s c x va n cut k a = (t, .inr l)) : (l.map (·.len)).sum = n := by
  rw [checkAll_lens h]
  unfold splitPieces
  dsimp only
  split
  · simp
  · have : min n (cut - va % cut) ≤ n := Nat.min_le_left _ _
    simp [this]

theorem State.bytes_length (s : State) (a n : Nat) : (s.bytes a n).length = n := by
  induction n generalizing a with
  | zero => rfl
  | succ n ih => simp [State.bytes, ih]

theorem State.hostBytes_length (s : State) (a n : Nat) : (s.hostBytes a n).length = n := by
  induction n generalizing a with
  | zero => rfl
  | succ n ih => simp [State.hostBytes, ih]

theorem State.physBytes_length (s : State) (a n : Nat) : (s.physBytes a n).length = n := by
  unfold State.physBytes
  split
  · exact State.hostBytes_length _ _ _
  · exact State.bytes_length _ _ _

theorem forwarded_length {sb : List SbEntry} {pa n : Nat} {l} (h : forwarded sb pa n = some l) : l.length = n := by
  unfold forwarded at h
  split at h
  · simp at h
  · split at h
    · rename_i hc
      have he := Option.some.inj h
      have := hc.2
      simp only [SbEntry.covers, Bool.and_eq_true, decide_eq_true_eq] at this
      rw [← he]
      simp only [List.length_take, List.length_drop]
      omega
    · simp at h

theorem readPart_length {s t : State} {c : CoreId} {p : Part} {l} (h : readPart s c p = (t, .ok l)) : l.length = p.len := by
  unfold readPart at h
  dsimp only at h
  generalize (if p.mt = 2 then drainAll s c else s) = w at h
  split at h
  · rename_i hf
    simp only [Prod.mk.injEq, RdRes.ok.injEq] at h
    rw [← h.2]
    exact forwarded_length hf
  · unfold readPhys at h
    split at h
    · simp at h
    · simp only [Prod.mk.injEq, RdRes.ok.injEq] at h
      rw [← h.2]
      exact State.physBytes_length _ _ _

theorem readParts_length {s t : State} {c : CoreId} {ps : List Part} {l} (h : readParts s c ps = (t, .ok l)) : l.length = (ps.map (·.len)).sum := by
  induction ps generalizing s t l with
  | nil => simp [readParts] at h; rw [h.2]; rfl
  | cons p ps ih =>
    unfold readParts at h
    split at h
    · simp at h
    · rename_i e
      split at h
      · simp at h
      · rename_i e'
        simp only [Prod.mk.injEq, RdRes.ok.injEq] at h
        obtain ⟨-, rfl⟩ := h
        simp [ih e', readPart_length e]

theorem leBytes_length (n v : Nat) : (leBytes n v).length = n := by
  induction n generalizing v with
  | zero => rfl
  | succ n ih => simp [leBytes, ih]

theorem loadBytes_length {s t : State} {c : CoreId} {x : Ctx} {va n cut : Nat} {k : Kind} {l} (h : loadBytes s c x va n cut k = (t, .inr l)) :
    l.length = n := by
  unfold loadBytes at h
  split at h
  · simp at h
  · rename_i e
    split at h
    · simp at h
    · rename_i e'
      simp only [Prod.mk.injEq, Sum.inr.injEq] at h
      rw [← h.2, readParts_length e', checkAccess_lens e]

theorem checkEach_setup {s t : State} {c : CoreId} {x : Ctx} {a : Bool} {l : List (Piece × Nat × Nat)} (h : checkEach s c x a l = (t, none)) :
    ∀ e ∈ l, regionOf e.2.1 = .setup → e.1.size = 4 := by
  induction l generalizing s t with
  | nil => simp
  | cons p ps ih =>
    obtain ⟨p, pa, mt⟩ := p
    unfold checkEach at h
    split at h
    · simp at h
    · rename_i e
      intro e' he' hr
      rcases List.mem_cons.1 he' with rfl | hm
      · by_contra hne
        unfold checkPhys at e
        dsimp only at e hr hne
        split at e
        · simp at e
        · rw [if_pos ⟨hr, .inl hne⟩] at e
          simp at e
      · exact ih h e' hm hr

theorem checkAccess_setup {s t : State} {c : CoreId} {x : Ctx} {va n cut : Nat} {k : Kind} {a : Bool} {ps off}
    (h : checkAccess s c x va n cut k a = (t, .inr ps)) (hp : setupPart ps = some off) : n = 4 := by
  have hl : ∃ p, ps = [p] ∧ regionOf p.pa = .setup := by
    unfold setupPart at hp
    split at hp
    · rename_i p
      split at hp
      · exact ⟨p, rfl, ‹_›⟩
      · simp at hp
    · simp at hp
  obtain ⟨p, rfl, hr⟩ := hl
  unfold checkAccess checkAll at h
  split at h
  · simp at h
  · rename_i m e
    have hm := translateAll_pieces e
    split at h
    · simp at h
    · split at h
      · simp at h
      · rename_i e2
        simp only [Prod.mk.injEq, Sum.inr.injEq] at h
        obtain ⟨-, h⟩ := h
        match m, h with
        | [d], h =>
          simp only [List.map_cons, List.map_nil, List.cons.injEq, and_true] at h
          subst h
          have := checkEach_setup e2 d (by simp; exact hr) hr
          simp only [List.map_cons, List.map_nil] at hm
          unfold splitPieces at hm
          dsimp only at hm
          split at hm
          · simp only [List.cons.injEq, and_true] at hm
            rw [hm] at this; exact this
          · simp at hm

theorem setupLoad_length {s t : State} {c : CoreId} {off : Nat} {l} (h : setupLoad s c off = (t, .inr l)) : l.length = 4 := by
  unfold setupLoad at h
  dsimp only at h
  split at h
  · simp at h
  · simp only [Prod.mk.injEq, Sum.inr.injEq] at h
    rw [← h.2, leBytes_length]

theorem loadMem_length {s t : State} {c : CoreId} {va : Word} {n cut : Nat} {l} (h : loadMem s c va n cut = (t, .inr l)) : l.length = n := by
  unfold loadMem at h
  split at h
  · simp at h
  · rename_i e
    split at h
    · rename_i off hp
      rw [setupLoad_length h, checkAccess_setup e hp]
    · split at h
      · simp at h
      · rename_i e'
        simp only [Prod.mk.injEq, Sum.inr.injEq] at h
        rw [← h.2, readParts_length e', checkAccess_lens e]

/-! ### How instructions with accesses end -/

/-- What an instruction's change of its core leaves of it. -/
structure Core.Kept (q r : Core) (w fl : List RegNo) (d : List (Fin 8)) (m : Word) : Prop where
  w : q.WKept r w
  f : q.FKept r fl
  da : q.DaKept r d
  cr : q.CrKept r
  fp : q.FpKept r
  csw : q.CswKept r m

theorem Core.kept_refl (q : Core) (w fl : List RegNo) (d : List (Fin 8)) (m : Word) : q.Kept q w fl d m :=
  ⟨Core.wKept_refl q w, fun _ _ => rfl, fun _ _ => rfl, ⟨rfl, rfl⟩, ⟨rfl, rfl⟩, rfl⟩

theorem Core.kept_wr (q : Core) (rd : RegNo) (v : Word) : q.Kept (q.wr rd v) [rd] [] [] 0 := by
  have hx := Core.f_wr q rd v
  refine ⟨Core.wKept_wr q rd v, ?_, ?_, ⟨hx.2.2.1, hx.2.2.2.1⟩, ⟨hx.2.2.2.2.1, hx.2.2.2.2.2⟩, ?_⟩
  · intro n _; rw [hx.1]
  · intro n _; rw [hx.2.1]
  · unfold Core.CswKept; rw [Core.csw_wr]

/-- An instruction that goes on to the next one. -/
theorem ends_next (h : s.ready c = true) (hw : s.wired = true) (hg : gateKeep s c op = none) (ha : Accessed s u) (f : Core → Core)
    (w : List RegNo) (m : Word) (hk : (u.core c).Kept (f (u.core c)) w [] [] m) (hb : body s = (u.updCore c f, .next)) :
    Ends s u (u.updCore c fun q => (f q).retire q.hold.isSome (q.pc + 4#48)).settle (finish (run s c op body)) c ((s.core c).pc + 4#48) w m := by
  rw [run_next h hg ha f hb]
  exact ⟨rfl, advanced_access hw ha f _, leaves_end hw ha f w [] [] m _ _ hk.w hk.f hk.da hk.cr hk.fp hk.csw⟩

theorem updCore_self (s : State) (c : CoreId) : s.updCore c (fun q => q) = s := by simp [State.updCore, State.setCore, State.core]

/-- An instruction that leaves its core and goes on to the next one. -/
theorem ends_same (h : s.ready c = true) (hw : s.wired = true) (hg : gateKeep s c op = none) (ha : Accessed s u) (hb : body s = (u, .next)) :
    Ends s u (u.updCore c fun q => q.retire q.hold.isSome (q.pc + 4#48)).settle (finish (run s c op body)) c ((s.core c).pc + 4#48) [] 0 :=
  ends_next h hw hg ha (fun q => q) [] 0 (Core.kept_refl _ _ _ _ _) (by rw [updCore_self]; exact hb)

/-- An instruction that goes on at another address. -/
theorem ends_jump (h : s.ready c = true) (hw : s.wired = true) (hg : gateKeep s c op = none) (ha : Accessed s u) (f : Core → Core)
    (w : List RegNo) (m pc : Word) (hp : pc.toNat % 4 = 0) (hk : (u.core c).Kept (f (u.core c)) w [] [] m)
    (hb : body s = (u.updCore c f, .jump pc)) :
    Ends s u (u.updCore c fun q => (f q).retire q.hold.isSome pc).settle (finish (run s c op body)) c pc w m := by
  have hf : ((u.updCore c f).pwr.fabricUp && (u.updCore c f).coreFree c.val) = true :=
    ha.free c (by rw [Bool.and_eq_true]; exact State.ready_free h)
  have e : run s c op body = u.updCore c fun q => (f q).retire q.hold.isSome pc := by
    rw [run_ready h hg, hb]
    simp only [conclude, retireAt, hf, if_true, ← ha.hold' c]
    simp [State.updCore, State.setCore, State.core]
  rw [e]
  refine ⟨rfl, ?_, leaves_end hw ha f w [] [] m _ _ hk.w hk.f hk.da hk.cr hk.fp hk.csw⟩
  rw [pc_settle]
  simp only [State.core_updCore, if_true, Core.pc_retire]
  exact (and_pcBits_iff _).2 hp

end Sys2Proof.Machine
end

