-- ==== Sys2Proof/Laws/Control.lean ====
section
/-! SUPPORT. Control registers: what a write leaves each of them, and what the end of a held window leaves of a core. -/
namespace Sys2Proof.Machine

section
variable (q : Core) (h : Hall) (i : Nat) (v : Word)

theorem Core.setCr_form : q.setCr h i v = q.setSp h i v ∨ ∃ l, q.setCr h i v = q.setBank h l := by
  unfold Core.setCr
  split
  · exact .inl rfl
  · split <;> exact .inr ⟨_, rfl⟩

@[simp] theorem Core.w_setCr : (q.setCr h i v).w = q.w := by
  rcases q.setCr_form h i v with e | ⟨l, e⟩ <;> rw [e]
  · rfl
  · cases h <;> rfl
@[simp] theorem Core.f_setCr : (q.setCr h i v).f = q.f := by
  rcases q.setCr_form h i v with e | ⟨l, e⟩ <;> rw [e]
  · rfl
  · cases h <;> rfl
@[simp] theorem Core.da_setCr : (q.setCr h i v).da = q.da := by
  rcases q.setCr_form h i v with e | ⟨l, e⟩ <;> rw [e]
  · rfl
  · cases h <;> rfl
@[simp] theorem Core.csw_setCr : (q.setCr h i v).csw = q.csw := by
  rcases q.setCr_form h i v with e | ⟨l, e⟩ <;> rw [e]
  · rfl
  · cases h <;> rfl
@[simp] theorem Core.fcsw_setCr : (q.setCr h i v).fcsw = q.fcsw := by
  rcases q.setCr_form h i v with e | ⟨l, e⟩ <;> rw [e]
  · rfl
  · cases h <;> rfl
@[simp] theorem Core.fta_setCr : (q.setCr h i v).fta = q.fta := by
  rcases q.setCr_form h i v with e | ⟨l, e⟩ <;> rw [e]
  · rfl
  · cases h <;> rfl
@[simp] theorem Core.pc_setCr : (q.setCr h i v).pc = q.pc := by
  rcases q.setCr_form h i v with e | ⟨l, e⟩ <;> rw [e]
  · rfl
  · cases h <;> rfl
@[simp] theorem Core.hold_setCr : (q.setCr h i v).hold = q.hold := by
  rcases q.setCr_form h i v with e | ⟨l, e⟩ <;> rw [e]
  · rfl
  · cases h <;> rfl
@[simp] theorem Core.due_setCr : (q.setCr h i v).due = q.due := by
  rcases q.setCr_form h i v with e | ⟨l, e⟩ <;> rw [e]
  · rfl
  · cases h <;> rfl
@[simp] theorem Core.sb_setCr : (q.setCr h i v).sb = q.sb := by
  rcases q.setCr_form h i v with e | ⟨l, e⟩ <;> rw [e]
  · rfl
  · cases h <;> rfl
@[simp] theorem Core.tlb_setCr : (q.setCr h i v).tlb = q.tlb := by
  rcases q.setCr_form h i v with e | ⟨l, e⟩ <;> rw [e]
  · rfl
  · cases h <;> rfl
@[simp] theorem Core.hall_setCr : (q.setCr h i v).hall = q.hall := by unfold Core.hall; rw [Core.csw_setCr]
@[simp] theorem Core.stair_setCr : (q.setCr h i v).stair = q.stair := by unfold Core.stair; rw [Core.csw_setCr]
end

theorem hallNat_inj {h k : Hall} (e : hallNat h = hallNat k) : h = k := by cases h <;> cases k <;> first | rfl | cases e

theorem spIndex_inj {h k : Hall} {i j : Nat} (hi : i < 4) (hj : j < 4) (e : spIndex h i = spIndex k j) : h = k ∧ i = j := by
  have h2 : ∀ h : Hall, hallNat h < 2 := by intro h; cases h <;> decide
  have h3 := h2 h; have h4 := h2 k
  have e' := congrArg Fin.val e
  simp only [spIndex, Fin.val_ofNat] at e'
  have : hallNat h = hallNat k ∧ i = j := by omega
  exact ⟨hallNat_inj this.1, this.2⟩

theorem Core.spOf_setSp (q : Core) (h k : Hall) (i j : Nat) (v : Word) (hi : i < 4) (hj : j < 4) :
    (q.setSp h i v).spOf k j = if k = h ∧ j = i then v else q.spOf k j := by
  unfold Core.setSp Core.spOf
  by_cases e : k = h ∧ j = i
  · obtain ⟨rfl, rfl⟩ := e
    simp
  · rw [if_neg e]
    have hne : (spIndex h i).val ≠ (spIndex k j).val := by
      intro e'
      apply e
      obtain ⟨h1, h2⟩ := spIndex_inj hi hj (Fin.ext e')
      exact ⟨h1.symm, h2.symm⟩
    exact Vector.getElem_set_ne (spIndex h i).isLt (spIndex k j).isLt hne

theorem Core.cr_setSp (q : Core) (h k : Hall) (i j : Nat) (v : Word) (hi : i < 4) :
    (q.setSp h i v).cr k j = if k = h ∧ j = i then v else q.cr k j := by
  unfold Core.cr
  by_cases hj : j < 4
  · simp only [hj, if_true, Core.spOf_setSp q h k i j v hi hj]
  · have : ¬ (k = h ∧ j = i) := fun e => hj (e.2 ▸ hi)
    simp only [hj, if_false, if_neg this]
    cases k <;> rfl

/-- A control register reads as stored, and a write leaves every other one. -/
theorem Core.cr_setCr (q : Core) (h k : Hall) (i j : Nat) (v : Word) :
    (q.setCr h i v).cr k j = if k = h ∧ j = i then storedCr h i v else q.cr k j := by
  by_cases hi : i < 4
  · unfold Core.setCr storedCr
    simp only [hi, if_true]
    exact Core.cr_setSp q h k i j v hi
  · unfold Core.setCr
    rw [if_neg hi]
    by_cases hj : j < 4
    · have : ¬ (k = h ∧ j = i) := fun e => hi (e.2 ▸ hj)
      rw [if_neg this]
      unfold Core.cr
      rw [if_pos hj, if_pos hj]
      split <;> cases h <;> rfl
    · unfold Core.cr
      rw [if_neg hj, if_neg hj]
      have hb : ∀ l, (q.setBank h l).bank k = if k = h then l else q.bank k := by
        intro l; cases h <;> cases k <;> rfl
      by_cases hr : storedCr h i v = crReset h i
      · rw [if_pos hr, hb]
        by_cases hk : k = h
        · subst hk
          rw [if_pos rfl, lookupKey_eraseKey]
          by_cases hij : i = j
          · subst hij
            simpa using hr.symm
          · rw [if_neg hij, if_neg (fun e => hij e.2.symm)]
        · rw [if_neg hk, if_neg (fun e => hk e.1)]
      · rw [if_neg hr, hb]
        by_cases hk : k = h
        · subst hk
          rw [if_pos rfl, lookupKey_insertKey]
          by_cases hij : i = j
          · subst hij; simp
          · rw [if_neg hij, if_neg (fun e => hij e.2.symm)]
        · rw [if_neg hk, if_neg (fun e => hk e.1)]

/-- A general register other than the stack pointer does not depend on hall and stair. -/
theorem Core.rd_of_w {q r : Core} (hw : r.w = q.w) {n : RegNo} (hn : n.val < 31) : r.rd n = q.rd n := by
  unfold Core.rd
  split
  · rfl
  · simp only [hw]

/-! ### System instructions -/

/-- What a system instruction's change of its core leaves of it. -/
structure Core.SysKept (q r : Core) (w : List RegNo) (crs : List (Hall × Nat)) (m : Word) : Prop where
  w : ∀ n : RegNo, n.val < 31 → n ∉ w → r.rd n = q.rd n
  cr : ∀ h i, (h, i) ∉ crs → r.cr h i = q.cr h i
  f : q.FKept r []
  da : q.DaKept r []
  fp : q.FpKept r
  csw : q.CswKept r m

variable {s u : State} {c : CoreId}

/-- The frame of a system instruction, from what its change of the core leaves. -/
theorem sysKept_end (hw : s.wired = true) (ha : Accessed s u) (f : Core → Core) (w : List RegNo) (crs : List (Hall × Nat)) (m : Word)
    (hk : (u.core c).SysKept (f (u.core c)) w crs m) : SysKept s u (u.updCore c f).settle c w crs m := by
  have e : u.core c = (s.core c).buffersOf (u.core c) := ha.core c
  obtain ⟨h1, h2⟩ := leaves_rest (c := c) hw ha f
  refine ⟨?_, ?_, ?_, ?_, ?_, ?_, h1, h2⟩
  · intro n hn hm
    simpa using (hk.w n hn hm).trans (ha.rd c n)
  · intro h i hm
    have e2 : (u.core c).cr h i = (s.core c).cr h i := by
      rw [e]; cases h <;> rfl
    simpa using (hk.cr h i hm).trans e2
  · intro n hn
    have e3 : (u.core c).f = (s.core c).f := by rw [e]; rfl
    have := hk.f n hn
    rw [e3] at this
    simpa using this
  · intro n hn
    have e3 : (u.core c).da = (s.core c).da := by rw [e]; rfl
    have := hk.da n hn
    rw [e3] at this
    simpa using this
  · have e3 : (u.core c).fcsw = (s.core c).fcsw ∧ (u.core c).fta = (s.core c).fta := by rw [e]; exact ⟨rfl, rfl⟩
    constructor
    · rw [fcsw_settle]
      simp only [State.core_updCore, if_true]
      rw [hk.fp.1, e3.1]
      exact wired_fcsw (State.wired_core hw c)
    · simpa using hk.fp.2.trans e3.2
  · have e3 := ha.csw c
    have hcsw := hk.csw
    unfold Core.CswKept at hcsw ⊢
    rw [e3] at hcsw
    refine Core.cswKept_settle (r := f (u.core c)) (wired_csw (State.wired_core hw c)) hcsw ?_
    rw [csw_settle]; simp

/-- The end of a system instruction that goes on to the next one. -/
theorem sys_next {op : Nat} {body : State → State × IRes} (h : s.ready c = true) (hw : s.wired = true) (hg : gateKeep s c op = none) (ha : Accessed s u)
    (f : Core → Core) (w : List RegNo) (crs : List (Hall × Nat)) (m : Word) (hk : (u.core c).SysKept (f (u.core c)) w crs m)
    (hb : body s = (u.updCore c f, .next)) :
    let t := (u.updCore c fun q => (f q).retire q.hold.isSome (q.pc + 4#48)).settle
    finish (run s c op body) = .next t ∧ Advanced s t c ∧ SysKept s u t c w crs m := by
  intro t
  refine ⟨?_, advanced_access hw ha f _, ?_⟩
  · rw [run_next h hg ha f hb]; rfl
  · refine sysKept_end hw ha _ w crs m ⟨?_, ?_, hk.f, hk.da, hk.fp, hk.csw⟩
    · intro n hn hm
      exact (Core.rd_of_w (by rfl) hn).trans (hk.w n hn hm)
    · intro k i hm
      rw [Core.cr_retire]
      exact hk.cr k i hm

/-- With no floating-point trap pending an instruction that would deliver it runs as any other. -/
theorem runWith_run {op : Nat} (h : s.ready c = true) (hg : gateKeep s c op = none) (bar jg : Bool) (hb : bar = false ∨ (s.core c).tpend = false) (body) :
    runWith s c op 4 bar jg body = run s c op body := by
  rw [runWith_ready h hg hb, run_ready h hg]

/-! ### Fields of CSW and of the control registers -/

theorem cswSet_kept (v m : Word) (hi lo x : Nat) (hh : hi < 48) (hm : ∀ i, lo ≤ i → i ≤ hi → m.getLsbD i = true) : cswSet v hi lo x &&& ~~~m = v &&& ~~~m := by
  apply BitVec.eq_of_getLsbD_eq
  intro i hi'
  rw [BitVec.getLsbD_and, BitVec.getLsbD_and, getLsbD_cswSet _ _ _ _ _ hh, BitVec.getLsbD_not]
  split
  · rename_i h
    have := hm i h.1 (by omega)
    simp [this]
  · rfl

theorem bitsOf_and (x m hi lo : Nat) (h : bitsOf m hi lo = 2 ^ (hi + 1 - lo) - 1) : bitsOf (x &&& m) hi lo = bitsOf x hi lo := by
  apply Nat.eq_of_testBit_eq
  intro i
  rw [testBit_bitsOf, testBit_bitsOf, Nat.testBit_and]
  by_cases hi' : i < hi + 1 - lo
  · have e := congrArg (fun y => y.testBit i) h
    simp only [testBit_bitsOf, hi', decide_true, Bool.true_and, Nat.testBit_two_pow_sub_one] at e
    rw [e, Bool.and_true]
  · simp [hi']

/-- A field of a control register that is not a stack pointer reads as stored, where the register stores its bits. -/
theorem Core.crField_setCr_same (q : Core) (h : Hall) (i hi lo x : Nat) (m a b : Nat) (hi4 : 4 ≤ i) (hinfo : crInfo h i = some (m, a, b)) (hm : m < 2 ^ 48) (hh : hi < 48)
    (hP : ¬ (h = .P ∧ 0x00C ≤ i ∧ i ≤ 0x00E)) (hf : bitsOf m hi lo = 2 ^ (hi + 1 - lo) - 1) :
    (q.setCr h i (BitVec.ofNat 48 x)).crField h i hi lo = bitsOf x hi lo := by
  unfold Core.crField
  rw [Core.cr_setCr, if_pos ⟨rfl, rfl⟩]
  unfold storedCr
  simp only [hinfo, if_neg hP, if_neg (Nat.not_lt.2 hi4), BitVec.ofNat_eq_ofNat, BitVec.or_zero, BitVec.toNat_and, BitVec.toNat_ofNat,
    Nat.mod_eq_of_lt hm]
  rw [bitsOf_and _ _ _ _ hf, bitsOf_mod _ _ _ _ hh]

/-- The core at the end of a held window. -/
def Core.endHold (q : Core) (code : Nat) : Core :=
  match q.hold with
  | none => q
  | some h =>
    let v := putBits (q.cr q.hall crHOLDSTAT).toNat 3 1 code
    { q.setCr q.hall crHOLDSTAT (BitVec.ofNat 48 (if 1 ≤ code ∧ code ≤ 4 then putBits (putBits v 0 0 1) 15 8 h.count else v)) with
      hold := none, csw := cswSet q.csw 21 21 0 }

theorem endHold_eq (s : State) (c : CoreId) (code : Nat) : Machine.endHold s c code = s.updCore c fun q => q.endHold code := by
  unfold Machine.endHold Core.endHold
  rfl

/-- The end of a window leaves everything but HOLDSTAT of the hall and CSW.HELD. -/
theorem Core.sysKept_endHold (q : Core) (code : Nat) : q.SysKept (q.endHold code) [] [(q.hall, 0x08D)] 0x200000#48 := by
  unfold Core.endHold
  split
  · exact ⟨fun _ _ _ => rfl, fun _ _ _ => rfl, fun _ _ => rfl, fun _ _ => rfl, ⟨rfl, rfl⟩, rfl⟩
  · refine ⟨?_, ?_, ?_, ?_, ⟨by simp, by simp⟩, ?_⟩
    · intro n hn _
      exact Core.rd_of_w (by simp) hn
    · intro k i hm
      have e : ∀ (r : Core) (cs : Word) (hd : Option HoldWin), ({ r with hold := hd, csw := cs } : Core).cr k i = r.cr k i := by intros; cases k <;> rfl
      simp only [e]
      rw [Core.cr_setCr, if_neg]
      rintro ⟨rfl, rfl⟩
      exact hm (by simp [crHOLDSTAT])
    · intro n _; simp
    · intro n _; simp
    · unfold Core.CswKept
      refine cswSet_kept _ _ _ _ _ (by omega) ?_
      intro i h1 h2
      have : i = 21 := by omega
      subst this; rfl

end Sys2Proof.Machine
end

