-- ==== Sys2Proof/Laws/Integer.lean ====
section
/-! SUPPORT. The integer unit's shared operations: what sums, differences and their flags are in terms of the numbers of the operands. -/
namespace Sys2Proof.Machine

/-- A word as a signed number. -/
theorem toInt_cases (a : Word) : a.toInt = if a.msb then (a.toNat : Int) - 2^48 else (a.toNat : Int) := by
  rw [BitVec.toInt_eq_msb_cond]; simp

/-- The sign bit of a word. -/
theorem msb_iff (a : Word) : a.msb = decide (2^47 ≤ a.toNat) := by
  rw [BitVec.msb_eq_decide]

/-- N and Z of a result. -/
theorem nzOf_eq (r : Word) (c v : Bool) : nzOf r c v = ⟨r.msb, decide (r = 0), c, v⟩ := by unfold nzOf; congr

/-- A sum with carry, and its flags (R286). -/
theorem addFlags_spec (a b : Word) (ci : Bool) : addFlags a b ci = (a + b + BitVec.ofNat 48 (ofBool ci), 
   ⟨(a + b + BitVec.ofNat 48 (ofBool ci)).msb, decide (a + b + BitVec.ofNat 48 (ofBool ci) = 0), decide (2^48 ≤ a.toNat + b.toNat + ofBool ci), decide (outside48 (a.toInt + b.toInt + ofBool ci))⟩) := by
  have hr : BitVec.ofNat 48 (a.toNat + b.toNat + ofBool ci) = a + b + BitVec.ofNat 48 (ofBool ci) := by
    apply BitVec.eq_of_toNat_eq; simp [BitVec.toNat_add]
  unfold addFlags
  simp only [hr, nzOf_eq]
  congr 2
  generalize hR : a + b + BitVec.ofNat 48 (ofBool ci) = r
  have hrn : r.toNat = (a.toNat + b.toNat + ofBool ci) % 2^48 := by rw [← hR, ← hr]; simp
  have := toInt_cases a; have := toInt_cases b
  have ha := a.isLt; have hb := b.isLt
  have hc : ofBool ci ≤ 1 := by cases ci <;> decide
  rw [Bool.eq_iff_iff]
  simp only [Bool.and_eq_true, beq_iff_eq, bne_iff_ne, ne_eq, decide_eq_true_eq, outside48]
  rw [msb_iff a] at *
  rw [msb_iff b] at *
  rw [msb_iff r] at *
  by_cases h1 : 2^47 ≤ a.toNat <;> by_cases h2 : 2^47 ≤ b.toNat <;> by_cases h3 : 2^47 ≤ r.toNat <;> simp at * <;> omega

/-- A difference with borrow, and its flags (R286). -/
theorem subFlags_spec (a b : Word) (ci : Bool) : subFlags a b ci = (a - b - BitVec.ofNat 48 (1 - ofBool ci), 
   ⟨(a - b - BitVec.ofNat 48 (1 - ofBool ci)).msb, decide (a - b - BitVec.ofNat 48 (1-ofBool ci) = 0), decide (b.toNat + (1 - ofBool ci) ≤ a.toNat), decide (outside48 (a.toInt - b.toInt - (1 - ofBool ci : Nat)))⟩) := by
  have ha := a.isLt; have hb := b.isLt
  have hc : ofBool ci ≤ 1 := by cases ci <;> decide
  have hr : BitVec.ofNat 48 (a.toNat + 2 ^ 48 - b.toNat - 1 + ofBool ci) = a - b - BitVec.ofNat 48 (1 - ofBool ci) := by
    apply BitVec.eq_of_toNat_eq; simp only [BitVec.toNat_ofNat, BitVec.toNat_sub]
    omega
  unfold subFlags
  simp only [hr, nzOf_eq]
  congr 2
  · rw [decide_eq_decide]; omega
  generalize hR : a - b - BitVec.ofNat 48 (1 - ofBool ci) = r
  have hrn : r.toNat = (a.toNat + 2 ^ 48 - b.toNat - 1 + ofBool ci) % 2^48 := by rw [← hR, ← hr]; simp
  have := toInt_cases a; have := toInt_cases b
  rw [Bool.eq_iff_iff]
  simp only [Bool.and_eq_true, bne_iff_ne, ne_eq, decide_eq_true_eq, outside48]
  rw [msb_iff a] at *
  rw [msb_iff b] at *
  rw [msb_iff r] at *
  by_cases h1 : 2^47 ≤ a.toNat <;> by_cases h2 : 2^47 ≤ b.toNat <;> by_cases h3 : 2^47 ≤ r.toNat <;> simp at * <;> omega

end Sys2Proof.Machine
end

