-- ==== Sys2Proof/Laws/Kept.lean ====
section
/-! SUPPORT. What a command of the block leaves: one lemma per update for the frame of Safety.lean, and how a write by a source reaches its register. -/
namespace Sys2Proof.Machine

theorem wrote_append (off : Nat) (a b : List (Fld × Nat)) (v : Nat) : wrote off (a ++ b) v = wrote off b (wrote off a v) := by
  simp [wrote, List.foldl_append]

/-! ### The end of a command -/

/-- Settling changes nothing that the frame keeps. -/
theorem Kept.settle {s u : State} {ps : List Area} {ws : List (Fld × Nat)} (h : Kept s u ps ws) (hw : s.wired = true) : Kept s u.settle ps ws := by
  have hs := settles_settleUnits u
  obtain ⟨h1, h2, h3, h4, h5, h6, h7, h8, h9, h10, h11, h12, h13, h14, h15, h16, h17, h18, h19, h20, h21, h22, h23, h24⟩ := h
  constructor
  case regs => intro off ho; rw [settle_reg u off ho, h3 off ho]
  case cores =>
    refine h4.imp id fun hc c => ?_
    have hq := State.wired_core hw c
    have hk := hc c
    refine ⟨⟨fun n hn => ?_, fun a b hab => ?_⟩, fun n hn => ?_, fun n hn => ?_, ?_, ?_, ?_, ?_⟩
    · rw [rd_settle]; exact hk.w.regs n hn
    · rw [spOf_settle]; exact hk.w.pointers a b hab
    · rw [f_settle]; exact hk.f n hn
    · rw [da_settle]; exact hk.da n hn
    · exact ⟨by rw [crL_settle]; exact hk.cr.1, by rw [crP_settle]; exact hk.cr.2⟩
    · refine ⟨?_, by rw [fta_settle]; exact hk.fp.2⟩
      rw [fcsw_settle, hk.fp.1]
      exact wired_fcsw hq
    · have e : (u.core c).csw = (s.core c).csw := by
        have e := hk.csw
        unfold Core.CswKept at e
        rwa [show ~~~(0 : Word) = BitVec.allOnes 48 from rfl, BitVec.and_allOnes, BitVec.and_allOnes] at e
      unfold Core.CswKept
      rw [csw_settle, e, wired_csw hq]
    · rw [pc_settle, hk.pc]
      exact (and_pcBits_iff _).2 (wired_pc hq)
  case pump => exact h10.imp id fun h => by rw [show u.settle.pump = _ from hs.pump, h]
  case sequencer => exact h20.imp id fun h => by rw [show u.settle.seq = _ from hs.seq, h]
  case power => exact h21.imp id fun h => by rw [show u.settle.pwr = _ from hs.pwr, h]
  case link => exact h22.imp id fun h => by rw [show u.settle.link = _ from hs.link, h]
  case dram => exact h23.imp id fun h => by rw [show u.settle.dram = _ from hs.dram, h]
  all_goals simpa using ‹_›

/-! ### Updates -/

variable {s u : State} {ps : List Area} {ws : List (Fld × Nat)}

theorem Core.Same.refl (q : Core) : q.Same q := ⟨⟨fun _ _ => rfl, fun _ _ _ => rfl⟩, fun _ _ => rfl, fun _ _ => rfl, ⟨rfl, rfl⟩, ⟨rfl, rfl⟩, rfl, rfl⟩

theorem Kept.refl (s : State) (ps : List Area) : Kept s s ps [] := by
  constructor <;> first | rfl | exact fun _ _ => rfl | exact .inr rfl | exact .inr ⟨rfl, rfl⟩ | exact .inr ⟨rfl, rfl, rfl⟩ | exact .inr fun _ => .refl _

/-- A register is written whole. -/
theorem Kept.setReg (h : Kept s u ps ws) (f : Fld) (v x : Nat) (hv : v % 2 ^ 32 = putBits (u.reg f.off) f.hi f.lo x % 2 ^ 32) :
    Kept s (u.setReg f.off v) ps (ws ++ [(f, x)]) := by
  obtain ⟨h1, h2, h3, h4, h5, h6, h7, h8, h9, h10, h11, h12, h13, h14, h15, h16, h17, h18, h19, h20, h21, h22, h23, h24⟩ := h
  constructor
  case regs =>
    intro off ho
    rw [wrote_append, ← h3 off ho, State.reg_setReg]
    by_cases e : f.off = off
    · subst e
      simp only [wrote, List.foldl_cons, List.foldl_nil, if_true]
      exact hv
    · simp [wrote, e]
  all_goals simpa [State.core] using ‹_›

theorem Kept.set (h : Kept s u ps ws) (f : Fld) (v : Nat) : Kept s (u.set f v) ps (ws ++ [(f, v)]) := h.setReg f _ v rfl
theorem Kept.put (h : Kept s u ps ws) (f : Fld) (b : Bool) : Kept s (u.put f b) ps (ws ++ [(f, ofBool b)]) := h.set f _
theorem Kept.bump (h : Kept s u ps ws) (f : Fld) (n : Nat) :
    Kept s (u.bump f n) ps (ws ++ [(f, satTo (2 ^ (f.hi + 1 - f.lo) - 1) (u.get f + n))]) := h.set f _

/-! A unit changes: in each lemma one field of the state is replaced, that of an area the command may change. -/

theorem Kept.updSeq (h : Kept s u ps ws) (f : Seq → Seq) (hp : .sequencer ∈ ps) : Kept s (u.updSeq f) ps ws :=
  ⟨h.queue, h.variant, h.regs, h.cores, h.memory, h.staged, h.clock, h.windows, h.adc, h.pump, h.engines, h.gallery, h.latch, h.charger, h.uarts,
   h.banks, h.jtag, h.faults, h.reply, .inl hp, h.power, h.link, h.dram, h.flash⟩
theorem Kept.updPwr (h : Kept s u ps ws) (f : Pwr → Pwr) (hp : .power ∈ ps) : Kept s (u.updPwr f) ps ws :=
  ⟨h.queue, h.variant, h.regs, h.cores, h.memory, h.staged, h.clock, h.windows, h.adc, h.pump, h.engines, h.gallery, h.latch, h.charger, h.uarts,
   h.banks, h.jtag, h.faults, h.reply, h.sequencer, .inl hp, h.link, h.dram, h.flash⟩
theorem Kept.updLink (h : Kept s u ps ws) (f : Link → Link) (hp : .link ∈ ps) : Kept s (u.updLink f) ps ws :=
  ⟨h.queue, h.variant, h.regs, h.cores, h.memory, h.staged, h.clock, h.windows, h.adc, h.pump, h.engines, h.gallery, h.latch, h.charger, h.uarts,
   h.banks, h.jtag, h.faults, h.reply, h.sequencer, h.power, .inl hp, h.dram, h.flash⟩
theorem Kept.updPump (h : Kept s u ps ws) (f : Pump → Pump) (hp : .pump ∈ ps) : Kept s (u.updPump f) ps ws :=
  ⟨h.queue, h.variant, h.regs, h.cores, h.memory, h.staged, h.clock, h.windows, h.adc, .inl hp, h.engines, h.gallery, h.latch, h.charger, h.uarts,
   h.banks, h.jtag, h.faults, h.reply, h.sequencer, h.power, h.link, h.dram, h.flash⟩
theorem Kept.updEng (h : Kept s u ps ws) (f : Engines → Engines) (hp : .engines ∈ ps) : Kept s (u.updEng f) ps ws :=
  ⟨h.queue, h.variant, h.regs, h.cores, h.memory, h.staged, h.clock, h.windows, h.adc, h.pump, .inl hp, h.gallery, h.latch, h.charger, h.uarts,
   h.banks, h.jtag, h.faults, h.reply, h.sequencer, h.power, h.link, h.dram, h.flash⟩
theorem Kept.updDram (h : Kept s u ps ws) (f : DramCtl → DramCtl) (hp : .dram ∈ ps) : Kept s (u.updDram f) ps ws :=
  ⟨h.queue, h.variant, h.regs, h.cores, h.memory, h.staged, h.clock, h.windows, h.adc, h.pump, h.engines, h.gallery, h.latch, h.charger, h.uarts,
   h.banks, h.jtag, h.faults, h.reply, h.sequencer, h.power, h.link, .inl hp, h.flash⟩
theorem Kept.updAdc (h : Kept s u ps ws) (f : Adc → Adc) (hp : .adc ∈ ps) : Kept s (u.updAdc f) ps ws :=
  ⟨h.queue, h.variant, h.regs, h.cores, h.memory, h.staged, h.clock, h.windows, .inl hp, h.pump, h.engines, h.gallery, h.latch, h.charger, h.uarts,
   h.banks, h.jtag, h.faults, h.reply, h.sequencer, h.power, h.link, h.dram, h.flash⟩
theorem Kept.updGal (h : Kept s u ps ws) (f : Gal → Gal) (hp : .gallery ∈ ps) : Kept s (u.updGal f) ps ws :=
  ⟨h.queue, h.variant, h.regs, h.cores, h.memory, h.staged, h.clock, h.windows, h.adc, h.pump, h.engines, .inl hp, h.latch, h.charger, h.uarts,
   h.banks, h.jtag, h.faults, h.reply, h.sequencer, h.power, h.link, h.dram, h.flash⟩
theorem Kept.updChg (h : Kept s u ps ws) (f : Chg → Chg) (hp : .charger ∈ ps) : Kept s (u.updChg f) ps ws :=
  ⟨h.queue, h.variant, h.regs, h.cores, h.memory, h.staged, h.clock, h.windows, h.adc, h.pump, h.engines, h.gallery, h.latch, .inl hp, h.uarts,
   h.banks, h.jtag, h.faults, h.reply, h.sequencer, h.power, h.link, h.dram, h.flash⟩
theorem Kept.updJtag (h : Kept s u ps ws) (f : Jtag → Jtag) (hp : .jtag ∈ ps) : Kept s (u.updJtag f) ps ws :=
  ⟨h.queue, h.variant, h.regs, h.cores, h.memory, h.staged, h.clock, h.windows, h.adc, h.pump, h.engines, h.gallery, h.latch, h.charger, h.uarts,
   h.banks, .inl hp, h.faults, h.reply, h.sequencer, h.power, h.link, h.dram, h.flash⟩
theorem Kept.updFlt (h : Kept s u ps ws) (f : Flt → Flt) (hp : .faults ∈ ps) : Kept s (u.updFlt f) ps ws :=
  ⟨h.queue, h.variant, h.regs, h.cores, h.memory, h.staged, h.clock, h.windows, h.adc, h.pump, h.engines, h.gallery, h.latch, h.charger, h.uarts,
   h.banks, h.jtag, .inl hp, h.reply, h.sequencer, h.power, h.link, h.dram, h.flash⟩
theorem Kept.updClk (h : Kept s u ps ws) (f : Clk → Clk) (hp : .clock ∈ ps) : Kept s (u.updClk f) ps ws :=
  ⟨h.queue, h.variant, h.regs, h.cores, h.memory, h.staged, .inl hp, h.windows, h.adc, h.pump, h.engines, h.gallery, h.latch, h.charger, h.uarts,
   h.banks, h.jtag, h.faults, h.reply, h.sequencer, h.power, h.link, h.dram, h.flash⟩
theorem Kept.updUart (h : Kept s u ps ws) (n : Nat) (f : Uart → Uart) (hp : .uarts ∈ ps) : Kept s (u.updUart n f) ps ws :=
  ⟨h.queue, h.variant, h.regs, h.cores, h.memory, h.staged, h.clock, h.windows, h.adc, h.pump, h.engines, h.gallery, h.latch, h.charger, .inl hp,
   h.banks, h.jtag, h.faults, h.reply, h.sequencer, h.power, h.link, h.dram, h.flash⟩
theorem Kept.updLatch (h : Kept s u ps ws) (n : Nat) (f : LatchCh → LatchCh) (hp : .latch ∈ ps) : Kept s (u.updLatch n f) ps ws :=
  ⟨h.queue, h.variant, h.regs, h.cores, h.memory, h.staged, h.clock, h.windows, h.adc, h.pump, h.engines, h.gallery, .inl hp, h.charger, h.uarts,
   h.banks, h.jtag, h.faults, h.reply, h.sequencer, h.power, h.link, h.dram, h.flash⟩
theorem Kept.updCore (h : Kept s u ps ws) (c : CoreId) (f : Core → Core) (hp : .cores ∈ ps) : Kept s (u.updCore c f) ps ws :=
  ⟨h.queue, h.variant, h.regs, .inl hp, h.memory, h.staged, h.clock, h.windows, h.adc, h.pump, h.engines, h.gallery, h.latch, h.charger, h.uarts,
   h.banks, h.jtag, h.faults, h.reply, h.sequencer, h.power, h.link, h.dram, h.flash⟩
theorem Kept.resp (h : Kept s u ps ws) (x : Resp) (hp : .reply ∈ ps) : Kept s ({ u with resp := x }) ps ws :=
  ⟨h.queue, h.variant, h.regs, h.cores, h.memory, h.staged, h.clock, h.windows, h.adc, h.pump, h.engines, h.gallery, h.latch, h.charger, h.uarts,
   h.banks, h.jtag, h.faults, .inl hp, h.sequencer, h.power, h.link, h.dram, h.flash⟩
theorem Kept.wins (h : Kept s u ps ws) (x : List Win) (hp : .windows ∈ ps) : Kept s ({ u with wins := x }) ps ws :=
  ⟨h.queue, h.variant, h.regs, h.cores, h.memory, h.staged, h.clock, .inl hp, h.adc, h.pump, h.engines, h.gallery, h.latch, h.charger, h.uarts,
   h.banks, h.jtag, h.faults, h.reply, h.sequencer, h.power, h.link, h.dram, h.flash⟩
theorem Kept.jtag_ (h : Kept s u ps ws) (x : Jtag) (hp : .jtag ∈ ps) : Kept s ({ u with jtag := x }) ps ws :=
  ⟨h.queue, h.variant, h.regs, h.cores, h.memory, h.staged, h.clock, h.windows, h.adc, h.pump, h.engines, h.gallery, h.latch, h.charger, h.uarts,
   h.banks, .inl hp, h.faults, h.reply, h.sequencer, h.power, h.link, h.dram, h.flash⟩
theorem Kept.bankUp (h : Kept s u ps ws) (x : List Bool) (hp : .banks ∈ ps) : Kept s ({ u with bankUp := x }) ps ws :=
  ⟨h.queue, h.variant, h.regs, h.cores, h.memory, h.staged, h.clock, h.windows, h.adc, h.pump, h.engines, h.gallery, h.latch, h.charger, h.uarts, .inl
   hp, h.jtag, h.faults, h.reply, h.sequencer, h.power, h.link, h.dram, h.flash⟩
theorem Kept.staged_ (h : Kept s u ps ws) (x : List (Nat × Long)) (hp : .staged ∈ ps) : Kept s ({ u with staged := x }) ps ws :=
  ⟨h.queue, h.variant, h.regs, h.cores, h.memory, .inl hp, h.clock, h.windows, h.adc, h.pump, h.engines, h.gallery, h.latch, h.charger, h.uarts,
   h.banks, h.jtag, h.faults, h.reply, h.sequencer, h.power, h.link, h.dram, h.flash⟩
theorem Kept.tb_ (h : Kept s u ps ws) (x : Quad) (hp : .clock ∈ ps) : Kept s ({ u with tb := x }) ps ws :=
  ⟨h.queue, h.variant, h.regs, h.cores, h.memory, h.staged, .inl hp, h.windows, h.adc, h.pump, h.engines, h.gallery, h.latch, h.charger, h.uarts,
   h.banks, h.jtag, h.faults, h.reply, h.sequencer, h.power, h.link, h.dram, h.flash⟩
theorem Kept.latch_ (h : Kept s u ps ws) (x : List LatchCh) (hp : .latch ∈ ps) : Kept s ({ u with latch := x }) ps ws :=
  ⟨h.queue, h.variant, h.regs, h.cores, h.memory, h.staged, h.clock, h.windows, h.adc, h.pump, h.engines, h.gallery, .inl hp, h.charger, h.uarts,
   h.banks, h.jtag, h.faults, h.reply, h.sequencer, h.power, h.link, h.dram, h.flash⟩
theorem Kept.uarts_ (h : Kept s u ps ws) (x : List Uart) (hp : .uarts ∈ ps) : Kept s ({ u with uarts := x }) ps ws :=
  ⟨h.queue, h.variant, h.regs, h.cores, h.memory, h.staged, h.clock, h.windows, h.adc, h.pump, h.engines, h.gallery, h.latch, h.charger, .inl hp,
   h.banks, h.jtag, h.faults, h.reply, h.sequencer, h.power, h.link, h.dram, h.flash⟩

/-- A bit set in a number, as a field. -/
theorem setBit_eq (x n : Nat) : setBit x n = putBits x n n 1 := by
  apply Nat.eq_of_testBit_eq
  intro i
  rw [testBit_putBits]
  unfold setBit
  simp [Nat.testBit_or, Nat.testBit_two_pow]
  by_cases e : n = i
  · subst e; simp
  · have : ¬ (n ≤ i ∧ i ≤ n) := by omega
    simp [e]; omega

theorem Kept.event (h : Kept s u ps ws) (b n : Nat) : Kept s (u.event b n) ps (ws ++ [(evtBit b n, 1)]) := by
  refine h.setReg (evtBit b n) _ 1 ?_
  rw [setBit_eq]
  rfl

/-- Fields outside the frame may change freely: the counter of free values, host memory, bells and I2C transfers. -/
theorem Kept.of_free {v : State} (h : Kept s u ps ws) (e : ∀ x : State, x = { u with freeCtr := v.freeCtr, host := v.host, bel := v.bel, i2c := v.i2c } → v = x) :
    Kept s v ps ws := by
  have e := e _ rfl
  rw [e]
  exact ⟨h.queue, h.variant, h.regs, h.cores, h.memory, h.staged, h.clock, h.windows, h.adc, h.pump, h.engines, h.gallery, h.latch, h.charger, h.uarts,
    h.banks, h.jtag, h.faults, h.reply, h.sequencer, h.power, h.link, h.dram, h.flash⟩

/-- A byte of memory is written. -/
theorem Kept.putByte (h : Kept s u ps ws) (a : Nat) (b : Byte) (hp : .memory ∈ ps) : Kept s (u.putByte a b) ps ws := by
  unfold State.putByte
  repeat' split
  all_goals exact ⟨h.queue, h.variant, h.regs, h.cores, .inl hp, h.staged, h.clock, h.windows, h.adc, h.pump, h.engines, h.gallery, h.latch, h.charger,
    h.uarts, h.banks, h.jtag, h.faults, h.reply, h.sequencer, h.power, h.link, h.dram, h.flash⟩

theorem Kept.putBytes (h : Kept s u ps ws) (a : Nat) (l : List Byte) (hp : .memory ∈ ps) : Kept s (u.putBytes a l) ps ws := by
  induction l generalizing u a with
  | nil => exact h
  | cons b l ih => exact ih (h.putByte a b hp) _

/-- A command completes when the state it leaves before settling has what the frame says. -/
theorem Does.of {s u : State} {o : Host.Outcome State Fault Refusal} {P : State → Prop} (hw : s.wired = true) (ho : o = .next u.settle) (h : Kept s u ps ws)
    (hp : P u.settle) : Does s o ps ws P := ⟨u.settle, ho, hp, h.settle hw⟩

/-- A list with one place replaced. -/
theorem setAt_eq_set {α : Type} (l : List α) (n : Nat) (a : α) : setAt l n a = l.set n a := by
  induction l generalizing n with
  | nil => rfl
  | cons b l ih => cases n <;> simp [setAt, ih]

/-- The bit of a number that the model reads. -/
theorem bit_eq_testBit (x n : Nat) : bit x n = x.testBit n := by simp [bit, Nat.testBit, Nat.shiftRight_eq_div_pow]

theorem ofBool_eq (b : Bool) : ofBool b = if b then 1 else 0 := rfl

/-- A bit of a field of a state, read as a number. -/
theorem State.get_bitAt (s : State) (f : Fld) (n : Nat) (hn : f.lo + n ≤ f.hi) : s.get (f.bitAt n) = if (s.get f).testBit n then 1 else 0 := by
  show bitsOf (s.reg f.off) (f.lo + n) (f.lo + n) = _
  have h : (s.get f).testBit n = (s.reg f.off).testBit (n + f.lo) := by
    rw [State.get, testBit_bitsOf]
    simp; omega
  rw [h, bitsOf_eq, Nat.testBit, Nat.shiftRight_eq_div_pow, Nat.add_comm n]
  have : f.lo + n + 1 - (f.lo + n) = 1 := by omega
  rw [this]
  rcases Nat.mod_two_eq_zero_or_one (s.reg f.off / 2 ^ (f.lo + n)) with h | h <;> simp [h]

/-! ### The width of a register -/

/-- A bound of a reset value, for any index and variant. -/
def ResetV.bound : ResetV → Nat
  | .val n => n
  | .sdSlot => 31
  | .slotDep => 8
  | .slotUpstep => 4
  | .wnom => 1000
  | .adcMask => 2 ^ 24 - 1
  | .coreHold => 15
  | .linkRate | .linkWidth => 4
  | _ => 1

theorem packBits_lt (n : Nat) (f : Nat → Bool) : packBits n f < 2 ^ n := by
  induction n with
  | zero => simp [packBits]
  | succ n ih => simp only [packBits]; split <;> omega

theorem ResetV.eval_le (r : ResetV) (v : Variant) (i : Nat) : r.eval v i ≤ r.bound := by
  cases r <;> simp only [ResetV.eval, ResetV.bound] <;> try omega
  case wnom =>
    rcases Nat.lt_or_ge i 8 with h | h
    · interval_cases i <;> decide
    · rw [List.getD_eq_default _ _ (by simpa using h)]; omega
  case slotDep =>
    split
    · rename_i h
      obtain ⟨h1, h2⟩ := h
      interval_cases i <;> decide
    · omega
  case adcMask => exact Nat.le_sub_one_of_lt (packBits_lt _ _)
  case linkRate => cases v <;> decide
  case linkWidth => cases v <;> decide
  all_goals split <;> omega

theorem findIn_mem {l : List RegD} {off : Nat} {d : RegD} {k : Nat × Nat} (h : findIn l off = some (d, k)) : d ∈ l := by
  induction l with
  | nil => simp [findIn] at h
  | cons a l ih =>
    unfold findIn at h
    split at h
    · simp only [Option.some.injEq, Prod.mk.injEq] at h
      exact h.1 ▸ List.mem_cons_self
    · exact List.mem_cons_of_mem _ (ih h)

theorem resetWord_le (d : RegD) (v : Variant) (i : Nat) : resetWord d v i ≤ d.fields.foldl (fun a f => a + f.reset.bound * 2 ^ f.lo) 0 := by
  have : ∀ (l : List FieldD) (a b : Nat), a ≤ b → l.foldl (fun a f => a + f.reset.eval v i * 2 ^ f.lo) a ≤ l.foldl (fun a f => a + f.reset.bound * 2 ^ f.lo) b := by
    intro l
    induction l with
    | nil => intro a b h; exact h
    | cons f l ih => exact fun a b h => ih _ _ (Nat.add_le_add h (Nat.mul_le_mul_right _ (f.reset.eval_le v i)))
  exact this _ _ _ (le_refl 0)

theorem bound_descs : ∀ b ∈ List.range 24, ∀ d ∈ descs b, d.fields.foldl (fun a f => a + f.reset.bound * 2 ^ f.lo) 0 < 2 ^ 32 := by decide +kernel

theorem blockOf_lt (off : Nat) : blockOf off < 24 := by
  have h := List.length_filter_le (fun x => decide (x ≤ off)) blockBases
  have : blockBases.length = 23 := by decide
  unfold blockOf
  omega

theorem resetAt_lt (v : Variant) (off : Nat) : resetAt v off < 2 ^ 32 := by
  unfold resetAt
  split
  · rename_i d i k h
    split
    · unfold findReg at h
      split at h
      · exact lt_of_le_of_lt (resetWord_le d v i) (bound_descs _ (List.mem_range.2 (blockOf_lt off)) _ (findIn_mem h))
      · simp at h
    · simp
  · simp

/-- A register is 32 bits wide. -/
theorem State.reg_lt (s : State) (off : Nat) : s.reg off < 2 ^ 32 := by
  unfold State.reg
  split
  · exact BitVec.isLt _
  · exact resetAt_lt _ _

/-- A register written with the value it holds stays as it is. -/
theorem Kept.same (h : Kept s u ps ws) (o : Nat) : Kept s (u.setReg o (u.reg o)) ps ws := by
  obtain ⟨h1, h2, h3, h4, h5, h6, h7, h8, h9, h10, h11, h12, h13, h14, h15, h16, h17, h18, h19, h20, h21, h22, h23, h24⟩ := h
  constructor
  case regs =>
    intro off ho
    rw [← h3 off ho, State.reg_setReg]
    split
    · rename_i e; rw [e]; exact Nat.mod_eq_of_lt (State.reg_lt u off)
    · rfl
  all_goals simpa [State.core] using ‹_›

theorem State.wired_reached {s : State} (h : s.wired = true) (src : Src) : (s.reached src).wired = true := by
  cases src with
  | host => exact h
  | core c _ =>
    refine decide_eq_true fun k => ?_
    have := State.wired_core h k
    rw [State.reached, (accessed_drainAll s c).core k]
    exact this

/-! ### Writes by a source -/

theorem ofLe_leBytes (n v : Nat) : ofLe (leBytes n v) = v % 256 ^ n := by
  induction n generalizing v with
  | zero => simp [leBytes, ofLe, Nat.mod_one]
  | succ n ih =>
    have : v % 256 ^ (n + 1) = v % 256 + 256 * (v / 256 % 256 ^ n) := by rw [pow_succ, Nat.mul_comm (256 ^ n) 256, Nat.mod_mul]
    rw [this]
    simp only [leBytes, ofLe, ih, BitVec.toNat_ofNat]

/-- A write that reaches a register outside the context windows and the completion rings is carried out there. -/
theorem srcWrite_eq {src : Src} {off v : Nat} (h : s.reaches src off v = true) (ha : off % 4 = 0) (hv : v < 2 ^ 32)
    (hw : ¬ (0x180340 ≤ off ∧ off < 0x180380)) (hq : ¬ (0x1C1000 ≤ off ∧ off < 0x1D1000)) :
    s.srcWrite src off v = (s.reached src).regWrite src off v := by
  unfold State.reaches at h
  simp only [Bool.and_eq_true] at h
  obtain ⟨⟨h1, h2⟩, h3⟩ := h
  have hq' : ∀ P Q R : Prop, (0x1C1000 ≤ off ∧ off < 0x1D1000 ∧ P ∧ Q ∧ R) ↔ False := fun _ _ _ => ⟨fun x => hq ⟨x.1, x.2.1⟩, False.elim⟩
  unfold State.srcWrite
  cases src with
  | host =>
    have h3' : s.linkActive.hostFence off = false := (by simpa using h3 : s.hostFence off = false)
    simp only [h1, Bool.not_true, Bool.false_eq_true, if_false, ha, ne_eq, not_true_eq_false, State.hostSetup, h3', State.setupWrite]
    simp only [State.reached] at h2 ⊢
    simp only [h2, Bool.not_true, Bool.false_eq_true, if_false, hw, hq']
  | core c k =>
    simp only [State.srcLive, Bool.and_eq_true, beq_iff_eq] at h1
    have hk : ((drainAll s c).core c).hall = k := by
      rw [← h1.2, (accessed_drainAll s c).core c]; rfl
    have h3' : (drainAll s c).fenced (setupSeg off) = false := by simpa using h3
    have hl : ofLe (leBytes 4 v) = v := by rw [ofLe_leBytes]; exact Nat.mod_eq_of_lt hv
    simp only [State.reached] at h2 ⊢
    simp only [State.srcLive, h1, Bool.and_self, beq_self_eq_true, Bool.not_true, Bool.false_eq_true, if_false, coreSetup, ha, ne_eq, not_true_eq_false,
      setupStore, h3', hk, State.setupWrite, hl, h2, hw, hq']

/-- A bit of a field is written. -/
theorem Kept.setBitAt (h : Kept s u ps ws) (f : Fld) (n : Nat) (b : Bool) (hn : f.lo + n ≤ f.hi) :
    Kept s (u.set f (withBit (u.get f) n b)) ps (ws ++ [(f.bitAt n, ofBool b)]) := by
  refine h.setReg (f.bitAt n) _ _ (congrArg (· % 2 ^ 32) ?_)
  show putBits (u.reg f.off) f.hi f.lo _ = putBits (u.reg f.off) (f.lo + n) (f.lo + n) _
  apply Nat.eq_of_testBit_eq
  intro i
  rw [testBit_putBits, testBit_putBits, withBit, testBit_putBits, State.get, testBit_bitsOf]
  by_cases h1 : f.lo ≤ i <;> by_cases h2 : i < f.hi + 1 <;> simp [h1] <;> grind

end Sys2Proof.Machine
end

