-- ==== Sys2Proof/Tests/Slice0.lean ====
section
/-! SUPPORT. Tests: ill-formed commands are refused, worked examples of the spec, and a witness for the hypotheses of every statement that has
some. -/
open Sys2Proof Sys2Proof.Machine

section Tests
set_option Elab.async false

/-- The queue is empty after reset. -/
theorem test_reset_queue : State.reset.pending = [] := by decide

/-! ### States for the witnesses -/

/-- The block with both islands released and 1 GiB of DRAM. -/
def live : State :=
  { State.reset with pwr := { Pwr.reset with aonUp := true, fabricUp := true }, dram := { State.reset.dram with usable := 4, trained := true } }

/-- Core 0 changed. -/
def withCore (f : Core → Core) : State := live.updCore 0 f

/-- General registers of core 0 set. -/
def withW (l : List (RegNo × Nat)) : State := withCore fun q => l.foldl (fun q e => q.wr e.1 (BitVec.ofNat 48 e.2)) q

/-- Core 0 at a stair of Hall L, or of Hall P. -/
def atStair (t : Nat) : State := withCore fun q => { q with csw := BitVec.ofNat 48 (0xF000 + t * 2 ^ 16) }
def inHallP (t : Nat) : State := withCore fun q => { q with csw := BitVec.ofNat 48 (0x4F000 + t * 2 ^ 16) }

/-- Set-up fields set. -/
def withRegs (s : State) (l : List (Fld × Nat)) : State := l.foldl (fun s e => s.set e.1 e.2) s

/-- Bytes of memory set. -/
def withMem (s : State) (a : Nat) (l : List Byte) : State := s.putBytes a l

/-- Hall L on core 0, as a source. -/
def coreL : Src := .core 0 .L

/-- The block with the host's link up. -/
def linked : State := { live with link := { live.link with up := true, perst := false, bar4 := true, bme := true } }

/-! ### Witnesses: the cores -/

/-- Integer, branch and status instructions: core 0 executes, no trap is pending, and pairs are even registers 2 to 28. -/
theorem test_hyp_core_runs : live.ready 0 = true ∧ live.wired = true ∧ (live.core 0).tpend = false ∧ Variant.hasDsc live.variant = true
    ∧ pairOk 2 = true ∧ pairOk 28 = true := by decide +kernel

/-- DivisionTruncatesAndChecksZero: a divisor of 0 and one that is not. -/
theorem test_hyp_division : let s := withW [(2, 7)]
    s.ready 0 = true ∧ s.wired = true ∧ (s.core 0).rd 2 ≠ 0 ∧ (s.core 0).rd 1 = 0 ∧ (s.core 0).tpend = false := by decide +kernel

/-- ExtensionsAndCountsGiveResult: CLZ at its ends, 0 and 48. -/
theorem test_hyp_clz : let s := withW [(2, 2 ^ 47)]
    s.ready 0 = true ∧ s.wired = true ∧ ((s.core 0).rd 2).toNat < 2 ^ (48 - 0) ∧ hasBit ((s.core 0).rd 2) 47 ∧ ((s.core 0).rd 1).toNat < 2 ^ (48 - 48) := by
  decide +kernel

/-- LoadsExtendWhatTheAccessReads, StoresStoreLowBytes: an aligned and a misaligned long; a store that is performed, and one that faults. -/
theorem test_hyp_memory : let s := withW [(1, 0x1000), (2, 0x1002)]
    s.ready 0 = true ∧ s.wired = true ∧ ((s.core 0).rd 1).toNat % sizeAlign 2 = 0 ∧ ((s.core 0).rd 2).toNat % sizeAlign 2 ≠ 0
      ∧ (s.core 0).tpend = false
      ∧ (let r := storeMem s 0 0x1000#48 4096 [1]; r.2 = none ∧ (r.1.pwr.fabricUp && r.1.coreFree 0) = true ∧ r.1.wired = true)
      ∧ (storeMem s 0 0x40000000#48 4096 [1]).2.isSome = true := by decide +kernel

/-- DramLoadsAndStores: the first and the last word of installed DRAM, and a load after a store. -/
theorem test_hyp_dram : let s := withW [(1, 0), (2, 0x3FFFFFFA)]
    s.ready 0 = true ∧ s.wired = true ∧ s.quietDram 0 ((s.core 0).rd 1) 6 = true ∧ s.quietDram 0 ((s.core 0).rd 2) 6 = true
      ∧ ((s.core 0).rd 2).toNat % sizeAlign 3 = 0 ∧ s.sbRoom 0 2 = true
      ∧ (match exec (.st 0 3 1 0) s with | .next t => t.ready 0 | _ => false) = true := by decide +kernel

/-- AtomicsReadModifyWriteOneWord, AtomicOnDramWritesOnlyItsWord: the last word of a line, one that is misaligned, one that crosses its line. -/
theorem test_hyp_atomics : let s := withW [(1, 0x103A), (2, 0x1001), (3, 0x103C)]
    s.ready 0 = true ∧ s.wired = true ∧ (s.core 0).tpend = false ∧ (s.core 0).sb = [] ∧ s.quietDram 0 ((s.core 0).rd 1) 6 = true
      ∧ ((s.core 0).rd 1).toNat % 2 = 0 ∧ ((s.core 0).rd 1).toNat % 64 < 60 ∧ ((s.core 0).rd 2).toNat % 2 ≠ 0 ∧ 60 ≤ ((s.core 0).rd 3).toNat % 64
      ∧ (match checkAccess (drainAll s 0) 0 ((drainAll s 0).core 0).ctx 0x103A 6 4096 .write true with
        | (u, .inr ps) => (match (readParts u 0 ps).2 with | .ok _ => true | _ => false)
        | _ => false) = true := by decide +kernel

/-- FencesEmptyTheStoreBuffer: a device-weak store leaves before an older store to another line. -/
theorem test_hyp_store_drain : let s := withCore fun q => { q with sb := [⟨0x1000, [1], false⟩, ⟨0x2000, [2], true⟩] }
    s.ready 0 = true ∧ s.wired = true ∧ s.fenced 0 = false ∧ (s.core 0).sb[1]? = some ⟨0x2000, [2], true⟩
      ∧ ((s.core 0).sb.take 1).all (fun f => (f.weak || true) && f.addr / 64 != 0x2000 / 64) = true ∧ regionOf 0x2000 ≠ .link
      ∧ s.poison 0x2000 1 = none := by decide +kernel

/-- BranchesGoToTheirTargets: an aligned target, and one that is not. -/
theorem test_hyp_branches : let s := withW [(1, 0x1000), (2, 0x1002), (30, 0x1003)]
    s.ready 0 = true ∧ s.wired = true ∧ (s.core 0).tpend = false ∧ ((s.core 0).rd 1).toNat % 4 = 0 ∧ ((s.core 0).rd 2).toNat % 4 ≠ 0
      ∧ ((s.core 0).rd 30).toNat % 4 ≠ 0 ∧ ((live.core 0).rd 30).toNat % 4 = 0 := by decide +kernel

/-- BellsAndDoorbellsOfCores: no segment is fenced; a bell whose level is not 0; from Hall P a bell of Hall L is denied. -/
theorem test_hyp_bells : let s := withRegs (withW [(1, 1)]) [(F.BEL_SRC_LEVEL.ix 15, 3)]
    s.ready 0 = true ∧ s.wired = true ∧ (drainAll s 0).fenced 8 = false ∧ (drainAll s 0).fenced 5 = false ∧ (drainAll s 0).belLevel 15 ≠ 0
      ∧ 0 < Variant.cores s.variant ∧ ((s.core 0).rd 1).getLsbD 0 = true ∧ (inHallP 1).ready 0 = true ∧ ((inHallP 1).core 0).hall = .P := by decide +kernel

/-- A job of well 5 in slot 7 of core 0, Hall L, and its flight, taken or not. -/
def aJob : Job := ⟨5, 0, 1, 2, 0, .L, 0, 1, 0, 15, 0, false, 0, List.replicate 64 0, List.replicate 64 0, none, 0⟩
def aFlight (taken : Bool) : Flight := ⟨aJob, .core 0 .L 7 255 taken false, none⟩
def withFlight (s : State) (f : Flight) : State := { s with pump := { s.pump with flight := [f] } }

/-- JobTokensAreTakenAndReturned: a token at the inlet, none, a live token for JOBDONE, and one that is not. -/
theorem test_hyp_job_tokens :
    (let s := withFlight live (aFlight false);
      s.ready 0 = true ∧ s.wired = true ∧ s.pump.flight.find? (·.inInlet 0 .L) = some (aFlight false))
    ∧ live.pump.flight.find? (·.inInlet 0 .L) = none
    ∧ (let s := withFlight (withW [(1, 5 + 7 * 2 ^ 14 + 2 * 2 ^ 17 + 255 * 2 ^ 24)]) (aFlight true);
      s.ready 0 = true ∧ s.wired = true ∧ s.pump.flight.find? (·.isToken 0 .L 7 255) = some (aFlight true)
        ∧ bitsOf ((s.core 0).rd 1).toNat 16 14 = 7 ∧ bitsOf ((s.core 0).rd 1).toNat 31 24 = 255 ∧ bitsOf ((s.core 0).rd 1).toNat 23 20 = 0
        ∧ s.pump.flight.any (·.isToken 0 .L 7 254) = false) := by decide +kernel

/-- HeldWindowsOpenAndEnd: n at both ends, a window below and at its limit. -/
theorem test_hyp_hold :
    (let s := withCore fun q => { q with hold := some ⟨255, 255, 254⟩ };
      s.ready 0 = true ∧ s.wired = true ∧ (s.core 0).tpend = false ∧ (s.core 0).hold = some ⟨255, 255, 254⟩)
    ∧ (let s := withCore fun q => { q with hold := some ⟨1, 1, 1⟩ };
      s.wired = true ∧ (s.core 0).hold = some ⟨1, 1, 1⟩) ∧ (live.core 0).hold = none := by decide +kernel

/-- SleepStopsTheCore, SystemClassIsPrivileged: the stairs at which SLEEP is allowed and at which class 0x0D is privileged. -/
theorem test_hyp_stairs : (atStair 1).ready 0 = true ∧ (atStair 1).wired = true ∧ ((atStair 1).core 0).tpend = false ∧ ((atStair 1).core 0).stair = 1
    ∧ (atStair 2).ready 0 = true ∧ (atStair 2).wired = true ∧ ((atStair 2).core 0).tpend = false ∧ ((atStair 2).core 0).stair = 2
    ∧ (atStair 3).ready 0 = true ∧ ((atStair 3).core 0).stair = 3 := by decide +kernel

/-- ControlRegistersAreReadAndWritten: a register that does not exist, one that stair 1 may read and write, one above its limit, Hall P's bank from
Hall L and from Hall P, and WDKICK. -/
theorem test_hyp_control_registers : (live.core 0).stair < 2 ∧ crInfo .L 0x1FF = none ∧ (crInfo .L 0x080).isSome = true
    ∧ (∃ m r w, crInfo .L 0x080 = some (m, r, w) ∧ (live.core 0).stair ≤ r ∧ (live.core 0).stair ≤ w ∧ w < ((atStair 1).core 0).stair)
    ∧ (crInfo .L 0x023).isSome = true ∧ (crInfo .L 0x022).isSome = true ∧ ((inHallP 0).core 0).hall ≠ .L := by
  refine ⟨by decide +kernel, by decide +kernel, by decide +kernel, ⟨_, _, _, rfl, ?_⟩, ?_⟩ <;> decide +kernel

/-- TlbiRemovesBufferedEntries: RD 0, RD 1 from Hall L stair 0, and RD 1 from elsewhere. -/
theorem test_hyp_tlbi : live.ready 0 = true ∧ live.wired = true ∧ (live.core 0).stair = 0 ∧ (live.core 0).hall = .L
    ∧ (inHallP 0).ready 0 = true ∧ ((inHallP 0).core 0).stair < 2 ∧ ((inHallP 0).core 0).hall = .P ∧ ((inHallP 0).core 0).tpend = false := by
  decide +kernel

/-- SkeyStoresAKey: keys on, at stair 0 with a frame in DRAM; keys off; stair 1; an address outside DRAM; Hall P at a locked key. -/
theorem test_hyp_skey :
    (let s := withRegs (withW [(1, 0x3FFFF000), (2, 0x4F)]) [(F.KEY_CTL_ENABLE, 1), (F.KEY_BASE_BASE, 0x100)];
      let u := drainAll s 0
      s.ready 0 = true ∧ s.wired = true ∧ (s.core 0).stair = 0 ∧ ((s.core 0).rd 1).toNat < u.installed ∧ u.flag F.KEY_CTL_ENABLE = true
        ∧ u.fenced 9 = false ∧ u.poison (u.keyAddr 0x3FFFF000) 1 = none ∧ (∀ k : CoreId, (u.core k).sb = []))
    ∧ (drainAll live 0).flag F.KEY_CTL_ENABLE = false ∧ 0 < (drainAll live 0).installed ∧ ((withW [(1, 2 ^ 40)]).core 0).rd 1 = 0x10000000000#48
    ∧ ((atStair 1).core 0).stair = 1 ∧ ((inHallP 0).core 0).stair = 0 := by decide +kernel

/-- DescendEntersALowerStair: gate 7 of stair 1 from stair 2, with its bits set; an entry outstanding with an aligned stack; the faults' conditions. -/
theorem test_hyp_descend :
    let s := withCore fun q => (({ q with csw := 0x2F000#48 }).setCr .L 0x06F 0x43#48).setCr .L 0x04F 0x1000#48
    let d := withCore fun q => ((({ q with csw := 0x2F000#48 }).setCr .L 0x06F 0x43#48).setCr .L 0x011 0xFE#48).setCr .L 1 0x2000#48
    s.ready 0 = true ∧ s.wired = true ∧ (s.core 0).tpend = false ∧ (s.core 0).stair = 2
      ∧ bit ((s.core 0).cr .L 0x06F).toNat 0 = true ∧ bit ((s.core 0).cr .L 0x06F).toNat 6 = true ∧ ((s.core 0).cr .L 0x011).toNat = 0
      ∧ d.ready 0 = true ∧ d.wired = true ∧ ((d.core 0).cr .L 0x011).toNat = 254 ∧ ((d.core 0).spOf .L 1).toNat = 0x2000
      ∧ (storeBytes (endHold d 0 5) 0 ⟨.L, 1, 0, false, false⟩ 0x1FF0 4096 (leBytes 6 0 ++ leBytes 6 0 ++ leBytes 4 254)).2 = none := by decide +kernel

/-- PassageEntersHallL: from Hall P, passage 0 of a table of one entry. -/
theorem test_hyp_passage :
    let s := withMem (withCore fun q => (({ q with csw := 0x6F000#48 }).setCr .L 0x021 1#48).setCr .L 0x020 0x1000#48) 0x1000
      (leBytes 6 0x4000 ++ leBytes 6 0x8000 ++ leBytes 4 0x43)
    s.ready 0 = true ∧ s.wired = true ∧ (s.core 0).tpend = false ∧ (s.core 0).hall = .P ∧ (s.core 0).stair = 2 ∧ min 64 ((s.core 0).cr .L 0x021).toNat = 1
      ∧ (tableRead (endHold s 0 5) 0 .L 0x1000).2 = .inr ⟨0x4000#48, 0x8000#48, 0x43⟩ ∧ ((s.core 0).cr .L 0x010).toNat = 0
      ∧ (live.core 0).hall = .L := by decide +kernel

/-- AscendReturnsToTheCaller: one entry outstanding from stair 2 of the hall; from Hall P, enabled and not. -/
theorem test_hyp_ascend :
    let s := withCore fun q => ((q.setCr .L 0x010 1#48).setCr .L 0x00C 0x20000#48).setCr .L 0x008 0x1000#48
    let p := withCore fun q => (q.setCr .L 0x010 1#48).setCr .L 0x00C 0x60000#48
    s.ready 0 = true ∧ s.wired = true ∧ (s.core 0).tpend = false ∧ (s.core 0).stair = 0 ∧ ((s.core 0).cr .L 0x010).toNat = 1
      ∧ cswHall ((s.core 0).cr .L 0x00C) = .L ∧ cswStair ((s.core 0).cr .L 0x00C) = 2
      ∧ cswHall ((p.core 0).cr .L 0x00C) = .P ∧ p.flag F.PWR_HALLPCTL_ENABLE = false
      ∧ (withRegs p [(F.PWR_HALLPCTL_ENABLE, 1)]).flag F.PWR_HALLPCTL_ENABLE = true ∧ ((live.core 0).cr .L 0x010).toNat = 0 := by decide +kernel

/-- EretRestoresTheFrame: a frame in DRAM, and a stack pointer that is misaligned. -/
theorem test_hyp_eret :
    let s := withMem (withW [(31, 0x1000)]) 0x1000 (List.replicate 48 0)
    s.ready 0 = true ∧ s.wired = true ∧ (s.core 0).tpend = false ∧ (s.core 0).stair < 2 ∧ ((s.core 0).spOf .L 0).toNat % 16 = 0
      ∧ (loadBytes s 0 (s.core 0).ctx 0x1000 48 4096 .read).2 = .inr (List.replicate 48 0)
      ∧ (((withW [(31, 0x1008)]).core 0).spOf .L 0).toNat % 16 ≠ 0 := by decide +kernel

/-- ExceptionEntryBuildsTheFrame: the frame and the first instruction of the handler are accessible. -/
theorem test_hyp_exception_entry :
    let s := withCore fun q => (q.setCr .L 0 0x2000#48).setCr .L 0x080 0x4000#48
    let e := Exc.plain 0x10 0 1023
    s.wired = true ∧ e.vec < 0x31 ∧ ((s.core 0).spOf .L 0).toNat % 16 = 0
      ∧ (match checkAccess (endHold s 0 5) 0 ⟨.L, 0, 0, false, false⟩ (0x2000 - 48) 48 4096 .write false with
        | (u, .inr ps) => (match checkAccess u 0 ⟨.L, 0, 0, false, false⟩ (0x4000 + 64 * 16) 4 4096 .fetch false with
          | (v, .inr vps) => decide ((writeParts v 0 ⟨.L, 0, 0, false, false⟩ ps (List.replicate 48 0)).poison (partsPa vps) 4 = none)
          | _ => false)
        | _ => false) = true := by decide +kernel

/-- EventsAreEnteredInOrder: each event due, an interrupt, and nothing due with an encoding that no row has or a fetch that faults. -/
theorem test_hyp_events :
    (withCore fun q => { q with due := ⟨[⟨2, 10, none⟩], true, true, true⟩ }).canRun 0 = true
    ∧ ((withCore fun q => { q with due := ⟨[], false, false, true⟩ }).core 0).due.hallPStop = true
    ∧ (let s := withRegs { withCore (fun q => { q with csw := 0 }) with bel := { live.bel with pend := [[15], [], [], []] } }
          [(F.BEL_SRC_LEVEL.ix 15, 3), (F.BEL_SRC_CORES.ix 15, 1)];
        s.canRun 0 = true ∧ (s.core 0).due = Due.none ∧ s.nextInterrupt 0 = some 15)
    ∧ live.canRun 0 = true ∧ (live.core 0).hold = none ∧ (live.core 0).tpend = false ∧ live.dueEvent 0 = none ∧ (live.core 0).jobWait = false
    ∧ gateKeep live 0 0x3F = none
    ∧ (let s := withCore fun q => { q with pc := 0x40000000#48 };
        (match (checkAccess s 0 (s.core 0).ctx 0x40000000 4 4096 .fetch false).2 with | .inl _ => true | _ => false) = true) := by decide +kernel

/-- AbsentUnitsRaiseUnitAbsent: a variant without the decimal and floating-point units. -/
theorem test_hyp_unit_absent : let s : State := { live with variant := .b2 }
    s.ready 0 = true ∧ (s.core 0).tpend = false ∧ Variant.hasDsc s.variant = false := by decide +kernel

/-- StepTakesTheFrontCommand, IdleStepAdvancesTheTimebase, EveryStepKeepsWiredBits. -/
theorem test_hyp_steps : live.pending = [] ∧ live.pwr.aonUp = true ∧ live.pwr.tsrc32 = false ∧ State.reset.pwr.aonUp = false
    ∧ ({ live with pwr := { live.pwr with tsrc32 := true, tacc := 63 } } : State).pwr.tacc < 64 := by decide +kernel

/-- A command at the front, and a step from reset that answers next. -/
theorem test_hyp_front : ∃ (s : State) (c : Instr) (rest : List Instr), s.pending = c :: rest := ⟨{ live with pending := [.nop 0 0] }, .nop 0 0, [], rfl⟩
theorem test_hyp_step_next : ∃ t, step State.reset = .next t := ⟨_, rfl⟩

/-! ### Witnesses: decimal, strings and floating point -/

/-- DecimalFieldsAreReplaced: the largest field and the smallest, valid operands, a divisor of zero, an invalid digit, a scale of each sign. -/
theorem test_hyp_decimal :
    let s := withMem (withMem (withW [(1, 0x1000), (2, 0x2000), (3, 0x21)]) 0x1000 (List.replicate 31 0x99 ++ [0x9D])) 0x2000 [0x2C]
    s.ready 0 = true ∧ s.wired = true ∧ Variant.hasDsc s.variant = true ∧ (s.core 0).tpend = false ∧ s.sbRoom 0 2 = true
      ∧ s.quietDram 0 ((s.core 0).rd 1) 32 = true ∧ s.quietDram 0 ((s.core 0).rd 2) 1 = true
      ∧ PackedIs (nibbleOf (s.bytes 0x1000 32)) 32 (-(10 ^ 63 - 1)) ∧ PackedIs (nibbleOf (s.bytes 0x2000 1)) 1 2
      ∧ (0 : Fin 32) < 31 ∧ (BitVec.ofNat 6 ((s.core 0).rd 3).toNat).toInt = -31
      ∧ PackedIs (nibbleOf [0x0D]) 1 0 ∧ badNibble (nibbleOf [0xAC]) 1 0 ∧ badNibble (nibbleOf [0x15]) 1 1 ∧ ¬ badNibble (nibbleOf [0x15]) 1 0 := by
  decide +kernel

/-- DecimalConversionsAndAccumulators: a packed and a zoned source, a destination, pairs, accumulators as after reset. -/
theorem test_hyp_conversions :
    let s := withMem (withMem (withW [(2, 0x1000), (4, 0x2000)]) 0x1000 [0x2D, 0x31, 0x39]) 0x2000 [0x12, 0x3B]
    s.ready 0 = true ∧ s.wired = true ∧ Variant.hasDsc s.variant = true ∧ s.plainDram 0 ((s.core 0).rd 2) 32 = true ∧ s.sbRoom 0 2 = true
      ∧ s.quietDram 0 ((s.core 0).rd 2) 3 = true ∧ ZonedIs (s.bytes 0x1000 3) (-19) ∧ s.quietDram 0 ((s.core 0).rd 4) 2 = true
      ∧ PackedIs (nibbleOf (s.bytes 0x2000 2)) 2 (-123) ∧ pairOk 2 = true ∧ pairOk 3 = false
      ∧ PackedIs (nibbleAcc (s.core 0).da[(7 : Fin 8)]) 16 0 ∧ (s.core 0).tpend = false := by decide +kernel

/-- EditsAndStrings: an edit of two digits whose output fits; strings of 2,048 bytes and of one unit; a length of zero; a byte found and none. -/
theorem test_hyp_edit :
    let s := withMem (withMem (withW [(1, 0x3000), (2, 0x2000), (3, 0x1000), (4, 0x2001)]) 0x1000 [1, 2]) 0x2000 [0x01, 0x2C]
    let gs := segments (parsePattern 2 (s.bytes 0x1000 2))
    let r := editAll 0x20 gs (s.bytes 0x2000 2) ⟨[], none, false, false⟩
    s.ready 0 = true ∧ s.wired = true ∧ Variant.hasDsc s.variant = true ∧ ((s.core 0).rd 4).toNat % 256 + 1 = 2 ∧ (gs.map fieldLen).sum = 2
      ∧ s.quietDram 0 ((s.core 0).rd 3) 2 = true ∧ s.quietDram 0 ((s.core 0).rd 2) 2 = true ∧ s.plainDram 0 ((s.core 0).rd 1) r.out.length = true
      ∧ scanFields 0 gs (s.bytes 0x2000 2) = none ∧ scanFields 0 gs [0x0A, 0x2C] = some (1, 0) ∧ r.out = [0x31, 0x32] := by decide +kernel
theorem test_hyp_strings :
    let s := withMem (withW [(1, 0x3001), (2, 0x3000), (3, 2048), (4, 0x1000), (5, 7 * 2 ^ 24)]) 0x3000 [1, 2]
    s.ready 0 = true ∧ s.wired = true ∧ Variant.hasDsc s.variant = true ∧ s.sbRoom 0 10 = true ∧ ((s.core 0).rd 3).toNat % 2 ^ 24 = 2048
      ∧ ((s.core 0).rd 5).toNat % 2 ^ 24 = 0 ∧ min 2048 (256 - 0x3001 % 256) = 255 ∧ (0x3001 + (2048 - 1)) % 256 + 1 = 1
      ∧ s.plainDram 0 ((s.core 0).rd 1) 2048 = true ∧ s.quietDram 0 ((s.core 0).rd 2) 2048 = true ∧ s.quietDram 0 ((s.core 0).rd 4) 256 = true
      ∧ s.byte 0x3000 ≠ s.byte 0x3001 ∧ s.byte 0x3000 = s.byte 0x3000 := by decide +kernel
theorem test_hyp_scans :
    let s := withMem (withMem (withW [(2, 0x3000), (3, 2), (4, 0x1000)]) 0x3000 [1, 2]) 0x1000 (List.replicate 256 0 |>.set 2 9)
    s.ready 0 = true ∧ s.wired = true ∧ s.quietDram 0 ((s.core 0).rd 2) 2 = true ∧ s.quietDram 0 ((s.core 0).rd 4) 256 = true
      ∧ s.byte (0x1000 + (s.byte 0x3000).toNat) = 0 ∧ s.byte (0x1000 + (s.byte 0x3001).toNat) ≠ 0
      ∧ (s.byte (0x1000 + (s.byte 0x3000).toNat / 8)).getLsbD 1 = false := by decide +kernel

/-- FloatingPointArithmetic, FloatingPointMovesAndStatus: both subnormal modes with a subnormal input and without; a pending trap; aligned and misaligned
loads. -/
theorem test_hyp_float :
    let s := withCore fun q => { q with f := q.f.set 1 1#64, fcsw := 0x100000#48 }
    let u := withCore fun q => { q with f := q.f.set 1 1#64 }
    let p := withCore fun q => { q with fcsw := 0x200000#48, fta := 0x1001#48, fpNew := 16, ftaOp := 0x18 }
    s.ready 0 = true ∧ s.wired = true ∧ Variant.hasDsc s.variant = true ∧ (s.core 0).fcsw.getLsbD 20 = true
      ∧ binary64.subnormal ((s.core 0).f[(1 : RegNo)].toNat % 2 ^ 64) = true ∧ u.ready 0 = true ∧ u.wired = true ∧ (u.core 0).fcsw.getLsbD 20 = false
      ∧ (u.core 0).tpend = false ∧ binary64.subnormal ((u.core 0).f[(2 : RegNo)].toNat % 2 ^ 64) = false
      ∧ p.ready 0 = true ∧ p.wired = true ∧ (p.core 0).tpend = true
      ∧ (4 : Nat) ≤ 4 ∧ binary32.finite 0x7F7FFFFF ∧ binary32.subnormal 0x7F7FFFFF = false ∧ binary64.finite 0x0010000000000000
      ∧ binary64.isNan 0x7FF0000000000001 = true ∧ binary64.isSignalling 0x7FF0000000000001 = true ∧ binary32.isInf 0xFF800000 = true
      ∧ binary32.isZero 0x80000000 = true := by decide +kernel
theorem test_hyp_float_memory : let s := withW [(1, 0x1008), (2, 0x1004)]
    s.ready 0 = true ∧ s.wired = true ∧ (s.core 0).tpend = false ∧ s.quietDram 0 ((s.core 0).rd 1) 8 = true ∧ s.sbRoom 0 2 = true
      ∧ ((s.core 0).rd 1).toNat % 8 = 0 ∧ ((s.core 0).rd 2).toNat % 8 ≠ 0 ∧ ((s.core 0).rd 2).toNat % 4 = 0 := by decide +kernel
/-- The numbers of FpResultsAreCorrectlyRounded: a positive one, a result that is neither tiny nor beyond the format. -/
theorem test_hyp_rounding : binary32.value 0x3F800000 = 1 ∧ (binary32.add 0 (binary32.decode 0x3F800000) (binary32.decode 0x3F800000)).sub = false
    ∧ (binary32.add 0 (binary32.decode 0x3F800000) (binary32.decode 0x3F800000)).flags &&& 4 = 0 := by
  refine ⟨?_, by decide +kernel, by decide +kernel⟩
  norm_num [Fmt.value, Fmt.sign, Fmt.expField, Fmt.fracField, Fmt.width, Fmt.bias, binary32, Nat.testBit]
  decide

/-! ### Witnesses: Gallery, latch channels, charger -/

/-- The Gallery running, with ACC as given. -/
def galRun (acc : Bool) : State := { live with gal := { live.gal with run := true, acc := acc, queue := [3] } }

/-- A pulse on channel 0, in a phase. -/
def aPulse (ph : PulsePhase) (gal : Bool) : Pulse :=
  ⟨0, 0, gal, 100, 50, 10, 10, 1, 1, 1, false, ph, false, false, false, false, false, false, none, 0, 0, 0⟩
def pulsing (ph : PulsePhase) (gal : Bool) : State := { live with latch := live.latch.set (0 : Fin 4) ⟨some (aPulse ph gal), 0, none⟩ }

/-- GalleryRunsItsPrograms: a running engine with ACC 0 and 1; channels free, in pulse and absent; the device asleep; the queue with room and full; a bell. -/
theorem test_hyp_gallery :
    let s := galRun true
    let b := withRegs s [(F.BEL_SRC_LEVEL.ix 95, 3), (F.BEL_SRC_CORES.ix 95, 1)]
    s.wired = true ∧ s.gal.run = true ∧ s.gal.acc = true ∧ (galRun false).gal.acc = false ∧ 3 < Variant.latches s.variant ∧ s.pulse 3 = none
      ∧ s.atLoc (· == .latch 3) = false ∧ ({ pulsing .hold true with gal := s.gal } : State).pulse 0 = some (aPulse .hold true)
      ∧ Variant.latches .b2 ≤ 3 ∧ s.pwr.cis = .awake ∧ (withRegs s [(F.PWR_WAKEEN_EN, 1)]).get F.PWR_WAKEEN_EN = 1
      ∧ b.belLevel 95 ≠ 0 ∧ b.fenced 8 = false ∧ b.flag (F.BEL_SRC_DELIV.ix 95) = false ∧ (b.belCores 95).testBit 0 = true
      ∧ s.gal.queue.length < 16 ∧ State.reset.pwr.fabricUp = false := by decide +kernel

/-- The engine's commands: flags, START, STOP and SWAP reach their registers; a check under way; a due timer; a sweep of a program that is END alone; a queued
template of no well. -/
theorem test_hyp_gallery_engine :
    let u := live.reached coreL
    let g := galRun false
    let r := g.reached coreL
    let e := { withRegs g [((F.GAL_BANK_WORD.ix 0).ix 0, 0x4C414751), ((F.GAL_BANK_WORD.ix 0).ix 1, 1), ((F.GAL_BANK_WORD.ix 0).ix 128, 0xFC000000)] with
      gal := { g.gal with timers := g.gal.timers.set 63 (.running 0) } }
    live.wired = true ∧ live.reaches coreL F.GAL_FSET_SET.off 0xFFFFFFFF = true ∧ live.reaches coreL F.GAL_FCLR_CLR.off 1 = true
      ∧ live.reaches coreL 0x240100 (1 + 256) = true ∧ u.gal.run = false ∧ u.gal.check = none ∧ g.reaches coreL 0x240100 2 = true
      ∧ g.reaches coreL 0x240100 (4 + 256) = true ∧ r.gal.run = true ∧ r.gal.swapPend = false ∧ r.gal.check = none
      ∧ live.galCheck 0 ≠ none ∧ e.galCheck 0 = none ∧ (∀ o, o < 129 → e.refAbsent o (e.galLong 0 o) = false) ∧ e.galLen 0 = 1
      ∧ e.galLong 0 128 = 0xFC000000 ∧ e.gal.timers.getD 63 .idle = .running 0 ∧ g.gal.queue = [3] ∧ g.pwr.fabricUp = true ∧ g.fenced 5 = false := by
  decide +kernel

/-- LatchChannelsRunPulses: a pulse in each phase, its supply enabled or not, of the Gallery or of a well job, and a job at a free channel. -/
theorem test_hyp_latch :
    let on := withRegs (pulsing .select false) [(F.LCH_CFG_ENABLE.ix 0, 1), (F.LCH_CFG_VWIN.ix 0, 31)]
    let job : Flight := ⟨{ aJob with ckind := 4 }, .latch 0, none⟩
    on.wired = true ∧ on.pulse 0 = some (aPulse .select false) ∧ on.flag (F.LCH_CFG_ENABLE.ix 0) = true ∧ on.get (F.LCH_CFG_VWIN.ix 0) = 31
      ∧ (pulsing .select false).flag (F.LCH_CFG_ENABLE.ix 0) = false ∧ (pulsing .off true).pulse 0 = some (aPulse .off true)
      ∧ (pulsing .pullIn true).pulse 0 = some (aPulse .pullIn true) ∧ (pulsing .hold true).pulse 0 = some (aPulse .hold true)
      ∧ (withFlight (pulsing .off false) job).pump.flight.find? (fun f => f.done.isNone && f.loc == .latch 0) = some job
      ∧ (withFlight live job).pulse 0 = none ∧ (withFlight live job).pwr.fabricUp = true
      ∧ (pulsing .hold true).reachesField coreL (F.LCH_CTL_CANCEL.ix 0) 1 = true ∧ 0 < Variant.latches live.variant := by decide +kernel

/-- The charger in a state, with its windows at reset. -/
def charging (n cause : Nat) (on : Bool) : State := { live with chg := { live.chg with state := n, scause := cause, oncell := on, vbat := 3900, ntc := 500 } }
def aMeas (v n : Nat) : Meas := ⟨BitVec.ofNat _ v, BitVec.ofNat _ 0, BitVec.ofNat _ n⟩

/-- ChargerRuns: each state, measurements at the limits of the chemistry, an NTC code inside its window and outside, VAON from the cell and from the mains. -/
theorem test_hyp_charger :
    let s := withRegs (charging 2 0 false) [(F.CHG_NTC_HOT, 100), (F.CHG_NTC_COLD, 900)]
    let c := withRegs (charging 0 0 false) [(F.CHG_CFG_TIMER, 1), (F.CHG_CFG_TERM, 20)]
    s.wired = true ∧ s.pwr.aonUp = true ∧ s.chg.state = 2 ∧ s.get F.CHG_NTC_HOT < 500 ∧ 500 < s.get F.CHG_NTC_COLD ∧ s.get F.CHG_CFG_CHEM ≤ 2
      ∧ (charging 6 1 false).chg.scause = 1 ∧ (charging 6 2 true).chg.oncell = true ∧ (charging 1 0 false).chg.probes < 2
      ∧ c.reachesField coreL F.CHG_CFG_ENABLE 1 = true ∧ Variant.hasChg c.variant = true ∧ (c.reached coreL).get F.CHG_CFG_ENABLE = 0
      ∧ (let v := putBits (c.readReg coreL F.CHG_CFG_ENABLE.off) 0 0 1;
        1 ≤ bitsOf v 19 16 ∧ bitsOf v 19 16 ≤ 10 ∧ 5 ≤ bitsOf v 12 8 ∧ bitsOf v 12 8 ≤ 20 ∧ bitsOf v 2 1 ≤ 2)
      ∧ (charging 7 0 false).reachesField coreL F.CHG_CTL_CLEARFAULT 1 = true ∧ (charging 7 0 false).chg.state = 7 := by decide +kernel

/-! ### Witnesses: windows, ports, link, memory controllers -/

/-- The ADC, the sequencer and the Pump changed. -/
def withAdc (s : State) (f : Adc → Adc) : State := { s with adc := f s.adc }
def withSeq (s : State) (f : Seq → Seq) : State := { s with seq := f s.seq }
def withPump (s : State) (f : Pump → Pump) : State := { s with pump := f s.pump }
def withPwr (s : State) (f : Pwr → Pwr) : State := { s with pwr := f s.pwr }

/-- WindowsFilterTheirSamples: window 5 enabled, with limits; a tick below LO changes its output from UNKNOWN, one in a settled window does not; each
write of WIN_CFG. -/
theorem test_hyp_windows :
    let s := withRegs live [(F.WIN_CFG_ENABLE.ix 5, 1), (F.WIN_LO_LO.ix 5, 100), (F.WIN_HI_HI.ix 5, 200), (F.WIN_CFG_FILT.ix 5, 0)]
    let t : State := { s with wins := s.wins.set 5 ⟨1, 1, [1]⟩ }
    s.wired = true ∧ s.pwr.aonUp = true ∧ s.winOn 5 = true ∧ s.winSample 5 0 = 1 ∧ (s.wins.getD 5 Win.unknown).out = 0 ∧ 5 < s.wins.length
      ∧ s.winOn 4 = false ∧ s.winOn 6 = false ∧ s.winOn 7 = false ∧ s.slotsOfWin 5 = [] ∧ s.seq.rel = [] ∧ andNot s.driven s.upSlots = 0
      ∧ t.winSample 5 0 = 1 ∧ t.get (F.WIN_CFG_FILT.ix 5) = 0
      ∧ s.reaches coreL (F.WIN_CFG_ENABLE.ix 5).off 0x201 = true ∧ s.reaches coreL (F.WIN_CFG_ENABLE.ix 15).off 0xE00 = true
      ∧ s.reaches coreL (F.WIN_CFG_ENABLE.ix 5).off 1 = true ∧ Variant.win (s.reached coreL).variant 15 = true
      ∧ (s.reached coreL).get (F.WIN_CFG_FILT.ix 5) = bitsOf 1 11 8 := by decide +kernel

/-- AdcScansAndTakesSnapshots: START, STOP, SNAP with a slot and without; a pass that waits; samples left, and the last entry; a snapshot that runs. -/
theorem test_hyp_adc :
    let s := withRegs live [(F.ADC_ENTRY_CHAN.ix 0, 31), (F.ADC_ENTRY_CHAN.ix 1, 3), (F.ADC_CTL_LAST, 1)]
    let w := withAdc s fun q => { q with run := true, waitPass := true }
    let r := withAdc s fun q => { q with run := true, waitPass := false, entry := 1, left := 1 }
    let n := withAdc s fun q => { q with snaps := [⟨7, 2, 0, 0, [0, 0, 0], 0, false⟩] }
    s.wired = true ∧ s.reachesField coreL F.ADC_CTL_START 1 = true ∧ s.reachesField coreL F.ADC_CTL_STOP 1 = true
      ∧ s.reachesField coreL F.ADC_CTL_SNAP 1 = true ∧ bitsOf (putBits (s.readReg coreL F.ADC_CTL_START.off) 0 0 1) 11 8 = 1
      ∧ (s.reached coreL).get (F.ADC_ENTRY_CHAN.ix 0) = 31 ∧ (s.reached coreL).get (F.ADC_ENTRY_CHAN.ix 1) = 3
      ∧ w.adc.run = true ∧ w.adc.waitPass = true ∧ w.get F.ADC_CTL_LAST = 1
      ∧ s.reachesField coreL F.ADC_RDIDX_IDX 63 = true ∧ r.adc.run = true ∧ r.adc.waitPass = false ∧ r.adc.snaps = [] ∧ r.pwr.cis = .awake ∧ r.adc.left ≤ 1
      ∧ 1 < ({ r with adc := { r.adc with left := 2 } } : State).adc.left ∧ ¬ (r.adc.entry + 1 ≤ r.get F.ADC_CTL_LAST)
      ∧ n.adc.snaps = [⟨7, 2, 0, 0, [0, 0, 0], 0, false⟩] ∧ (withPwr n fun p => { p with osc24 := true }).pwr.osc24 = true
      ∧ s.reaches coreL F.ADC_SNAPSTAT_VALID.off 0xFF = true ∧ (snapSlot 7 + 512) ≤ snapSlot 0 + 4096 := by decide +kernel

/-- UartsMoveFrames: FIFOs with room and full, enabled and not; a frame on the wire; a pop of none and of all. -/
theorem test_hyp_uarts :
    let s := withRegs live [(F.UART_CTL_ENABLE.ix 3, 1)]
    let full : State := { s with uarts := s.uarts.set 3 ⟨List.replicate 64 0, List.replicate 64 0, true, false, false⟩ }
    s.wired = true ∧ s.reaches coreL (F.UART_TXDATA_DATA.ix 3).off 0x1FF = true ∧ ((s.reached coreL).uart 3).tx.length < 64
      ∧ full.reaches coreL (F.UART_TXDATA_DATA.ix 3).off 0 = true ∧ 64 ≤ ((full.reached coreL).uart 3).tx.length
      ∧ s.reaches coreL (F.UART_RXPOP_COUNT.ix 3).off 64 = true ∧ s.reaches coreL (F.UART_RXPOP_COUNT.ix 0).off 0 = true
      ∧ s.pwr.aonUp = true ∧ s.flag (F.UART_CTL_ENABLE.ix 3) = true ∧ (s.uart 3).de = false ∧ (s.uart 3).rx.length < 64 ∧ 64 ≤ (full.uart 3).rx.length
      ∧ (full.uart 3).sending = true := by decide +kernel

/-- I2cRunsTransfers: GO with lengths 0 and 32 on a free port, and on one that is busy; RECOVER; a transfer that ends. -/
theorem test_hyp_i2c :
    let x : I2cXfer := ⟨false, [0xA0], 32, []⟩
    let b : State := { live with i2c := live.i2c.set 0 (some x) }
    live.wired = true ∧ live.i2c.length = 2 ∧ live.xfer 1 = none ∧ (live.reached coreL).seqOwnsI2c = false ∧ (live.reached coreL).boundAway coreL 1 1 = false
      ∧ live.reaches coreL (F.I2C_CMD_GO.ix 1).off (2 ^ 31 + 0x50 * 2 ^ 16 + 32 * 256 + 32) = true
      ∧ live.reaches coreL (F.I2C_CMD_GO.ix 0).off (2 ^ 31) = true ∧ b.reaches coreL (F.I2C_CMD_GO.ix 0).off (2 ^ 31) = true
      ∧ ((b.reached coreL).xfer 0).isSome = true ∧ live.reachesField coreL (F.I2C_CMD_RECOVER.ix 0) 1 = true
      ∧ (let w := putBits (live.readReg coreL (F.I2C_CMD_RECOVER.ix 0).off) 30 30 1; bitsOf w 13 8 ≤ 32 ∧ bitsOf w 5 0 ≤ 32)
      ∧ b.pwr.aonUp = true ∧ b.i2c.length = 2 ∧ b.xfer 0 = some x ∧ x.seqr = false ∧ b.flt.revoking = [] := by decide +kernel

/-- PinsClocksAndWatchdogs: an input of a supplied bank, with an edge selected and enabled; clocks and watchdogs. -/
theorem test_hyp_pins :
    let s := withRegs live [(F.GPIO_EDGECFG_SEL.ix 3, 2 ^ 30), (F.GPIO_EDGEEN_MASK.ix 1, 2 ^ 31), (F.TMB_RTCCTL_ALMEN, 1)]
    s.wired = true ∧ s.pwr.aonUp = true ∧ (s.get (F.GPIO_DIR_MASK.ix 1)).testBit 31 = false ∧ s.bankUp.getD 5 true = true
      ∧ (s.get (F.GPIO_IN_MASK.ix 1)).testBit 31 ≠ true ∧ (bitsOf (s.get (F.GPIO_EDGECFG_SEL.ix 3)) 31 30).testBit 0 = true
      ∧ (s.get (F.GPIO_EDGEEN_MASK.ix 1)).testBit 31 = true ∧ s.reaches coreL F.TMB_RTCSEC_SEC.off 0xFFFFFFFF = true ∧ s.get F.TMB_RTCCTL_ALMEN = 1
      ∧ s.srcLive coreL = true ∧ linked.srcLive .host = true ∧ s.reaches coreL F.TMB_WDLCFG_PERIOD.off (2 ^ 31 + 1) = true
      ∧ s.reaches coreL F.TMB_WDLCFG_PERIOD.off 0xFFFF = true ∧ (s.reached coreL).get F.TMB_WDLCFG_ENABLE = 0
      ∧ s.reaches coreL F.TMB_WDPCFG_PERIOD.off (2 ^ 31 + 1) = true ∧ s.reaches coreL F.TMB_WDDCFG_PERIOD.off (2 ^ 31 + 2 ^ 25 + 2 ^ 16 + 1) = true
      ∧ (s.reached coreL).get F.TMB_WDDCFG_ENABLE = 0 := by decide +kernel

/-- LinkFollowsTheHost: the link up and down, in D0 and D3hot, with ASPM; PME from a held request and from a core. -/
theorem test_hyp_link :
    let s : State := { linked with link := { linked.link with aspm := true, lp := 0, dState := 0 } }
    let d : State := { linked with link := { linked.link with dState := 3, pmeEn := true, msixWait := [0], msix := true } }
    s.wired = true ∧ s.pwr.aonUp = true ∧ s.link.up = true ∧ s.link.perst = false ∧ s.locksOf (fun o => o.1 == 0) = [] ∧ s.link.dState ≠ 3
      ∧ d.link.dState ≠ 0 ∧ s.link.aspm = true ∧ s.link.lp = 0 ∧ d.hostHeld = true ∧ d.link.pmeEn = true
      ∧ d.reachesField (.core 0 .L) F.HLK_PME_PME 1 = true ∧ (d.reached (.core 0 .L)).link.pmeEn = true := by decide +kernel

/-- FailedHostRequestsAreReported: a free core; the journal and lane 3 with a job; well 5 enabled, with requests to the host. -/
theorem test_hyp_host_fails :
    let f (l : Loc) : Flight := ⟨aJob, l, none⟩
    let s := withPump live fun p => { p with flight := [f .journal, f (.copy 3)] }
    s.wired = true ∧ s.pwr.fabricUp = true ∧ s.coreFree 3 = false ∧ s.coreFree 0 = true ∧ s.pump.flight.find? (fun g => g.done.isNone && g.loc == .journal) = some (f .journal)
      ∧ s.pump.flight.find? (fun g => g.done.isNone && g.loc == .copy 3) = some (f (.copy 3))
      ∧ (s.get (F.FLT_BANK_STAT_VALID.ix 6) = 0) := by decide +kernel

/-- DramIsTrainedAndScrubbed: a code within 40 °C of the last training, and one far off; RETRAIN; a scrub. -/
theorem test_hyp_dram_training :
    let s := withRegs live [(F.MEM_CFG_ECC, 1), (F.MEM_SCRUB_PERIOD, 1), (F.MEM_TRAINTEMP_TEMP, 1000)]
    s.wired = true ∧ s.pwr.fabricUp = true ∧ s.dram.trained = true ∧ s.dram.selfRef = false ∧ s.get F.MEM_TRAINTEMP_TEMP = 1000
      ∧ ¬ 4000 < 15 * (1266 - 1000 + (1000 - 1266)) ∧ 4000 < 15 * (1267 - 1000 + (1000 - 1267))
      ∧ s.reachesField coreL F.MEM_CTL_RETRAIN 1 = true ∧ (s.reached coreL).dram.trained = true ∧ s.get F.MEM_CFG_ECC = 1
      ∧ s.get F.MEM_SCRUB_PERIOD ≠ 0 ∧ 0 < s.installed ∧ (withPwr s fun p => { p with osc24 := true }).pwr.osc24 = true := by decide +kernel

/-- FlashCommandsRun: GO while idle; a read of 256 bytes, WREN, PP at the end of the flash, and another opcode. -/
theorem test_hyp_flash :
    let s (cmd addr : Nat) : State := { live with flashCmd := some ⟨cmd, addr, List.replicate 256 0⟩ }
    let wren := live.get F.FSP_OPC_WREN
    let pp := live.get F.FSP_OPC_PP
    live.wired = true ∧ live.reaches coreL F.FSP_CMD_GO.off (2 ^ 31 + 256 * 2 ^ 16 + pp) = true ∧ (live.reached coreL).get F.FSP_CMDSTAT_BUSY = 0
      ∧ (s (2 ^ 28 + 256 * 2 ^ 16) 0).flashCmd = some ⟨2 ^ 28 + 256 * 2 ^ 16, 0, List.replicate 256 0⟩ ∧ (2 ^ 28 + 256 * 2 ^ 16).testBit 28 = true
      ∧ bitsOf (2 ^ 28 + 256 * 2 ^ 16) 24 16 = 256 ∧ wren.testBit 28 = false ∧ wren % 256 = wren ∧ pp ≠ wren ∧ pp % 256 = pp
      ∧ (2 ^ 29 + pp).testBit 29 = true ∧ (2 ^ 29 + 256 * 2 ^ 16 + pp) % 256 = pp ∧ 256 ≤ 2 ^ live.get F.FSP_CFG_SIZE
      ∧ 0xD8 % 256 ≠ wren ∧ 0xD8 % 256 ≠ pp := by decide +kernel

/-! ### Witnesses: resets, stores of settings, start-up, Cistern -/

/-- ResetCoresHoldTheirResetValues, ResetsStopWhatTheyName: resets of the block, of Hall P, of core 1, and its release. -/
theorem test_hyp_resets :
    let r := withRegs live [(F.PWR_CORERST_HOLD, 2)]
    let h := withRegs (live.updCore 0 fun q => { q with csw := 0x4F000#48 }) [(F.PWR_CORERST_HOLD, 0)]
    live.wired = true ∧ live.pwr.aonUp = true ∧ r.reachesField coreL F.PWR_CORERST_HOLD 6 = true
      ∧ ((r.reached coreL).get F.PWR_CORERST_HOLD).testBit 2 = false ∧ setBit 2 2 = 6 ∧ 6 < 2 ^ Variant.cores r.variant
      ∧ r.reachesField coreL F.PWR_CORERST_HOLD 0 = true ∧ clrBit 2 1 = 0 ∧ (r.reached coreL).get F.PWR_CORERST_HOLD = 2 ∧ 1 < Variant.cores r.variant
      ∧ live.reachesField coreL F.PWR_RSTCTL_WARM 1 = true ∧ live.reachesField coreL F.PWR_RSTCTL_HALLP 1 = true
      ∧ h.coreFree 0 = true ∧ (h.core 0).csw.getLsbD 18 = true ∧ live.flashBusy = false
      ∧ (withRegs live [(F.PWR_HALLPCTL_BUSY, 1)]).get F.PWR_HALLPCTL_BUSY = 1 ∧ live.pump.flight = [] ∧ live.flt.revoking = []
      ∧ (∀ c : CoreId, (live.core c).due.hallPStop = false) := by decide +kernel

/-- NonVolatileStoresProgram: words that may and may not be programmed; a program and a store that end. -/
theorem test_hyp_non_volatile :
    let l := withPwr live fun p => { p with lifecycle := 2 }
    let b := withRegs live [(F.ID_OTPSTAT_BUSY, 1)]
    let m := withPwr live fun p => { p with otpBusy := some (0x1FF, 0xFFFFFFFF#32), otp := [(0x14, 1#32)] }
    live.wired = true ∧ live.reaches coreL F.ID_OTPPROG_GO.off (2 ^ 31 + 0x1FF) = true ∧ b.reaches coreL F.ID_OTPPROG_GO.off (2 ^ 31) = true
      ∧ (b.reached coreL).get F.ID_OTPSTAT_BUSY = 1 ∧ (live.reached coreL).get F.ID_OTPSTAT_BUSY = 0 ∧ (live.reached coreL).pwr.lifecycle ≠ 2
      ∧ l.reaches coreL F.ID_OTPPROG_GO.off (2 ^ 31 + 0x14) = true ∧ (l.reached coreL).pwr.lifecycle = 2
      ∧ ¬ (0x14 = 3 ∨ (0x10 ≤ 0x14 ∧ 0x14 ≤ 0x13) ∨ 0x100 ≤ 0x14)
      ∧ m.pwr.aonUp = true ∧ m.pwr.otpBusy = some (0x1FF, 0xFFFFFFFF#32) ∧ sortedKeys m.pwr.otp = true
      ∧ live.reachesField coreL F.CAL_CTL_STORE 1 = true ∧ (live.reached coreL).pwr.calBusy = false ∧ (live.reached coreL).calSeq ≠ some 0xFFFFFFFE
      ∧ (withPwr live fun p => { p with calActive := some 1, bank1 := [(0x1FF4, 0xFE), (0x1FF5, 0xFF), (0x1FF6, 0xFF), (0x1FF7, 0xFF)] }).calSeq = some 0xFFFFFFFE
      ∧ (withPwr live fun p => { p with calBusy := true }).pwr.calBusy = true := by decide +kernel

/-- StartUpReleasesIslandsInOrder: a device in cold reset with empty banks; one ready for its fabric, by each boot source; the host's image, with its
start word. -/
theorem test_hyp_start_up :
    let r := withPwr State.reset fun p => { p with aonUp := true }
    let h := withMem { linked with pwr := { linked.pwr with hostBoot := true } } 0 [0x52]
    State.reset.wired = true ∧ State.reset.pwr.aonUp = false ∧ State.reset.calPick = none ∧ r.fabricReady = true ∧ r.dram.trained = false
      ∧ r.otpWord 3 % 8 ∈ [0, 1, 3] ∧ (r.otpWord 0x14).testBit 0 = false
      ∧ h.pwr.hostBoot = true ∧ h.bar4Usable = true ∧ h.inDram 0xFFFFC4 4 = true ∧ h.hostPoison 0xFFFFC4 4 = false
      ∧ h.hostRefused 0xFFFFC4 4 .write = none ∧ h.byte 0 ≠ 0x51 := by decide +kernel

/-- CisternSleepsAndWakes: entry with a rail to release, and while not ready; wake sources enabled and not, in each phase; a wake that drives a rail; T's
source; a segment that stalls. -/
theorem test_hyp_cistern :
    let rails := withRegs live [(F.PWR_CISRAILS_SLOTS, 1), (F.SEQ_UPMASK_DRIVEN, 1), (F.SEQ_SD_SLOT.ix 0, 0), (F.PWR_WAKEEN_EN, 1)]
    let in' (p : CisPhase) := withPwr rails fun x => { x with cis := p, wakePend := 1 }
    let off := withRegs (in' .asleep) [(F.SEQ_UPMASK_DRIVEN, 0), (F.SEQ_SLOT_CFG_UPSTEP.ix 0, 31)]
    let pg := withSeq (in' .waking) fun q => { q with pg := 1 }
    live.wired = true ∧ live.cisternReady = false ∧ (rails.runEntry ⟨.cistern, rails.get F.PWR_CISRAILS_SLOTS &&& rails.driven, 0, false⟩).isSome = true
      ∧ rails.seq.rel = [] ∧ (rails.get F.PWR_WAKEEN_EN).testBit 5 = false ∧ (rails.get F.PWR_WAKEEN_EN).testBit 0 = true
      ∧ (in' .asleep).pwr.cis = .asleep ∧ (in' .entering).pwr.cis = .entering ∧ (in' .asleep).pwr.wakePend ≠ 0
      ∧ andNot (rails.get F.PWR_CISRAILS_SLOTS) rails.driven = 0 ∧ andNot (off.get F.PWR_CISRAILS_SLOTS &&& off.driven) off.seq.pg = 0
      ∧ off.cisStep = some 31 ∧ pg.pwr.cis = .waking ∧ andNot (pg.get F.PWR_CISRAILS_SLOTS) (pg.driven &&& pg.seq.pg) = 0
      ∧ (withPwr live fun p => { p with tsrc32 := true, osc24 := true }).pwr.cis = .awake
      ∧ live.segPresent 12 = true ∧ live.fenced 12 = false ∧ live.segPresent 13 = false ∧ live.lowestFree 15 = some 0 := by decide +kernel

/-- CISTERN_ENTRY is ready. -/
theorem test_hyp_cistern_ready : ∃ s : State, s.wired = true ∧ s.cisternReady = true ∧ s.seq.rel = []
    ∧ (s.runEntry ⟨.cistern, s.get F.PWR_CISRAILS_SLOTS &&& s.driven, 0, false⟩).isSome = true := by
  refine ⟨withRegs ({ live with cores := live.cores.map fun q => { q with asleep := true } }) [(F.PWR_CISRAILS_SLOTS, 1), (F.SEQ_UPMASK_DRIVEN, 1), (F.SEQ_SD_SLOT.ix 0, 0),
    (F.PWR_WAKEEN_EN, 1), (F.PWR_CISCTL_ALLOW, 1)], ?_⟩
  decide +kernel

/-! ### Witnesses: the sequencer -/

/-- Slot 0 alone in use, at up-step 2, driven or not, up or not. -/
def slotted (driven up : Nat) : State :=
  withRegs live [(F.SEQ_SLOT_CFG_USE.ix 1, 0), (F.SEQ_SLOT_CFG_USE.ix 2, 0), (F.SEQ_SLOT_CFG_USE.ix 3, 0), (F.SEQ_SLOT_CFG_UPSTEP.ix 0, 2),
    (F.SEQ_UPMASK_DRIVEN, driven), (F.SEQ_UPMASK_UP, up)]

/-- PowerUpRunsDriveTheirSteps: GO with a bad table, with a slot to drive and with none; steps that end; power-good gained and lost; a ramp that fails. -/
theorem test_hyp_power_up_runs :
    let s := slotted 0 0
    let b := withRegs s [(F.SEQ_SLOT_DEP_DEP.ix 0, 2)]
    let r := withRegs (withSeq (slotted 1 0) fun q => { q with state := .up, step := 2, ramping := 1 }) [(F.SEQ_SLOT_CFG_FAULTACT.ix 0, 2)]
    let e := withSeq (slotted 0 0) fun q => { q with state := .up, step := 0, stepDone := true }
    let l := withSeq (slotted 1 1) fun q => { q with state := .up, step := 2, stepDone := true }
    let p := withRegs l [(F.SEQ_SLOT_CFG_DROPCHK.ix 0, 1), (F.SEQ_SLOT_CFG_PGEN.ix 0, 1), (F.SEQ_SLOT_CFG_FAULTACT.ix 0, 3)]
    s.wired = true ∧ s.reachesField coreL F.SEQ_STEPCTL_GO 1 = true ∧ bitsOf (putBits (s.readReg coreL F.SEQ_STEPCTL_GO.off) 0 0 1) 23 16 ≤ 100
      ∧ s.seq.state = .off ∧ b.reachesField coreL F.SEQ_STEPCTL_GO 1 = true ∧ (b.reached coreL).badTable = true ∧ (s.reached coreL).badTable = false
      ∧ (s.reached coreL).kPart = false ∧ (∀ m < Variant.slots s.variant, (s.reached coreL).margin m = 0)
      ∧ (s.reached coreL).slotsThat (fun m => (s.reached coreL).inUse m && (s.reached coreL).get (F.SEQ_SLOT_CFG_UPSTEP.ix m) == 2 && !bit (s.reached coreL).upSlots m) ≠ 0
      ∧ e.seq.stepDone = true ∧ e.kPart = false ∧ e.stepSlots 2 ≠ 0 ∧ e.stepSlots 1 = 0 ∧ (∀ j < 35, 2 < j → l.stepSlots j = 0)
      ∧ s.pwr.aonUp = true ∧ r.seq.ramping.testBit 0 = true ∧ 2 ≤ r.get (F.SEQ_SLOT_CFG_FAULTACT.ix 0) ∧ r.kPart = false ∧ r.seq.rel = []
      ∧ p.upSlots.testBit 0 = true ∧ p.flag (F.SEQ_SLOT_CFG_DROPCHK.ix 0) = true ∧ p.flag (F.SEQ_SLOT_CFG_PGEN.ix 0) = true
      ∧ 2 ≤ p.get (F.SEQ_SLOT_CFG_FAULTACT.ix 0) ∧ p.seq.rel = [] := by decide +kernel

/-- ShutdownRunsReleaseTheirSlots: DOWN with a slot driven and with none; a run that releases, waits, times out and goes on; restart, and mains back. -/
theorem test_hyp_shutdown_runs :
    let s := withRegs (slotted 3 2) [(F.SEQ_SD_SLOT.ix 0, 0), (F.SEQ_SD_WAITLOW.ix 0, 1), (F.SEQ_SD_SLOT.ix 1, 1), (F.SEQ_SLOT_CFG_PGEN.ix 0, 1)]
    let o := slotted 0 0
    let r : RelRun := ⟨.down, 3, 0, false⟩
    let run := withSeq s fun q => { q with state := .down, rel := [r], pg := 1 }
    let w : RelRun := ⟨.down, 3, 0, true⟩
    let wait := withSeq s fun q => { q with state := .down, rel := [w], pg := 1 }
    s.wired = true ∧ s.reachesField coreL F.SEQ_STEPCTL_DOWN 1 = true ∧ bitsOf (putBits (s.readReg coreL F.SEQ_STEPCTL_DOWN.off) 1 1 1) 23 16 ≤ 100
      ∧ (s.reached coreL).seq.state = .off ∧ (s.reached coreL).pwr.cis ≠ .entering ∧ ((s.reached coreL).runEntry ⟨.down, 3, 0, false⟩).isSome = true
      ∧ (o.reached coreL).driven = 0 ∧ (o.reached coreL).upSlots = 0 ∧ o.reachesField coreL F.SEQ_STEPCTL_DOWN 1 = true
      ∧ run.seq.rel = [r] ∧ run.runEntry r = some 0 ∧ 2 ^ run.sdSlot 0 &&& run.pwr.fabricRails = 0 ∧ run.flag (F.SEQ_SD_WAITLOW.ix 0) = true
      ∧ run.slotLow 0 = false ∧ wait.seq.rel = [w] ∧ (wait.runEntry { w with idx := w.idx + 1, wait := false }).isSome = true ∧ wait.sdSlot w.idx = 0
      ∧ wait.upSlots.testBit 0 = false ∧ wait.flag (F.SEQ_SLOT_CFG_WINCHK.ix 0) = false ∧ wait.pwr.aonUp = true
      ∧ (withSeq live fun q => { q with state := .restart, rel := [] }).seq.state = .restart
      ∧ ({ withSeq live (fun q => { q with state := .collapsed }) with wins := live.wins.set 15 ⟨2, 2, []⟩ } : State).winOut 15 = 2 := by decide +kernel

/-- MarginsAndTempoMoveSupplies: a refused margin, one through a DAC, one for PMBus, at both ends; tempo samples that count, rise and fall. -/
theorem test_hyp_margins :
    let s := withRegs (slotted 1 1) [(F.SEQ_SLOT_MCFG_METHOD.ix 0, 2)]
    let p := withRegs s [(F.SEQ_SLOT_MCFG_METHOD.ix 0, 1)]
    let t := withSeq (withRegs (slotted 2 2) [(F.SEQ_TEMPOCTL_ENABLE, 1), (F.SEQ_TEMPOCTL_SLOT, 1), (F.SEQ_TEMPOUP_UP, 0), (F.SEQ_TEMPOTIM_UPN, 1),
      (F.SEQ_TEMPOCEIL_CEIL, 3), (F.SEQ_TEMPODN_DN, 0), (F.SEQ_TEMPOTIM_DNN, 1), (F.SEQ_TEMPOFLR_FLOOR, 0)]) fun q => { q with state := .on, level := 2 }
    let c := withRegs t [(F.SEQ_TEMPOCEIL_CEIL, 2), (F.SEQ_TEMPOUP_UP, 5)]
    s.wired = true ∧ s.reachesField coreL (F.SEQ_SLOT_MARG_MARGIN.ix 0) (BitVec.ofInt 6 (-20)).toNat = true
      ∧ s.reachesField coreL (F.SEQ_SLOT_MARG_MARGIN.ix 0) 20 = true ∧ (0 : Nat) < Variant.slots s.variant ∧ (s.reached coreL).marginRefusal 0 = none
      ∧ ((slotted 0 0).reached coreL).marginRefusal 0 = some 3 ∧ (slotted 0 0).reachesField coreL (F.SEQ_SLOT_MARG_MARGIN.ix 0) 1 = true
      ∧ (s.reached coreL).get (F.SEQ_SLOT_MCFG_METHOD.ix 0) = 2 ∧ (p.reached coreL).marginRefusal 0 = none
      ∧ p.reachesField coreL (F.SEQ_SLOT_MARG_MARGIN.ix 0) 1 = true
      ∧ t.flag F.SEQ_TEMPOCTL_ENABLE = true ∧ t.seq.settleFrom = none ∧ t.pwr.cis = .awake ∧ t.upSlots.testBit 1 = true ∧ t.get F.SEQ_TEMPOCTL_SLOT = 1
      ∧ t.backlog = 0 ∧ t.get F.SEQ_TEMPOTIM_UPN ≤ t.seq.upCnt + 1 ∧ t.seq.level < t.get F.SEQ_TEMPOCEIL_CEIL
      ∧ c.get F.SEQ_TEMPOTIM_DNN ≤ c.seq.dnCnt + 1 ∧ c.get F.SEQ_TEMPOFLR_FLOOR < c.seq.level
      ∧ (withRegs c [(F.SEQ_TEMPOFLR_FLOOR, 2)]).get F.SEQ_TEMPOFLR_FLOOR = 2 := by decide +kernel

/-- KsyncStepsDevicesTogether: a leader and a follower, steps with and without slots, the last step, an abort. -/
theorem test_hyp_ksync :
    let k := withRegs (slotted 1 0) [(F.SEQ_KCFG_ENABLE, 1), (F.SEQ_SD_SLOT.ix 0, 0), (F.SEQ_KCFG_LAST, 2)]
    let lead := withSeq k fun q => { q with state := .up, klead := true, kReady := true }
    let wait := withSeq k fun q => { q with state := .kwait, step := 2 }
    let strobed := withRegs lead [(F.SEQ_KSTAT_STROBES, 1)]
    k.wired = true ∧ lead.kPart = true ∧ lead.seq.klead = true ∧ lead.seq.kReady = true ∧ lead.pwr.aonUp = true ∧ lead.pwr.cis ≠ .asleep
      ∧ lead.get F.SEQ_KSTAT_STROBES < 32 ∧ wait.seq.state = .kwait ∧ strobed.get F.SEQ_KSTAT_STROBES ≠ 0 ∧ strobed.flag F.SEQ_KSTAT_HOLDING = false
      ∧ strobed.seq.step ≠ strobed.get F.SEQ_KCFG_LAST ∧ (withRegs strobed [(F.SEQ_KCFG_LAST, 0)]).get F.SEQ_KCFG_LAST = strobed.seq.step
      ∧ (withSeq wait fun q => { q with step := 31 }).lastUsedStep ≤ 31 ∧ lead.seq.state ≠ .collapsed ∧ (lead.runEntry ⟨.down, lead.driven, 0, false⟩).isSome = true
      ∧ k.reachesField coreL F.SEQ_STEPCTL_ABORT 1 = true ∧ bitsOf (putBits (k.readReg coreL F.SEQ_STEPCTL_ABORT.off) 2 2 1) 23 16 ≤ 100
      ∧ (k.reached coreL).kPart = true := by decide +kernel

/-! ### Witnesses: wells, rings and engines -/

/-- A context of generation g and kind k with n descriptors posted from index i on, its ring of 16 entries at 0x2000 with EPHASE 1. -/
def aCtx (g k n i : Nat) : WellCtx := ⟨[0xF10000 + k * 2 ^ 8 + g * 2 ^ 5, 0, 4 * 2 ^ 26 + 0x80, 0, i * 2 ^ 16 + (i + n) % 65536, 1, 1000, 0, 0, 0, 0, 0, 0, 0, 0, 0], false⟩

/-- Well 5 with a context, enabled or not; every source's window names it. -/
def welled (c : WellCtx) (on : Bool) : State :=
  withPump (withRegs live [(F.PMP_WTCTL_ON, 1)]) fun p => { p with
    cache := [(5, c)], wells := if on then [(5, ⟨true, false, false, none⟩)] else [], wsel := p.wsel.map fun _ => 5 }

/-- The entry of an index, its header OWN or PHASE bit and stale bit as given. -/
def entryAt (s : State) (n i h : Nat) : State := withMem s (0x2000 + n * i) (leBytes 4 h ++ List.replicate (n - 4) 0)

/-- WellTableLiesInDram: the table on and off. -/
theorem test_hyp_well_table :
    let u := live.reached coreL
    let o := welled (aCtx 3 1 0 0) false
    let far := withRegs live [(F.PMP_WTBASE_BASE, 0x3FFFF)]
    live.wired = true ∧ live.reachesField coreL F.PMP_WTCTL_ON 1 = true ∧ u.flag F.PMP_WTCTL_ON = false
      ∧ u.get F.PMP_WTBASE_BASE * 4096 + 64 * Variant.wells u.variant ≤ u.installed
      ∧ far.reachesField coreL F.PMP_WTCTL_ON 1 = true
      ∧ ¬ (far.get F.PMP_WTBASE_BASE * 4096 + 64 * Variant.wells far.variant ≤ far.installed)
      ∧ o.reachesField coreL F.PMP_WTCTL_ON 0 = true ∧ (o.reached coreL).flag F.PMP_WTCTL_ON = true ∧ (o.reached coreL).pump.wells = []
      ∧ (o.reached coreL).pump.requeued = [] ∧ ((o.reached coreL).pump.cache.map (·.1)).Nodup := by decide +kernel

/-- ContextWindowWritesTheWell: a legal value of every long of well 5, at the bounds of SIZE and LEASE. -/
theorem test_hyp_context_window :
    let s := withPump (welled (aCtx 3 1 0 0) false) fun p => p
    let u := s.reached coreL
    s.wired = true ∧ s.reaches coreL (F.PMP_WCTX_LONG.ix 0).off 0xF10160 = true ∧ s.reaches coreL (F.PMP_WCTX_LONG.ix 15).off 0 = true
      ∧ s.reaches coreL (F.PMP_WCTX_LONG.ix 6).off 100 = true ∧ s.reaches coreL (F.PMP_WCTX_LONG.ix 6).off 10000000 = true
      ∧ u.flag F.PMP_WTCTL_ON = true ∧ u.wsel coreL = 5 ∧ u.pump.cache.find? (·.1 == 5) = some (5, aCtx 3 1 0 0) ∧ u.boundAway coreL 3 5 = false
      ∧ (u.wellOn 5).enable = false ∧ (u.wellOn 5).draining = false ∧ 0xF10160 % 2 = 0 ∧ bitsOf 0xF10160 23 20 = 15 ∧ bitsOf 0xF10160 19 16 ≠ 0
      ∧ andNot (bitsOf 0xF10160 19 16) (2 ^ Variant.cores u.variant - 1) = 0 ∧ bitsOf 0xF10160 6 5 ≠ 0
      ∧ (let w := withRegs u []; lookupKey w.staged (ringKey 5) = none ∧ bitsOf ((aCtx 3 1 0 0).longs.getD 2 0) 30 26 = 4
          ∧ bitsOf ((aCtx 3 1 0 0).longs.getD 2 0) 25 0 % (min (64 * 2 ^ 4) 4096 / 64) = 0) := by decide +kernel

/-- WellsStartAndStop: ENABLE = 1 of a well that passes every check and of one that fails one; ENABLE = 0 of one enabled; a miss. -/
theorem test_hyp_wells :
    let s := welled (aCtx 3 1 0 0) false
    let e := welled (aCtx 3 1 2 0) true
    let b := welled (aCtx 3 0 0 0) false
    s.wired = true ∧ s.reaches coreL F.PMP_WCTX_LONG.off (s.readReg coreL F.PMP_WCTX_LONG.off ||| 1) = true ∧ (s.reached coreL).ctxLegal (aCtx 3 1 0 0) = true
      ∧ (s.reached coreL).enableCause (aCtx 3 1 0 0) = none ∧ (b.reached coreL).enableCause (aCtx 3 0 0 0) = some 1
      ∧ (b.reached coreL).ctxLegal (aCtx 3 0 0 0) = true ∧ b.reaches coreL F.PMP_WCTX_LONG.off (b.readReg coreL F.PMP_WCTX_LONG.off ||| 1) = true
      ∧ e.reaches coreL F.PMP_WCTX_LONG.off (clrBit (e.readReg coreL F.PMP_WCTX_LONG.off) 0) = true ∧ ((e.reached coreL).wellOn 5).enable = true
      ∧ (aCtx 3 1 2 0).longs.getD 0 0 &&& 0x83 = 0 ∧ 5 ∉ (e.reached coreL).pump.epPend
      ∧ s.pumpActs = true ∧ 6 < Variant.wells s.variant ∧ (∀ x ∈ s.pump.cache, x.1 ≠ 6) ∧ s.pump.cache.length < 512 ∧ (s.wellOn 6).enable = false := by
  decide +kernel

/-- DescriptorsAreFetched: entries at CI that are ready, for each generation, and stale ones, at the last read and before. -/
theorem test_hyp_fetch :
    let s1 := welled (aCtx 1 1 1 15) true
    let s2 := entryAt (welled (aCtx 2 1 1 15) true) 64 15 0x100
    let s3 := entryAt (welled (aCtx 3 1 1 65535) true) 64 15 0x100
    let st := entryAt (welled (aCtx 3 1 15 0) true) 64 0 0
    let sp := withPump st fun p => { p with wells := [(5, ⟨true, false, false, some 0⟩)] }
    s1.wired = true ∧ s1.pumpActs = true ∧ s1.flag F.PMP_WTCTL_ON = true ∧ 5 < Variant.wells s1.variant ∧ (s1.wellOn 5).enable = true
      ∧ (s1.wellOn 5).stopped = false ∧ s1.pausedCtx (aCtx 1 1 1 15) = false ∧ 0 < (aCtx 1 1 1 15).posted ∧ 5 ∉ s1.pump.epPend
      ∧ s1.pump.cache.find? (·.1 == 5) = some (5, aCtx 1 1 1 15) ∧ s1.plainFor 0x2000 (32 * 16) = true ∧ (aCtx 1 1 1 15).poll = false
      ∧ (longAt (s2.bytes (0x2000 + 64 * 15) 64) 0).testBit 8 = true ∧ (longAt (s2.bytes (0x2000 + 64 * 15) 64) 0).testBit 9 = false
      ∧ (longAt (s3.bytes (0x2000 + 64 * 15) 64) 0).testBit 8 = true ∧ (aCtx 3 1 1 65535).ephase = 1 ∧ (aCtx 3 1 1 65535).posted = 1
      ∧ (longAt (st.bytes 0x2000 64) 0).testBit 8 = false ∧ (st.wellOn 5).stale = none ∧ (sp.wellOn 5).stale = some 0
      ∧ (withRegs sp [(F.PMP_STALECFG_STALEMAX, 1)]).get F.PMP_STALECFG_STALEMAX ≤ 0 + 1
      ∧ 0 + 1 < (withRegs sp [(F.PMP_STALECFG_STALEMAX, 3)]).get F.PMP_STALECFG_STALEMAX := by decide +kernel

/-- DoorbellsMoveTheProducerIndex: an absent well, one not on, one of Hall L rung by the host, indices within the ring and beyond it; the host's read, also
while a segment is fenced and while the host may not access. -/
theorem test_hyp_doorbells :
    let s := welled (aCtx 3 1 2 65535) true
    let u := s.reached coreL
    let h : State := { s with link := linked.link }
    s.wired = true ∧ s.rings coreL = true ∧ h.rings .host = true ∧ Variant.wells .b2 ≤ 16383 ∧ 5 < Variant.wells u.variant ∧ u.flag F.PMP_WTCTL_ON = true
      ∧ (u.ctx 5).hall = .L ∧ (u.wellOn 5).enable = true ∧ (u.wellOn 6).enable = false ∧ u.pump.cache.find? (·.1 == 5) = some (5, aCtx 3 1 2 65535)
      ∧ (aCtx 3 1 2 65535).posted ≤ (14 + 65536 - 65535) % 65536 ∧ (14 + 65536 - 65535) % 65536 ≤ (aCtx 3 1 2 65535).entries - 1
      ∧ ¬ ((15 + 65536 - 65535) % 65536 ≤ (aCtx 3 1 2 65535).entries - 1) ∧ bitsOf (2 ^ 17) 47 17 ≠ 0
      ∧ h.hostUsable = true ∧ h.fenced 10 = false ∧ h.fenced 5 = false ∧ (withRegs h [(F.FLT_SEGSTAT_FENCED, 2 ^ 5)]).fenced 5 = true
      ∧ s.hostUsable = false := by decide +kernel

/-- KicksFollowThePhases: no entry ready and one ready, at the ring's wrap; a hot well; one that cools. -/
theorem test_hyp_kicks :
    let s := entryAt (entryAt (welled (aCtx 3 1 0 15) true) 64 15 0x100) 64 0 0x100
    let n := entryAt (welled (aCtx 3 1 0 15) true) 64 15 0
    let c := aCtx 3 1 0 15
    let carries (s : State) (i : Nat) : Bool :=
      (if (ofLe (s.bytes (c.base + 64 * ((c.pi + i) % 65536 % c.entries)) 4)).testBit 8 then 1 else 0) == c.phaseAt ((c.pi + i) % 65536)
    let hot := withPump s fun p => { p with hot := [5], coldWait := [6] }
    s.wired = true ∧ s.rings coreL = true ∧ (s.reached coreL).flag F.PMP_WTCTL_ON = true ∧ ((s.reached coreL).wellOn 5).enable = true ∧ c.gen = 3
      ∧ (s.reached coreL).pump.cache.find? (·.1 == 5) = some (5, c) ∧ (s.reached coreL).plainFor c.base (64 * c.entries) = true
      ∧ carries s 0 = true ∧ carries s 1 = false ∧ 1 ≤ c.entries - 1 - c.posted ∧ carries n 0 = false
      ∧ hot.pumpActs = true ∧ hot.pump.hot = [5] ∧ hot.pausedCtx c = false ∧ 0 < c.entries - 1 - c.posted
      ∧ (∀ y ∈ ([] : List Nat), (hot.wellOn y).enable = true) := by decide +kernel

/-- A state with well 5 enabled, and a job of it fetched. -/
def waiting (j : Job) (c : WellCtx) : State :=
  withPump (withRegs (welled c true) [(F.PMP_INLBASEL_ON, 1), (F.PMP_INLBASEL_BASE, 0x100), (F.PMP_CIS_WEIGHT.ix 0, 1)]) fun p => { p with fetched := [j] }

/-- SchedulerDispatchesByDeficit: a fetched job of each consumer, and one whose check failed; nothing eligible. -/
theorem test_hyp_scheduler :
    let job (k : Nat) (st : Option Nat) : Job := { aJob with gen := 3, ckind := k, lch := 3, status := st, inPlace := true, copy := List.replicate 64 0 }
    let ok (s : State) (j : Job) (c : WellCtx) : Bool := s.wired && s.pumpActs && s.activeLevel == some (s.get (F.PMP_CIS_LEVEL.ix 0))
      && !s.pump.arrived.getD (s.get (F.PMP_CIS_LEVEL.ix 0)) false && s.nextCis (s.get (F.PMP_CIS_LEVEL.ix 0)) (s.pump.levelAt.getD (s.get (F.PMP_CIS_LEVEL.ix 0)) 0) == some 1
      && s.nextWell 1 == some 5 && s.mayPin 5 && s.pump.cache.find? (·.1 == 5) == some (5, c) && s.waitingJob 5 == some j
      && decide (j.ndesc ≤ s.get (F.PMP_CIS_DEF.ix 0) + s.get (F.PMP_CIS_WEIGHT.ix 0))
    let s := waiting (job 1 none) (aCtx 3 1 0 1)
    live.activeLevel = none ∧ ok s (job 1 none) (aCtx 3 1 0 1) = true ∧ s.pickCore 15 .L = some 0 ∧ s.freeSlot 0 .L = some 0
      ∧ s.copyAddr 0 .L 0 + 64 ≤ 0x0200000000 ∧ ok (waiting (job 2 none) (aCtx 3 2 0 1)) (job 2 none) (aCtx 3 2 0 1) = true
      ∧ ok (waiting (job 3 none) (aCtx 3 3 0 1)) (job 3 none) (aCtx 3 3 0 1) = true ∧ s.freeLane = some 0
      ∧ ok (waiting (job 1 (some 0x10)) (aCtx 3 1 0 1)) (job 1 (some 0x10)) (aCtx 3 1 0 1) = true := by decide +kernel

/-- CompletionsAreWritten: a finished job with its ring, of 16 and 32 bytes, and one completed in its descriptor; a moderation time that ends. -/
theorem test_hyp_completions :
    let s := withRegs (withPump (welled (aCtx 2 1 0 1) true) fun p => { p with
        flight := [⟨{ aJob with inPlace := false }, .pump, some ⟨0, 1, 2⟩⟩, ⟨{ aJob with inPlace := true }, .pump, some ⟨0, 1, 2⟩⟩] })
      [(F.CQ_CTL_ENABLE.ix 0, 1), (F.CQ_BASELO_BASE.ix 0, 0x100), (F.CQ_CTL_ESIZE.ix 0, 1), (F.CQ_MOD_MTIME.ix 0, 1), (F.CQ_ST_UNN.ix 0, 1)]
    s.wired = true ∧ s.pumpActs = true ∧ (s.writable[0]?).any (fun e => e.1 == 0 && !e.2.job.inPlace) = true
      ∧ (s.writable[1]?).any (fun e => e.1 == 1 && e.2.job.inPlace && e.2.job.ndesc == 1) = true
      ∧ s.flag (F.CQ_CTL_ENABLE.ix aJob.cq) = true ∧ s.flag (F.CQ_CTL_ERR.ix 0) = false ∧ s.plainFor 0x4000 32 = true ∧ s.get (F.CQ_CTL_NKIND.ix 0) = 0
      ∧ s.pausedCtx (s.ctx 5) = false ∧ s.plainFor ((s.ctx 5).slotAddr 0) 64 = true ∧ s.get (F.CQ_MOD_MTIME.ix 0) ≠ 0 ∧ s.get (F.CQ_ST_UNN.ix 0) ≠ 0 := by
  decide +kernel

/-- CompletionRingsAreManaged: the last ring enabled and disabled; an index that fits and one that does not; an inlet area in DRAM and beyond it. -/
theorem test_hyp_rings :
    let e := withRegs live [(F.CQ_CTL_ENABLE.ix 2047, 1), (F.CQ_IDX_PI.ix 2047, 2), (F.CQ_IDX_CI.ix 2047, 65535)]
    let far := withRegs live [(F.PMP_INLBASEL_BASE, 0x3FFFC + 4)]
    live.wired = true ∧ 2047 < Variant.rings live.variant ∧ live.reachesField coreL (F.CQ_CTL_ENABLE.ix 2047) 1 = true
      ∧ (live.reached coreL).flag (F.CQ_CTL_ENABLE.ix 2047) = false ∧ (live.reached coreL).get (F.CQ_CTL_NKIND.ix 2047) ≤ 2
      ∧ e.reachesField coreL (F.CQ_CTL_ENABLE.ix 2047) 0 = true ∧ (e.reached coreL).flag (F.CQ_CTL_ENABLE.ix 2047) = true ∧ (e.reached coreL).cqRsv 2047 = 0
      ∧ (e.reached coreL).pump.wells = [] ∧ e.reachesField coreL (F.CQ_IDX_CI.ix 2047) 2 = true ∧ e.reachesField coreL (F.CQ_IDX_CI.ix 2047) 3 = true
      ∧ (2 + 65536 - 2) % 65536 ≤ (2 + 65536 - 65535) % 65536 ∧ ¬ ((2 + 65536 - 3) % 65536 ≤ (2 + 65536 - 65535) % 65536)
      ∧ live.reachesField coreL F.PMP_INLBASEL_ON 1 = true ∧ far.reachesField coreL F.PMP_INLBASEL_ON 1 = true
      ∧ (live.reached coreL).get F.PMP_INLBASEL_BASE * 4096 + 0x4000 ≤ live.installed ∧ (far.reached coreL).get F.PMP_INLBASEL_BASE % 4 = 0
      ∧ far.installed < (far.reached coreL).get F.PMP_INLBASEL_BASE * 4096 + 0x4000 := by decide +kernel

/-- LeasesExpireAndAreRevoked: no token, a live one and an expired one, whose job may be requeued, at REQMAX, or not at all. -/
theorem test_hyp_leases :
    let fl (e : Bool) : Flight := ⟨aJob, .core 0 .L 7 255 true e, none⟩
    let cmd := 2 ^ 31 + 255 * 2 ^ 8 + 7
    let l := withFlight live (fl false)
    let x := withFlight live (fl true)
    let w := withRegs (withFlight (welled ⟨(aCtx 3 1 0 0).longs.set 0 0xF10168, false⟩ true) (fl true)) [(F.PMP_LEASECFG_REQMAX, 1)]
    live.wired = true ∧ live.pumpActs = true ∧ live.pump.flight.find? (·.inSlot 0 .L 7) = none ∧ l.pump.flight.find? (·.inSlot 0 .L 7) = some (fl false)
      ∧ live.reaches coreL F.PMP_REVOKE_GO.off cmd = true ∧ (live.reached coreL).pump.flight.find? (·.isToken 0 .L 7 255) = none
      ∧ l.reaches coreL F.PMP_REVOKE_GO.off cmd = true ∧ (l.reached coreL).pump.flight.find? (·.isToken 0 .L 7 255) = some (fl false)
      ∧ x.reaches coreL F.PMP_REVOKE_GO.off cmd = true ∧ (x.reached coreL).pump.flight.find? (·.isToken 0 .L 7 255) = some (fl true)
      ∧ ((x.reached coreL).wellOn 5).enable = false ∧ w.reaches coreL F.PMP_REVOKE_GO.off cmd = true ∧ ((w.reached coreL).wellOn 5).enable = true
      ∧ ((w.reached coreL).ctx 5).requeue = true ∧ aJob.requeues < (w.reached coreL).get F.PMP_LEASECFG_REQMAX
      ∧ (w.reached coreL).copyAddr 0 .L 7 + 64 ≤ 0x0200000000
      ∧ (withRegs w [(F.PMP_LEASECFG_REQMAX, 0)]).get F.PMP_LEASECFG_REQMAX ≤ aJob.requeues := by decide +kernel

/-- EpochsArePublishedAndCrossed: one legal entry for well 5; the last well to cross, and one that is not the last. -/
theorem test_hyp_epochs :
    let s := withMem (withRegs live [(F.PMP_EPLBASE_BASE, 1), (F.PMP_EPLCNT_COUNT, 1)]) 4096 (leBytes 8 (5 * 2 ^ 48 + 63))
    let p := withPump (welled (aCtx 3 1 0 0) true) fun p => { p with epPend := [5], epList := [(5, 0, 63)] }
    s.wired = true ∧ s.reachesField coreL F.PMP_EPOCH_GO 1 = true ∧ (s.reached coreL).flag F.PMP_EPOCH_BUSY = false
      ∧ (s.reached coreL).get F.PMP_EPLCNT_COUNT = 1 ∧ (s.reached coreL).plainFor 4096 8 = true ∧ bitsOf (ofLe ((s.reached coreL).bytes 4096 8)) 63 48 = 5
      ∧ bitsOf (ofLe ((s.reached coreL).bytes 4096 8)) 47 44 = 0 ∧ bitsOf (ofLe ((s.reached coreL).bytes 4096 8)) 31 0 ≤ 63
      ∧ p.pwr.fabricUp = true ∧ 5 ∈ p.pump.epPend ∧ p.infl 5 = 0 ∧ p.pump.cache.find? (·.1 == 5) = some (5, aCtx 3 1 0 0) := by decide +kernel

/-! ### Witnesses: engines, set-up space, keys, JTAG, recovery -/

/-- A job at the journal engine, or waiting there: its operation, PARAM, LEN and payload in the descriptor. -/
def atJournal (op param len ndesc : Nat) (imm : Bool) (l : Loc) : Flight :=
  let b := leBytes 4 (op + ofBool imm * 2 ^ 10) ++ leBytes 4 param ++ List.replicate 16 0 ++ leBytes 4 len ++ List.replicate 36 7
  ⟨{ aJob with gen := 3, bytes := b, ndesc := ndesc }, l, none⟩

/-- JournalAppendsRecords, JournalFlushesBatches: jobs of each kind at the engine; a seed; a batch that starts, meets a record, and ends. -/
theorem test_hyp_journal :
    let v := withRegs live [(F.JNL_HEADCTL_VALID, 1)]
    let f := atJournal 1 0 16 1 true .journal
    let g := atJournal 2 0 0 1 false .journal
    let s := withPump v fun p => { p with flight := [f] }
    let b : State := { withMem (withRegs v [(F.JNL_CFG_DEST, 2), (F.JNL_STWR_OFFSET, 104)]) bsramBase (leBytes 2 0xCE4A ++ leBytes 2 104) with
      eng := { v.eng with batch := some ⟨104, 1, 0⟩ } }
    let d := withRegs linked [(F.JNL_CFG_DEST, 1), (F.JNL_STWR_OFFSET, 104)]
    s.wired = true ∧ s.pwr.fabricUp = true ∧ Variant.hasJnl s.variant = true ∧ s.fenced 6 = false ∧ s.fenced 12 = false
      ∧ s.pump.flight.find? (fun g => g.done.isNone && g.loc == .journal) = some f ∧ f.job.op = 1 ∧ f.job.param = 0 ∧ f.job.len = 16 ∧ f.job.imm = true
      ∧ f.job.ndesc ≤ 1 ∧ f.job.hall ≠ .P ∧ s.get F.JNL_HEADCTL_VALID = 1 ∧ live.get F.JNL_HEADCTL_VALID = 0 ∧ s.get F.JNL_CFG_MACALL = 0
      ∧ g.job.op = 2 ∧ g.job.param = 0 ∧ g.job.len = 0 ∧ g.job.ndesc ≤ 1 ∧ live.get F.JNL_STFL_OFFSET = live.get F.JNL_STWR_OFFSET
      ∧ (atJournal 3 0 0 1 false .journal).job.op = 3 ∧ (atJournal 1 (2 ^ 17) 0 1 false .journal).job.param = 2 ^ 17
      ∧ live.reachesField coreL F.JNL_HEADCTL_SEED 1 = true ∧ (live.reached coreL).boundAway coreL 2 0 = false ∧ (live.reached coreL).atLoc Loc.atJournal = false
      ∧ b.eng.batch = some ⟨104, 1, 0⟩ ∧ ofLe (b.bytes bsramBase 2) = 0xCE4A ∧ ofLe (b.bytes (bsramBase + 2) 2) = 104 ∧ b.get F.JNL_CFG_DEST = 2
      ∧ b.get F.JNL_DBASEHI_BASE * 2 ^ 32 + b.get F.JNL_DBASELO_BASE * 4096 + 2 ^ b.get F.JNL_DBASEHI_SIZE ≤ 2 ^ b.get F.FSP_CFG_SIZE
      ∧ b.get F.JNL_DWR_OFFSET + 104 ≤ 2 ^ b.get F.JNL_DBASEHI_SIZE ∧ b.pump.flight = []
      ∧ d.eng.batch = none ∧ d.get F.JNL_STFL_OFFSET ≠ d.get F.JNL_STWR_OFFSET ∧ (withRegs d [(F.HLK_OBEN_EN, 0)]).linkSends 0 = false
      ∧ (withPump live fun p => { p with flight := [atJournal 1 0 0 1 true (.durable 7)] }).pump.flight.length = 1
      ∧ live.reaches coreL F.JNL_DRD_OFFSET.off 8 = true ∧ live.reaches coreL (F.JNL_MACKEY_KEY.ix 7).off 1 = true
      ∧ live.reachesField coreL F.JNL_MACCTL_CLEAR 1 = true := by decide +kernel

/-- A job in lane 3: operation, PARAM and LEN, from 0x4000 to 0x8000. -/
def inLane (op param len : Nat) : Flight :=
  let b := leBytes 8 op ++ leBytes 8 0x4000 ++ leBytes 4 len ++ leBytes 12 param ++ leBytes 32 0x8000
  ⟨{ aJob with gen := 2, bytes := b }, .copy 3, none⟩

/-- CopyJobsMoveBytes: a COPY and a FILL of the largest and the smallest length between disjoint ranges, one stopped before its last burst, and jobs that
fail each check. -/
theorem test_hyp_copy :
    let f := inLane 1 0 0x4000
    let s := withFlight live f
    let sh (f : Flight) : Bool := f.job.op == 1 && f.job.param == 0 || f.job.op == 2 && decide (f.job.param < 256)
    s.wired = true ∧ s.pwr.fabricUp = true ∧ s.fenced 7 = false ∧ s.pump.flight.find? (fun g => g.done.isNone && g.loc == .copy 3) = some f
      ∧ f.job.imm = false ∧ f.job.sgl = false ∧ f.job.ndesc ≤ 1 ∧ f.job.addr = 0x4000 ∧ quadAt f.job.bytes 0x20 = 0x8000 ∧ f.job.len = 0x4000
      ∧ sh f = true ∧ sh (inLane 2 255 1) = true ∧ (inLane 2 255 1).job.len = 1 ∧ sh (inLane 2 256 1) = false ∧ (inLane 3 0 1).job.op = 3
      ∧ (inLane 1 0 0).job.len = 0 ∧ (inLane 2 0 (2 ^ 24 - 1)).job.len < 2 ^ 24 ∧ s.plainFor 0x4000 0x4000 = true ∧ s.plainFor 0x8000 0x4000 = true
      ∧ 64 * 255 < f.job.len ∧ ({ s with dram := { s.dram with usable := 0 } } : State).installed < 0x8000 + f.job.len := by decide +kernel

/-- SetupSpaceIsWrittenAndRead, PairsAndLocksOfSetup: a plain register, a clamped value, an offset that names nothing; host accesses of each
kind; a staged member, and a pair at its bounds; the locks. -/
theorem test_hyp_setup :
    let g := withRegs linked [(F.CFG_HOSTACC_GRANT, 2 ^ 32 - 1)]
    let k := withRegs live [(F.CFG_ACCLOCK_LOCK, 1)]
    live.wired = true ∧ live.reaches coreL 0x2B3010 0 = true ∧ (findReg 0x2B3010).any (fun e => e.1.pres.holds live.variant e.2.1) = true
      ∧ (findReg 0x2B3010).any (fun e => e.1.fields.all fun f => f.acc != .rws && f.acc != .rwk) = true
      ∧ live.reaches coreL F.CPY_CFG_TO.off 0 = true ∧ live.reaches coreL F.CPY_CFG_TO.off 1001 = true ∧ findReg 0x3FFFFC = none
      ∧ live.reaches coreL 0x3FFFFC 1 = true ∧ g.hostUsable = true ∧ g.hostFence 0x10100 = false ∧ linked.permitted .host 0x10100 0 = false
      ∧ (∀ j < 1024, linked.hostFence (4 * j) = false) ∧ linked.hostFence 0x2A0100 = false ∧ live.hostUsable = false
      ∧ live.reaches coreL (F.WIN_LO_LO.ix 15).off 1023 = true ∧ (live.reached coreL).guard coreL (F.WIN_LO_LO.ix 15).off 1023 = .free
      ∧ (findReg (F.WIN_LO_LO.ix 15).off).any (fun e => e.1.pres.holds live.variant e.2.1 && e.1.fields.any fun f => f.acc == .rws) = true
      ∧ live.reaches coreL (F.WIN_HI_HI.ix 15).off 1023 = true ∧ Variant.win live.variant 15 = true ∧ (live.reached coreL).get (F.WIN_LO_LO.ix 15) ≤ 1023
      ∧ live.reachesField coreL F.CFG_ACCLOCK_LOCK 1 = true ∧ k.reaches coreL F.CFG_HOSTACC_GRANT.off 0 = true
      ∧ (k.reached coreL).get F.CFG_ACCLOCK_LOCK = 1 ∧ live.reachesField coreL F.CFG_CLAMPCTL_CLEAR 1 = true := by decide +kernel

/-- KeysWindowsAndHallWatchdogs: each watchdog running; the keys off, on, and with a store that does not fit; BAR4 at its end, inside DRAM and beyond it. -/
theorem test_hyp_keys :
    let w := withRegs live [(F.TMB_WDLCFG_ENABLE, 1), (F.TMB_WDPCFG_ENABLE, 1), (F.PWR_HALLPCTL_ENABLE, 1)]
    let on := withRegs live [(F.KEY_CTL_ENABLE, 1)]
    let far := withRegs live [(F.KEY_BASE_BASE, 0x3FFFF)]
    let small : State := { linked with dram := { linked.dram with usable := 0 } }
    w.wired = true ∧ w.get F.TMB_WDLCFG_ENABLE = 1 ∧ w.wdRuns = true ∧ w.flt.wdlOnce = false ∧ w.lowestFree 15 = some 0
      ∧ w.get F.TMB_WDPCFG_ENABLE = 1 ∧ w.get F.PWR_HALLPCTL_ENABLE = 1 ∧ live.reachesField coreL F.KEY_CTL_ENABLE 1 = true
      ∧ (live.reached coreL).get F.KEY_CTL_LOCK = 0 ∧ (live.reached coreL).get F.KEY_CTL_ENABLE = 0
      ∧ (live.reached coreL).get F.KEY_BASE_BASE * 4096 + live.installed / 4096 ≤ live.installed
      ∧ far.reachesField coreL F.KEY_CTL_ENABLE 1 = true ∧ ¬ ((far.reached coreL).get F.KEY_BASE_BASE * 4096 + far.installed / 4096 ≤ far.installed)
      ∧ on.reachesField coreL F.KEY_CTL_ENABLE 0 = true ∧ (on.reached coreL).get F.KEY_CTL_ENABLE = 1 ∧ live.reachesField coreL F.KEY_CTL_LOCK 1 = true
      ∧ linked.hostUsable = true ∧ linked.link.bar4 = true ∧ linked.plainFor (linked.get F.HLK_BAR4MAP_BASE * 2 ^ 24 + 0xFFF000) 4096 = true
      ∧ linked.fenced 10 = false ∧ small.hostUsable = true ∧ small.installed < 4 := by decide +kernel

/-- JtagScansAndDebugs: the halls opened by LIFECYCLE and by DBG_CTL; a core that is free, in the other hall, halted; a read and a write of DRAM, a
register of a halted core. -/
theorem test_hyp_jtag :
    let p := withPwr live fun p => { p with lifecycle := 2 }
    let q := withRegs p [(F.DBG_CTL_LEN, 1)]
    let h : State := { live.updCore 0 (fun q => { q with halted := true, haltReq := none }) with jtag := { live.jtag with ir := 8 } }
    let r (rw seg a : Nat) : Nat := rw * 2 ^ 78 + seg * 2 ^ 74 + a * 2 ^ 34
    live.wired = true ∧ live.pwr.lifecycle ≤ 1 ∧ ¬ p.pwr.lifecycle ≤ 1 ∧ p.get F.DBG_CTL_LEN ≠ 1 ∧ q.get F.DBG_CTL_LEN = 1 ∧ live.pwr.fabricUp = true
      ∧ (live.core 0).hall = .L ∧ live.coreFree 0 = true ∧ (h.core 0).halted = true ∧ (h.core 0).haltReq = none ∧ h.jtag.ir = 8
      ∧ bitsOf (r 1 4 0x400) 79 78 = 1 ∧ bitsOf (r 2 4 0x400) 79 78 = 2 ∧ bitsOf (r 1 4 0x400) 76 74 = 4 ∧ bitsOf (r 1 4 0x400) 71 34 = 0x400
      ∧ (r 1 4 0x400).testBit 77 = false ∧ h.plainFor 0x1000 4 = true ∧ bitsOf (r 1 0 0x13F) 71 34 = 0x100 + 2 * 31 + 1 ∧ live.jtag.ir ≠ 8 := by decide +kernel

/-- FencesAndLocksRecover: segments fenced and not, of each kind; a free lock, one owned with its ticket, one expired. -/
theorem test_hyp_recovery :
    let f := withRegs live [(F.FLT_SEGSTAT_FENCED, 2 ^ 5 + 2 ^ 7 + 1), (F.PWR_CORERST_HOLD, 0)]
    let e (n : Nat) : State := { f with flt := { f.flt with unfencing := [n] } }
    let o := withRegs live [(F.LL_STAT_HELD.ix 63, 1), (F.LL_STAT_SRC.ix 63, 1), (F.LL_STAT_TICKET.ix 63, 9), (F.LL_STAT_GEN.ix 63, 255)]
    let x := withRegs o [(F.LL_STAT_EXPIRED.ix 63, 1)]
    let off := (F.LL_CTL_OP.ix 63).off
    live.wired = true ∧ live.reaches coreL F.FLT_UNFENCE_GO.off (2 ^ 31 + 12) = true ∧ (live.reached coreL).fenced 12 = false
      ∧ f.srcLive (.core 1 .L) = true ∧ (f.reached (.core 1 .L)).fenced 5 = true ∧ (f.reached (.core 1 .L)).fenced 7 = true
      ∧ f.reaches (.core 1 .L) F.FLT_UNFENCE_GO.off (2 ^ 31 + 7) = true ∧ (f.reached (.core 1 .L)).fenced 0 = true
      ∧ ((f.reached (.core 1 .L)).get F.PWR_CORERST_HOLD).testBit 0 = false ∧ 7 ∈ (e 7).flt.unfencing ∧ 9 ∈ (e 9).flt.unfencing
      ∧ 12 ∉ f.flt.unfencing ∧ live.reaches coreL off (2 ^ 28 + 9) = true ∧ (live.reached coreL).get (F.LL_STAT_HELD.ix 63) = 0
      ∧ o.reaches coreL off (2 ^ 28 + 9) = true ∧ (o.reached coreL).get (F.LL_STAT_HELD.ix 63) = 1 ∧ o.reaches coreL off (2 * 2 ^ 28 + 9) = true
      ∧ o.reaches coreL off (3 * 2 ^ 28 + 9) = true ∧ o.reaches coreL off (5 * 2 ^ 28 + 9) = true ∧ 63 ∉ (o.reached coreL).flt.revoking
      ∧ (o.reached coreL).get (F.LL_STAT_SRC.ix 63) = 1 ∧ (o.reached coreL).get (F.LL_STAT_CORE.ix 63) = 0 ∧ (o.reached coreL).get (F.LL_STAT_TICKET.ix 63) = 9
      ∧ x.reaches coreL off (4 * 2 ^ 28 + 255 * 2 ^ 16) = true ∧ (x.reached coreL).get (F.LL_STAT_EXPIRED.ix 63) = 1
      ∧ (x.reached coreL).get (F.LL_STAT_GEN.ix 63) = 255 ∧ (x.reached coreL).get (F.LL_CFG_BIND.ix 63) = 0 ∧ o.get (F.LL_STAT_EXPIRED.ix 63) = 0 := by
  decide +kernel

/-- DeviceWatchdogIsServiced: the second service write; the watchdog running, before and in GRACE. -/
theorem test_hyp_device_watchdog :
    let s := withRegs live [(F.TMB_WDDCFG_ENABLE, 1)]
    let g := withRegs s [(F.TMB_WDDCNT_GRACE, 1)]
    s.wired = true ∧ s.reaches coreL 0x2A0204 0xA5A5 = true ∧ s.get F.TMB_WDDCFG_ENABLE = 1 ∧ s.wdRuns = true ∧ s.get F.TMB_WDDCNT_GRACE = 0
      ∧ (∀ n < 64, s.get (F.LL_STAT_HELD.ix n) = 0) ∧ s.pump.flight = [] ∧ s.lowestFree 15 = some 0 ∧ g.get F.TMB_WDDCNT_GRACE = 1 := by decide +kernel

/-! ### Ill-formed commands -/

/-- A host write of no byte, and one past the end of BAR0; the last dword is well formed. -/
theorem test_wf_bar0_write : Instr.wf (.hostBar0Write 0 []) = false ∧ Instr.wf (.hostBar0Write 0x3FFFFC [0, 0, 0, 0, 0]) = false
    ∧ Instr.wf (.hostBar0Write 0x3FFFFC [0, 0, 0, 0]) = true := by decide

/-- A host write of no byte, and one past the end of BAR4. -/
theorem test_wf_bar4_write : Instr.wf (.hostBar4Write 0 []) = false ∧ Instr.wf (.hostBar4Write 0xFFFFFF [0, 0]) = false
    ∧ Instr.wf (.hostBar4Write 0xFFFFFF [0]) = true := by decide

/-- Host reads past the end of each window. -/
theorem test_wf_reads : Instr.wf (.hostBar0Read 0xFFFFF 2) = false ∧ Instr.wf (.hostBar4Read 0x3FFFFF 2) = false ∧ Instr.wf (.hostBar2Read 0x7FFF 2) = false
    ∧ Instr.wf (.hostBar0Read 0xFFFFF 1) = true ∧ Instr.wf (.hostBar0Read 0xFFC01 0) = false := by decide

/-- A flash command that returns 257 bytes, an I2C transfer of 33 bytes read or 65 done. -/
theorem test_wf_ports : Instr.wf (.flashCommandDone true (List.replicate 257 0)) = false ∧ Instr.wf (.i2cTransferEnd 0 0 0 (List.replicate 33 0)) = false
    ∧ Instr.wf (.i2cTransferEnd 0 0 65 []) = false ∧ Instr.wf (.i2cTransferEnd 0 0 64 []) = true := by decide +kernel

/-- A link of a rate above 4 or of three lanes, and a pop of 65 entries. -/
theorem test_wf_link : Instr.wf (.linkUp 5 1) = false ∧ Instr.wf (.linkUp 1 3) = false ∧ Instr.wf (.linkUp 4 4) = true
    ∧ Instr.wf (.rxPop (.core 0 .L) 0 65) = false ∧ Instr.wf (.rxPop (.core 0 .L) 0 64) = true := by decide

/-! ### Worked examples of the spec -/

/-- One field of core 0 after a command. -/
def after (i : Instr) (s : State) {α : Type} (f : Core → α) : Option α :=
  match exec i s with
  | .next t => some (f (t.core 0))
  | _ => none

/-- 07, worked example: 128,437 cents are 1,284 units. -/
theorem test_divu_splits_total : after (.divu 0 7 5 6 false) (withW [(5, 128437), (6, 100)]) (fun q => q.rd 7) = some 1284#48 := by decide +kernel

/-- 07, worked example: and 37 cents. -/
theorem test_remu_splits_total : after (.remu 0 8 5 6 false) (withW [(5, 128437), (6, 100)]) (fun q => q.rd 8) = some 37#48 := by decide +kernel

/-- 07, worked example: 0x5_0425 shifted by 8 is the JOBDONE operand 0x0504_2500. -/
theorem test_shli_forms_result : after (.shli 0 9 8) (withW [(9, 0x50425)]) (fun q => q.rd 9) = some 0x5042500#48 := by decide +kernel

/-- 06, worked example: CAP0 of a QL48-F4 reads 0x123F. -/
theorem test_caps_reads_cap0 : after (.caps 0 5 0 0) live (fun q => q.rd 5) = some 0x123F#48 := by decide +kernel

/-- Accumulators of core 0 set. -/
def withDa (l : List (Fin 8 × Nat)) : State := withCore fun q => { q with da := l.foldl (fun v e => v.set e.1 (BitVec.ofNat 128 e.2)) q.da }

/-- 08, worked example: 34999 times 2, and 119476 times 75. -/
theorem test_damul : after (.damul 0 3 1 2) (withDa [(1, 0x34999C), (2, 0x2C)]) (fun q => q.da[3]) = some 0x69998C#128
    ∧ after (.damul 0 6 0 5) (withDa [(0, 0x119476C), (5, 0x75C)]) (fun q => q.da[6]) = some 0x8960700C#128 := by decide +kernel

/-- 08, worked example: 8960700 divided by 1000 rounds up to 8961. -/
theorem test_dashr_rounds : after (.dashr 0 6 6 3) (withDa [(6, 0x8960700C)]) (fun q => q.da[6]) = some 0x8961C#128 := by decide +kernel

/-- 08, worked example: the receipt total. -/
theorem test_daadd_total : after (.daadd 0 0 0 6) (withDa [(0, 0x119476C), (6, 0x8961C)]) (fun q => (q.da[0], q.nzcv.v)) = some (0x128437C#128, false) := by
  decide +kernel

/-- 08, worked example: a price with the digit 0xF is refused, and DA1 keeps its value. -/
theorem test_dald_refuses_digit : after (.dald 0 1 10 3) (withMem (withW [(10, 0x7200020)]) 0x7200020 [0x34, 0x9F, 0x9C]) (fun q => (q.da[1], q.stair)) = some (0xC#128, 0) := by
  decide +kernel

/-- The state of the worked example of 09: the field, the pattern and the registers. -/
def receipt (sign : Nat) : State :=
  let s := withW [(4, 0x7200100), (5, 0x7200020), (6, 0x7200080), (7, 0x2011)]
  let s := withMem s 0x7200020 [0x01, 0x28, 0x43, BitVec.ofNat 8 (0x70 + sign)]
  withMem s 0x7200080 [0x06, 0xE2, 0x82, 0xAC, 0x01, 0x01, 0x2C, 0x01, 0x01, 0x02, 0x2E, 0x01, 0x01, 0x04, 0x20, 0x43, 0x52, 0x05]

/-- 09, worked example: the line as printed, W4, W5 and the mark in W7, and C alone of the flags. -/
theorem test_editm_receipt : after (.editm 0 4 5 6 7) (receipt 0xC)
    (fun q => (q.sb.flatMap (·.bytes), q.rd 4, q.rd 5, q.rd 7, q.nzcv)) = some
      ([0x20, 0xE2, 0x82, 0xAC, 0x31, 0x2C, 0x32, 0x38, 0x34, 0x2E, 0x33, 0x37, 0x20, 0x20, 0x20], 0x720010F#48, 0x7200024#48, 0x7200104#48,
        ⟨false, false, true, false⟩) := by decide +kernel

/-- 09, worked example: a refund ends in CR, and N is 1. -/
theorem test_editm_refund : after (.editm 0 4 5 6 7) (receipt 0xD) (fun q => ((q.sb.flatMap (·.bytes)).drop 12, q.nzcv.n)) = some ([0x20, 0x43, 0x52], true) := by
  decide +kernel

/-- 10, worked example: the ADC code 3,482 is converted exactly. -/
theorem test_fcvt_fw : after (.fcvtFw 0 2 5 0 false false 0 7) (withW [(5, 3482)]) (fun q => (q.f[2], q.fcsw)) = some (0x40AB340000000000#64, 0) := by
  decide +kernel

/-- 10, worked example: division by +0 gives +∞ and sets DZ; with its trap enabled TPEND is set, and FTA names the FDIV. -/
theorem test_fdiv_by_zero :
    after (.fdiv 0 4 3 6 false 0 7) (withCore fun q => { q with pc := 0x7100208#48, fcsw := 0x801#48, f := q.f.set 3 0x4038000000000000#64 })
      (fun q => (q.f[4], bitsOf q.fcsw.toNat 4 0, q.fta, q.tpend)) = some (0x7FF0000000000000#64, 9, 0x7100209#48, true) := by decide +kernel

end Tests
end

section
/-! Unit Absent: an instruction of a class whose unit the variant lacks ends at the check before its operands (R16, R278). -/
namespace Sys2Proof.Machine

section
variable {s : State} {c : CoreId} {op len : Nat} {bar jg : Bool} {body : State → State × IRes}

/-- A ready instruction that the check before its operands refuses raises that check's exception, whatever its body; so does one at which a
pending trap would be delivered (R299, R405). -/
theorem raises_of_gateKeep (h : s.ready c = true) (ht : (s.core c).tpend = false) {e : Exc} (he : e.opc = none) (hg : gateKeep s c op = some e) :
    Raises s (finish (runWith s c op len bar jg body)) c op e := by
  have hr : runWith s c op len bar jg body = conclude s c op len (s, .exc e) := by
    simp only [runWith, State.ready_canRun h, State.ready_jobWait h, State.ready_boundary h, State.ready_dueEvent h, hg, Bool.not_true,
      Bool.false_and, Bool.or_self, Bool.false_eq_true, if_false]
  rw [hr]
  simp only [Raises, finish, conclude, ht, he, Option.isSome_none, Bool.false_eq_true, if_false]

theorem gateKeep_of_unitAbsent {cause : Nat} (h : unitAbsent s.variant op = some cause) : gateKeep s c op = some (Exc.plain 0x0E cause 0) := by
  simp only [gateKeep, h]

/-- CAUSE 1 stands for the decimal and string unit (R278, R480). -/
theorem unitAbsent_dsc {v : Variant} (hv : Variant.hasDsc v = false) (lo : 0x10 ≤ op) (hi : op ≤ 0x14) : unitAbsent v op = some 1 := by
  simp [unitAbsent, hv, lo, hi]

/-- CAUSE 2 stands for the floating-point unit (R278, R480). -/
theorem unitAbsent_fpu {v : Variant} (hv : Variant.hasDsc v = false) (lo : 0x18 ≤ op) (hi : op ≤ 0x1B) : unitAbsent v op = some 2 := by
  have hd : ¬ (0x10 ≤ op ∧ op ≤ 0x14) := by omega
  simp [unitAbsent, hv, hd, lo, hi]

theorem raises_dscAbsent (h : s.ready c = true) (ht : (s.core c).tpend = false) (hv : Variant.hasDsc s.variant = false) (lo : 0x10 ≤ op)
    (hi : op ≤ 0x14) : Raises s (finish (runWith s c op len bar jg body)) c op (Exc.plain 0x0E 1 0) :=
  raises_of_gateKeep h ht rfl (gateKeep_of_unitAbsent (unitAbsent_dsc hv lo hi))

theorem exists_raises_fpuAbsent (h : s.ready c = true) (ht : (s.core c).tpend = false) (hv : Variant.hasDsc s.variant = false)
    (lo : 0x18 ≤ op) (hi : op ≤ 0x1B) :
    ∃ o, 0x18 ≤ o ∧ o ≤ 0x1B ∧ Raises s (finish (runWith s c op len bar jg body)) c o (Exc.plain 0x0E 2 0) :=
  ⟨op, lo, hi, raises_of_gateKeep h ht rfl (gateKeep_of_unitAbsent (unitAbsent_fpu hv lo hi))⟩
end

/-- Settles O27: each listed instruction, unfolded to the shape its class shares, is a `runWith` of its class number, and the check that
opens `runWith` refuses the class. -/
theorem absentUnitsRaiseUnitAbsent : Obligations.AbsentUnitsRaiseUnitAbsent := by
  intro s c r1 r2 r3 r4 l1 l2 k n p x m2 m3 rm m4 m5 m10 m15 i h ht hv
  simp only [List.forall_mem_cons, List.not_mem_nil, false_imp_iff, implies_true, and_true]
  refine ⟨?class10, ?class11, ?class12, ?class13, ?class14, ?fpu⟩
  case fpu =>
    and_intros
    all_goals
      change ∃ o, _ ∧ _ ∧ Raises s (finish _) c o _
      simp only [fpTwo, fpFma, fpSign, fpLoad, fpStore, fpMove, fpBarMove, run, runBar]
      exact exists_raises_fpuAbsent h ht hv (by decide) (by decide)
  -- The five classes of the decimal and string unit.
  all_goals
    and_intros
    all_goals
      change Raises s (finish _) c _ _
      simp only [decimalSS, accOp, accBinary, toBinary, fromBinary, convert, editRun, strRun, run]
      exact raises_dscAbsent h ht hv (by decide) (by decide)

end Sys2Proof.Machine
end

section
/-! The timebase in a cycle of the T island (R49, R50): the RTC and the millisecond counters, which share the cycle, leave it as it was. -/
namespace Sys2Proof.Machine

/-- The queue, the timebase and the accumulator of R50 stay. -/
structure TimebaseKept (s t : State) : Prop where
  pending : t.pending = s.pending
  tb : t.tb = s.tb
  tacc : t.pwr.tacc = s.pwr.tacc

theorem TimebaseKept.refl (s : State) : TimebaseKept s s := ⟨rfl, rfl, rfl⟩

theorem TimebaseKept.trans {s t u : State} (h : TimebaseKept s t) (k : TimebaseKept t u) : TimebaseKept s u :=
  ⟨k.pending.trans h.pending, k.tb.trans h.tb, k.tacc.trans h.tacc⟩

theorem Settles.timebaseKept {s t : State} (h : Settles s t) : TimebaseKept s t := ⟨h.pending, h.tb, by rw [h.pwr]⟩

theorem timebaseKept_settle (s : State) : TimebaseKept s s.settle := ⟨settle_pending s, settle_tb s, settle_pwr_tacc s⟩

/-! ### What shares the cycle -/

section
variable {s u : State}

theorem TimebaseKept.ite {t : State} {p : Prop} [Decidable p] (h : TimebaseKept s t) (k : TimebaseKept s u) :
    TimebaseKept s (if p then t else u) := by
  split
  · exact h
  · exact k

theorem TimebaseKept.set (h : TimebaseKept s u) (f : Fld) (v : Nat) : TimebaseKept s (u.set f v) :=
  h.trans ⟨by simp, by simp, by simp⟩

theorem TimebaseKept.event (h : TimebaseKept s u) (b n : Nat) : TimebaseKept s (u.event b n) :=
  h.trans ⟨by simp, by simp, by simp⟩

theorem TimebaseKept.updClk (h : TimebaseKept s u) (f : Clk → Clk) : TimebaseKept s (u.updClk f) :=
  h.trans ⟨rfl, rfl, rfl⟩

/-- The alarm's wake source may touch the power state, but not the accumulator. -/
theorem TimebaseKept.rtcReach (h : TimebaseKept s u) (v : Nat) : TimebaseKept s (u.rtcReach v) := by
  have hset := (h.set F.TMB_RTCSEC_SEC (v % 2 ^ 32)).set F.TMB_RTCSUB_SUB 0
  exact .ite ((hset.event 17 0).trans (settles_wake _ 3).timebaseKept) hset

theorem TimebaseKept.rtcSecond (h : TimebaseKept s u) : TimebaseKept s u.rtcSecond := by
  have hreach := h.rtcReach (u.get F.TMB_RTCSEC_SEC + 1)
  exact .ite hreach (.ite (hreach.set _ _) (hreach.updClk _))

theorem TimebaseKept.rtcCycle (h : TimebaseKept s u) : TimebaseKept s u.rtcCycle :=
  .ite (h.updClk _) (.ite (h.set _ _) h.rtcSecond)

theorem TimebaseKept.rtcTick (h : TimebaseKept s u) : TimebaseKept s u.rtcTick :=
  .ite h.rtcCycle (.ite (h.updClk _) (h.updClk _).rtcCycle)

theorem TimebaseKept.msDown (h : TimebaseKept s u) (run : Bool) (f : Fld) : TimebaseKept s (u.msDown run f) := .ite (h.set _ _) h

theorem TimebaseKept.wdMs (h : TimebaseKept s u) : TimebaseKept s u.wdMs := ((h.msDown _ _).msDown _ _).msDown _ _

theorem TimebaseKept.chgMs (h : TimebaseKept s u) : TimebaseKept s u.chgMs :=
  .ite h (.ite (h.updClk _) ((h.updClk _).set _ _))

theorem TimebaseKept.msTick (h : TimebaseKept s u) (d : Nat) : TimebaseKept s (u.msTick d) :=
  .ite (h.updClk _) (h.updClk _).wdMs.chgMs
end

/-! ### The cycle -/

/-- After the timebase and its accumulator, a cycle changes neither. -/
theorem timebaseKept_tick (s : State) : TimebaseKept s.tbAdvance s.tick := ((TimebaseKept.refl _).rtcTick).msTick _

/-- From 24 MHz a cycle adds 1 (R49). -/
theorem tbAdvance_24MHz {s : State} (h : s.pwr.tsrc32 = false) : s.tbAdvance.tb = s.tb + 1 ∧ s.tbAdvance.pwr.tacc = s.pwr.tacc := by
  simp [State.tbAdvance, State.tbIncrement, h]

/-- From 32.768 kHz a cycle adds tbIncrement, and the accumulator goes on by 27, modulo 64 (R50). -/
theorem tbAdvance_32kHz {s : State} (h : s.pwr.tsrc32 = true) :
    s.tbAdvance.tb = s.tb + BitVec.ofNat 64 s.tbIncrement ∧ s.tbAdvance.pwr.tacc = s.pwr.accNext % 64 := by
  simp [State.tbAdvance, h]

/-- What leaves the accumulator is counted: 64 counts of the timebase and it make 46,875 a cycle, which is 64 × 732 + 27 (R50). -/
theorem tbIncrement_32kHz {s : State} (h : s.pwr.tsrc32 = true) (ha : s.pwr.tacc < 64) :
    64 * s.tbIncrement + s.pwr.accNext % 64 = s.pwr.tacc + 46875 := by
  have hnext : s.pwr.accNext = s.pwr.tacc + 27 := rfl
  simp only [State.tbIncrement, h, Bool.not_true, Bool.false_eq_true, if_false]
  split
  case isTrue hcarry => omega
  case isFalse hcarry => omega

theorem step_of_pending_nil {s : State} (h : s.pending = []) : step s = .next (s.whenAon State.tick).settle := by
  unfold step
  rw [h]
  rfl

/-- While the AON island is in reset an idle step leaves the timebase (R113). -/
theorem timebaseKept_idle_aonDown {s : State} (h : s.pwr.aonUp = false) : TimebaseKept s (s.whenAon State.tick).settle := by
  simp only [State.whenAon, h, Bool.false_eq_true, if_false]
  exact timebaseKept_settle s

theorem timebaseKept_idle_aonUp {s : State} (h : s.pwr.aonUp = true) : TimebaseKept s.tbAdvance (s.whenAon State.tick).settle := by
  simp only [State.whenAon, h, if_true]
  exact (timebaseKept_tick s).trans (timebaseKept_settle _)

/-- Settles O29: an idle step settles a tick, or nothing while the AON island is in reset; of a tick only tbAdvance moves the timebase. -/
theorem idleStepAdvancesTheTimebase : Obligations.IdleStepAdvancesTheTimebase := by
  intro s hq
  refine ⟨_, step_of_pending_nil hq, ?queue, fun hdown => ?held, fun hup h24 => ?fast, fun hup h32 ha => ?slow⟩
  case queue =>
    cases hup : s.pwr.aonUp with
    | false => exact (timebaseKept_idle_aonDown hup).pending.trans hq
    | true => exact (timebaseKept_idle_aonUp hup).pending.trans hq
  case held => exact ⟨(timebaseKept_idle_aonDown hdown).tb, (timebaseKept_idle_aonDown hdown).tacc⟩
  case fast =>
    obtain ⟨htb, hacc⟩ := tbAdvance_24MHz h24
    have hk := timebaseKept_idle_aonUp hup
    exact ⟨hk.tb.trans htb, hk.tacc.trans hacc⟩
  case slow =>
    obtain ⟨htb, hacc⟩ := tbAdvance_32kHz h32
    have hk := timebaseKept_idle_aonUp hup
    rw [hk.tb, hk.tacc, htb, hacc]
    exact ⟨Nat.mod_lt _ (by decide), _, rfl, tbIncrement_32kHz h32 ha⟩

end Sys2Proof.Machine
end

section
/-! What a permitted write does to the fields of its register (R76, R81): the register as the frame's list of fields spells it, for a register whose
write makes no unit do anything. -/
namespace Sys2Proof.Machine

/-! ### Numbers with a field replaced -/

theorem putBits_bitsOf_self (x hi lo : Nat) : putBits x hi lo (bitsOf x hi lo) = x := by
  apply Nat.eq_of_testBit_eq
  intro i
  rw [testBit_putBits, testBit_bitsOf]
  split
  case isTrue h => simp [show i - lo < hi + 1 - lo by omega, show i - lo + lo = i by omega]
  case isFalse => rfl

theorem bitsOf_zero_right (x hi : Nat) : bitsOf x hi 0 = x % 2 ^ (hi + 1) := by simp [bitsOf_eq]

theorem putBits_long {x : Nat} (hx : x < 2 ^ 32) (v : Nat) : putBits x 31 0 v = v % 2 ^ 32 := by
  rw [putBits, bitsOf_zero_right, Nat.mod_eq_of_lt hx]
  simp

/-! ### A register after a list of fields -/

section
variable {s u : State} {ps : List Area} {ws : List (Fld × Nat)} {off : Nat}

theorem wrote_cons (w : Fld × Nat) (l : List (Fld × Nat)) (v : Nat) : wrote off (w :: l) v = wrote off l (wrote off [w] v) := rfl

theorem wrote_singleton (f : Fld) (x v : Nat) : wrote off [(f, x)] v = if f.off = off then putBits v f.hi f.lo x % 2 ^ 32 else v := rfl

theorem wrote_lt (l : List (Fld × Nat)) {v : Nat} (hv : v < 2 ^ 32) : wrote off l v < 2 ^ 32 := by
  induction l generalizing v with
  | nil => exact hv
  | cons w l ih =>
    rw [wrote_cons, wrote_singleton]
    split
    · exact ih (Nat.mod_lt _ (by decide))
    · exact ih hv

theorem wrote_of_forall_ne {l : List (Fld × Nat)} (h : ∀ w ∈ l, w.1.off ≠ off) (v : Nat) : wrote off l v = v := by
  induction l with
  | nil => rfl
  | cons w l ih =>
    obtain ⟨hw, hl⟩ := List.forall_mem_cons.1 h
    rw [wrote_cons, wrote_singleton, if_neg hw, ih hl]

/-- Several fields of one register are written at once. -/
theorem Kept.setReg_wrote (h : Kept s u ps ws) {o : Nat} {l : List (Fld × Nat)} (hl : ∀ w ∈ l, w.1.off = o) :
    Kept s (u.setReg o (wrote o l (u.reg o))) ps (ws ++ l) := by
  obtain ⟨h1, h2, h3, h4, h5, h6, h7, h8, h9, h10, h11, h12, h13, h14, h15, h16, h17, h18, h19, h20, h21, h22, h23, h24⟩ := h
  constructor
  case regs =>
    intro off ho
    rw [wrote_append, ← h3 off ho, State.reg_setReg]
    split
    case isTrue e => rw [← e, Nat.mod_eq_of_lt (wrote_lt l (State.reg_lt u o))]
    case isFalse e => exact (wrote_of_forall_ne (fun w hw => by rw [hl w hw]; exact e) _).symm
  all_goals simpa [State.core] using ‹_›
end

/-! ### The fields of a write -/

/-- The frame's entry for a field of a register that holds `old`, after a write of `x` in which the field's value is legal; none where the write
leaves the field (R25). -/
def FieldD.stored (off old x : Nat) (f : FieldD) : Option (Fld × Nat) :=
  match f.acc with
  | .rw => some (⟨off, f.hi, f.lo, 0, 0⟩, bitsOf x f.hi f.lo)
  | .w1c => some (⟨off, f.hi, f.lo, 0, 0⟩, andNot (bitsOf old f.hi f.lo) (bitsOf x f.hi f.lo))
  | .w1s => some (⟨off, f.hi, f.lo, 0, 0⟩, bitsOf old f.hi f.lo ||| bitsOf x f.hi f.lo)
  | _ => none

/-- A write of `x` is applied to field f as written: it waits for no commit, and is not clamped. -/
def FieldD.plain (s : State) (off x : Nat) (f : FieldD) : Prop :=
  f.acc ≠ .rws ∧ f.acc ≠ .rwk ∧ f.legal.check s off x (f.hi + 1 - f.lo) (bitsOf x f.hi f.lo) = (bitsOf x f.hi f.lo, none)

theorem FieldD.stored_off {off old x : Nat} {f : FieldD} {w : Fld × Nat} (h : f.stored off old x = some w) : w.1.off = off := by
  unfold FieldD.stored at h
  split at h <;> simp only [Option.some.injEq, reduceCtorEq] at h <;> rw [← h]

/-- Fields of a register: no two share a bit, and each lies within the 32 bits. -/
def fieldsApart (l : List FieldD) : Prop := l.Pairwise (fun f g => f.hi < g.lo ∨ g.hi < f.lo) ∧ ∀ f ∈ l, f.lo ≤ f.hi ∧ f.hi < 32

theorem fieldsApart_descs : ∀ b ∈ List.range 24, ∀ d ∈ descs b, fieldsApart d.fields := by unfold fieldsApart; decide +kernel

theorem findReg_mem {off : Nat} {d : RegD} {k : Nat × Nat} (h : findReg off = some (d, k)) : d ∈ descs (blockOf off) := by
  unfold findReg at h
  split at h
  · exact findIn_mem h
  · simp at h

theorem fieldsApart_of_findReg {off : Nat} {d : RegD} {k : Nat × Nat} (h : findReg off = some (d, k)) : fieldsApart d.fields :=
  fieldsApart_descs _ (List.mem_range.2 (blockOf_lt off)) _ (findReg_mem h)

section
variable {s : State} {off old x : Nat}

/-- One field of a write: its entry of the frame is applied to the word, and nothing is logged. -/
theorem Applied.field_of_plain (a : Applied) {f : FieldD} (hp : f.plain s off x) (hf : f.lo ≤ f.hi ∧ f.hi < 32) (ha : a.word < 2 ^ 32)
    (hold : bitsOf a.word f.hi f.lo = bitsOf old f.hi f.lo) :
    (a.field s off x f).word = wrote off (f.stored off old x).toList a.word ∧ (a.field s off x f).logs = a.logs := by
  obtain ⟨hs, hk, hc⟩ := hp
  have hlt : ∀ v, putBits a.word f.hi f.lo v % 2 ^ 32 = putBits a.word f.hi f.lo v := fun v => Nat.mod_eq_of_lt (putBits_lt _ _ _ _ _ ha hf.2)
  cases hacc : f.acc
  case rws => exact absurd hacc hs
  case rwk => exact absurd hacc hk
  all_goals simp [Applied.field, FieldD.stored, wrote, hacc, hc, hold, hlt, -Nat.reducePow]

/-- A field leaves the bits of the fields apart from it. -/
theorem bitsOf_wrote_stored {f g : FieldD} (hf : f.lo ≤ f.hi) (hg : g.hi < 32) (h : f.hi < g.lo ∨ g.hi < f.lo) (v : Nat) :
    bitsOf (wrote off (f.stored off old x).toList v) g.hi g.lo = bitsOf v g.hi g.lo := by
  have hput : ∀ y, bitsOf (putBits v f.hi f.lo y % 2 ^ 32) g.hi g.lo = bitsOf v g.hi g.lo := fun y => by
    rw [bitsOf_mod _ _ _ _ hg, bitsOf_putBits_of_disjoint _ _ _ _ _ _ (by omega)]
  cases hacc : f.acc <;> simp [FieldD.stored, hacc, wrote, hput, -Nat.reducePow]

/-- The fields of a write, applied one after another. -/
theorem foldl_field_of_plain {l : List FieldD} (hd : fieldsApart l) (hp : ∀ f ∈ l, f.plain s off x) {a : Applied} (ha : a.word < 2 ^ 32)
    (hold : ∀ f ∈ l, bitsOf a.word f.hi f.lo = bitsOf old f.hi f.lo) :
    (l.foldl (fun a f => a.field s off x f) a).word = wrote off (l.filterMap (FieldD.stored off old x)) a.word
      ∧ (l.foldl (fun a f => a.field s off x f) a).logs = a.logs := by
  induction l generalizing a with
  | nil => exact ⟨rfl, rfl⟩
  | cons f l ih =>
    obtain ⟨hpair, hin⟩ := hd
    obtain ⟨hfl, hl⟩ := List.pairwise_cons.1 hpair
    obtain ⟨hf, hin⟩ := List.forall_mem_cons.1 hin
    obtain ⟨hpf, hp⟩ := List.forall_mem_cons.1 hp
    obtain ⟨hof, hold⟩ := List.forall_mem_cons.1 hold
    obtain ⟨hw, hlogs⟩ := Applied.field_of_plain a hpf hf ha hof
    obtain ⟨ihw, ihl⟩ := ih ⟨hl, hin⟩ hp (a := a.field s off x f) (by rw [hw]; exact wrote_lt _ ha)
      (fun g hg => by rw [hw, bitsOf_wrote_stored hf.1 (hin g hg).2 (hfl g hg), hold g hg])
    have hcons : (f :: l).filterMap (FieldD.stored off old x) = (f.stored off old x).toList ++ l.filterMap (FieldD.stored off old x) := by
      cases h : f.stored off old x <;> simp [h]
    rw [List.foldl_cons, ihw, ihl, hw, hlogs, hcons, wrote_append]
    exact ⟨rfl, rfl⟩
end

/-! ### A write of a register -/

section
variable {s u : State} {ps : List Area} {ws : List (Fld × Nat)} {src : Src} {o x i k : Nat} {d : RegD}

theorem regWrite_of_holds (hf : findReg o = some (d, i, k)) (hd : d.pres.holds u.variant i = true) :
    u.regWrite src o x = u.regPresent src o x d := by simp [State.regWrite, hf, hd]

theorem regWrite_of_findReg_none (hf : findReg o = none) : u.regWrite src o x = u := by simp [State.regWrite, hf]

/-- A write that no guard meets, of a register without paired fields, outside the window's selector (R554). -/
theorem regPresent_of_free (ho : o ≠ 0x180300) (hg : u.guard src o x = .free) (hd : ∀ f ∈ d.fields, f.acc ≠ .rws ∧ f.acc ≠ .rwk) :
    u.regPresent src o x d = u.regApply src o x d [] := by
  have hrws : d.fields.any (fun f => f.acc == .rws) = false := by simpa using fun f hf => (hd f hf).1
  have hrwk : d.fields.any (fun f => f.acc == .rwk) = false := by simpa using fun f hf => (hd f hf).2
  simp [State.regPresent, ho, hg, hrws, hrwk]

/-- The register of a write whose fields, those left out aside, are applied as written, before its unit acts. -/
theorem Kept.setFields (h : Kept s u ps ws) (hf : findReg o = some (d, i, k)) {out : List Nat}
    (hp : ∀ f ∈ d.fields, out.contains f.lo = false → f.plain u o x) :
    (u.applyFields o x d out).logs = [] ∧
    Kept s (u.setReg o (u.applyFields o x d out).word) ps
      (ws ++ (d.fields.filter fun f => !out.contains f.lo).filterMap (FieldD.stored o (u.reg o) x)) := by
  obtain ⟨hpair, hin⟩ := fieldsApart_of_findReg hf
  obtain ⟨hw, hl⟩ := foldl_field_of_plain (s := u) (off := o) (x := x) (old := u.reg o) (l := d.fields.filter fun f => !out.contains f.lo)
    (a := ⟨u.reg o, x, []⟩) ⟨hpair.filter _, fun f hm => hin f (List.mem_filter.1 hm).1⟩
    (fun f hm => hp f (List.mem_filter.1 hm).1 (by simpa using (List.mem_filter.1 hm).2)) (State.reg_lt u o) (fun _ _ => rfl)
  refine ⟨hl, ?_⟩
  rw [State.applyFields, hw]
  refine h.setReg_wrote fun w hm => ?_
  obtain ⟨f, -, hs⟩ := List.mem_filterMap.1 hm
  exact FieldD.stored_off hs

/-- A write of a register at which no unit acts: its fields are applied as written, and nothing else changes (R76, R81). -/
theorem Kept.regApply (h : Kept s u ps ws) (hf : findReg o = some (d, i, k)) {out : List Nat}
    (hp : ∀ f ∈ d.fields, out.contains f.lo = false → f.plain u o x) (hh : ∀ (t : State) old eff, t.hook src o old eff = t) :
    Kept s (u.regApply src o x d out) ps
      (ws ++ (d.fields.filter fun f => !out.contains f.lo).filterMap (FieldD.stored o (u.reg o) x)) := by
  obtain ⟨hl, hk⟩ := h.setFields hf hp
  simpa only [State.regApply, hl, State.logAll, List.foldl_nil, hh] using hk
end
end Sys2Proof.Machine
end

section
/-! A write of set-up space by a source, up to the registers it leaves: the ranges in which no guard refuses and no unit acts, the clamp log
(R82, R85, R86), denied writes (R77, R79) and host reads (R73, R74). -/
namespace Sys2Proof.Machine

/-! ### Registers that are only written -/

/-- The ranges of the bell sources, the copy engine's block, the GPIO pins and the host link's configuration: no guard refuses a write there, and no
unit acts on one. -/
def inPassiveRange (o : Nat) : Prop :=
  (0x100000 ≤ o ∧ o < 0x103000) ∨ (0x220000 ≤ o ∧ o < 0x240000) ∨ (0x2B3000 ≤ o ∧ o < 0x2B4000) ∨ (0x340000 ≤ o ∧ o < 0x340124)

section
variable {o : Nat}

theorem llReg_of_passive (h : inPassiveRange o) : llReg o = none := by
  unfold inPassiveRange at h
  exact if_neg (by omega)

theorem guard_of_passive (h : inPassiveRange o) (s : State) (src : Src) (v : Nat) : s.guard src o v = .free := by
  rw [State.guard, llReg_of_passive h]
  unfold inPassiveRange at h
  repeat rw [if_neg (by omega)]

theorem hook_of_passive (h : inPassiveRange o) (s : State) (src : Src) (old eff : Nat) : s.hook src o old eff = s := by
  have hll := llReg_of_passive h
  unfold inPassiveRange at h
  have hlow : o < 0x180000 → s.hookLow o old eff = s := fun ho => by
    rw [State.hookLow]
    repeat rw [if_neg (by omega)]
  have hmid : s.hookMid src o old eff = s := by
    rw [State.hookMid]
    repeat rw [if_neg (by omega)]
  have hhigh : s.hookHigh src o old eff = s := by
    rw [State.hookHigh, hll]
    repeat rw [if_neg (by omega)]
  rw [State.hook, hmid, hhigh]
  split
  case isTrue ho => exact hlow ho
  case isFalse => exact ite_self s
end

/-! ### The clamp log -/

section
variable {s u : State} {ps : List Area} {ws : List (Fld × Nat)}

/-- A register written whole, as a field of 32 bits. -/
theorem State.setReg_eq_set (u : State) (o : Nat) {v : Nat} (hv : v < 2 ^ 32) : u.setReg o v = u.set ⟨o, 31, 0, 0, 0⟩ v := by
  rw [State.set, putBits_long (State.reg_lt u o), Nat.mod_eq_of_lt hv]

theorem Kept.foldl_set (h : Kept s u ps ws) (l : List Nat) (f : Nat → Fld) (v : Nat → Nat) :
    Kept s (l.foldl (fun t i => t.set (f i) (v i)) u) ps (ws ++ l.map fun i => (f i, v i)) := by
  induction l generalizing u ws with
  | nil => simpa using h
  | cons i l ih => simpa using ih (h.set (f i) (v i))

theorem State.get_set_of_off_ne {f g : Fld} (h : f.off ≠ g.off) (u : State) (v : Nat) : (u.set f v).get g = u.get g := by
  simp [State.get, State.set, h]

theorem State.get_foldl_set {l : List Nat} {f : Nat → Fld} {g : Fld} (h : ∀ i, (f i).off ≠ g.off) (u : State) (v : Nat → Nat) :
    (l.foldl (fun t i => t.set (f i) (v i)) u).get g = u.get g := by
  induction l generalizing u with
  | nil => rfl
  | cons i l ih => rw [List.foldl_cons, ih, State.get_set_of_off_ne (h i)]

theorem satTo_eq_min (m v : Nat) : satTo m v = min m v := by
  unfold satTo
  split <;> omega

/-- What an entry of the clamp log writes: its eight words at NEXT, NEXT and the total, and the events (R85, R86). -/
def State.logEntry (s : State) (cause block field loc written applied : Nat) : List (Fld × Nat) :=
  let k := s.get F.CFG_CLAMPWR_NEXT
  let ws := [2 ^ 31 + cause * 2 ^ 26 + block * 2 ^ 21 + field, loc, written, applied, s.tb.toNat % 2 ^ 32, 0, 0, 0]
  (List.range 8).map (fun i => ((F.CFG_CLAMPLOG_WORD.ix k).ix i, ws.getD i 0))
    ++ [(F.CFG_CLAMPWR_NEXT, (k + 1) % 64), (F.CFG_CLAMPTOT_TOTAL, min (2 ^ 32 - 1) (s.get F.CFG_CLAMPTOT_TOTAL + 1)), (evtBit 1 0, 1)]
    ++ if (s.get (F.CFG_CLAMPLOG_WORD.ix k)).testBit 31 then [(evtBit 1 1, 1)] else []

/-- The count of clamps of a block (R70). -/
def clampCount (b : Nat) : Fld := ⟨blockBase b + 12, 31, 0, 0, 0⟩

theorem clampLog_eq (cause block field loc written applied : Nat) : u.clampLog cause block field loc written applied =
    (clampCount block, min 65535 (u.get (clampCount block) + 1)) :: u.logEntry cause block field loc written applied := rfl

theorem get_clampwr_lt (u : State) : u.get F.CFG_CLAMPWR_NEXT < 64 := bitsOf_lt _ _ _

/-- An entry of the clamp log, of a clamp of a register field (SRC 0). -/
theorem Kept.appendLog (h : Kept s u ps ws) {cause block field loc written applied : Nat} (hc : cause < 2) (hw : written < 2 ^ 32)
    (ha : applied < 2 ^ 32) :
    Kept s (u.appendLog 0 cause block field loc written applied) ps (ws ++ u.logEntry cause block field loc written applied) := by
  have hk := get_clampwr_lt u
  have hwords : [2 ^ 31 + 0 * 2 ^ 29 + cause * 2 ^ 26 + block * 2 ^ 21 + field, loc, written % 2 ^ 32, (if 2 ≤ cause then 0 else applied) % 2 ^ 32,
      bitsOf u.tb.toNat 31 0, written / 2 ^ 32, (if 2 ≤ cause then 0 else applied) / 2 ^ 32, 0]
      = [2 ^ 31 + cause * 2 ^ 26 + block * 2 ^ 21 + field, loc, written, applied, u.tb.toNat % 2 ^ 32, 0, 0, 0] := by
    rw [if_neg (by omega), Nat.mod_eq_of_lt hw, Nat.mod_eq_of_lt ha, Nat.div_eq_of_lt hw, Nat.div_eq_of_lt ha, bitsOf_zero_right, Nat.zero_mul,
      Nat.add_zero]
  unfold State.appendLog State.logEntry
  simp only [hwords]
  generalize u.get F.CFG_CLAMPWR_NEXT = k at hk ⊢
  generalize [2 ^ 31 + cause * 2 ^ 26 + block * 2 ^ 21 + field, loc, written, applied, u.tb.toNat % 2 ^ 32, 0, 0, 0] = l
  have hoff : ∀ i, ((F.CFG_CLAMPLOG_WORD.ix k).ix i).off ≠ F.CFG_CLAMPTOT_TOTAL.off := fun i => by
    simp [Fld.ix, F.CFG_CLAMPLOG_WORD, F.CFG_CLAMPTOT_TOTAL]; omega
  have hlog := (((h.foldl_set (List.range 8) (fun i => (F.CFG_CLAMPLOG_WORD.ix k).ix i) (fun i => l.getD i 0)).set F.CFG_CLAMPWR_NEXT
    ((k + 1) % 64)).bump F.CFG_CLAMPTOT_TOTAL 1).event 1 0
  rw [State.get_set_of_off_ne (by decide), State.get_foldl_set hoff, satTo_eq_min] at hlog
  have hold : bit (u.logWord k 0) 31 = (u.get (F.CFG_CLAMPLOG_WORD.ix k)).testBit 31 := by
    rw [bit, State.logWord]
    rfl
  rw [hold]
  split
  · simpa [F.CFG_CLAMPTOT_TOTAL] using hlog.event 1 1
  · simpa [F.CFG_CLAMPTOT_TOTAL] using hlog

/-- A register that no clamp log keeps: neither NEXT, nor the total, nor a word of the log. -/
def outsideClampLog (o : Nat) : Prop := o ≠ 0x10200 ∧ o ≠ 0x10204 ∧ ¬ (0x10800 ≤ o ∧ o < 0x11000)

theorem logEntry_set {f : Fld} (hf : outsideClampLog f.off) (v cause block field loc written applied : Nat) :
    (u.set f v).logEntry cause block field loc written applied = u.logEntry cause block field loc written applied := by
  obtain ⟨hnext, htotal, hlog⟩ := hf
  have hk := get_clampwr_lt u
  have hword : (F.CFG_CLAMPLOG_WORD.ix (u.get F.CFG_CLAMPWR_NEXT)).off < 0x11000 := by simp [Fld.ix, F.CFG_CLAMPLOG_WORD]; omega
  have hword' : 0x10800 ≤ (F.CFG_CLAMPLOG_WORD.ix (u.get F.CFG_CLAMPWR_NEXT)).off := by simp [Fld.ix, F.CFG_CLAMPLOG_WORD]
  simp only [State.logEntry, State.get_set_of_off_ne (g := F.CFG_CLAMPWR_NEXT) hnext, State.get_set_of_off_ne (g := F.CFG_CLAMPTOT_TOTAL) htotal,
    State.get_set_of_off_ne (f := f) (g := F.CFG_CLAMPLOG_WORD.ix (u.get F.CFG_CLAMPWR_NEXT)) (by omega), State.set_tb]

/-- The counts of clamps stand outside the log. -/
theorem clampCount_outside : ∀ b < 23, outsideClampLog (clampCount b).off := by unfold outsideClampLog; decide

/-- A clamp of a field of a register, in a block that every variant has and that is not a core's: counted and logged (R82). -/
theorem Kept.clamp (h : Kept s u ps ws) {cause block field loc written applied : Nat} (hb : block < 23 ∧ block ≠ 7 ∧ block ≠ 12 ∧ block ≠ 16)
    (hc : cause < 2) (hw : written < 2 ^ 32) (ha : applied < 2 ^ 32) :
    Kept s (u.clamp 0 cause block field loc written applied) ps (ws ++ u.clampLog cause block field loc written applied) := by
  obtain ⟨hlt, h7, h12, h16⟩ := hb
  have hreg : u.reg (blockBase block + 12) = u.get (clampCount block) := by
    rw [State.get, clampCount, bitsOf_zero_right, Nat.mod_eq_of_lt (State.reg_lt _ _)]
  have hcount : u.setReg (blockBase block + 12) (satTo 65535 (u.reg (blockBase block + 12) + 1))
      = u.set (clampCount block) (min 65535 (u.get (clampCount block) + 1)) := by
    rw [State.setReg_eq_set _ _ (by rw [satTo_eq_min]; omega), satTo_eq_min, hreg, clampCount]
  have hlog := (h.set (clampCount block) (min 65535 (u.get (clampCount block) + 1))).appendLog (block := block) (field := field) (loc := loc) hc hw ha
  rw [logEntry_set (clampCount_outside block hlt), List.append_assoc, List.singleton_append, ← clampLog_eq, ← hcount] at hlog
  simpa [State.clamp, h7, h12, h16] using hlog

theorem clampLog_set {f : Fld} {block : Nat} (hf : outsideClampLog f.off) (hb : f.off ≠ blockBase block + 12)
    (v cause field loc written applied : Nat) :
    (u.set f v).clampLog cause block field loc written applied = u.clampLog cause block field loc written applied := by
  rw [clampLog_eq, clampLog_eq, logEntry_set hf, State.get_set_of_off_ne (g := clampCount block) hb]
end

end Sys2Proof.Machine
end

section
/-! Writes and reads of set-up space by their sources (R73 to R82, R86): a permitted write reaches its register and sets its fields, a value out of
range is clamped and logged, a host write that may not be carried out is recorded, and a host read answers what the registers hold. -/
namespace Sys2Proof.Machine

/-! ### A write that reaches its register -/

section
variable {s : State} {src : Src} {off : BitVec 22} {v : Long}

/-- A full dword of BAR0 is the write of a register by the host (R73). -/
theorem bar0Write_dword (s : State) {o x : Nat} (ho : o % 4 = 0) (hx : x < 2 ^ 32) : s.bar0Write o (leBytes 4 x) = s.srcWrite .host o x := by
  have hle : ofLe (leBytes 4 x) = x := by rw [ofLe_leBytes]; exact Nat.mod_eq_of_lt hx
  have hlen : (leBytes 4 x).length = 4 := rfl
  simp [State.bar0Write, State.srcWrite, State.srcLive, ho, hle, hlen]

/-- A write by a source, as a command of its own or as the host's dword of BAR0, is carried out at the register it reaches. -/
theorem exec_write {c : Instr} (hc : c = .registerWrite src off v ∨ (src = .host ∧ c = .hostBar0Write off (leBytes 4 v.toNat)))
    (hr : s.reaches src off.toNat v.toNat = true) (ho : off.toNat % 4 = 0) (hw : ¬ (0x180340 ≤ off.toNat ∧ off.toNat < 0x180380))
    (hq : ¬ (0x1C1000 ≤ off.toNat ∧ off.toNat < 0x1D1000)) :
    exec c s = .next ((s.reached src).regWrite src off.toNat v.toNat).settle := by
  rw [← srcWrite_eq hr ho v.isLt hw hq]
  obtain rfl | ⟨rfl, rfl⟩ := hc
  · rfl
  · rw [← bar0Write_dword s ho v.isLt]
    rfl

/-- The registers PMP_WCTX of the context window (R555). -/
def wctxReg : RegD := ⟨0x180340, 4, 16, 0, 1, .always, [⟨31, 0, .rw, .banked, .any, false⟩]⟩

theorem findReg_wctx : ∀ j < 16, findReg (0x180340 + 4 * j) = some (wctxReg, j, 0) := by decide +kernel

/-- Every long of the context window is a register. -/
theorem findReg_of_contextWindow {o : Nat} (ho : o % 4 = 0) (hw : 0x180340 ≤ o ∧ o < 0x180380) : ∃ j, findReg o = some (wctxReg, j, 0) := by
  have h := findReg_wctx ((o - 0x180340) / 4) (by omega)
  rw [show 0x180340 + 4 * ((o - 0x180340) / 4) = o by omega] at h
  exact ⟨_, h⟩
end

/-! ### The kinds of a write -/

section
variable {u : State} {src : Src} {o x : Nat}

/-- A permitted write in a range where no unit acts sets the writable fields of its register (R25, R76). -/
theorem kept_regWrite_passive {d : RegD} {i k : Nat} (hp : inPassiveRange o) (hf : findReg o = some (d, i, k)) (hd : d.pres.holds u.variant i = true)
    (hx : ∀ f ∈ d.fields, f.plain u o x) : Kept u (u.regWrite src o x) [] (d.fields.filterMap (FieldD.stored o (u.reg o) x)) := by
  have ho : o ≠ 0x180300 := by unfold inPassiveRange at hp; omega
  rw [regWrite_of_holds hf hd, regPresent_of_free ho (guard_of_passive hp u src x) fun f h => ⟨(hx f h).1, (hx f h).2.1⟩]
  simpa using (Kept.refl u []).regApply (src := src) (out := []) hf (fun f h _ => hx f h) fun t old eff => hook_of_passive hp t src old eff

/-- The register CPY_CFG (R665). -/
def cpyCfgReg : RegD := ⟨0x220100, 0, 1, 0, 1, .always, [⟨9, 0, .rw, .val 100, .near 1 1000, false⟩]⟩

theorem findReg_cpyCfg : findReg F.CPY_CFG_TO.off = some (cpyCfgReg, 0, 0) := by decide +kernel

/-- The bound of CPY_CFG.TO nearer to a value out of its range (R80). -/
def nearTo (w : Nat) : Nat := if w = 0 then 1 else 1000

theorem nearCheck_to {w : Nat} (hw : w = 0 ∨ 1000 < w) : nearCheck 1 1000 w = (nearTo w, some clampRange) := by
  unfold nearCheck nearTo
  grind

/-- The write of a copy time-out out of its range: the nearer bound, and one clamp. -/
theorem applyFields_cpyCfg (hx : x % 1024 = 0 ∨ 1000 < x % 1024) : u.applyFields F.CPY_CFG_TO.off x cpyCfgReg [] =
    ⟨putBits (u.reg F.CPY_CFG_TO.off) 9 0 (nearTo (x % 1024)), putBits x 9 0 (nearTo (x % 1024)), [(0, clampRange, x % 1024, nearTo (x % 1024))]⟩ := by
  have hcheck := nearCheck_to hx
  simp [State.applyFields, cpyCfgReg, Applied.field, Legal.check, bitsOf_zero_right, hcheck]

/-- A copy time-out out of its range is taken as the nearer bound, counted and logged (R80, R82, R86). -/
theorem kept_regWrite_cpyCfg (hx : x % 1024 = 0 ∨ 1000 < x % 1024) : Kept u (u.regWrite src F.CPY_CFG_TO.off x) []
    ([(F.CPY_CFG_TO, nearTo (x % 1024))] ++ u.clampLog 0 13 0 0x100 (x % 1024) (nearTo (x % 1024))) := by
  have hp : inPassiveRange F.CPY_CFG_TO.off := by unfold inPassiveRange; decide
  have hnear : nearTo (x % 1024) < 2 ^ 32 := by unfold nearTo; split <;> decide
  have happ : u.regApply src F.CPY_CFG_TO.off x cpyCfgReg []
      = (u.set F.CPY_CFG_TO (nearTo (x % 1024))).clamp 0 clampRange 13 0 0x100 (x % 1024) (nearTo (x % 1024)) := by
    rw [State.regApply, applyFields_cpyCfg hx, hook_of_passive hp]
    rfl
  rw [regWrite_of_holds findReg_cpyCfg rfl, regPresent_of_free (by decide) (guard_of_passive hp u src x) (by decide), happ]
  have hlog := ((Kept.refl u []).set F.CPY_CFG_TO (nearTo (x % 1024))).clamp (block := 13) (field := 0) (loc := 0x100) (by decide)
    (show clampRange < 2 by decide) (show x % 1024 < 2 ^ 32 by omega) hnear
  rwa [clampLog_set (by unfold outsideClampLog; decide) (by decide)] at hlog
end

/-! ### Denied writes (R77, R79) -/

section
variable {s u : State} {ps : List Area} {ws : List (Fld × Nat)} {o x : Nat}

/-- CFG_DENYREC takes a denial, and the event. -/
theorem Kept.denied (h : Kept s u ps ws) (source cause off : Nat) :
    Kept s ((u.denyRec source cause off).event 1 2) ps (ws ++ denied source cause off) := by
  have hrec := (((((h.put F.CFG_DENYREC_VALID true).set F.CFG_DENYREC_SRC source).set F.CFG_DENYREC_CAUSE cause).set F.CFG_DENYREC_BLOCK
    (blockOf off)).set F.CFG_DENYREC_OFFSET (off - blockBase (blockOf off))).event 1 2
  simpa [State.denyRec, Sys2Proof.Machine.denied, ofBool] using hrec

/-- A host write that the masks do not permit is dropped with its record. -/
theorem srcWrite_denied (hu : s.hostUsable = true) (ho : o % 4 = 0) (hf : s.hostFence o = false) (hp : s.permitted .host o x = false) :
    s.srcWrite .host o x = (s.linkActive.denyRec 0 0 o).event 1 2 := by
  have hf' : s.linkActive.hostFence o = false := hf
  have hp' : s.linkActive.permitted .host o x = false := hp
  simp [State.srcWrite, State.srcLive, State.hostSetup, State.setupWrite, State.deny, denySrc, hu, ho, hf', hp']

/-- So is one that is not of one dword (R73). -/
theorem bar0Write_width {l : List Byte} (hu : s.hostUsable = true) (hl : ¬ (o % 4 = 0 ∧ l.length = 4)) :
    s.bar0Write o l = (s.linkActive.denyRec 0 1 o).event 1 2 := by
  simp [State.bar0Write, State.hostWidth, hu, hl]
end

/-! ### Host reads (R73, R74) -/

section
variable {s : State} {o n : Nat}

/-- A dword other than TMB_TBLO is read without effect. -/
theorem setupRead_of_ne (src : Src) (ho : o ≠ 0x2A0100) : s.setupRead src o = (s, s.readReg src o) := by simp [State.setupRead, ho]

theorem bar0Dwords_of_ne (h : ∀ j < n, o + 4 * j ≠ 0x2A0100) : s.bar0Dwords o n = (s, (List.range n).map fun j => s.readReg .host (o + 4 * j)) := by
  induction n generalizing o with
  | zero => rfl
  | succ n ih =>
    have hrest : ∀ j < n, o + 4 + 4 * j ≠ 0x2A0100 := fun j hj => by
      have := h (j + 1) (by omega)
      omega
    have hstep : ∀ j, o + 4 + 4 * j = o + 4 * (j + 1) := fun j => by omega
    simp only [State.bar0Dwords, setupRead_of_ne .host (show o ≠ 0x2A0100 from h 0 (by omega)), ih hrest, List.range_succ_eq_map, List.map_cons,
      List.map_map, hstep, Nat.mul_zero, Nat.add_zero]
    rfl

/-- A host read that no fence meets answers its dwords. -/
theorem bar0Read_of_open (hu : s.hostUsable = true) (hf : ∀ j < n, s.hostFence (o + 4 * j) = false) :
    s.bar0Read o n = (s.linkActive.bar0Dwords o n).1.answer 0 (s.linkActive.bar0Dwords o n).2 := by
  have hany : (List.range n).any (fun i => s.linkActive.hostFence (o + 4 * i)) = false := by
    simp only [List.any_eq_false, List.mem_range, Bool.not_eq_true]
    exact hf
  simp [State.bar0Read, hu, hany]

theorem bar0Read_of_unusable (hu : s.hostUsable = false) : s.bar0Read o n = s.answer 2 [] := by simp [State.bar0Read, hu]

theorem Kept.answer {u : State} {ps : List Area} {ws : List (Fld × Nat)} (h : Kept s u ps ws) (status : Nat) (data : List Nat) (hp : .reply ∈ ps) :
    Kept s (u.answer status data) ps ws := h.resp _ hp

/-- The register TMB_TBLO (R780) reads the low half of the timebase. -/
theorem readReg_tblo (s : State) : s.readReg .host 0x2A0100 = s.tb.toNat % 2 ^ 32 := by
  have hfind : findReg 0x2A0100 = some (⟨0x2A0100, 0, 1, 0, 1, .always, [⟨31, 0, .ro, .live, .any, false⟩]⟩, 0, 0) := by decide +kernel
  have hstat : statBlock 0x2A0100 = none := by decide +kernel
  simp [State.readReg, hfind, hstat, Pres.holds, State.liveHigh, bitsOf_zero_right]

/-- A host read of TMB_TBLO captures the upper half of the timebase (R781). -/
theorem bar0Dwords_tblo (s : State) : s.bar0Dwords 0x2A0100 1
    = (s.updClk fun q => { q with hostTbHi := BitVec.ofNat 32 (s.tb.toNat / 2 ^ 32) }, [s.tb.toNat % 2 ^ 32]) := by
  simp only [State.bar0Dwords, State.setupRead, readReg_tblo, if_true]
end

/-! ### The statement -/

/-- A command that answers u, settled, does what u keeps. -/
theorem Does.of_kept {s u : State} {o : Host.Outcome State Fault Refusal} {ps : List Area} {ws : List (Fld × Nat)} (hw : s.wired = true)
    (ho : o = .next u.settle) (h : Kept s u ps ws) : Does s o ps ws fun _ => True := .of hw ho h trivial

/-- The clauses on single writes and reads, one by one: the write that is carried out or recorded, the read and what it answers. -/
theorem setupSpaceIsWrittenAndRead : Claims.SetupSpaceIsWrittenAndRead := by
  intro s src off v d i k dw len l hw
  have hwu := State.wired_reached hw src
  have hwh : s.linkActive.wired = true := State.wired_reached hw .host
  refine ⟨fun c hc hr => ⟨?permitted, ?clamped, ?undefined⟩, ?denied, ?width, ?read, ?timebase, ?unusable⟩
  case permitted =>
    intro hp ho hf hd hx
    have hp' : inPassiveRange off.toNat := hp
    refine .of_kept hwu (exec_write hc hr ho ?_ ?_) (kept_regWrite_passive hp' hf hd hx)
    all_goals unfold inPassiveRange at hp'; omega
  case clamped =>
    intro ho hx
    have h0 : off.toNat = 0x220100 := ho
    have hk := kept_regWrite_cpyCfg (u := s.reached src) (src := src) hx
    rw [← ho] at hk
    exact .of_kept hwu (exec_write hc hr (by omega) (by omega) (by omega)) hk
  case undefined =>
    intro ho hf hq
    have hwin : ¬ (0x180340 ≤ off.toNat ∧ off.toNat < 0x180380) := fun hin => by
      obtain ⟨j, hj⟩ := findReg_of_contextWindow ho hin
      simp [hf] at hj
    refine .of_kept hwu (exec_write hc hr ho hwin hq) ?_
    rw [regWrite_of_findReg_none hf]
    exact .refl _ _
  case denied =>
    intro hu ho hf hp
    refine .of_kept hwh ?_ ((Kept.refl _ []).denied 0 0 off.toNat)
    rw [← srcWrite_denied hu ho hf hp]
    rfl
  case width =>
    intro hu hl
    refine .of_kept hwh ?_ ((Kept.refl _ []).denied 0 1 off.toNat)
    rw [← bar0Write_width hu hl]
    rfl
  case read =>
    rintro ⟨hu, hf⟩ hne
    have hread := bar0Read_of_open hu hf
    rw [bar0Dwords_of_ne hne] at hread
    exact .of hwh (congrArg finish hread) ((Kept.refl _ _).answer _ _ (by decide)) (by simp [State.answer])
  case timebase =>
    intro hu hf
    have hread := bar0Read_of_open (o := 0x2A0100) (n := 1) hu (by simpa using hf)
    rw [bar0Dwords_tblo] at hread
    refine .of hwh (congrArg finish hread) (((Kept.refl _ _).updClk _ (by decide)).answer _ _ (by decide)) ?_
    simp [State.answer, State.linkActive]
  case unusable =>
    intro hu
    exact .of hw (congrArg finish (bar0Read_of_unusable hu)) ((Kept.refl _ _).answer _ _ (by decide)) (by simp [State.answer])
end Sys2Proof.Machine
end

section
/-! Pairs and locks of set-up space (R79, R87 to R96): the opening member of a pair is staged, the closing member of a window's pair commits both,
ACCLOCK.LOCK holds the grants, and CLEAR empties the clamp log. -/
namespace Sys2Proof.Machine

/-! ### The opening member of a pair -/

theorem hasAcc_of_findReg {o : Nat} {d : RegD} {i k : Nat} {acc : Acc} (hf : findReg o = some (d, i, k)) (ha : ∃ f ∈ d.fields, f.acc = acc) :
    State.hasAcc o acc = true := by
  obtain ⟨f, hm, he⟩ := ha
  simp only [State.hasAcc, hf, List.any_eq_true]
  exact ⟨f, hm, by simp [he]⟩

/-- The window's selector and its longs are no opening members (R554, R555). -/
theorem hasAcc_rws_wsel : State.hasAcc 0x180300 .rws = false := by decide +kernel

theorem hasAcc_rws_contextWindow {o : Nat} (ho : o % 4 = 0) (hw : 0x180340 ≤ o ∧ o < 0x180380) : State.hasAcc o .rws = false := by
  obtain ⟨j, hj⟩ := findReg_of_contextWindow ho hw
  simp [State.hasAcc, hj, wctxReg]

/-- A permitted write of an opening member waits for its commit (R89, R94). -/
theorem regWrite_stages {u : State} {src : Src} {o x i k : Nat} {d : RegD} (hf : findReg o = some (d, i, k)) (hd : d.pres.holds u.variant i = true)
    (ha : ∃ f ∈ d.fields, f.acc = .rws) (hg : u.guard src o x = .free) : u.regWrite src o x = u.stage o x := by
  have ho : o ≠ 0x180300 := fun e => by
    have hacc := hasAcc_of_findReg hf ha
    rw [e, hasAcc_rws_wsel] at hacc
    simp at hacc
  have hany : d.fields.any (fun f => f.acc == .rws) = true := by
    obtain ⟨f, hm, he⟩ := ha
    exact List.any_eq_true.2 ⟨f, hm, by simp [he]⟩
  simp only [regWrite_of_holds hf hd, State.regPresent, ho, if_false, hg, hany, if_true]

/-! ### The pair of a window (R213) -/

/-- WIN_LO and WIN_HI (R245). -/
def winLoReg : RegD := ⟨0x41000, 0x10, 16, 0, 1, .win, [⟨9, 0, .rws, .val 0, .any, true⟩]⟩
def winHiReg : RegD := ⟨0x41004, 0x10, 16, 0, 1, .win, [⟨9, 0, .rwk, .val 1023, .any, true⟩]⟩

theorem findReg_winLo : ∀ n : Fin 16, findReg (F.WIN_LO_LO.ix n).off = some (winLoReg, n.val, 0) := by decide +kernel
theorem findReg_winHi : ∀ n : Fin 16, findReg (F.WIN_HI_HI.ix n).off = some (winHiReg, n.val, 0) := by decide +kernel

/-- WIN_LO stands four bytes below WIN_HI, at the first of a window's four registers. -/
theorem win_off (n : Fin 16) : (F.WIN_LO_LO.ix n).off = 0x41000 + n * 0x10 ∧ (F.WIN_HI_HI.ix n).off = 0x41004 + n * 0x10 := ⟨rfl, rfl⟩

/-- The value that opens a window's pair: as staged, or as the register holds it (R91). -/
def State.winOpening (u : State) (n : Fin 16) : Nat :=
  match lookupKey u.staged (F.WIN_LO_LO.ix n).off with
  | some w => w.toNat
  | none => u.reg (F.WIN_LO_LO.ix n).off

section
variable {s u : State} {src : Src} {o x : Nat} {n : Fin 16}

/-- A field that any value suits is taken as it stands in the word. -/
theorem clampFields_any {d : RegD} {hi lo : Nat} {acc : Acc} {r : ResetV} {aon : Bool} (hd : d.fields = [⟨hi, lo, acc, r, .any, aon⟩]) (o x : Nat) :
    clampFields u o x d acc = ⟨x, x, []⟩ := by
  simp [clampFields, hd, Legal.check, putBits_bitsOf_self]

/-- In a window's pair a low bound that is not above the high one leaves both (R213). -/
theorem pairRel_win {y : Nat} (h : y % 1024 ≤ x % 1024) : pairRel u (F.WIN_HI_HI.ix n).off y x = (y, x) := by
  have hn := n.isLt
  unfold pairRel
  rw [(win_off n).2, if_neg (by omega), if_neg (by omega), if_pos (by omega), if_neg (by omega)]

theorem hook_winHi (t : State) (src : Src) (old eff : Nat) : t.hook src (F.WIN_HI_HI.ix n).off old eff = t := by
  have hn := n.isLt
  have hlow : t.hookLow (F.WIN_HI_HI.ix n).off old eff = t := by
    rw [State.hookLow, (win_off n).2]
    repeat rw [if_neg (by omega)]
  rw [State.hook, if_pos (by rw [(win_off n).2]; omega), hlow]

theorem guard_winHi : u.guard src (F.WIN_HI_HI.ix n).off x = .free := by
  have hn := n.isLt
  have hll : llReg (0x41004 + n * 0x10) = none := if_neg (by omega)
  rw [State.guard, (win_off n).2, hll]
  repeat rw [if_neg (by omega)]

/-- The fields of a register of which one alone has an access code. -/
theorem filter_singleField {d : RegD} {hi lo : Nat} {acc : Acc} {r : ResetV} {g : Legal} {aon : Bool} (hd : d.fields = [⟨hi, lo, acc, r, g, aon⟩]) :
    (d.fields.filter fun f => f.acc == acc) = [⟨hi, lo, acc, r, g, aon⟩] := by simp [hd]

theorem pairLogs_self (d : RegD) (acc : Acc) (y : Nat) : pairLogs d acc y y = [] := by simp [pairLogs]

/-- The two registers of a window's pair, written one after the other. -/
theorem setReg_winPair (t : State) (y : Nat) :
    (t.setReg (F.WIN_LO_LO.ix n).off (putBits (t.reg (F.WIN_LO_LO.ix n).off) 9 0 (bitsOf y 9 0))).setReg (F.WIN_HI_HI.ix n).off
        (putBits (t.reg (F.WIN_HI_HI.ix n).off) 9 0 (bitsOf x 9 0))
      = (t.set (F.WIN_LO_LO.ix n) (y % 1024)).set (F.WIN_HI_HI.ix n) (x % 1024) := by
  have hne : (F.WIN_LO_LO.ix n).off ≠ (F.WIN_HI_HI.ix n).off := by rw [(win_off n).1, (win_off n).2]; omega
  rw [State.set, State.set, State.reg_setReg, if_neg hne, bitsOf_zero_right, bitsOf_zero_right]
  rfl

/-- The closing member of a window's pair writes both members at once (R91, R93). -/
theorem commitPair_win (h : u.winOpening n % 1024 ≤ x % 1024) : u.commitPair (F.WIN_HI_HI.ix n).off x winHiReg =
    (({ u with staged := eraseKey u.staged (F.WIN_LO_LO.ix n).off } : State).set (F.WIN_LO_LO.ix n) (u.winOpening n % 1024)).set (F.WIN_HI_HI.ix n)
      (x % 1024) := by
  have hlo : (F.WIN_HI_HI.ix n).off - 4 = (F.WIN_LO_LO.ix n).off := by rw [(win_off n).1, (win_off n).2]; omega
  cases hl : lookupKey u.staged (F.WIN_LO_LO.ix n).off
  all_goals
    simp only [State.winOpening, hl] at h ⊢
    simp only [State.commitPair, hlo, findReg_winLo, hl, clampFields_any (d := winLoReg) rfl, clampFields_any (d := winHiReg) rfl, pairRel_win h,
      pairLogs_self, filter_singleField (d := winLoReg) rfl, filter_singleField (d := winHiReg) rfl, State.logAll, List.foldl_nil, List.foldl_cons]
    exact setReg_winPair _ _

/-- A permitted write of WIN_HI, whose low bound does not exceed it, commits the pair. -/
theorem regWrite_winHi (hd : Variant.win u.variant n = true) (h : u.winOpening n % 1024 ≤ x % 1024) :
    u.regWrite src (F.WIN_HI_HI.ix n).off x
        = (({ u with staged := eraseKey u.staged (F.WIN_LO_LO.ix n).off } : State).set (F.WIN_LO_LO.ix n) (u.winOpening n % 1024)).set (F.WIN_HI_HI.ix n)
          (x % 1024) := by
  have ho : (F.WIN_HI_HI.ix n).off ≠ 0x180300 := by have := n.isLt; rw [(win_off n).2]; omega
  have hrws : winHiReg.fields.any (fun f => f.acc == .rws) = false := rfl
  have hrwk : winHiReg.fields.any (fun f => f.acc == .rwk) = true := rfl
  rw [regWrite_of_holds (findReg_winHi n) hd]
  simp only [State.regPresent, ho, if_false, guard_winHi, hrws, hrwk, Bool.false_eq_true, if_true, commitPair_win h, hook_winHi]
end

/-! ### Locks and the clamp log -/

/-- CFG_ACCLOCK, CFG_CLAMPCTL and the two grants (R79, R86). -/
def accLockReg : RegD := ⟨0x10108, 0, 1, 0, 1, .always, [⟨0, 0, .w1s, .val 0, .any, false⟩]⟩
def clampCtlReg : RegD := ⟨0x10208, 0, 1, 0, 1, .always, [⟨0, 0, .wo, .val 0, .any, false⟩]⟩
def hostAccReg : RegD := ⟨0x10100, 0, 1, 0, 1, .always, [⟨22, 0, .rw, .val 0x7FFDFC, .keep 0x7FFDFC, false⟩]⟩
def hallPAccReg : RegD := ⟨0x10104, 0, 1, 0, 1, .always, [⟨22, 0, .rw, .val 0, .keep 0x7FFDFC, false⟩]⟩

theorem findReg_accLock : findReg F.CFG_ACCLOCK_LOCK.off = some (accLockReg, 0, 0) := by decide +kernel
theorem findReg_clampCtl : findReg F.CFG_CLAMPCTL_CLEAR.off = some (clampCtlReg, 0, 0) := by decide +kernel
theorem findReg_hostAcc : findReg F.CFG_HOSTACC_GRANT.off = some (hostAccReg, 0, 0) := by decide +kernel
theorem findReg_hallPAcc : findReg F.CFG_HALLPACC_GRANT.off = some (hallPAccReg, 0, 0) := by decide +kernel

section
variable {s u : State} {src : Src} {o x : Nat}

/-- A register other than a block's STAT reads as a number of 32 bits. -/
theorem readReg_lt (s : State) (src : Src) (ho : statBlock o = none) : s.readReg src o < 2 ^ 32 := by
  unfold State.readReg
  split
  case h_1 => decide
  case h_2 d i k hf =>
    split
    · split <;> decide
    · simp only [ho]
      split
      · exact Nat.mod_lt _ (by decide)
      · split
        · omega
        · exact lt_of_le_of_lt Nat.and_le_left (State.reg_lt s o)

/-- A write that sets bit 0 of a register of the block CFG reaches it. -/
theorem srcField_eq {f : Fld} (h : s.reachesField src f 1 = true) (hf : f.hi < 32) (hs : statBlock f.off = none) (ho : f.off % 4 = 0)
    (hcfg : f.off < 0x20000) :
    s.srcField src f 1 = (s.reached src).regWrite src f.off (putBits (s.readReg src f.off) f.hi f.lo 1) :=
  srcWrite_eq h ho (putBits_lt _ _ _ _ _ (readReg_lt s src hs) hf) (by omega) (by omega)

/-- No unit acts on a write of the grants or of the lock. -/
theorem hook_accessControl (h : 0x10100 ≤ o ∧ o < 0x10200) (t : State) (old eff : Nat) : t.hook src o old eff = t := by
  have hlow : t.hookLow o old eff = t := by
    rw [State.hookLow]
    repeat rw [if_neg (by omega)]
  rw [State.hook, if_pos (by omega), hlow]

/-- The lock and the log's control are guarded by nothing. -/
theorem guard_of_cfg (h : 0x10108 ≤ o ∧ o < 0x20000) : u.guard src o x = .free := by
  have hll : llReg o = none := if_neg (by omega)
  rw [State.guard, hll]
  repeat rw [if_neg (by omega)]

/-- ACCLOCK.LOCK is set by a write of 1 (R79). -/
theorem kept_regWrite_accLock (hx : bitsOf x 0 0 = 1) : Kept u (u.regWrite src F.CFG_ACCLOCK_LOCK.off x) [] [(F.CFG_ACCLOCK_LOCK, 1)] := by
  have hone : bitsOf (u.reg F.CFG_ACCLOCK_LOCK.off) 0 0 ||| bitsOf x 0 0 = 1 := by
    have hlt := bitsOf_lt (u.reg F.CFG_ACCLOCK_LOCK.off) 0 0
    rw [hx]
    interval_cases bitsOf (u.reg F.CFG_ACCLOCK_LOCK.off) 0 0 <;> rfl
  have hk := (Kept.refl u []).regApply (src := src) (x := x) (out := []) findReg_accLock (by simp [accLockReg, FieldD.plain, Legal.check])
    fun t old eff => hook_accessControl (by decide) t old eff
  rw [regWrite_of_holds findReg_accLock rfl, regPresent_of_free (by decide) (guard_of_cfg (by decide)) (by decide)]
  simp only [accLockReg, List.filter_cons, List.filter_nil, List.contains_nil, Bool.not_false, if_true, List.filterMap_cons, List.filterMap_nil,
    FieldD.stored, hone, List.nil_append] at hk
  exact hk

/-- While ACCLOCK.LOCK is set, a write of a grant changes nothing (R79). -/
theorem kept_regWrite_grant (ho : o = F.CFG_HOSTACC_GRANT.off ∨ o = F.CFG_HALLPACC_GRANT.off) (hl : u.get F.CFG_ACCLOCK_LOCK = 1) :
    Kept u (u.regWrite src o x) [] [] := by
  have hreg : ∃ d, findReg o = some (d, 0, 0) ∧ d.pres = .always ∧ ∀ f ∈ d.fields, f.lo = 0 := by
    rcases ho with rfl | rfl
    · exact ⟨_, findReg_hostAcc, rfl, by decide⟩
    · exact ⟨_, findReg_hallPAcc, rfl, by decide⟩
  obtain ⟨d, hf, hp, hlo⟩ := hreg
  have h0 : o = 0x10100 ∨ o = 0x10104 := ho
  have hg : u.guard src o x = .ignore [0] := by
    rw [State.guard, if_pos h0, if_pos (by simp [State.flag, hl])]
  have hk := (Kept.refl u []).regApply (src := src) (x := x) (out := [0]) hf (fun f hm hc => by simp [hlo f hm] at hc)
    fun t old eff => hook_accessControl (by omega) t old eff
  have hnone : (d.fields.filter fun f => !([0] : List Nat).contains f.lo) = [] :=
    List.filter_eq_nil_iff.2 fun f hm => by simp [hlo f hm]
  rw [hnone] at hk
  rw [regWrite_of_holds hf (by rw [hp]; rfl), State.regPresent, if_neg (by omega), hg]
  exact hk

/-- CLAMPCTL.CLEAR empties the log, its index and its total (R87). -/
theorem Kept.logClear {ps : List Area} {ws : List (Fld × Nat)} (h : Kept s u ps ws) : Kept s u.logClear ps (ws ++
    ((List.range 512).map (fun j => (⟨0x10800 + 4 * j, 31, 0, 0, 0⟩, 0)) ++ [(F.CFG_CLAMPWR_NEXT, 0), (F.CFG_CLAMPTOT_TOTAL, 0)])) := by
  have hk := ((h.foldl_set (List.range 512) (fun j => ⟨0x10800 + 4 * j, 31, 0, 0, 0⟩) (fun _ => 0)).set F.CFG_CLAMPWR_NEXT 0).set
    F.CFG_CLAMPTOT_TOTAL 0
  have hset : u.logClear = (((List.range 512).foldl (fun t j => t.set ⟨0x10800 + 4 * j, 31, 0, 0, 0⟩ 0) u).set F.CFG_CLAMPWR_NEXT 0).set
      F.CFG_CLAMPTOT_TOTAL 0 := by
    simp only [State.logClear, State.setReg_eq_set _ _ (show (0 : Nat) < 2 ^ 32 by decide)]
  simpa [hset] using hk

/-- A write of 1 to CLAMPCTL.CLEAR changes no field, and clears the log. -/
theorem regWrite_clampCtl (hx : bitsOf x 0 0 = 1) :
    u.regWrite src F.CFG_CLAMPCTL_CLEAR.off x = (u.setReg F.CFG_CLAMPCTL_CLEAR.off (u.reg F.CFG_CLAMPCTL_CLEAR.off)).logClear := by
  have hbit : bit (putBits x 0 0 (bitsOf x 0 0)) 0 = true := by
    rw [putBits_bitsOf_self, bit_eq_testBit]
    have := testBit_bitsOf x 0 0 0
    rw [hx] at this
    simpa using this.symm
  have happ : u.applyFields F.CFG_CLAMPCTL_CLEAR.off x clampCtlReg [] = ⟨u.reg F.CFG_CLAMPCTL_CLEAR.off, putBits x 0 0 (bitsOf x 0 0), []⟩ := by
    simp [State.applyFields, clampCtlReg, Applied.field, Legal.check]
  rw [regWrite_of_holds findReg_clampCtl rfl, regPresent_of_free (by decide) (guard_of_cfg (by decide)) (by decide), State.regApply, happ]
  simp [State.hook, State.hookLow, State.logAll, State.trig, F.CFG_CLAMPCTL_CLEAR, hbit]
end

/-! ### The statements -/

/-- The opening value of a window's pair, as the field of its low bound. -/
theorem winOpening_mod (u : State) (n : Fin 16) : u.winOpening n % 1024 = match lookupKey u.staged (F.WIN_LO_LO.ix n).off with
    | some y => y.toNat % 1024
    | none => u.get (F.WIN_LO_LO.ix n) := by
  unfold State.winOpening
  cases lookupKey u.staged (F.WIN_LO_LO.ix n).off
  case some => rfl
  case none => exact (bitsOf_zero_right _ 9).symm

/-- PAIRED_COMMIT of a window's pair, with its low bound as staged or current (R91, R93). -/
theorem does_pairedCommit_win {s : State} {src : Src} {off : BitVec 22} {v : Long} {n : Fin 16} {low : Nat} (hw : s.wired = true)
    (ho : off.toNat = (F.WIN_HI_HI.ix n).off) (hr : s.reaches src off.toNat v.toNat = true) (hd : Variant.win (s.reached src).variant n = true)
    (hlow : (s.reached src).winOpening n % 1024 = low) (hle : low ≤ v.toNat % 1024) :
    Does (s.reached src) (exec (.pairedCommit src off v) s) [.staged] [(F.WIN_LO_LO.ix n, low), (F.WIN_HI_HI.ix n, v.toNat % 1024)]
      fun t => t.staged = eraseKey (s.reached src).staged (F.WIN_LO_LO.ix n).off := by
  subst hlow
  have hacc : State.hasAcc off.toNat .rwk = true := by
    rw [ho]
    exact hasAcc_of_findReg (findReg_winHi n) ⟨_, List.mem_singleton_self _, rfl⟩
  have hoff : off.toNat = 0x41004 + n * 0x10 := ho
  have hn := n.isLt
  refine .of (State.wired_reached hw src) ?_ ((((Kept.refl (s.reached src) [.staged]).staged_
    (eraseKey (s.reached src).staged (F.WIN_LO_LO.ix n).off) (by decide)).set (F.WIN_LO_LO.ix n) ((s.reached src).winOpening n % 1024)).set
    (F.WIN_HI_HI.ix n) (v.toNat % 1024)) (by simp)
  show finish (if State.hasAcc off.toNat .rwk then s.srcWrite src off.toNat v.toNat else s) = _
  rw [if_pos hacc, srcWrite_eq hr (by omega) v.isLt (by omega) (by omega), ho, regWrite_winHi hd hle]
  rfl

/-- The clauses on pairs, the lock and the log: each write reaches its register, and what that register's write keeps is the frame. -/
theorem pairsAndLocksOfSetup : Claims.PairsAndLocksOfSetup := by
  intro s src off v d i k n hw
  have hwu := State.wired_reached hw src
  refine ⟨?stage, ?commit, ?lock, ?locked, ?clear⟩
  case stage =>
    intro hr ho hq hf hd ha hg
    have hacc := hasAcc_of_findReg hf ha
    have hwin : ¬ (0x180340 ≤ off.toNat ∧ off.toNat < 0x180380) := fun h => by simp [hasAcc_rws_contextWindow ho h] at hacc
    refine .of hwu ?_ ((Kept.refl _ _).staged_ (insertKey (s.reached src).staged off.toNat (BitVec.ofNat 32 (v.toNat % 2 ^ 31))) (by decide)) (by simp)
    show finish (if State.hasAcc off.toNat .rws then s.srcWrite src off.toNat v.toNat else s) = _
    rw [if_pos hacc, srcWrite_eq hr ho v.isLt hwin hq, regWrite_stages hf hd ha hg]
    rfl
  case commit => exact fun ho hr hd hle => does_pairedCommit_win hw ho hr hd (winOpening_mod _ n) hle
  case lock =>
    intro hr
    refine .of_kept hwu (congrArg finish (srcField_eq hr (by decide) (by decide +kernel) (by decide) (by decide))) (kept_regWrite_accLock ?_)
    exact bitsOf_putBits_same _ 0 0 1
  case locked =>
    intro ho hr hl
    have hoff : off.toNat = 0x10100 ∨ off.toNat = 0x10104 := ho
    exact .of_kept hwu (exec_write (.inl rfl) hr (by omega) (by omega) (by omega)) (kept_regWrite_grant ho hl)
  case clear =>
    intro hr
    refine .of_kept hwu (congrArg finish (srcField_eq hr (by decide) (by decide +kernel) (by decide) (by decide))) ?_
    have hx : bitsOf (putBits (s.readReg src F.CFG_CLAMPCTL_CLEAR.off) F.CFG_CLAMPCTL_CLEAR.hi F.CFG_CLAMPCTL_CLEAR.lo 1) 0 0 = 1 :=
      bitsOf_putBits_same _ 0 0 1
    rw [regWrite_clampCtl hx]
    have hk := ((Kept.refl (s.reached src) []).same F.CFG_CLAMPCTL_CLEAR.off).logClear
    rwa [List.nil_append] at hk

/-- Settles O50: a write that reaches its register is `regWrite` in the state it reaches, and each clause says what that one write, or the read, keeps. -/
theorem setupSpaceIsKept : Obligations.SetupSpaceIsKept := ⟨setupSpaceIsWrittenAndRead, pairsAndLocksOfSetup⟩

/-- Settles O28: the queue's front decides which arm of `step` is taken. -/
theorem stepTakesTheFrontCommand : Obligations.StepTakesTheFrontCommand := by
  intro s c rest h
  unfold step
  rw [h]

end Sys2Proof.Machine
end

section
/-! ASCEND (R456 to R458, R462): the checks in the order of R456, and the core at the return from the only entry outstanding. -/
namespace Sys2Proof.Machine

/-! ### A core after the end of a held window -/

section
variable (q : Core) (code : Nat)

@[simp] theorem Core.hold_endHold : (q.endHold code).hold = none := by
  unfold Core.endHold
  split
  · assumption
  · rfl

@[simp] theorem Core.hall_endHold : (q.endHold code).hall = q.hall :=
  congrArg hallOf (cswKept_bit (q.sysKept_endHold code).csw 18 (by decide) (by decide))

@[simp] theorem Core.stair_endHold : (q.endHold code).stair = q.stair := by
  apply Nat.eq_of_testBit_eq
  intro i
  simp only [Core.stair, cswStair, testBit_bitsOf]
  by_cases hi : i < 2
  · have hbit := cswKept_bit (q.sysKept_endHold code).csw (i + 16) (by omega) (by interval_cases i <;> rfl)
    exact congrArg _ hbit
  · simp [hi]

/-- CSW outside HELD. -/
theorem Core.csw_endHold_and {m : Word} (hm : ~~~0x200000#48 &&& m = m) : (q.endHold code).csw &&& m = q.csw &&& m := by
  rw [← hm, ← BitVec.and_assoc, (q.sysKept_endHold code).csw, BitVec.and_assoc]

theorem Core.cr_endHold {h : Hall} {i : Nat} (hi : (h, i) ≠ (q.hall, 0x08D)) : (q.endHold code).cr h i = q.cr h i :=
  (q.sysKept_endHold code).cr h i (by simpa using hi)
end

/-! ### The return -/

/-- The core after a return from the only entry outstanding at its stair (R456 steps 8 to 10). -/
def Core.ascended (q : Core) (units : Bool) : Core :=
  let target := q.cr q.hall (crRETCSW q.stair)
  let r := q.popped q.hall q.stair none
  let r := if cswHall target = q.hall then r else r.leavePassage units
  { r with csw := ascendCsw r.csw target }

section
variable (q : Core) (units : Bool) (h : Hall) (t : Nat)

/-- Without a spill record only the depth goes down (R456 step 8). -/
theorem Core.popped_none : q.popped h t none = q.setCr h (crRDEPTH t) (q.cr h (crRDEPTH t) - 1#48) := rfl

theorem Core.leavePassage_eq : q.leavePassage units = { q with
    w := (q.scrub false).w, f := if units then Core.reset.f else q.f, da := if units then Core.reset.da else q.da,
    fcsw := if units then q.cr .L crPSAVEFCSW else q.fcsw, fpNew := if units then 0 else q.fpNew } := by
  cases units <;> simp [Core.leavePassage, Core.scrub, Core.cr, Core.spOf, Core.bank]

@[simp] theorem Core.csw_leavePassage : (q.leavePassage units).csw = q.csw := by rw [Core.leavePassage_eq]
@[simp] theorem Core.hold_leavePassage : (q.leavePassage units).hold = q.hold := by rw [Core.leavePassage_eq]
@[simp] theorem Core.cr_leavePassage (i : Nat) : (q.leavePassage units).cr h i = q.cr h i := by
  rw [Core.leavePassage_eq]
  cases h <;> simp only [Core.cr, Core.spOf, Core.bank]

/-- W9 to W30 carry no parameters, W0 to W8 may (R462). -/
theorem Core.rd_leavePassage {n : RegNo} (hn : n.val < 31) : (q.leavePassage units).rd n = if 9 ≤ n.val then 0 else q.rd n := by
  have hw : (q.leavePassage units).w = (q.scrub false).w := by rw [Core.leavePassage_eq]
  rw [Core.rd_of_w hw hn]
  simp only [Core.rd, Core.scrub, Bool.false_eq_true, if_false, hn, dif_pos, Vector.getElem_ofFn]
  grind

theorem Core.fcsw_leavePassage : (q.leavePassage units).fcsw = if units then q.cr .L crPSAVEFCSW else q.fcsw := by
  rw [Core.leavePassage_eq]

theorem Core.f_leavePassage (n : RegNo) : (q.leavePassage true).f[n] = 0 := by
  rw [Core.leavePassage_eq]
  exact Vector.getElem_replicate n.isLt
theorem Core.da_leavePassage (n : Fin 8) : (q.leavePassage true).da[n] = 0xC#128 := by
  rw [Core.leavePassage_eq]
  exact Vector.getElem_replicate n.isLt
end

section
variable {s : State} {c : CoreId}

/-! ### The checks -/

/-- At stairs 0 and 1 the window ends, and the steps of R456 follow. -/
theorem exec_ascend (h : s.ready c = true) (hg : gateKeep s c 0x0D = none) (ht : (s.core c).tpend = false) :
    exec (.ascend c 0) s = finish (run s c 0x0D fun s => ascend (endHold s c 5) c) :=
  congrArg finish (runWith_run h hg true false (.inr ht) _)

theorem gateKeep_system (hs : (s.core c).stair < 2) : gateKeep s c 0x0D = none := by
  have hu : unitAbsent s.variant 0x0D = none := by
    unfold unitAbsent
    split <;> rfl
  simp only [gateKeep, hu]
  exact if_neg (by omega)

section
variable {h : Hall} {t : Nat} (hh : (s.core c).hall = h) (ht : (s.core c).stair = t)
include hh ht

theorem ascend_of_noEntry (hd : ((s.core c).cr h (crRDEPTH t)).toNat = 0) : ascend s c = (s, .exc (gateFault 10 0)) := by
  subst hh ht
  simp [ascend, hd]

theorem ascend_of_notHigher (hd : 0 < ((s.core c).cr h (crRDEPTH t)).toNat) (hhall : cswHall ((s.core c).cr h (crRETCSW t)) = h)
    (hstair : cswStair ((s.core c).cr h (crRETCSW t)) ≤ t) : ascend s c = (s, .exc (gateFault 10 0)) := by
  subst hh ht
  simp [ascend, hd.ne', hhall, hstair]

theorem ascend_of_hallPOff (hd : 0 < ((s.core c).cr h (crRDEPTH t)).toNat)
    (hup : cswHall ((s.core c).cr h (crRETCSW t)) = h → t < cswStair ((s.core c).cr h (crRETCSW t)))
    (hhall : cswHall ((s.core c).cr h (crRETCSW t)) = .P) (hoff : s.flag F.PWR_HALLPCTL_ENABLE = false) : ascend s c = (s, .exc hallPEntry) := by
  subst hh ht
  have hstop : ¬ (cswHall ((s.core c).cr (s.core c).hall (crRETCSW (s.core c).stair)) = (s.core c).hall
      ∧ cswStair ((s.core c).cr (s.core c).hall (crRETCSW (s.core c).stair)) ≤ (s.core c).stair) := fun hx => by have := hup hx.1; omega
  have hstop' : cswHall ((s.core c).cr (s.core c).hall (crRETCSW (s.core c).stair)) = .P ∧ ¬ s.flag F.PWR_HALLPCTL_ENABLE = true :=
    ⟨hhall, by simp [hoff]⟩
  simp only [ascend, hd.ne', if_false, if_neg hstop, if_pos hstop']

theorem ascend_of_oneEntry (hd : ((s.core c).cr h (crRDEPTH t)).toNat = 1)
    (hup : cswHall ((s.core c).cr h (crRETCSW t)) = h → t < cswStair ((s.core c).cr h (crRETCSW t)))
    (hon : cswHall ((s.core c).cr h (crRETCSW t)) = .P → s.flag F.PWR_HALLPCTL_ENABLE = true) :
    ascend s c = (s.updCore c fun q => q.ascended (Variant.hasDsc s.variant), .jump ((s.core c).cr h (crRETPC t))) := by
  subst hh ht
  have hstop : ¬ (cswHall ((s.core c).cr (s.core c).hall (crRETCSW (s.core c).stair)) = (s.core c).hall
      ∧ cswStair ((s.core c).cr (s.core c).hall (crRETCSW (s.core c).stair)) ≤ (s.core c).stair) := fun hx => by have := hup hx.1; omega
  have hoff : ¬ (cswHall ((s.core c).cr (s.core c).hall (crRETCSW (s.core c).stair)) = .P ∧ ¬ s.flag F.PWR_HALLPCTL_ENABLE = true) :=
    fun hx => hx.2 (hon hx.1)
  have hpop : popReturn s c = (s, .inr none) := by simp [popReturn, hd]
  simp only [ascend, hd, if_false, hstop, hoff, hpop, one_ne_zero]
  rfl
end
end

/-! ### The core that returns -/

section
variable {q : Core} {h : Hall} {t : Nat} (units : Bool) (hh : q.hall = h) (ht : q.stair = t)
include hh ht

theorem Core.csw_ascended : (q.ascended units).csw = ascendCsw q.csw (q.cr h (crRETCSW t)) := by
  subst hh ht
  simp only [Core.ascended, Core.popped_none]
  split <;> simp

omit hh ht in
theorem Core.hold_ascended : (q.ascended units).hold = q.hold := by
  simp only [Core.ascended, Core.popped_none]
  split <;> simp

/-- Of the control registers only the depth changes. -/
theorem Core.cr_ascended (k : Hall) (i : Nat) : (q.ascended units).cr k i
    = if k = h ∧ i = crRDEPTH t then storedCr h (crRDEPTH t) (q.cr h (crRDEPTH t) - 1#48) else q.cr k i := by
  have hcsw : ∀ (r : Core) (v : Word), ({ r with csw := v } : Core).cr k i = r.cr k i := by intros; cases k <;> rfl
  subst hh ht
  simp only [Core.ascended, Core.popped_none, hcsw]
  split <;> simp [Core.cr_setCr]

/-- A return within the hall leaves the registers. -/
theorem Core.ascended_sameHall (hhall : cswHall (q.cr h (crRETCSW t)) = h) :
    (q.ascended units).w = q.w ∧ (q.ascended units).f = q.f ∧ (q.ascended units).da = q.da ∧ (q.ascended units).fcsw = q.fcsw
      ∧ (q.ascended units).fta = q.fta := by
  subst hh ht
  simp only [Core.ascended, Core.popped_none, hhall, if_true]
  simp

/-- A return to the other hall is a passage return (R462). -/
theorem Core.ascended_otherHall (hhall : cswHall (q.cr h (crRETCSW t)) ≠ h) :
    let r := (q.setCr h (crRDEPTH t) (q.cr h (crRDEPTH t) - 1#48)).leavePassage units
    (q.ascended units).w = r.w ∧ (q.ascended units).f = r.f ∧ (q.ascended units).da = r.da ∧ (q.ascended units).fcsw = r.fcsw := by
  subst hh ht
  simp only [Core.ascended, Core.popped_none, if_neg hhall]
  simp

theorem Core.rd_ascended_otherHall (hhall : cswHall (q.cr h (crRETCSW t)) ≠ h) {n : RegNo} (hn : n.val < 31) :
    (q.ascended units).rd n = if 9 ≤ n.val then 0 else q.rd n := by
  obtain ⟨hw, -⟩ := Core.ascended_otherHall units hh ht hhall
  rw [Core.rd_of_w hw hn, Core.rd_leavePassage _ _ hn, Core.rd_of_w (Core.w_setCr _ _ _ _) hn]

theorem Core.fcsw_ascended_otherHall (hhall : cswHall (q.cr h (crRETCSW t)) ≠ h) :
    (q.ascended units).fcsw = if units then q.cr .L crPSAVEFCSW else q.fcsw := by
  obtain ⟨-, -, -, hfcsw⟩ := Core.ascended_otherHall units hh ht hhall
  have hlt := bitsOf_lt q.csw.toNat 17 16
  have hne : crPSAVEFCSW ≠ crRDEPTH t := by
    subst ht
    simp only [crPSAVEFCSW, crRDEPTH, Core.stair, cswStair]
    omega
  have hcr : (q.setCr h (crRDEPTH t) (q.cr h (crRDEPTH t) - 1#48)).cr .L crPSAVEFCSW = q.cr .L crPSAVEFCSW := by
    rw [Core.cr_setCr, if_neg (fun e => hne e.2)]
  rw [hfcsw, Core.fcsw_leavePassage, hcr, Core.fcsw_setCr]
end

/-- CSW after an ASCEND has only bits that are not wired to zero. -/
theorem ascendCsw_and (a b : Word) : ascendCsw a b &&& cswBits = ascendCsw a b := by
  simp only [ascendCsw, cswBits, BitVec.and_or_distrib_right, BitVec.and_assoc]
  rfl

/-! ### The command -/

section
variable {s : State} {c : CoreId}

/-- The state after a return from the only entry outstanding. -/
theorem exec_ascend_returns (hr : s.ready c = true) (hw : s.wired = true) (hg : gateKeep s c 0x0D = none) (ht : (s.core c).tpend = false) {pc : Word}
    (hb : ascend (endHold s c 5) c = ((endHold s c 5).updCore c fun q => q.ascended (Variant.hasDsc s.variant), .jump pc)) :
    ∃ x : State, exec (.ascend c 0) s = .next x.settle ∧ OthersKept s x.settle c
      ∧ x.core c = (((s.core c).endHold 5).ascended (Variant.hasDsc s.variant)).retire (s.core c).hold.isSome pc := by
  have hupd : (endHold s c 5).updCore c (fun q => q.ascended (Variant.hasDsc s.variant))
      = s.updCore c fun q => (q.endHold 5).ascended (Variant.hasDsc s.variant) := by
    simp [endHold_eq, State.updCore, State.setCore, State.core]
  refine ⟨_, ?_, othersKept_updCore hw fun q => ((q.endHold 5).ascended (Variant.hasDsc s.variant)).retire (s.core c).hold.isSome pc, by simp⟩
  rw [exec_ascend hr hg ht, run_ready hr hg, hb, hupd]
  exact congrArg finish (retireAt_updCore hr _ _ _)

/-- Settles O23: the checks of R456 in their order, and of the core that returns each part by its lemma. -/
theorem ascendReturnsToTheCaller : Obligations.AscendReturnsToTheCaller := by
  intro s c hr hw htp hst q h t v d target units fails
  have hg := gateKeep_system hst
  have ht : t < 2 := hst
  have hv : v.core c = q.endHold 5 := by simp [v, q, endHold_eq]
  have hhall : (v.core c).hall = h := by simp [hv, h]
  have hstair : (v.core c).stair = t := by simp [hv, t]
  have hcr : ∀ i < 0x020, (v.core c).cr h i = q.cr h i := fun i hi => by
    rw [hv, Core.cr_endHold]
    simp
    omega
  have hdepth : (v.core c).cr h (crRDEPTH t) = q.cr h (0x010 + t) := hcr _ (by unfold crRDEPTH; omega)
  have htarget : (v.core c).cr h (crRETCSW t) = target := hcr _ (by unfold crRETCSW; omega)
  have hraises : ∀ e, ascend v c = (v, .exc e) → RaisesAt s v (exec (.ascend c 0) s) c 0x0D e := fun e hb => by
    rw [exec_ascend hr hg htp]
    exact run_raises hr hg htp e hb
  refine ⟨fun hd => ?none, fun hd hsame hlow => ?low, fun hd hup => ⟨fun hP hoff => ?hallPOff, fun hone hon => ?returns⟩⟩
  case none => exact hraises _ (ascend_of_noEntry hhall hstair (by rw [hdepth]; exact hd))
  case low => exact hraises _ (ascend_of_notHigher hhall hstair (by rw [hdepth]; exact hd) (by rw [htarget]; exact hsame) (by rw [htarget]; exact hlow))
  case hallPOff =>
    exact hraises _ (ascend_of_hallPOff hhall hstair (by rw [hdepth]; exact hd) (by rw [htarget]; exact hup) (by rw [htarget]; exact hP) hoff)
  case returns =>
    have hb := ascend_of_oneEntry hhall hstair (by rw [hdepth]; exact hone) (by rw [htarget]; exact hup) (by rw [htarget]; exact hon)
    obtain ⟨x, hx, ⟨hrest, hothers⟩, hxc⟩ := exec_ascend_returns hr hw hg htp hb
    rw [hv] at hhall hstair hdepth htarget
    have hq := State.wired_core hw c
    have hkept := q.sysKept_endHold 5
    refine ⟨_, hx, ?_, ?_, ?_, ?_, ?_, hothers, hrest, ?_⟩
    · rw [pc_settle, hxc, Core.pc_retire, hcr _ (by unfold crRETPC; omega)]
      rfl
    · rw [hold_settle, hxc]
      simp [Core.retire, Core.hold_ascended]
    · rw [csw_settle, hxc, Core.csw_retire, Core.csw_ascended _ hhall hstair, ascendCsw_and, htarget, ascendCsw, Core.csw_endHold_and _ _ (by decide)]
    · have hzero : q.cr h (0x010 + t) = 1#48 := BitVec.eq_of_toNat_eq hone
      rw [cr_settle, hxc, Core.cr_retire, Core.cr_ascended _ hhall hstair, if_pos ⟨rfl, rfl⟩, hdepth, hzero]
      unfold storedCr crRDEPTH
      rw [if_neg (by omega), if_neg (by omega)]
      simp
    · intro k i hki
      simp only [List.mem_cons, List.not_mem_nil, or_false, not_or] at hki
      rw [cr_settle, hxc, Core.cr_retire, Core.cr_ascended _ hhall hstair, if_neg (by simpa [crRDEPTH] using hki.2)]
      exact hkept.cr k i (by simpa using hki.1)
    · split
      case isTrue hsame =>
        obtain ⟨hrw, hrf, hrda, hrfcsw, hrfta⟩ := Core.ascended_sameHall (Variant.hasDsc s.variant) hhall hstair (htarget.symm ▸ hsame)
        refine ⟨fun n hn => ?_, fun n hn => ?_, fun n hn => ?_, ?_, ?_⟩
        · rw [rd_settle, hxc, Core.rd_retire, Core.rd_of_w hrw hn, hkept.w n hn (by simp)]
        · rw [f_settle, hxc, Core.f_retire, hrf, hkept.f n hn]
        · rw [da_settle, hxc, Core.da_retire, hrda, hkept.da n hn]
        · rw [fcsw_settle, hxc, Core.fcsw_retire, hrfcsw, hkept.fp.1, wired_fcsw hq]
        · rw [fta_settle, hxc, Core.fta_retire, hrfta, hkept.fp.2]
      case isFalse hother =>
        have hother' : cswHall ((q.endHold 5).cr h (crRETCSW t)) ≠ h := htarget.symm ▸ hother
        have hrd : ∀ n : RegNo, n.val < 31 → (x.settle.core c).rd n = if 9 ≤ n.val then 0 else q.rd n := fun n hn => by
          rw [rd_settle, hxc, Core.rd_retire, Core.rd_ascended_otherHall _ hhall hstair hother' hn, hkept.w n hn (by simp)]
        have hfcsw := Core.fcsw_ascended_otherHall (Variant.hasDsc s.variant) hhall hstair hother'
        obtain ⟨-, hf, hda, -⟩ := Core.ascended_otherHall (Variant.hasDsc s.variant) hhall hstair hother'
        refine ⟨fun n h9 hn => (hrd n hn).trans (if_pos h9), fun n h9 => (hrd n (by omega)).trans (if_neg (by omega)), ?_⟩
        split
        case isTrue hu =>
          rw [show Variant.hasDsc s.variant = true from hu] at hf hda hfcsw hxc
          refine ⟨?_, fun n => ?_, fun n => ?_⟩
          · rw [fcsw_settle, hxc, Core.fcsw_retire, hfcsw, if_pos rfl, Core.cr_endHold _ _ (by simp [crPSAVEFCSW])]
            rfl
          · rw [f_settle, hxc, Core.f_retire, hf, Core.f_leavePassage]
          · rw [da_settle, hxc, Core.da_retire, hda, Core.da_leavePassage]
        case isFalse hu =>
          rw [fcsw_settle, hxc, Core.fcsw_retire, hfcsw, if_neg hu, hkept.fp.1, wired_fcsw hq]
end
end Sys2Proof.Machine
end

section
/-! The host's link (R120, R743, R747 to R752): each command of the link changes the link and at most an event of HLK; a link reset leaves HLK at its
reset values but for what R752 keeps. -/
namespace Sys2Proof.Machine

/-! ### Commands that wait for an island -/

section
variable {s : State} {f : State → State}

theorem State.whenAon_of (h : s.pwr.aonUp = true) : s.whenAon f = f s := if_pos h
theorem State.whenFabric_of (h : s.pwr.fabricUp = true) : s.whenFabric f = f s := if_pos h
theorem State.whenLink_of (h : s.link.up = true ∧ s.link.perst = false) : s.whenLink f = f s := if_pos (by simp [h])
end

/-! ### The end of a command on the link -/

/-- A command that changes the link and registers: settling sends messages that may go, and leaves the rest of the link. -/
theorem Does.link {s u : State} {o : Host.Outcome State Fault Refusal} {ws : List (Fld × Nat)} (hw : s.wired = true) (ho : o = .next u.settle)
    (h : Kept s u [.link] ws) {x : Link} (hx : u.link = x) :
    Does s o [.link] ws fun t => t.link = { x with msixWait := t.link.msixWait, msiPend := t.link.msiPend } :=
  .of hw ho h (hx ▸ (settles_settleUnits u).link)

/-- The same for a command that only changes the link. -/
theorem does_updLink {s : State} {o : Host.Outcome State Fault Refusal} (hw : s.wired = true) {f : Link → Link} (ho : o = .next (s.updLink f).settle)
    {x : Link} (hx : f s.link = x) :
    Does s o [.link] [] fun t => t.link = { x with msixWait := t.link.msixWait, msiPend := t.link.msiPend } :=
  .link hw ho ((Kept.refl s [.link]).updLink f (by decide)) hx

/-- The same for one that also sets an event of HLK. -/
theorem does_updLink_event {s : State} {o : Host.Outcome State Fault Refusal} (hw : s.wired = true) {f : Link → Link} {n : Nat}
    (ho : o = .next ((s.updLink f).event 21 n).settle) {x : Link} (hx : f s.link = x) :
    Does s o [.link] [(evtBit 21 n, 1)] fun t => t.link = { x with msixWait := t.link.msixWait, msiPend := t.link.msiPend } :=
  .link hw ho (((Kept.refl s [.link]).updLink f (by decide)).event 21 n) (by simpa using hx)

section
variable {s : State} (hw : s.wired = true)
include hw

/-- A change of the D-state (R747). -/
theorem does_dState {o : Host.Outcome State Fault Refusal} {d : Nat} (hd : s.link.dState ≠ d) (ho : o = .next (s.dState d).settle) :
    Does s o [.link] [(evtBit 21 3, 1)] fun t =>
      t.link = { s.link with dState := d, msixWait := t.link.msixWait, msiPend := t.link.msiPend } := by
  rw [State.dState, if_neg hd] at ho
  exact does_updLink_event hw ho rfl

/-- PME while it is enabled (R748). -/
theorem does_pme {u : State} {o : Host.Outcome State Fault Refusal} (hk : Kept s u [.link] []) (hl : u.link = s.link) (hen : s.link.pmeEn = true)
    (ho : o = .next u.pme.settle) : Does s o [.link] [] fun t =>
      t.link = { s.link with pmeStat := true, wakeN := s.link.wakeN || s.link.perst, msixWait := t.link.msixWait, msiPend := t.link.msiPend } := by
  rw [State.pme, if_pos (by rw [hl]; exact hen)] at ho
  exact .link (x := { s.link with pmeStat := true, wakeN := s.link.wakeN || s.link.perst }) hw ho (hk.updLink _ (by decide)) (by simp [hl])

end
end Sys2Proof.Machine
end

section
/-! A reset of the link (R120), and PME as Hall L requests it (R748): the write of a register whose fields are only written. -/
namespace Sys2Proof.Machine

/-! ### Events -/

/-- An event that occurred shows in its block's EVT. -/
theorem State.evt_event (u : State) (b : Nat) {n : Nat} (hn : n < 32) : (u.event b n).evt b n = true := by
  simp [State.evt, State.event, bit_eq_testBit, setBit_eq, testBit_putBits, Nat.testBit_mod_two_pow, hn, -Nat.reducePow]

theorem State.evt_settle (u : State) {b n : Nat} (h : settlesReg (blockBase b + 4) = false) : u.settle.evt b n = u.evt b n := by
  rw [State.evt, settle_reg u _ h, State.evt]

/-! ### HLK at a link reset -/

/-- A map whose keys of a kind are dropped. -/
theorem lookupKey_filter {β : Type} (l : List (Nat × β)) (p : Nat → Bool) (k : Nat) :
    lookupKey (l.filter fun e => p e.1) k = if p k then lookupKey l k else none := by
  induction l with
  | nil => simp [lookupKey]
  | cons e l ih =>
    by_cases hk : e.1 = k
    · subst hk
      cases hp : p e.1 <;> simp_all [lookupKey]
    · cases hp : p e.1 <;> simp [lookupKey, hp, ih, hk]

theorem State.reg_eq_elim (s : State) (off : Nat) : s.reg off = (lookupKey s.regs off).elim (resetAt s.variant off) BitVec.toNat := by
  unfold State.reg
  cases lookupKey s.regs off <;> rfl

/-- HLK but SUBSYS takes its reset values; the other blocks keep their registers (R752). -/
theorem reg_hlkReset (s : State) (off : Nat) :
    s.hlkReset.reg off = if 0x340000 ≤ off ∧ off < 0x380000 ∧ off ≠ 0x340128 then resetAt s.variant off else s.reg off := by
  have hkey := lookupKey_filter s.regs (fun k => !(decide (0x340000 ≤ k) && decide (k < 0x380000)) || k == 0x340128) off
  rw [State.reg_eq_elim, State.reg_eq_elim s, State.hlkReset, hkey]
  by_cases h : 0x340000 ≤ off ∧ off < 0x380000 ∧ off ≠ 0x340128
  · rw [if_pos h, if_neg (by simp; omega)]
    rfl
  · rw [if_neg h, if_pos (by simp; omega)]

theorem llRevokeAll_of_locksOf_nil {s : State} {party : Nat × Nat → Bool} (h : s.locksOf party = []) : s.llRevokeAll party = s := by
  simp [State.llRevokeAll, h]

/-- The H island comes up anew, but for what power management keeps of PME (R748). -/
def Link.anew (l : Link) (perst bar4 : Bool) : Link :=
  { Link.reset with perst := perst, bar4 := bar4, pmeEn := l.pmeEn, pmeStat := l.pmeStat, wakeN := l.wakeN }

section
variable {s : State} (hl : s.locksOf (fun o => o.1 == 0) = [])
include hl

/-- With no lock held by the host, a reset of the H island is that of HLK and of the link. -/
theorem hReset_eq (perst : Bool) : s.hReset perst =
    (s.hlkReset.updLink fun l => l.anew perst (s.flag F.HLK_CFG_BAR4EN)).put F.HLK_CFG_BAR4EN (decide (2 ≤ s.hlkReset.get F.PWR_BOOTSTAT_BOOTSEL)) := by
  simp only [State.hReset, llRevokeAll_of_locksOf_nil hl]
  rfl

/-- What a link reset changes after HLK is at its reset values (R120, R752). -/
theorem kept_linkReset (hot : Bool) : ∃ b x, (s.linkReset hot).link = s.link.anew (!hot) b ∧
    Kept s.hlkReset (s.linkReset hot) [.link] ((F.HLK_CFG_BAR4EN, x) :: if hot then [(evtBit 21 2, 1)] else []) := by
  have hk := ((Kept.refl s.hlkReset [.link]).updLink (fun l => l.anew (!hot) (s.flag F.HLK_CFG_BAR4EN)) (by decide)).put F.HLK_CFG_BAR4EN
    (decide (2 ≤ s.hlkReset.get F.PWR_BOOTSTAT_BOOTSEL))
  refine ⟨s.flag F.HLK_CFG_BAR4EN, ofBool (decide (2 ≤ s.hlkReset.get F.PWR_BOOTSTAT_BOOTSEL)), ?_⟩
  cases hot
  · simp only [State.linkReset, hReset_eq hl]
    exact ⟨by simp [State.hlkReset], hk⟩
  · simp only [State.linkReset, hReset_eq hl]
    exact ⟨by simp [State.hlkReset], hk.event 21 2⟩
end

/-- What a link reset leaves: the link comes up anew, HLK is at its reset values but for what R752 keeps, and nothing else changes. -/
theorem exec_linkReset {s : State} (hot : Bool) (hw : s.wired = true) (ha : s.pwr.aonUp = true) (hl : s.locksOf (fun o => o.1 == 0) = []) :
    ∃ t, exec (.linkReset hot) s = .next t
      ∧ t.link.up = false ∧ t.link.bme = false ∧ t.link.dState = 0 ∧ t.link.perst = !hot ∧ t.link.msix = false ∧ t.link.msi = false
      ∧ t.link.pmeEn = s.link.pmeEn ∧ t.link.pmeStat = s.link.pmeStat ∧ (hot = true → t.evt 21 2 = true)
      ∧ (∀ off, 0x340000 ≤ off → settlesReg off = false → off ≠ 0x340004 → off ≠ 0x340100 → off ≠ 0x340128 → off < 0x380000 →
          t.reg off = resetAt s.variant off)
      ∧ (∀ off, (off < 0x340000 ∨ 0x380000 ≤ off) → settlesReg off = false → t.reg off = s.reg off)
      ∧ (∀ a, t.byte a = s.byte a) ∧ (∀ c, (s.core c).Same (t.core c)) ∧ t.pump.flight = s.pump.flight ∧ t.pump.wells = s.pump.wells := by
  obtain ⟨b, x, hlink, hk⟩ := kept_linkReset hl hot
  have hk := hk.settle (show s.hlkReset.wired = true from hw)
  have hlk : (s.linkReset hot).settle.link = { s.link.anew (!hot) b with
      msixWait := (s.linkReset hot).settle.link.msixWait, msiPend := (s.linkReset hot).settle.link.msiPend } :=
    hlink ▸ (settles_settleUnits (s.linkReset hot)).link
  have hreg : ∀ off, settlesReg off = false → off ≠ 0x340004 → off ≠ 0x340100 → (s.linkReset hot).settle.reg off = s.hlkReset.reg off :=
    fun off ho h4 h100 => by
      rw [hk.regs off ho, wrote_of_forall_ne]
      rw [List.forall_mem_cons]
      have hevt : (evtBit 21 2).off ≠ off := h4.symm
      exact ⟨h100.symm, by cases hot <;> simp [hevt]⟩
  have hevt : hot = true → (s.linkReset hot).settle.evt 21 2 = true := fun h => by
    rw [State.evt_settle _ (by decide), h, State.linkReset, if_pos rfl, State.evt_event _ _ (by decide)]
  obtain ⟨hmem, hdram, hflash⟩ := hk.memory.resolve_left (by decide)
  have hpump := hk.pump.resolve_left (by decide)
  refine ⟨_, congrArg finish (State.whenAon_of ha), by rw [hlk]; rfl, by rw [hlk]; rfl, by rw [hlk]; rfl, by rw [hlk]; rfl, by rw [hlk]; rfl,
    by rw [hlk]; rfl, by rw [hlk]; rfl, by rw [hlk]; rfl, hevt, fun off hlo ho h4 h100 h128 hhi => ?_, fun off hout ho => ?_, fun a => ?_,
    hk.cores.resolve_left (by decide), by rw [hpump]; rfl, by rw [hpump]; rfl⟩
  · rw [hreg off ho h4 h100, reg_hlkReset, if_pos ⟨hlo, hhi, h128⟩]
  · rw [hreg off ho (by omega) (by omega), reg_hlkReset, if_neg (by omega)]
  · unfold State.byte
    rw [hmem, hdram, hflash]
    rfl

/-! ### A register that is only written -/

/-- A write of a field by a source, the other fields written as they read, reaches its register. -/
theorem srcField_eq_regWrite {s : State} {src : Src} {f : Fld} {v : Nat} (h : s.reachesField src f v = true) (hf : f.hi < 32)
    (hs : statBlock f.off = none) (ho : f.off % 4 = 0) (hw : ¬ (0x180340 ≤ f.off ∧ f.off < 0x180380))
    (hq : ¬ (0x1C1000 ≤ f.off ∧ f.off < 0x1D1000)) :
    s.srcField src f v = (s.reached src).regWrite src f.off (putBits (s.readReg src f.off) f.hi f.lo v) :=
  srcWrite_eq h ho (putBits_lt _ _ _ _ _ (readReg_lt s src hs) hf) hw hq

section
variable {u : State} {src : Src} {o x i k : Nat} {d : RegD}

/-- A register of fields that are only written stores nothing: its unit acts on the word written (R25). -/
theorem regWrite_of_commands (hf : findReg o = some (d, i, k)) (hd : d.pres.holds u.variant i = true) (ho : o ≠ 0x180300)
    (hg : u.guard src o x = .free) (hwo : ∀ f ∈ d.fields, f.acc = .wo ∧ f.legal = .any) :
    u.regWrite src o x = (u.setReg o (u.reg o)).hook src o (u.reg o) x := by
  have hfold : ∀ (l : List FieldD) (w : Nat), (∀ f ∈ l, f.acc = .wo ∧ f.legal = .any) →
      l.foldl (fun (a : Applied) f => a.field u o x f) ⟨w, x, []⟩ = ⟨w, x, []⟩ := by
    intro l w hl
    induction l with
    | nil => rfl
    | cons f l ih =>
      obtain ⟨⟨hacc, hany⟩, hl⟩ := List.forall_mem_cons.1 hl
      have hstep : Applied.field ⟨w, x, []⟩ u o x f = ⟨w, x, []⟩ := by
        simp [Applied.field, hacc, hany, Legal.check, putBits_bitsOf_self]
      rw [List.foldl_cons, hstep, ih hl]
  have happ : u.applyFields o x d [] = ⟨u.reg o, x, []⟩ := hfold _ _ fun f hm => hwo f (List.mem_filter.1 hm).1
  rw [regWrite_of_holds hf hd, regPresent_of_free ho hg fun f hm => by simp [hwo f hm], State.regApply, happ]
  rfl
end

/-- A bit written as 1 is 1. -/
theorem bit_putBits_one (x n : Nat) : bit (putBits x n n 1) n = true := by
  rw [bit_eq_testBit, testBit_putBits, if_pos (by omega)]
  simp

/-- The register HLK_PME (R752). -/
def hlkPmeReg : RegD := ⟨0x340124, 0, 1, 0, 1, .always, [⟨0, 0, .wo, .val 0, .any, false⟩]⟩

theorem findReg_hlkPme : findReg F.HLK_PME_PME.off = some (hlkPmeReg, 0, 0) := by decide +kernel

/-- A write of 1 to HLK_PME.PME by Hall L signals PME (R748). -/
theorem srcField_pme {s : State} {c : CoreId} (h : s.reachesField (.core c .L) F.HLK_PME_PME 1 = true) :
    let u := s.reached (.core c .L)
    s.srcField (.core c .L) F.HLK_PME_PME 1 = (u.setReg F.HLK_PME_PME.off (u.reg F.HLK_PME_PME.off)).pme := by
  intro u
  rw [srcField_eq_regWrite h (by decide) (by decide +kernel) (by decide) (by decide) (by decide),
    regWrite_of_commands findReg_hlkPme rfl (by decide) rfl (by decide)]
  simp only [State.hook, State.hookHigh, F.HLK_PME_PME]
  simp [State.trig, bit_putBits_one, State.pmeWrite, u]

end Sys2Proof.Machine
end

section
/-! The statement on the link, and host requests that fail (R745, R795). -/
namespace Sys2Proof.Machine

section
variable {s : State}

theorem exec_linkUp (ha : s.pwr.aonUp = true) (rate : BitVec 3) (width : BitVec 4) :
    exec (.linkUp rate width) s = .next (s.linkUp rate.toNat width.toNat).settle := congrArg finish (State.whenAon_of ha)

theorem exec_cfgWrite (hu : s.link.up = true ∧ s.link.perst = false) (w : CfgWrite) :
    exec (.configurationWrite w) s = .next (s.cfgWrite w).settle := congrArg finish (State.whenLink_of hu)

/-- The link trains within HLK_CFG (R120, R752). -/
theorem linkUp_eq (rate width : Nat) : s.linkUp rate width = (s.updLink fun l => { l with
    up := true, perst := false, lp := 0, dState := 0, wakeN := false
    rate := max 1 (min rate (s.get F.HLK_CFG_MAXRATE))
    width := if width < 2 then 1 else if width < 4 ∨ s.get F.HLK_CFG_MAXWIDTH < 4 then min 2 (s.get F.HLK_CFG_MAXWIDTH) else 4 }).event 21 0 := rfl
end

/-- The clauses on the link, one command after the other. -/
theorem linkFollowsTheHost : Claims.LinkFollowsTheHost := by
  intro s rate width on d hot w hw l becomes maxW usable r lanes
  refine ⟨fun ha => ?up, fun hu => ?down, fun ha hl => exec_linkReset hot hw ha hl, fun hu => ⟨?turnOff, fun hd => ?d3, fun hd => ?d0, ?master,
    fun hp hlp => ?aspm, ?power, fun hp => ?write⟩, fun hd hheld hen => ?held, fun c => ?core⟩
  case up => exact does_updLink_event hw ((exec_linkUp ha rate width).trans (congrArg finish (linkUp_eq _ _))) rfl
  case down => exact does_updLink_event hw (congrArg finish (if_pos hu)) rfl
  case turnOff => exact does_updLink hw (congrArg finish ((State.whenLink_of hu).trans (if_pos hu.1))) rfl
  case d3 => exact does_dState hw hd (congrArg finish (State.whenLink_of hu))
  case d0 => exact does_dState hw hd (congrArg finish (State.whenLink_of hu))
  case master =>
    have he : exec (.busMasterEnable on) s = .next (s.cfgWrite (.command on)).settle := congrArg finish (State.whenLink_of hu)
    exact does_updLink hw he rfl
  case aspm =>
    have hgo : (s.link.up && s.link.aspm && s.link.lp == 0) = true := by simpa using ⟨⟨hu.1, hp⟩, hlp⟩
    exact does_updLink hw (congrArg finish ((State.whenLink_of hu).trans (if_pos hgo))) (by simp only [bit_eq_testBit, l])
  case power => cases d <;> rfl
  case write =>
    have he := exec_cfgWrite hu w
    cases w with
    | power d => exact absurd rfl (hp d)
    | msi on log a d => exact does_updLink hw he (by rw [show a.toNat - a.toNat % 4 = a.toNat / 4 * 4 by omega])
    | command b => exact does_updLink hw he rfl
    | timeout v => exact does_updLink hw he rfl
    | msiMask m => exact does_updLink hw he rfl
    | msix on m => exact does_updLink hw he rfl
    | pme en c => exact does_updLink hw he rfl
    | aspm b => exact does_updLink hw he rfl
    | l1ss v => exact does_updLink hw he rfl
    | payload a b => exact does_updLink hw he rfl
  case held =>
    have hgo : ((s.link.dState == 3 || s.link.perst) && s.hostHeld) = true := by simpa [hheld] using hd
    exact does_pme hw (.refl s _) rfl hen (congrArg finish (if_pos hgo))
  case core =>
    intro u hr hen
    exact does_pme (State.wired_reached hw _) ((Kept.refl u [.link]).same _) (State.setReg_link _ _ _) hen (congrArg finish (srcField_pme hr))

/-! ### Requests that fail -/

theorem State.get_event {b n : Nat} {f : Fld} (h : blockBase b + 4 ≠ f.off) (u : State) : (u.event b n).get f = u.get f := by
  simp [State.get, State.event, h]

/-- AER takes the failure, and a timeout is counted (R745). -/
def State.aerFail (s : State) (k : HostFail) : State :=
  if k = .timeout then ((s.event 21 4).bump F.HLK_CTOCNT_COUNT 1).updLink fun l => { l with aer := setBit l.aer 1 }
  else s.updLink fun l => { l with aer := setBit l.aer 0 }

/-- The registers of HLK that a failure writes. -/
def State.ctoWrites (s : State) (k : HostFail) : List (Fld × Nat) :=
  if k = .timeout then [(evtBit 21 4, 1), (F.HLK_CTOCNT_COUNT, min 65535 (s.get F.HLK_CTOCNT_COUNT + 1))] else []

/-- The registers of bank b that a record of an error without address writes (R796). -/
def State.bankWrites (s : State) (b type seg mce : Nat) : List (Fld × Nat) :=
  if s.get (F.FLT_BANK_STAT_VALID.ix b) = 1 ∧ s.get (F.FLT_BANK_STAT_UC.ix b) = 1 then [(F.FLT_BANK_STAT_OVER.ix b, 1)]
  else [(F.FLT_BANK_STAT_VALID.ix b, 1), (F.FLT_BANK_STAT_UC.ix b, 1), (F.FLT_BANK_STAT_MCE.ix b, mce), (F.FLT_BANK_STAT_TYPE.ix b, type),
    (F.FLT_BANK_STAT_SEG.ix b, seg), (F.FLT_BANK_STAT_OVER.ix b, 0), (F.FLT_BANK_ADDRLO_ADDR.ix b, 0), (F.FLT_BANK_ADDRHI_ADDR.ix b, 0),
    (F.FLT_BANK_ADDRHI_ADDRV.ix b, 0), (F.FLT_BANK_TIME_TIME.ix b, s.tb.toNat % 2 ^ 32), (evtBit 22 1, 1)]

section
variable {s u : State} {ps : List Area} {ws : List (Fld × Nat)}

theorem State.flag_eq_one (s : State) {f : Fld} (h : f.hi = f.lo) : s.flag f = decide (s.get f = 1) := by
  have h2 : s.get f < 2 := by
    have hlt : s.get f < 2 ^ (f.hi + 1 - f.lo) := bitsOf_lt _ _ _
    rwa [show f.hi + 1 - f.lo = 1 by omega, pow_one] at hlt
  unfold State.flag
  interval_cases s.get f <;> rfl

/-- An error is recorded in a bank, unless one stands there (R796). -/
theorem Kept.logError (h : Kept s u ps ws) (b type seg : Nat) (mce : Bool) :
    Kept s (u.logError b type seg mce none) ps (ws ++ u.bankWrites b type seg (ofBool mce)) := by
  unfold State.logError State.bankWrites
  simp only [State.flag_eq_one u (f := F.FLT_BANK_STAT_VALID.ix b) rfl, State.flag_eq_one u (f := F.FLT_BANK_STAT_UC.ix b) rfl, Bool.and_eq_true,
    decide_eq_true_eq]
  split
  · exact h.put _ _
  · simpa [ofBool, bitsOf_zero_right] using (((((((((h.put (F.FLT_BANK_STAT_VALID.ix b) true).put (F.FLT_BANK_STAT_UC.ix b) true).put
      (F.FLT_BANK_STAT_MCE.ix b) mce).set (F.FLT_BANK_STAT_TYPE.ix b) type).set (F.FLT_BANK_STAT_SEG.ix b) seg).put (F.FLT_BANK_STAT_OVER.ix b)
      false).set (F.FLT_BANK_ADDRLO_ADDR.ix b) 0).set (F.FLT_BANK_ADDRHI_ADDR.ix b) 0).put (F.FLT_BANK_ADDRHI_ADDRV.ix b) false).set
      (F.FLT_BANK_TIME_TIME.ix b) (bitsOf u.tb.toNat 31 0) |>.event 22 1

theorem Kept.aerFail (k : HostFail) (hp : .link ∈ ps) : Kept s (s.aerFail k) ps (s.ctoWrites k) := by
  unfold State.aerFail State.ctoWrites
  split
  · have hk := (((Kept.refl s ps).event 21 4).bump F.HLK_CTOCNT_COUNT 1).updLink (fun l => { l with aer := setBit l.aer 1 }) hp
    rw [satTo_eq_min, State.get_event (by decide)] at hk
    exact hk
  · exact (Kept.refl s ps).updLink _ hp

theorem aer_aerFail (k : HostFail) : (s.aerFail k).link.aer = setBit s.link.aer (if k = .timeout then 1 else 0) := by
  unfold State.aerFail
  split <;> simp

/-- The failure's own registers are none of a bank. -/
theorem bankWrites_aerFail (k : HostFail) (b type seg mce : Nat) : (s.aerFail k).bankWrites b type seg mce = s.bankWrites b type seg mce := by
  have hget : ∀ f : Fld, 0x380200 ≤ f.off → (s.aerFail k).get f = s.get f := fun f hf => by
    have hevt : blockBase 21 + 4 < 0x380200 := by decide
    have hcnt : F.HLK_CTOCNT_COUNT.off < 0x380200 := by decide
    unfold State.aerFail
    split
    · have hupd : ∀ (v : State) (g : Link → Link), (v.updLink g).get f = v.get f := fun _ _ => rfl
      rw [hupd, State.bump, State.get_set_of_off_ne (by omega), State.get_event (by omega)]
    · rfl
  have htb : (s.aerFail k).tb = s.tb := by
    unfold State.aerFail
    split <;> simp [State.event]
  have hvalid := hget (F.FLT_BANK_STAT_VALID.ix b) (Nat.le_add_right _ _)
  have huc := hget (F.FLT_BANK_STAT_UC.ix b) (Nat.le_add_right _ _)
  simp only [State.bankWrites, hvalid, huc, htb]
end

end Sys2Proof.Machine
end

section
/-! Wells that are disabled and locks that are revoked (R561, R630, R802 to R813): the cores, the link and the registers below the Pump's stay. -/
namespace Sys2Proof.Machine

/-- The cores, the link, the power state and the registers of the blocks below the Pump stay. -/
structure Disables (s t : State) : Prop where
  cores : t.cores = s.cores
  link : t.link = s.link
  pwr : t.pwr = s.pwr
  regs : ∀ off < 0x180000, t.reg off = s.reg off

theorem Disables.refl (s : State) : Disables s s := ⟨rfl, rfl, rfl, fun _ _ => rfl⟩

theorem Disables.trans {s t u : State} (h : Disables s t) (k : Disables t u) : Disables s u :=
  ⟨k.cores.trans h.cores, k.link.trans h.link, k.pwr.trans h.pwr, fun off ho => (k.regs off ho).trans (h.regs off ho)⟩

section
variable {s t u : State}

theorem Disables.ite {p : Prop} [Decidable p] (h : Disables s t) (k : Disables s u) : Disables s (if p then t else u) := by
  split
  · exact h
  · exact k

theorem Disables.foldl {α : Type} {f : State → α → State} (hf : ∀ t a, Disables t (f t a)) (l : List α) (h : Disables s t) :
    Disables s (l.foldl f t) := by
  induction l generalizing t with
  | nil => exact h
  | cons a l ih => exact ih (h.trans (hf t a))

theorem Disables.updPump (h : Disables s t) (f : Pump → Pump) : Disables s (t.updPump f) := ⟨h.cores, h.link, h.pwr, h.regs⟩
theorem Disables.updFlt (h : Disables s t) (f : Flt → Flt) : Disables s (t.updFlt f) := ⟨h.cores, h.link, h.pwr, h.regs⟩
theorem Disables.staged (h : Disables s t) (l : List (Nat × Long)) : Disables s { t with staged := l } := ⟨h.cores, h.link, h.pwr, h.regs⟩

theorem Disables.setReg (h : Disables s t) {o : Nat} (ho : 0x180000 ≤ o) (v : Nat) : Disables s (t.setReg o v) := by
  refine ⟨by simpa using h.cores, by simpa using h.link, by simpa using h.pwr, fun off hlt => ?_⟩
  rw [State.reg_setReg, if_neg (by omega), h.regs off hlt]

theorem Disables.set (h : Disables s t) (f : Fld) (ho : 0x180000 ≤ f.off) (v : Nat) : Disables s (t.set f v) := h.setReg ho _
theorem Disables.put (h : Disables s t) (f : Fld) (ho : 0x180000 ≤ f.off) (b : Bool) : Disables s (t.put f b) := h.setReg ho _
theorem Disables.event (h : Disables s t) {b : Nat} (hb : 0x180000 ≤ blockBase b + 4) (n : Nat) : Disables s (t.event b n) := h.setReg hb _

/-! ### Wells -/

theorem Disables.updCtx (h : Disables s t) (w : Nat) (f : WellCtx → WellCtx) : Disables s (t.updCtx w f) :=
  h.updPump fun p => { p with cache := (w, f (t.ctx w)) :: p.cache.filter (·.1 != w) }
theorem Disables.setWell (h : Disables s t) (w : Nat) (o : WellOn) : Disables s (t.setWell w o) := h.updPump _

theorem State.wellOn_congr {s t : State} (h : t.pump.wells = s.pump.wells) (w : Nat) : t.wellOn w = s.wellOn w := by
  rw [State.wellOn, h, State.wellOn]

theorem State.wellOn_setWell (s : State) (w : Nat) (o : WellOn) : (s.setWell w o).wellOn w = o := by
  unfold State.wellOn State.setWell
  by_cases ho : o = WellOn.none <;> simp [ho]

theorem wells_updCtx (s : State) (w : Nat) (f : WellCtx → WellCtx) : (s.updCtx w f).pump.wells = s.pump.wells := rfl

/-- A well takes one setting of an epoch, if the epoch has it (R105). -/
def State.adopt (s : State) (w kind k hi lo : Nat) : State :=
  match s.epValue w kind with
  | some v => s.updCtx w fun c => c.put k hi lo v
  | none => s

theorem Disables.adopt (h : Disables s t) (w kind k hi lo : Nat) : Disables s (t.adopt w kind k hi lo) := by
  unfold State.adopt
  split
  · exact h.updCtx _ _
  · exact h

theorem wells_adopt (s : State) (w kind k hi lo : Nat) : (s.adopt w kind k hi lo).pump.wells = s.pump.wells := by
  unfold State.adopt
  split <;> rfl

/-- The settings of an epoch that a well adopts, and the wells still to cross (R105, R107). -/
theorem cross_eq (s : State) (w : Nat) : s.cross w = if !s.pump.epPend.contains w then s else
    let a := (((s.adopt w 0 1 5 0).adopt w 1 1 31 16).adopt w 2 0 19 16).adopt w 3 6 31 0
    let left := a.pump.epPend.filter (· != w)
    let b := (a.updPump fun p => { p with epPend := left }).set F.PMP_EPPEND_PENDING left.length
    let c := b.updPump fun p => { p with oldCis := p.oldCis.filter fun o => left.any fun x => (b.ctx x).cistern == o.cis }
    if left.isEmpty then ((c.set F.PMP_EPOCH_DONE (c.get F.PMP_EPOCH_CUR)).put F.PMP_EPOCH_BUSY false).event 10 0 else c := rfl

theorem Disables.cross (h : Disables s t) (w : Nat) : Disables s (t.cross w) := by
  rw [cross_eq]
  have ha := (((h.adopt w 0 1 5 0).adopt w 1 1 31 16).adopt w 2 0 19 16).adopt w 3 6 31 0
  refine .ite h (.ite ?_ ?_)
  · exact ((((((ha.updPump _).set _ (by decide) _).updPump _).set _ (by decide) _).put _ (by decide) _).event (by decide) _)
  · exact ((ha.updPump _).set _ (by decide) _).updPump _

theorem wells_cross (s : State) (w : Nat) : (s.cross w).pump.wells = s.pump.wells := by
  rw [cross_eq]
  have ha : ((((s.adopt w 0 1 5 0).adopt w 1 1 31 16).adopt w 2 0 19 16).adopt w 3 6 31 0).pump.wells = s.pump.wells := by
    rw [wells_adopt, wells_adopt, wells_adopt, wells_adopt]
  split
  · rfl
  · simp only
    split <;> simpa [State.event] using ha

theorem Disables.wellOff (h : Disables s t) (w cause : Nat) : Disables s (t.wellOff w cause) := by
  unfold State.wellOff
  refine .ite h ?_
  refine .cross (.updCtx (.setWell (.updPump ?_ _) _ _) _ _) _
  split
  · exact h.updCtx _ _
  · exact h

/-- A well that is switched off is no longer enabled. -/
theorem enable_wellOff (s : State) (w cause : Nat) : ((s.wellOff w cause).wellOn w).enable = false := by
  by_cases hon : (s.wellOn w).enable = true
  · unfold State.wellOff
    rw [if_neg (by simp [hon])]
    rw [State.wellOn_congr (wells_cross _ _), State.wellOn_congr (wells_updCtx _ _ _), State.wellOn_setWell]
  · unfold State.wellOff
    rw [if_pos (by simpa using hon)]
    simpa using hon
end
end Sys2Proof.Machine
end

section
/-! Host requests that fail, by requester (R745, R795). -/
namespace Sys2Proof.Machine

section
variable {s u : State}

theorem exec_completionTimeout {r : Requester} (hf : s.pwr.fabricUp = true) (hr : s.requests r = true) (k : HostFail) :
    exec (.completionTimeout r k) s = .next (s.hostFail r k).settle :=
  congrArg finish ((State.whenFabric_of hf).trans (if_pos hr))

/-- A machine check that falls due is an event of its core (R793). -/
theorem machineCheck_eq (s : State) (c : CoreId) (m : McDue) :
    s.machineCheck c.val m = s.updCore c fun q => { q with due := { q.due with mc := q.due.mc ++ [m] } } := dif_pos c.isLt

/-- A core to which only an event falls due is the same at the end of the command. -/
theorem same_settle_of_due (hw : s.wired = true) {k : CoreId} (h : ∃ d, u.core k = { s.core k with due := d }) :
    (s.core k).Same (u.settle.core k) := by
  obtain ⟨d, hd⟩ := h
  have hsame := Core.same_of (q := u.core k) (by rw [hd]; exact State.wired_core hw k) (core_settle u k)
  rw [hd] at hsame
  exact ⟨⟨hsame.w.regs, hsame.w.pointers⟩, hsame.f, hsame.da, hsame.cr, hsame.fp, hsame.csw, hsame.pc⟩

/-- The failure recorded in bank 6, by whether a machine check follows. -/
theorem kept_failRecorded (s : State) (k : HostFail) (mce : Bool) {ps : List Area} (hp : .link ∈ ps) :
    Kept s ((s.aerFail k).logError 6 8 10 mce none) ps (s.ctoWrites k ++ s.bankWrites 6 8 10 (ofBool mce)) := by
  have hk := (Kept.aerFail (s := s) k hp).logError 6 8 10 mce
  rwa [bankWrites_aerFail] at hk

theorem aer_failRecorded (s : State) (k : HostFail) (mce : Bool) :
    ((s.aerFail k).logError 6 8 10 mce none).link.aer = setBit s.link.aer (if k = .timeout then 1 else 0) := by
  have hl := (((Kept.refl (s.aerFail k) []).logError 6 8 10 mce).link.resolve_left (by decide))
  rw [hl]
  exact aer_aerFail k

theorem cores_failRecorded (s : State) (k : HostFail) (mce : Bool) : ((s.aerFail k).logError 6 8 10 mce none).cores = s.cores := by
  have ha : (s.aerFail k).cores = s.cores := by
    unfold State.aerFail
    split <;> simp [State.event]
  unfold State.logError
  split <;> simp [State.event, ha]

theorem pump_failRecorded (s : State) (k : HostFail) (mce : Bool) : ((s.aerFail k).logError 6 8 10 mce none).pump.wells = s.pump.wells
    ∧ ((s.aerFail k).logError 6 8 10 mce none).pump.flight = s.pump.flight := by
  have hp := (kept_failRecorded s k mce (ps := [.link]) (by decide)).pump.resolve_left (by decide)
  rw [hp]
  exact ⟨rfl, rfl⟩

/-- A job of an engine that waits for the host ends with HOST_ABORT. -/
theorem does_engineAbort {o : Host.Outcome State Fault Refusal} {k : HostFail} {p : Flight → Bool} {g : Flight} {src : Nat} (hw : s.wired = true)
    (hg : s.pump.flight.find? (fun f => f.done.isNone && p f) = some g)
    (ho : o = .next (((s.aerFail k).logError 6 8 10 false none).endFlight p ⟨0x31, 0, src⟩).settle) :
    Does s o [.link, .pump] (s.ctoWrites k ++ s.bankWrites 6 8 10 0) fun t => t.link.aer = setBit s.link.aer (if k = .timeout then 1 else 0)
      ∧ t.pump.flight = s.pump.flight.erase g ++ [{ g with done := some ⟨0x31, 0, src⟩ }] := by
  obtain ⟨-, hfl⟩ := pump_failRecorded s k false
  have hend : ((s.aerFail k).logError 6 8 10 false none).endFlight p ⟨0x31, 0, src⟩ = ((s.aerFail k).logError 6 8 10 false none).updPump fun q =>
      { q with flight := q.flight.erase g ++ [{ g with done := some ⟨0x31, 0, src⟩ }] } := by
    rw [← hfl] at hg
    simp only [State.endFlight, hg]
  rw [hend] at ho
  refine .of hw ho ((kept_failRecorded s k false (by decide)).updPump _ (by decide)) ⟨?_, ?_⟩
  · rw [settle_link_aer, State.updPump_link, aer_failRecorded]
  · rw [settle_pump_flight, State.updPump_pump, hfl]

theorem hostFail_core (c : CoreId) (k : HostFail) :
    s.hostFail (.core c) k = ((s.aerFail k).logError 6 8 10 true none).machineCheck c.val ⟨2, 10, none⟩ := rfl
theorem hostFail_journal (k : HostFail) : s.hostFail .journal k = ((s.aerFail k).logError 6 8 10 false none).endFlight (·.loc == .journal) ⟨0x31, 0, 4⟩ := rfl
theorem hostFail_lane (i : Fin 4) (k : HostFail) :
    s.hostFail (.lane i) k = ((s.aerFail k).logError 6 8 10 false none).endFlight (·.loc == .copy i) ⟨0x31, 0, 5⟩ := rfl
theorem hostFail_pump (w : BitVec 14) (k : HostFail) :
    s.hostFail (.pump w) k = (((s.aerFail k).logError 6 8 10 false none).wellOff w.toNat 7).event 10 4 := rfl
end

/-- The clauses on the four kinds of requester. -/
theorem failedHostRequestsAreReported : Claims.FailedHostRequestsAreReported := by
  intro s k hw hf n cto f records aer ends
  refine ⟨fun c hc => ?core, fun g hg => ?journal, fun i g hg => ?lane, fun w hr hon => ?pump⟩
  case core =>
    have hk := kept_failRecorded s k true (ps := [.link, .cores]) (by decide)
    have hsame : ∀ c, ((s.aerFail k).logError 6 8 10 true none).core c = s.core c := fun c => by
      rw [State.core, cores_failRecorded, ← State.core]
    have he := exec_completionTimeout (r := .core c) hf hc k
    rw [hostFail_core, machineCheck_eq] at he
    refine .of hw he (hk.updCore _ _ (by decide)) ⟨?_, ?_, fun j => ?_⟩
    · exact (settle_link_aer _).trans ((congrArg Link.aer (State.updCore_link _ _ _)).trans (aer_failRecorded s k true))
    · rw [due_settle, State.core_updCore, if_pos rfl, hsame]
    · refine same_settle_of_due hw ?_
      rw [State.core_updCore, hsame, hsame]
      split
      · next h =>
        subst h
        exact ⟨_, rfl⟩
      · exact ⟨_, rfl⟩
  case journal => exact does_engineAbort hw hg (exec_completionTimeout hf (by simp [State.requests, State.journalJob, hg]) k)
  case lane => exact does_engineAbort hw hg (exec_completionTimeout hf (by simp [State.requests, State.laneJob, hg]) k)
  case pump =>
    obtain ⟨hwells, -⟩ := pump_failRecorded s k false
    have hoff := (Disables.refl ((s.aerFail k).logError 6 8 10 false none)).wellOff w.toNat 7
    refine ⟨_, exec_completionTimeout hf hr k, ?_, ?_, ?_⟩
    · rw [hostFail_pump]
      simp only [aer, settle_link_aer, State.event, State.setReg_link, hoff.link]
      exact aer_failRecorded s k false
    · have hev : ((((s.aerFail k).logError 6 8 10 false none).wellOff w.toNat 7).event 10 4).pump.wells =
          (((s.aerFail k).logError 6 8 10 false none).wellOff w.toNat 7).pump.wells := by simp [State.event]
      rw [hostFail_pump, State.wellOn_congr (settle_pump_wells _), State.wellOn_congr hev]
      exact enable_wellOff _ _ _
    · rw [hostFail_pump, State.evt_settle _ (by decide), State.evt_event _ _ (by decide)]

/-- Settles O39: the link follows its commands, and a host request that fails is reported to AER, to bank 6 and to its requester. -/
theorem linkFollowsAndReports : Obligations.LinkFollowsAndReports := ⟨linkFollowsTheHost, failedHostRequestsAreReported⟩

end Sys2Proof.Machine
end

section
/-! Resets (R112 to R119): the clause on a Hall P reset fails. It asks of the state no more than `wired`, and so allows a value staged at
PWR_RSTCTL, which is no opening member of a pair. A read of the register then returns the staged bits (R89), the write of HALLP repeats them, and with
WARM among them a warm reset follows at once: the core stopped in Hall P is reset, and no Hall P Reset is due on it. -/
namespace Sys2Proof.Machine

/-- Both islands are released, core 0 executes in Hall L, core 1 in Hall P, and a value with bit 0 set is staged at PWR_RSTCTL. -/
def warmStaged : State :=
  { (State.reset.set F.PWR_CORERST_HOLD 0).updCore 1 fun q => { q with csw := 0x4F000#48 } with
    pwr := { Pwr.reset with aonUp := true, fabricUp := true }, staged := [(F.PWR_RSTCTL_WARM.off, 1)] }

/-- Hall L on core 0 writes PWR_RSTCTL. -/
def warmStagedSrc : Src := .core 0 .L

/-- The write that starts a Hall P reset reaches its register, and core 1 is to stop in Hall P. -/
theorem warmStaged_reaches : warmStaged.wired = true ∧ warmStaged.reachesField warmStagedSrc F.PWR_RSTCTL_HALLP 1 = true
    ∧ (warmStaged.reached warmStagedSrc).coreFree 1 = true ∧ ((warmStaged.reached warmStagedSrc).core 1).csw.getLsbD 18 = true := by decide +kernel

/-- A warm reset ran: core 1 is as reset, no Hall P Reset is due on it. -/
theorem exec_hallPReset_warmStaged : ∃ t, exec (.hallPReset warmStagedSrc) warmStaged = .next t ∧ (t.core 1).due.hallPStop = false :=
  ⟨_, rfl, by decide +kernel⟩

theorem not_resetsStopWhatTheyName : ¬ Claims.ResetsStopWhatTheyName := by
  intro h
  obtain ⟨hw, hreach, hfree, hhall⟩ := warmStaged_reaches
  obtain ⟨t, ht, hdue⟩ := exec_hallPReset_warmStaged
  obtain ⟨-, -, -, hallP, -⟩ := h warmStaged warmStagedSrc 0 hw
  obtain ⟨t', ht', -, -, hstops⟩ := hallP hreach
  obtain rfl : t' = t := Host.Outcome.next.inj (ht'.symm.trans ht)
  have hstop := (hstops 1 hfree hhall).1
  rw [hdue] at hstop
  exact Bool.false_ne_true hstop

/-- Refutes O41: with a value staged at PWR_RSTCTL the write of HALLP is a write of WARM too, and the core that was to stop in Hall P is reset. -/
theorem not_resetsAndStores : ¬ Obligations.ResetsAndStores := fun h => not_resetsStopWhatTheyName h.1

end Sys2Proof.Machine
end

section
/-! The Cistern state at the end of a command (R146 to R148): what the units do of themselves drops no event of PWR and no pending wake source, and leaves
the phase, DRAM and the sequencer as they were unless a wake source cancels an entry. -/
namespace Sys2Proof.Machine

/-- Events of PWR and pending wake sources stay; the phase, DRAM and the sequencer stay, or an entry is cancelled. -/
structure CisternKept (s t : State) : Prop where
  evt : ∀ n, s.evt 2 n = true → t.evt 2 n = true
  pend : ∀ n, s.pwr.wakePend.testBit n = true → t.pwr.wakePend.testBit n = true
  phase : (t.pwr.cis = s.pwr.cis ∧ t.dram = s.dram ∧ t.seq = s.seq) ∨ (s.pwr.cis = .entering ∧ t.pwr.cis = .awake)

theorem CisternKept.refl (s : State) : CisternKept s s := ⟨fun _ h => h, fun _ h => h, .inl ⟨rfl, rfl, rfl⟩⟩

theorem CisternKept.trans {s t u : State} (h : CisternKept s t) (k : CisternKept t u) : CisternKept s u where
  evt n hn := k.evt n (h.evt n hn)
  pend n hn := k.pend n (h.pend n hn)
  phase := by
    rcases h.phase with ⟨hc, hd, hq⟩ | ⟨he, ha⟩
    · rcases k.phase with ⟨kc, kd, kq⟩ | ⟨ke, ka⟩
      · exact .inl ⟨kc.trans hc, kd.trans hd, kq.trans hq⟩
      · exact .inr ⟨hc.symm.trans ke, ka⟩
    · rcases k.phase with ⟨kc, -, -⟩ | ⟨ke, -⟩
      · exact .inr ⟨he, kc.trans ha⟩
      · rw [ha] at ke
        cases ke

theorem CisternKept.foldl {α : Type} {f : State → α → State} (hf : ∀ s a, CisternKept s (f s a)) (l : List α) (s : State) :
    CisternKept s (l.foldl f s) := by
  induction l generalizing s with
  | nil => exact .refl s
  | cons a l ih => exact (hf s a).trans (ih _)

theorem CisternKept.ite {s t u : State} {p : Prop} [Decidable p] (h : CisternKept s t) (k : CisternKept s u) : CisternKept s (if p then t else u) := by
  split
  · exact h
  · exact k

/-- A step outside the registers of PWR's events, the Cistern state, DRAM and the sequencer. -/
theorem CisternKept.of_same {s t : State} (hr : t.reg 0x20004 = s.reg 0x20004) (hp : t.pwr = s.pwr) (hd : t.dram = s.dram)
    (hq : t.seq = s.seq) : CisternKept s t :=
  ⟨fun n hn => (congrArg (bit · n) hr).trans hn, fun n hn => by rwa [hp], .inl ⟨by rw [hp], hd, hq⟩⟩

theorem CisternKept.of_setReg (s : State) {o : Nat} (ho : o ≠ 0x20004) (v : Nat) : CisternKept s (s.setReg o v) :=
  .of_same (by rw [State.reg_setReg, if_neg ho]) (State.setReg_pwr _ _ _) (State.setReg_dram _ _ _) (State.setReg_seq _ _ _)

theorem CisternKept.of_set (s : State) (f : Fld) (v : Nat) (ho : f.off ≠ 0x20004) : CisternKept s (s.set f v) := .of_setReg s ho _

theorem CisternKept.of_put (s : State) (f : Fld) (b : Bool) (ho : f.off ≠ 0x20004) : CisternKept s (s.put f b) := .of_setReg s ho _

/-- An event drops no other. -/
theorem CisternKept.of_event (s : State) (b n : Nat) : CisternKept s (s.event b n) where
  evt m hm := by
    have hlt : m < 32 := Nat.lt_of_not_le fun hle => by
      rw [State.evt, bit_eq_testBit, Nat.testBit_eq_false_of_lt (lt_of_lt_of_le (State.reg_lt s _) (Nat.pow_le_pow_right (by decide) hle))] at hm
      cases hm
    rw [State.evt, bit_eq_testBit] at hm ⊢
    rw [State.event, State.reg_setReg]
    split
    case isTrue h =>
      rw [h, setBit_eq, Nat.testBit_mod_two_pow, testBit_putBits, hm, decide_eq_true hlt]
      split
      · next hmn => simp [show m - n = 0 by omega]
      · rfl
    case isFalse => exact hm
  pend m hm := by rwa [State.event, State.setReg_pwr]
  phase := .inl ⟨by rw [State.event, State.setReg_pwr], by rw [State.event, State.setReg_dram], by rw [State.event, State.setReg_seq]⟩

/-! ### The units -/

theorem cisternKept_hallPDone (s : State) : CisternKept s s.hallPDone :=
  .ite ((CisternKept.of_set s _ _ (by decide)).trans (.of_event _ _ _)) (.refl s)

/-- A wake source drops no pending one. -/
theorem CisternKept.of_wakePend (s : State) (n : Nat) : CisternKept s (s.updPwr fun q => { q with wakePend := setBit s.pwr.wakePend n }) where
  evt _ hm := hm
  pend m hm := by
    simp only [State.updPwr_pwr, setBit_eq, testBit_putBits]
    split
    · next hmn => simp [show m = n by omega]
    · exact hm
  phase := .inl ⟨rfl, rfl, rfl⟩

theorem cisternKept_wake (s : State) (n : Nat) : CisternKept s (s.wake n) := by
  unfold State.wake
  split
  · exact .refl s
  · cases h : s.pwr.cis with
    | entering =>
      refine CisternKept.trans ?_ (.of_event _ _ _)
      exact ⟨fun _ hm => hm, fun _ hm => hm, .inr ⟨h, rfl⟩⟩
    | releasing => exact .of_wakePend s n
    | asleep => exact .of_wakePend s n
    | awake => exact .refl s
    | waking => exact .refl s

theorem cisternKept_gpioEdge (s : State) (n : Nat) (b : Bool) : CisternKept s (s.gpioEdge n b) := by
  have hin : (F.GPIO_IN_MASK.ix (n / 32)).off ≠ 0x20004 := by simp [Fld.ix, F.GPIO_IN_MASK]; omega
  have hedge : (F.GPIO_EDGE_MASK.ix (n / 32)).off ≠ 0x20004 := by simp [Fld.ix, F.GPIO_EDGE_MASK]; omega
  unfold State.gpioEdge
  refine .ite (.refl s) (.ite (.of_set s _ _ hin) (.ite ?_ ?_))
  · exact (((CisternKept.of_set s _ _ hin).trans (.of_set _ _ _ hedge)).trans (.of_event _ _ _)).trans (cisternKept_wake _ _)
  · exact (CisternKept.of_set s _ _ hin).trans (.of_set _ _ _ hedge)

theorem cisternKept_gpioDrive (s : State) (w : Nat) : CisternKept s (s.gpioDrive w) :=
  .ite (.refl s) (.foldl (fun s _ => .ite (cisternKept_gpioEdge s _ _) (.refl s)) _ _)

theorem cisternKept_i2cSeq (s : State) : CisternKept s s.i2cSeq := by
  unfold State.i2cSeq
  split
  · exact .refl s
  · refine .ite (.refl s) ?_
    split
    · refine CisternKept.trans (t := { s with i2c := _ }) ?_ (.of_put _ _ _ (by decide))
      exact .of_same rfl rfl rfl rfl
    · exact .refl s

theorem cisternKept_pollCool (s : State) (w : Nat) : CisternKept s (s.pollCool w) :=
  .ite (.of_same rfl rfl rfl rfl) (.of_same rfl rfl rfl rfl)

theorem cisternKept_hotCheck (s : State) : CisternKept s s.hotCheck := .foldl cisternKept_pollCool _ s

theorem cisternKept_deliverHeld (s : State) : CisternKept s s.deliverHeld := by
  refine .foldl (fun s src => ?_) _ s
  split
  · exact .of_same rfl rfl rfl rfl
  · exact .refl s

theorem cisternKept_putHost (s : State) (l : List Byte) (h : Nat) : CisternKept s (s.putHost h l) := by
  induction l generalizing s h with
  | nil => exact .refl s
  | cons b l ih =>
    refine CisternKept.trans ?_ (ih _ _)
    exact .of_same rfl rfl rfl rfl

theorem cisternKept_setPba (s : State) (v : Nat) (b : Bool) : CisternKept s (s.setPba v b) :=
  .of_set s _ _ (by simp [Fld.ix, F.HLK_PBA_PENDING]; omega)

theorem cisternKept_sendMsix (s : State) (v : Nat) : CisternKept s (s.sendMsix v) :=
  .ite (cisternKept_setPba s _ _) (.ite (cisternKept_putHost s _ _) (.of_same rfl rfl rfl rfl))

theorem cisternKept_sendMsi (s : State) (v : Nat) : CisternKept s (s.sendMsi v) := .ite (.of_same rfl rfl rfl rfl) (cisternKept_putHost s _ _)

theorem cisternKept_releaseMsgs (s : State) : CisternKept s s.releaseMsgs := by
  unfold State.releaseMsgs
  refine .ite (.refl s) ?_
  have hwait : CisternKept s (s.link.msixWait.foldl (fun s v => s.sendMsix v) (s.updLink fun l => { l with msixWait := [] })) :=
    CisternKept.trans (t := s.updLink fun l => { l with msixWait := [] }) (.of_same rfl rfl rfl rfl) (.foldl cisternKept_sendMsix _ _)
  have hpba : ∀ u : State, CisternKept u ((List.range 64).foldl (fun s i =>
      let m := s.get (F.HLK_PBA_PENDING.ix i)
      if m = 0 then s
      else (List.range 32).foldl (fun s j =>
        if bit m j && !s.msixMasked (i * 32 + j) then (s.setPba (i * 32 + j) false).sendMsix (i * 32 + j) else s) s) u) := fun u =>
    .foldl (fun s _ => .ite (.refl s) (.foldl (fun s _ => .ite ((cisternKept_setPba s _ _).trans (cisternKept_sendMsix _ _)) (.refl s)) _ _)) _ _
  have hmsi : ∀ u : State, CisternKept u ((List.range 32).foldl (fun s v =>
      if bit s.link.msiPend v && !bit s.link.msiMask v then (s.updLink fun l => { l with msiPend := clrBit l.msiPend v }).sendMsi v else s) u) := fun u =>
    .foldl (fun s j => .ite (CisternKept.trans (t := s.updLink fun l => { l with msiPend := clrBit l.msiPend j }) (.of_same rfl rfl rfl rfl)
      (cisternKept_sendMsi _ _)) (.refl s)) _ _
  have hmsix := CisternKept.ite (p := (s.link.msixWait.foldl (fun s v => s.sendMsix v) (s.updLink fun l => { l with msixWait := [] })).link.msix = true)
    (hwait.trans (hpba _)) hwait
  exact .ite (hmsix.trans (hmsi _)) hmsix

/-- The end of a command. -/
theorem cisternKept_settle (s : State) : CisternKept s s.settle :=
  (((((((cisternKept_hallPDone s).trans (cisternKept_gpioDrive _ 0)).trans (cisternKept_gpioDrive _ 1)).trans (cisternKept_i2cSeq _)).trans
    (cisternKept_hotCheck _)).trans (cisternKept_deliverHeld _)).trans (cisternKept_releaseMsgs _)).trans (.of_same rfl rfl rfl rfl)

/-- Outside an entry the phase, DRAM and the sequencer stay. -/
theorem settle_of_not_entering {s : State} (h : s.pwr.cis ≠ .entering) :
    s.settle.pwr.cis = s.pwr.cis ∧ s.settle.dram = s.dram ∧ s.settle.seq = s.seq :=
  (cisternKept_settle s).phase.resolve_right fun hc => h hc.1

/-- An entry that goes on stands as it was. -/
theorem settle_of_entering {s : State} (h : s.settle.pwr.cis = .entering) : s.settle.dram = s.dram ∧ s.settle.seq = s.seq := by
  rcases (cisternKept_settle s).phase with ⟨-, hd, hq⟩ | ⟨-, ha⟩
  · exact ⟨hd, hq⟩
  · rw [ha] at h
    cases h

end Sys2Proof.Machine
end

section
/-! Start-up (R113, R121 to R129): orders 1 to 3 release the AON island and start the power-up run; orders 4 to 9 release the fabric, train DRAM and leave
core 0 to the host's image or asleep. -/
namespace Sys2Proof.Machine

/-! ### The power-up run starts (R160 to R162) -/

/-- Of the power state only the mark of a run of the table changes, and KLEAD stays as sampled. -/
structure RunKept (s t : State) : Prop where
  pwr : t.pwr = { s.pwr with tableRun := t.pwr.tableRun }
  klead : t.seq.klead = s.seq.klead

theorem RunKept.refl (s : State) : RunKept s s := ⟨rfl, rfl⟩

theorem RunKept.trans {s t u : State} (h : RunKept s t) (k : RunKept t u) : RunKept s u :=
  ⟨k.pwr.trans (by rw [h.pwr]), k.klead.trans h.klead⟩

section
variable {s t u : State}

theorem RunKept.ite {p : Prop} [Decidable p] (h : RunKept s t) (k : RunKept s u) : RunKept s (if p then t else u) := by
  split
  · exact h
  · exact k

theorem RunKept.foldl {α : Type} {f : State → α → State} (hf : ∀ t a, RunKept t (f t a)) (l : List α) (h : RunKept s t) : RunKept s (l.foldl f t) := by
  induction l generalizing t with
  | nil => exact h
  | cons a l ih => exact ih (h.trans (hf t a))

theorem RunKept.of_same (hp : t.pwr = s.pwr) (hq : t.seq = s.seq) : RunKept s t := ⟨by rw [hp], by rw [hq]⟩

theorem RunKept.setReg (h : RunKept s t) (o v : Nat) : RunKept s (t.setReg o v) := h.trans (.of_same (State.setReg_pwr _ _ _) (State.setReg_seq _ _ _))
theorem RunKept.set (h : RunKept s t) (f : Fld) (v : Nat) : RunKept s (t.set f v) := h.setReg _ _
theorem RunKept.event (h : RunKept s t) (b n : Nat) : RunKept s (t.event b n) := h.setReg _ _

theorem RunKept.updSeq (h : RunKept s t) (f : Seq → Seq) (hf : ∀ q, (f q).klead = q.klead := by intro q; rfl) :
    RunKept s (t.updSeq f) :=
  ⟨h.pwr, (hf _).trans h.klead⟩

theorem RunKept.tableRun (h : RunKept s t) (b : Bool) : RunKept s (t.updPwr fun p => { p with tableRun := b }) :=
  ⟨by rw [State.updPwr_pwr, h.pwr], h.klead⟩

theorem RunKept.runEnd (h : RunKept s t) : RunKept s t.runEnd := (RunKept.tableRun (h.updSeq _) false).event _ _

theorem RunKept.driveStep (h : RunKept s t) (k : Nat) : RunKept s (t.driveStep k) := by
  unfold State.driveStep
  extract_lets m u
  have hu : RunKept s u := h.set _ _
  exact hu.updSeq _

theorem RunKept.nextStep (h : RunKept s t) (n k : Nat) : RunKept s (t.nextStep n k) := by
  induction n generalizing k with
  | zero => exact (h.updSeq _).runEnd
  | succ n ih => exact .ite (ih _) (h.driveStep k)

theorem state_nextStep (h : t.seq.state ≠ .off) (n k : Nat) : (t.nextStep n k).seq.state ≠ .off := by
  induction n generalizing k with
  | zero =>
    have hend : ∀ u : State, u.runEnd.seq.state = .on ∨ u.runEnd.seq.state = .partial' := fun u => by
      simp only [State.runEnd, State.event, State.setReg_seq, State.updPwr_seq, State.updSeq_seq]
      split
      · exact .inl rfl
      · exact .inr rfl
    rw [State.nextStep]
    rcases hend (t.updSeq fun q => { q with step := 31 }) with he | he
    · simp [he]
    · simp [he]
  | succ n ih =>
    rw [State.nextStep]
    split
    · exact ih _
    · simpa [State.driveStep] using h

/-- A start of the run: the margins it removes, then the first step, or the wait for the strobe. -/
theorem runStart_kept (h : RunKept s t) : RunKept s t.runStart ∧ t.runStart.seq.state ≠ .off := by
  unfold State.runStart
  extract_lets u v
  have hu : RunKept s u := .foldl (fun t n => .ite (RunKept.set (.set (.ite (RunKept.updSeq (.refl t) _) (.refl t)) _ _) _ _) (.refl t)) _ h
  have hv : RunKept s v := hu.updSeq _
  by_cases hk : v.kPart = true
  · rw [if_pos hk]
    by_cases hl : v.seq.klead = true
    · rw [if_pos hl]
      exact ⟨hv.updSeq _, by simp⟩
    · rw [if_neg hl]
      exact ⟨hv.updSeq _, by simp⟩
  · rw [if_neg hk]
    exact ⟨(hv.updSeq _).nextStep _ _, state_nextStep (by simp) _ _⟩

theorem RunKept.restoreTable (h : RunKept s t) : RunKept s t.restoreTable := h.trans (.of_same rfl rfl)

theorem RunKept.seqRecord (h : RunKept s t) (cause slot released skipped : Nat) : RunKept s (t.seqRecord cause slot released skipped none) := by
  refine h.trans (.of_same ?_ ?_)
  · simp [State.seqRecord]
  · simp [State.seqRecord]

/-- Order 3 (R121): the run starts, from the table as it stands or as it is reset. -/
theorem orderThree_kept (s : State) : RunKept s s.orderThree ∧ s.orderThree.seq.state ≠ .off := by
  have hs : RunKept s (s.updPwr fun q => { q with tableRun := true }) := (RunKept.refl s).tableRun true
  unfold State.orderThree
  extract_lets u
  by_cases hb : u.badTable = true
  · rw [if_pos hb]
    exact runStart_kept ((hs.event _ _).seqRecord _ _ _ _).restoreTable
  · rw [if_neg hb]
    exact runStart_kept hs
end

/-- AON release with no calibration bank to apply (R121, R138). -/
theorem aonRelease_eq {s : State} (ha : s.pwr.aonUp = false) (hc : s.calPick = none) (klead : Bool) : s.aonRelease klead =
    ((s.updPwr fun p => { p with aonUp := true, osc24 := true, calActive := none }).updSeq fun q => { q with klead := klead }).orderThree := by
  unfold State.aonRelease
  rw [if_neg (by simp [ha]), hc]
  rfl

/-- AON release, up to the power-up run. -/
theorem exec_aonRelease {s : State} (ha : s.pwr.aonUp = false) (hc : s.calPick = none) (klead : Bool) :
    ∃ t, exec (.aonRelease klead) s = .next t ∧ t.pwr.aonUp = true ∧ t.pwr.osc24 = true ∧ t.seq.klead = klead
      ∧ t.pwr.calActive = none ∧ t.pwr.fabricUp = s.pwr.fabricUp ∧ t.seq.state ≠ .off := by
  obtain ⟨⟨hp, hk⟩, hs⟩ := orderThree_kept ((s.updPwr fun p => { p with aonUp := true, osc24 := true, calActive := none }).updSeq fun q =>
    { q with klead := klead })
  refine ⟨(s.aonRelease klead).settle, rfl, ?_⟩
  rw [aonRelease_eq ha hc, settle_pwr_aonUp, settle_pwr_osc24, settle_seq_klead, settle_pwr_calActive, settle_pwr_fabricUp, settle_seq_state, hp, hk]
  exact ⟨rfl, rfl, rfl, rfl, rfl, hs⟩

/-! ### DRAM is trained (R754, R755) -/

/-- Of the power state, the link and the registers outside MEM nothing changes. -/
structure MemOnly (s t : State) : Prop where
  pwr : t.pwr = s.pwr
  link : t.link = s.link
  regs : ∀ off, off < 0x300000 ∨ 0x340000 ≤ off → t.reg off = s.reg off

theorem MemOnly.refl (s : State) : MemOnly s s := ⟨rfl, rfl, fun _ _ => rfl⟩

section
variable {s t u : State}

theorem MemOnly.trans (h : MemOnly s t) (k : MemOnly t u) : MemOnly s u :=
  ⟨k.pwr.trans h.pwr, k.link.trans h.link, fun off ho => (k.regs off ho).trans (h.regs off ho)⟩

theorem MemOnly.setReg (h : MemOnly s t) {o : Nat} (ho : 0x300000 ≤ o ∧ o < 0x340000) (v : Nat) : MemOnly s (t.setReg o v) :=
  ⟨(State.setReg_pwr _ _ _).trans h.pwr, (State.setReg_link _ _ _).trans h.link, fun off hoff => by
    rw [State.reg_setReg, if_neg (by omega), h.regs off hoff]⟩

theorem MemOnly.set (h : MemOnly s t) (f : Fld) (ho : 0x300000 ≤ f.off ∧ f.off < 0x340000) (v : Nat) : MemOnly s (t.set f v) := h.setReg ho _

theorem MemOnly.freeCtr (h : MemOnly s t) (n : Nat) : MemOnly s { t with freeCtr := n } := ⟨h.pwr, h.link, h.regs⟩
theorem MemOnly.dramUp (h : MemOnly s t) : MemOnly s t.dramUp := ⟨h.pwr, h.link, h.regs⟩

theorem MemOnly.setMemCfg (h : MemOnly s t) (a b c : Nat) : MemOnly s (t.setMemCfg a b c) :=
  ((h.set F.MEM_CFG_SIZE (by decide) a).set F.MEM_CFG_RATE (by decide) b).set F.MEM_CFG_ECC (by decide) c

theorem MemOnly.foldl_set (l : List Nat) {f : Nat → Fld} (hf : ∀ k ∈ l, 0x300000 ≤ (f k).off ∧ (f k).off < 0x340000) (v : Nat → Nat) (h : MemOnly s t) :
    MemOnly s (l.foldl (fun s k => s.set (f k) (v k)) t) := by
  induction l generalizing t with
  | nil => exact h
  | cons a l ih =>
    obtain ⟨ha, hl⟩ := List.forall_mem_cons.1 hf
    exact ih hl (h.set _ ha _)

theorem MemOnly.putTraining (h : MemOnly s t) (l : List Byte) : MemOnly s (t.putTraining l) :=
  (MemOnly.foldl_set _ (fun k hk => by
    have hlt := List.mem_range.1 hk
    simp only [Fld.ix, F.MEM_TRAINBUF_WORD]
    omega) _ h).set F.MEM_TRAINTEMP_TEMP (by decide) _

theorem MemOnly.trainAt (h : MemOnly s t) (temp : Nat) : MemOnly s (t.trainAt temp) := (h.freeCtr _).putTraining _

theorem MemOnly.ite {p : Prop} [Decidable p] (h : MemOnly s t) (k : MemOnly s u) : MemOnly s (if p then t else u) := by
  split
  · exact h
  · exact k

/-- Order 6: DRAM is trained, and only MEM is written. -/
theorem orderSix_memOnly (s : State) (temp : Nat) : MemOnly s (s.orderSix temp) ∧ (s.orderSix temp).dram.trained = true := by
  have hfull : MemOnly s ((((s.setMemCfg s.dram.mr8 0 0).trainAt temp).event 20 0).dramUp) :=
    ((((MemOnly.refl s).setMemCfg _ _ _).trainAt temp).setReg (by decide) _).dramUp
  unfold State.orderSix
  split
  · exact ⟨(MemOnly.refl s).dramUp, rfl⟩
  · split
    · extract_lets c u
      split
      · have hu : MemOnly s u := (MemOnly.refl s).setMemCfg _ _ _
        exact ⟨(MemOnly.ite (hu.putTraining _) (hu.trainAt _)).dramUp, rfl⟩
      · exact ⟨hfull, rfl⟩
    · exact ⟨hfull, rfl⟩
end

/-! ### The fabric is released (R121 to R129) -/

/-- The fabric is up from here, in the lifecycle OTP names (R131). -/
theorem bootSampled_pwr (s : State) (sel : Nat) :
    (s.bootSampled sel).pwr = { s.pwr with fabricUp := true, lifecycle := lifecycleOf (s.otpWord 3) } := by simp [State.bootSampled, State.otpWord]

/-- With no training and none before, core 0 sleeps (R129). -/
theorem fabricRelease_untrained {s : State} (hr : s.fabricReady = true) (ht : s.dram.trained = false) (sel temp : Nat) (profile : Bool) :
    s.fabricRelease sel false temp profile = ((s.bootSampled sel).bootCode 0x22).bootSleep := by
  have hd : (s.bootSampled sel).dram.trained = false := by simpa [State.bootSampled] using ht
  simp [State.fabricRelease, hr, hd]

/-- With DRAM trained and a lifecycle the boot ROM knows, BOOTSEL 2 waits for the host's image (R124, R125, R131). -/
theorem fabricRelease_host {s : State} (hr : s.fabricReady = true) (hlc : lifecycleOf (s.otpWord 3) ≠ 3) (hopt : (s.otpWord 0x14).testBit 0 = false)
    (temp : Nat) (profile : Bool) :
    s.fabricRelease 2 true temp profile = ((s.bootSampled 2).orderSix temp).updPwr fun p => { p with hostBoot := true } := by
  have hp : ((s.bootSampled 2).orderSix temp).pwr = _ := (orderSix_memOnly _ temp).1.pwr.trans (bootSampled_pwr s 2)
  have hlc' : ((s.bootSampled 2).orderSix temp).pwr.lifecycle ≠ 3 := by rwa [hp]
  have hsrc : ((s.bootSampled 2).orderSix temp).bootSources 2 = [2] := by
    have hw : ((s.bootSampled 2).orderSix temp).otpWord 0x14 = s.otpWord 0x14 := by
      simp [State.otpWord, hp]
    simp [State.bootSources, hw, bit_eq_testBit, hopt]
  have hflash : ∀ u : State, u.bootFlash 2 profile = u := fun u => if_neg (by simp)
  have hgo : ¬ (!s.fabricReady) = true := by simp [hr]
  unfold State.fabricRelease
  rw [if_neg hgo]
  extract_lets u v
  have hv : v = (s.bootSampled 2).orderSix temp := rfl
  clear_value v
  subst hv
  rw [if_neg (by simp), if_neg hlc', hflash, hsrc, State.bootTry]

end Sys2Proof.Machine
end

section
/-! The host's image (R125, R127) and the statement on start-up. -/
namespace Sys2Proof.Machine

section
variable {s : State}

/-! ### Bytes written, fields kept -/

theorem State.get_updPwr (s : State) (f : Pwr → Pwr) (g : Fld) : (s.updPwr f).get g = s.get g := rfl
theorem State.get_updLink (s : State) (f : Link → Link) (g : Fld) : (s.updLink f).get g = s.get g := rfl

theorem State.reg_putBytes (s : State) (a : Nat) (l : List Byte) (off : Nat) : (s.putBytes a l).reg off = s.reg off := by
  induction l generalizing s a with
  | nil => rfl
  | cons b l ih => rw [State.putBytes, ih, State.reg, State.putByte_regs, State.putByte_variant, ← State.reg]

theorem State.pwr_putBytes (s : State) (a : Nat) (l : List Byte) : (s.putBytes a l).pwr = s.pwr := by
  induction l generalizing s a with
  | nil => rfl
  | cons b l ih => rw [State.putBytes, ih, State.putByte_pwr]

theorem State.byte_congr {t : State} (hm : t.mem = s.mem) (hd : t.dramGen = s.dramGen) (hf : t.flashGen = s.flashGen) (a : Nat) : t.byte a = s.byte a := by
  unfold State.byte
  rw [hm, hd, hf]

/-- A four-byte word in memory. -/
theorem State.byte_putWord (s : State) (b v a : Nat) :
    (s.putBytes b (leBytes 4 v)).byte a = if b ≤ a ∧ a < b + 4 then (leBytes 4 v).getD (a - b) 0 else s.byte a := by
  have hl : (leBytes 4 v).length = 4 := leBytes_length _ _
  rw [State.byte_putBytes]
  split
  · next h => rw [if_pos (by omega), List.getD_eq_getElem _ _ h.2]
  · next h => rw [if_neg (by omega)]

/-- Four bytes written read back. -/
theorem State.bytes_putBytes_four (s : State) (a v : Nat) : (s.putBytes a (leBytes 4 v)).bytes a 4 = leBytes 4 v := by
  simp [State.bytes, State.byte_putBytes, leBytes, Nat.add_assoc]

/-! ### The boot mailbox (R125) -/

/-- The host's key opens the same frames when its link is back in L0. -/
theorem hostFrame_linkActive (kind : Kind) (k f : Nat) : s.linkActive.hostFrame kind k f = s.hostFrame kind k f := by
  induction k generalizing f with
  | zero => rfl
  | succ k ih => simp only [State.hostFrame, ih]; rfl

theorem hostRefused_linkActive (pa n : Nat) (kind : Kind) : s.linkActive.hostRefused pa n kind = s.hostRefused pa n kind := by
  simp only [State.hostRefused, hostFrame_linkActive]
  rfl

/-- A refused write of the mailbox aside, the host's write through BAR4 arrives in DRAM. -/
theorem bar4Write_mailbox (hb : s.pwr.hostBoot = true) (hu : s.bar4Usable = true) (hd : s.inDram 0xFFFFC4 4 = true)
    (hp : s.hostPoison 0xFFFFC4 4 = false) (hr : s.hostRefused 0xFFFFC4 4 .write = none) (v : Nat) :
    s.bar4Write 0xFFFFC4 (leBytes 4 v) = s.linkActive.putBytes 0xFFFFC4 (leBytes 4 v) := by
  have ha : s.bar4Addr 0xFFFFC4 = 0xFFFFC4 := if_pos hb
  have hp' : s.linkActive.hostPoison 0xFFFFC4 4 = false := hp
  have hd' : s.linkActive.inDram 0xFFFFC4 4 = true := hd
  have hr' : s.linkActive.hostRefused 0xFFFFC4 4 .write = none := (hostRefused_linkActive _ _ _).trans hr
  unfold State.bar4Write
  simp [ha, hu, leBytes_length, hp', hd', hr']

/-- A word other than the start word is only written. -/
theorem hostMailbox_of_ne (hb : s.pwr.hostBoot = true) {v : Nat} (hv : v ≠ 1) : s.hostMailbox v = s.putBytes 0xFFFFC4 (leBytes 4 v) := by
  unfold State.hostMailbox
  rw [if_neg (by simp [hb])]
  exact if_pos hv

/-- An image with a wrong magic is refused with code 0x10 (R127). -/
theorem bootImage_of_magic (h : s.byte 0 ≠ 0x51) : s.bootImage 0 2 = (s.bootCode 0x10, false) := by
  have hmagic : hdrBytes (s.bytes 0 256) 0 4 ≠ [0x51#8, 0x4C#8, 0x34#8, 0x38#8] := fun he => h (List.cons.inj he).1
  have hcode : s.headerCode (s.bytes 0 256) true = some 0x10 := if_pos hmagic
  simp only [State.bootImage]
  rw [show (2 == 2) = true from rfl, hcode]

/-- The boot ROM after it refused the host's image: the code stands in PWR_BOOTSTAT and after the start word, and core 0 sleeps (R125, R129). -/
def State.mailboxRefused (s : State) : State :=
  (((s.bootCode 0x10).putBytes 0xFFFFC8 (leBytes 4 ((s.bootCode 0x10).reg 0x20140))).updPwr fun p => { p with hostBoot := false }).bootSleep

theorem hostMailbox_of_magic (hb : s.pwr.hostBoot = true) (h : s.byte 0 ≠ 0x51) :
    s.hostMailbox 1 = (s.putBytes 0xFFFFC4 (leBytes 4 1)).mailboxRefused := by
  have h0 : (s.putBytes 0xFFFFC4 (leBytes 4 1)).byte 0 ≠ 0x51 := by rwa [State.byte_putBytes, dif_neg (by decide)]
  simp only [State.hostMailbox]
  rw [if_neg (by simp [hb]), if_neg (by simp), bootImage_of_magic h0]
  rfl

/-- What the refusal leaves. -/
theorem mailboxRefused_facts (s : State) : s.mailboxRefused.settle.pwr.hostBoot = false ∧ s.mailboxRefused.settle.get F.PWR_BOOTSTAT_CODE = 0x10
    ∧ s.mailboxRefused.settle.get F.PWR_CISCTL_ALLOW = 0 ∧ s.mailboxRefused.settle.byte 0xFFFFC8 = 0x10 := by
  have hcode : (s.bootCode 0x10).get F.PWR_BOOTSTAT_CODE = 0x10 := State.get_set_same s 0x10 F.PWR_BOOTSTAT_CODE (by decide)
  generalize hu : s.bootCode 0x10 = u at hcode
  have hr : s.mailboxRefused = (((u.putBytes 0xFFFFC8 (leBytes 4 (u.reg 0x20140))).updPwr fun p => { p with hostBoot := false }).put
      F.PWR_CISCTL_ALLOW false).updCore 0 fun q => { q with asleep := true } := by rw [State.mailboxRefused, hu]; rfl
  refine ⟨?_, ?_, ?_, ?_⟩
  · rw [settle_pwr_hostBoot, hr]
    simp
  · rw [settle_get _ _ (by decide), hr, State.get_updCore, State.put, State.get_set_of_off_ne (by decide)]
    rw [State.get_updPwr, State.get, State.reg_putBytes, ← State.get, hcode]
  · rw [settle_get _ _ (by decide), hr, State.get_updCore]
    exact State.get_set_same _ 0 F.PWR_CISCTL_ALLOW (by decide)
  · have hbyte : u.reg 0x20140 % 2 ^ 8 = 0x10 := (bitsOf_zero_right _ 7).symm.trans hcode
    rw [settle_byte, hr]
    refine (State.byte_congr (s := u.putBytes 0xFFFFC8 (leBytes 4 (u.reg 0x20140))) (by simp) (by simp) (by simp) _).trans ?_
    rw [State.byte_putWord, if_pos (by decide)]
    exact BitVec.eq_of_toNat_eq (by simpa [leBytes] using hbyte)

/-- The host writes the mailbox, and the boot ROM sees the word it wrote. -/
theorem exec_hostBootMailbox (hb : s.pwr.hostBoot = true) (hu : s.bar4Usable = true) (hd : s.inDram 0xFFFFC4 4 = true)
    (hp : s.hostPoison 0xFFFFC4 4 = false) (hr : s.hostRefused 0xFFFFC4 4 .write = none) (v : Long) : exec (.hostBootMailbox v) s =
    .next ((s.linkActive.putBytes 0xFFFFC4 (leBytes 4 v.toNat)).hostMailbox v.toNat).settle := by
  have hseen : ∀ u : State, u.pwr.hostBoot = true → (u.putBytes 0xFFFFC4 (leBytes 4 v.toNat)).mailboxSeen 0xFFFFC4 (leBytes 4 v.toNat) =
      (u.putBytes 0xFFFFC4 (leBytes 4 v.toNat)).hostMailbox v.toNat := fun u h => by
    have hv : ofLe (leBytes 4 v.toNat) = v.toNat := (ofLe_leBytes 4 _).trans (Nat.mod_eq_of_lt v.isLt)
    simp [State.mailboxSeen, State.pwr_putBytes, h, leBytes_length, State.bytes_putBytes_four, hv]
  refine congrArg finish ?_
  rw [bar4Write_mailbox hb hu hd hp hr]
  exact hseen _ hb
end

/-- BOOTSEL is sampled (R121 order 4, R752). -/
theorem bootSampled_eq (s : State) (sel : Nat) : ∃ f, s.bootSampled sel = (((s.set F.PWR_BOOTSTAT_BOOTSEL sel).put F.HLK_CFG_BAR4EN
    (decide (2 ≤ sel))).updLink fun l => { l with bar4 := decide (2 ≤ sel) }).updPwr f := by
  unfold State.bootSampled
  exact ⟨_, rfl⟩

theorem kept_bootSampled (s : State) (sel : Nat) : Kept s (s.bootSampled sel) [.power, .link, .cores]
    [(F.PWR_BOOTSTAT_BOOTSEL, sel), (F.HLK_CFG_BAR4EN, ofBool (decide (2 ≤ sel)))] := by
  obtain ⟨f, hf⟩ := bootSampled_eq s sel
  rw [hf]
  exact ((((Kept.refl s _).set F.PWR_BOOTSTAT_BOOTSEL sel).put F.HLK_CFG_BAR4EN _).updLink _ (by decide)).updPwr f (by decide)

theorem bootSampled_host (s : State) : (s.bootSampled 2).link.bar4 = true ∧ (s.bootSampled 2).get F.PWR_BOOTSTAT_BOOTSEL = 2
    ∧ (s.bootSampled 2).get F.HLK_CFG_BAR4EN = 1 := by
  obtain ⟨f, hf⟩ := bootSampled_eq s 2
  rw [hf]
  simp only [State.get_updPwr, State.get_updLink]
  refine ⟨by simp, ?_, ?_⟩
  · exact (State.get_set_of_off_ne (by decide) (s.set F.PWR_BOOTSTAT_BOOTSEL 2) 1).trans (State.get_set_same s 2 F.PWR_BOOTSTAT_BOOTSEL (by decide))
  · exact State.get_set_same (s.set F.PWR_BOOTSTAT_BOOTSEL 2) 1 F.HLK_CFG_BAR4EN (by decide)

/-- The clauses on start-up, one command after the other. -/
theorem startUpReleasesIslandsInOrder : Claims.StartUpReleasesIslandsInOrder := by
  intro s klead dramOk profile temp v hw
  refine ⟨fun ha hc => exec_aonRelease ha hc klead, fun hr => ⟨fun hd ht => ?untrained, fun hd hlc hopt => ?host⟩, fun hb hu hin hp hf =>
    ⟨fun hv => ?other, fun hv h0 => ?refused⟩⟩
  case untrained =>
    subst hd
    have hk := ((kept_bootSampled s 0).set F.PWR_BOOTSTAT_CODE 0x22).put F.PWR_CISCTL_ALLOW false
    refine .of hw (congrArg finish (fabricRelease_untrained hr ht 0 temp.toNat profile)) (hk.updCore 0 _ (by decide)) ?_
    rw [settle_pwr_fabricUp]
    simp [State.bootSleep, State.bootCode, State.bootSampled]
  case host =>
    subst hd
    have hlc' : lifecycleOf (s.otpWord 3) ≠ 3 := by
      simp only [List.mem_cons, List.not_mem_nil, or_false] at hlc
      rcases hlc with h | h | h <;> simp [lifecycleOf, h]
    obtain ⟨⟨hp, hl, hregs⟩, ht⟩ := orderSix_memOnly (s.bootSampled 2) temp.toNat
    obtain ⟨hbar4, hsel, hen⟩ := bootSampled_host s
    refine ⟨_, congrArg finish (fabricRelease_host hr hlc' hopt temp.toNat profile), ?_, ?_, ?_, ?_, ?_, ?_⟩
    · rw [settle_pwr_fabricUp, State.updPwr_pwr, hp, bootSampled_pwr]
    · rw [settle_pwr_hostBoot, State.updPwr_pwr]
    · rw [settle_dram_trained, State.updPwr_dram, ht]
    · rw [settle_link_bar4, State.updPwr_link, hl, hbar4]
    · rw [settle_get _ _ (by decide), State.get_updPwr, State.get, hregs _ (.inl (by decide)), ← State.get, hsel]
    · rw [settle_get _ _ (by decide), State.get_updPwr, State.get, hregs _ (.inr (by decide)), ← State.get, hen]
  case other =>
    have hv' : v.toNat ≠ 1 := fun h => hv (BitVec.eq_of_toNat_eq h)
    have he := exec_hostBootMailbox hb hu hin hp hf v
    rw [hostMailbox_of_ne (by rw [State.pwr_putBytes]; exact hb) hv'] at he
    refine .of hw he ((((Kept.refl s _).updLink _ (by decide)).putBytes _ _ (by decide)).putBytes _ _ (by decide)) ⟨?_, fun a => ?_⟩
    · rw [settle_pwr_hostBoot, State.pwr_putBytes, State.pwr_putBytes]
      exact hb
    · rw [settle_byte, State.byte_putWord, State.byte_putWord]
      split
      · rfl
      · rfl
  case refused =>
    subst hv
    have he := exec_hostBootMailbox hb hu hin hp hf 1
    refine ⟨_, he, ?_⟩
    have h0' : (s.linkActive.putBytes 0xFFFFC4 (leBytes 4 1)).byte 0 ≠ 0x51 := by
      rw [State.byte_putBytes, dif_neg (by decide)]
      exact h0
    rw [show (1 : Long).toNat = 1 from rfl, hostMailbox_of_magic (by rw [State.pwr_putBytes]; exact hb) h0']
    exact mailboxRefused_facts _

end Sys2Proof.Machine
end

section
/-! Entry into the Cistern state and the wake sources (R144 to R147). -/
namespace Sys2Proof.Machine

/-- What the units do of themselves changes nothing that the frame keeps. -/
theorem Kept.settles {s u t : State} {ps : List Area} {ws : List (Fld × Nat)} (h : Kept s u ps ws) (k : Settles u t) : Kept s t ps ws where
  queue := k.pending.trans h.queue
  variant := k.variant.trans h.variant
  regs off ho := (k.reg off ho).trans (h.regs off ho)
  cores := h.cores.imp id fun hc c => by
    have hs := hc c
    rw [k.cores c]
    exact ⟨⟨hs.w.regs, hs.w.pointers⟩, hs.f, hs.da, hs.cr, hs.fp, hs.csw, hs.pc⟩
  memory := h.memory.imp id fun hm => by rwa [k.mem, k.dramGen, k.flashGen]
  staged := h.staged.imp id k.staged.trans
  clock := h.clock.imp id fun hc => ⟨k.tb.trans hc.1, k.clk.trans hc.2⟩
  windows := h.windows.imp id k.wins.trans
  adc := h.adc.imp id k.adc.trans
  pump := h.pump.imp id fun hp => k.pump.trans (by rw [hp])
  engines := h.engines.imp id k.eng.trans
  gallery := h.gallery.imp id k.gal.trans
  latch := h.latch.imp id k.latch.trans
  charger := h.charger.imp id k.chg.trans
  uarts := h.uarts.imp id k.uarts.trans
  banks := h.banks.imp id k.bankUp.trans
  jtag := h.jtag.imp id k.jtag.trans
  faults := h.faults.imp id k.flt.trans
  reply := h.reply.imp id k.resp.trans
  sequencer := h.sequencer.imp id fun hq => k.seq.trans (by rw [hq])
  power := h.power.imp id fun hp => k.pwr.trans (by rw [hp])
  link := h.link.imp id fun hl => k.link.trans (by rw [hl])
  dram := h.dram.imp id fun hd => k.dram.trans (by rw [hd])
  flash := h.flash.imp id fun hf => ⟨k.flashBusy.trans hf.1, k.flashCmd.trans hf.2⟩

section
variable {s : State}

/-! ### Entry (R144, R145) -/

/-- The next entry of a release run depends on registers alone. -/
theorem runEntry_congr {t : State} (h : ∀ f, t.get f = s.get f) (r : RelRun) : t.runEntry r = s.runEntry r := by
  have hnext : ∀ n i, t.nextEntry r.slots n i = s.nextEntry r.slots n i := fun n => by
    induction n with
    | zero => exact fun _ => rfl
    | succ n ih =>
      intro i
      simp only [State.nextEntry, State.sdSlot, State.driven, h, ih]
      rfl
  exact hnext _ _

/-- The release run of an entry. -/
def State.cisRun (s : State) : RelRun := ⟨.cistern, s.get F.PWR_CISRAILS_SLOTS &&& s.driven, 0, false⟩

/-- An entry with an entry of the table to release waits for it. -/
theorem cisternEntry_eq (hc : s.cisternReady = true) (hq : s.seq.rel = []) (hr : (s.runEntry s.cisRun).isSome = true) :
    s.cisternEntry = s.cisternSources.updSeq fun q => { q with rel := q.rel ++ [s.cisRun] } := by
  have hrel : (s.cisternSources.updSeq fun q => { q with rel := q.rel ++ [s.cisRun] }).seq.rel = [s.cisRun] := congrArg (· ++ [s.cisRun]) hq
  have hentry : ((s.cisternSources.updSeq fun q => { q with rel := q.rel ++ [s.cisRun] }).runEntry s.cisRun).isSome = true :=
    (congrArg Option.isSome (runEntry_congr (s := s) (fun _ => rfl) _)).trans hr
  have hgo : ¬ (!s.cisternReady) = true := by simp [hc]
  refine (if_neg hgo).trans ?_
  show (s.cisternSources.updSeq fun q => { q with rel := q.rel ++ [s.cisRun] }).relClose = _
  rw [State.relClose, hrel]
  exact if_pos (by simp [hentry])

theorem does_cisternEntry (hw : s.wired = true) (hc : s.cisternReady = true) (hq : s.seq.rel = []) (hr : (s.runEntry s.cisRun).isSome = true) :
    Does s (exec .cisternEntry s) [.power, .dram, .sequencer] [] fun t =>
      t.pwr.tsrc32 = true ∧ t.pwr.osc24 = s.flag F.PWR_CISCTL_XT24ON
      ∧ (t.pwr.cis = .entering → t.dram.selfRef = s.dram.trained ∧ t.seq.rel = [s.cisRun]) := by
  have hk : Kept s (s.cisternSources.updSeq fun q => { q with rel := q.rel ++ [s.cisRun] }) [.power, .dram, .sequencer] [] :=
    (((Kept.refl s _).updDram _ (by decide)).updPwr _ (by decide)).updSeq _ (by decide)
  refine .of hw (congrArg finish (cisternEntry_eq hc hq hr)) hk ⟨?_, ?_, fun he => ?_⟩
  · rw [settle_pwr_tsrc32]
    rfl
  · rw [settle_pwr_osc24]
    rfl
  · obtain ⟨hd, hs⟩ := settle_of_entering he
    rw [hd, hs]
    exact ⟨rfl, congrArg (· ++ [s.cisRun]) hq⟩

/-! ### Wake sources (R146, R147) -/

theorem wake_of_disabled {n : Nat} (h : (s.get F.PWR_WAKEEN_EN).testBit n = false) : s.wake n = s := if_pos (by simp [bit_eq_testBit, h])

theorem wake_of_asleep {n : Nat} (h : (s.get F.PWR_WAKEEN_EN).testBit n = true) (hc : s.pwr.cis = .asleep ∨ s.pwr.cis = .releasing) :
    s.wake n = s.updPwr fun q => { q with wakePend := setBit s.pwr.wakePend n } := by
  unfold State.wake
  rw [if_neg (by simp [bit_eq_testBit, h])]
  rcases hc with hc | hc
  · simp only [hc]
  · simp only [hc]

/-- An entry that a wake source cancels (R146). -/
theorem wake_of_entering {n : Nat} (h : (s.get F.PWR_WAKEEN_EN).testBit n = true) (hc : s.pwr.cis = .entering) :
    (s.wake n).pwr.cis = .awake ∧ (s.wake n).evt 2 1 = true ∧ (s.wake n).dram.selfRef = false := by
  unfold State.wake
  rw [if_neg (by simp [bit_eq_testBit, h])]
  simp only [hc]
  refine ⟨?_, State.evt_event _ _ (by decide), ?_⟩
  · rw [State.event, State.setReg_pwr]
  · rw [State.event, State.setReg_dram]

/-- The bit of PWR_WAKEEN of a source (R147). -/
def wakeBit : WakeSource → Nat
  | .gallery _ => 0
  | .window => 1
  | .gpio => 2
  | .rtc => 3
  | .host => 4
  | .ksync => 5

theorem wakeBy_of_disabled {w : WakeSource} (h : (s.get F.PWR_WAKEEN_EN).testBit (wakeBit w) = false) : s.wakeBy w = s := by
  cases w with
  | gallery k => exact if_pos (by simp [bit_eq_testBit, show (s.get F.PWR_WAKEEN_EN).testBit 0 = false from h])
  | window => exact wake_of_disabled h
  | gpio => exact wake_of_disabled h
  | rtc => exact wake_of_disabled h
  | host => exact wake_of_disabled h
  | ksync => exact wake_of_disabled h

/-- Outside the awake state a source that is enabled fires; a Gallery wake first records its hall. -/
theorem wakeBy_of_enabled {w : WakeSource} (h : (s.get F.PWR_WAKEEN_EN).testBit (wakeBit w) = true) (hc : s.pwr.cis ≠ .awake) :
    ∃ b, s.wakeBy w = (s.updPwr fun p => { p with wakeGalL := b }).wake (wakeBit w) := by
  cases w with
  | gallery k => exact ⟨_, if_neg (by simp [bit_eq_testBit, hc, show (s.get F.PWR_WAKEEN_EN).testBit 0 = true from h])⟩
  | window => exact ⟨s.pwr.wakeGalL, rfl⟩
  | gpio => exact ⟨s.pwr.wakeGalL, rfl⟩
  | rtc => exact ⟨s.pwr.wakeGalL, rfl⟩
  | host => exact ⟨s.pwr.wakeGalL, rfl⟩
  | ksync => exact ⟨s.pwr.wakeGalL, rfl⟩

theorem exec_wakeEvent (ha : s.pwr.aonUp = true) (w : WakeSource) : exec (.wakeEvent w) s = .next (s.wakeBy w).settle := congrArg finish (State.whenAon_of ha)

variable {w : WakeSource} (hw : s.wired = true) (ha : s.pwr.aonUp = true)
include hw ha

theorem does_wakeEvent_disabled (h : (s.get F.PWR_WAKEEN_EN).testBit (wakeBit w) = false) : Does s (exec (.wakeEvent w) s) [] [] fun _ => True := by
  refine .of hw (exec_wakeEvent ha w) ?_ trivial
  rw [wakeBy_of_disabled h]
  exact .refl s []

/-- A source that fires while the block sleeps is kept for the wake (R147). -/
theorem does_wakeEvent_asleep (h : (s.get F.PWR_WAKEEN_EN).testBit (wakeBit w) = true) (hc : s.pwr.cis = .asleep ∨ s.pwr.cis = .releasing) :
    Does s (exec (.wakeEvent w) s) [.power] [] fun t => t.pwr.wakePend.testBit (wakeBit w) = true ∧ t.pwr.cis = s.pwr.cis := by
  obtain ⟨b, hb⟩ := wakeBy_of_enabled h (by rcases hc with hc | hc <;> simp [hc])
  have he := exec_wakeEvent ha w
  rw [hb, wake_of_asleep (s := s.updPwr fun p => { p with wakeGalL := b }) h hc] at he
  refine .of hw he (((Kept.refl s _).updPwr _ (by decide)).updPwr _ (by decide)) ⟨(cisternKept_settle _).pend _ ?_, ?_⟩
  · simp [setBit_eq, testBit_putBits]
  · exact (settle_of_not_entering (by rcases hc with hc | hc <;> simp [hc])).1

/-- A source that fires during an entry cancels it (R146). -/
theorem does_wakeEvent_entering (h : (s.get F.PWR_WAKEEN_EN).testBit (wakeBit w) = true) (hc : s.pwr.cis = .entering) :
    Does s (exec (.wakeEvent w) s) [.power] [] fun t => t.pwr.cis = .awake ∧ t.evt 2 1 = true ∧ t.dram.selfRef = false := by
  obtain ⟨b, hb⟩ := wakeBy_of_enabled h (by simp [hc])
  have he := exec_wakeEvent ha w
  rw [hb] at he
  obtain ⟨hcis, hevt, href⟩ := wake_of_entering (s := s.updPwr fun p => { p with wakeGalL := b }) h hc
  obtain ⟨kcis, kdram, -⟩ := settle_of_not_entering (s := (s.updPwr fun p => { p with wakeGalL := b }).wake (wakeBit w)) (by simp [hcis])
  refine .of hw he (((Kept.refl s _).updPwr _ (by decide)).settles (settles_wake _ _)) ⟨kcis.trans hcis, (cisternKept_settle _).evt _ hevt, ?_⟩
  rw [kdram, href]
end

end Sys2Proof.Machine
end

section
/-! The wake (R148 to R152): the sources are recorded and the rails driven; the fabric restarts core 0 at the vector of the woken hall. -/
namespace Sys2Proof.Machine

section
variable {s : State}

/-! ### Steps 1 and 2 of R148 -/

/-- The wake is recorded, and a release run of the entry ends; rails are driven next. -/
def State.cisWoken (s : State) : State :=
  ((((s.set F.PWR_WAKESRC_SRC s.pwr.wakePend).set F.PWR_WAKETIME_TIME (bitsOf s.tb.toNat 31 0)).event 2 0).updSeq fun q =>
    { q with rel := q.rel.filter fun r => r.kind != .cistern }).updPwr fun p => { p with cis := .waking }

theorem cisternWake_eq (hp : s.pwr.wakePend ≠ 0) (hc : s.pwr.cis = .asleep ∨ s.pwr.cis = .releasing) : s.cisternWake = s.cisWoken.cisAdvance := by
  have hgo : ¬ (s.pwr.wakePend = 0 ∨ (s.pwr.cis ≠ .releasing ∧ s.pwr.cis ≠ .asleep)) := by
    rcases hc with hc | hc
    · simp [hp, hc]
    · simp [hp, hc]
  unfold State.cisternWake
  rw [if_neg hgo]
  simp only [State.cisWoken, State.cisLeave]

theorem get_cisWoken {f : Fld} (h : f.off ≠ 0x20128 ∧ f.off ≠ 0x2012C ∧ f.off ≠ 0x20004) : s.cisWoken.get f = s.get f := by
  obtain ⟨hsrc, htime, hevt⟩ := h
  have hupd : ∀ (u : State) (g : Seq → Seq), (u.updSeq g).get f = u.get f := fun _ _ => rfl
  have hevt' : blockBase 2 + 4 ≠ f.off := hevt.symm
  rw [State.cisWoken, State.get_updPwr, hupd, State.get_event hevt', State.get_set_of_off_ne htime.symm, State.get_set_of_off_ne hsrc.symm]

/-- The registers a wake writes. -/
def State.wakeWrites (s : State) : List (Fld × Nat) := [(F.PWR_WAKESRC_SRC, s.pwr.wakePend), (F.PWR_WAKETIME_TIME, s.tb.toNat % 2 ^ 32)]

theorem kept_cisWoken (s : State) : Kept s s.cisWoken [.power, .sequencer] s.wakeWrites := by
  have hk := ((Kept.refl s [.power, .sequencer]).set F.PWR_WAKESRC_SRC s.pwr.wakePend).set F.PWR_WAKETIME_TIME (bitsOf s.tb.toNat 31 0)
  rw [bitsOf_zero_right] at hk
  exact ((hk.settles (.of_event _ 2 0 (by decide))).updSeq _ (by decide)).updPwr _ (by decide)

theorem evt_updSeq (u : State) (f : Seq → Seq) (b n : Nat) : (u.updSeq f).evt b n = u.evt b n := rfl
theorem evt_updPwr (u : State) (f : Pwr → Pwr) (b n : Nat) : (u.updPwr f).evt b n = u.evt b n := rfl

theorem evt_cisWoken (s : State) : s.cisWoken.evt 2 0 = true := by
  rw [State.cisWoken, evt_updPwr, evt_updSeq]
  exact State.evt_event _ 2 (by decide)

/-- Rails to drive and their steps, as they stood before the wake. -/
theorem cisReleased_cisWoken (s : State) : s.cisWoken.cisReleased = s.cisReleased ∧ s.cisWoken.cisStep = s.cisStep := by
  have hrails := get_cisWoken (s := s) (f := F.PWR_CISRAILS_SLOTS) (by decide)
  have hdriven := get_cisWoken (s := s) (f := F.SEQ_UPMASK_DRIVEN) (by decide)
  have hrel : s.cisWoken.cisReleased = s.cisReleased := by rw [State.cisReleased, State.driven, hrails, hdriven]; rfl
  refine ⟨hrel, ?_⟩
  have hstep : ∀ n, s.cisWoken.get (F.SEQ_SLOT_CFG_UPSTEP.ix n) = s.get (F.SEQ_SLOT_CFG_UPSTEP.ix n) := fun n =>
    get_cisWoken (by simp [Fld.ix, F.SEQ_SLOT_CFG_UPSTEP]; omega)
  simp only [State.cisStep, hrel, hstep]

/-- With every rail driven there is no step left to drive. -/
theorem cisAdvance_of_driven (h : s.cisReleased = 0) : s.cisAdvance = s := by
  have hstep : s.cisStep = none := by simp [State.cisStep, h, bit]
  unfold State.cisAdvance
  rw [hstep]
  split <;> rfl

/-- The slots of a step of the rails. -/
def State.cisSlots (s : State) (k : Nat) : Nat :=
  packBits 16 fun n => bit (andNot (s.get F.PWR_CISRAILS_SLOTS) s.driven) n && s.get (F.SEQ_SLOT_CFG_UPSTEP.ix n) == k

theorem cisAdvance_of_step {k : Nat} (hg : andNot (s.get F.PWR_CISRAILS_SLOTS &&& s.driven) s.seq.pg = 0) (hk : s.cisStep = some k) :
    s.cisAdvance = (s.set F.SEQ_UPMASK_DRIVEN (s.driven ||| s.cisSlots k)).updSeq fun q => { q with ramping := q.ramping ||| s.cisSlots k } := by
  unfold State.cisAdvance
  rw [if_neg (by simp [hg]), hk]
  rfl

/-- A wake under way stays so at the end of the command. -/
theorem starts_settle {u : State} (hc : u.pwr.cis = .waking) (he : u.evt 2 0 = true) (hr : u.seq.rel = s.seq.rel.filter fun r => r.kind != .cistern) :
    u.settle.pwr.cis = .waking ∧ u.settle.evt 2 0 = true ∧ ∀ x ∈ u.settle.seq.rel, x.kind ≠ .cistern := by
  obtain ⟨kc, -, kq⟩ := settle_of_not_entering (s := u) (by simp [hc])
  refine ⟨kc.trans hc, (cisternKept_settle u).evt 0 he, fun x hx => ?_⟩
  rw [kq, hr] at hx
  simpa using (List.mem_filter.1 hx).2

theorem cis_cisWoken (s : State) : s.cisWoken.pwr.cis = .waking := rfl
theorem rel_cisWoken (s : State) : s.cisWoken.seq.rel = s.seq.rel.filter fun r => r.kind != .cistern := by simp [State.cisWoken, State.event]
theorem ramping_cisWoken (s : State) : s.cisWoken.seq.ramping = s.seq.ramping := by simp [State.cisWoken, State.event]
theorem pg_cisWoken (s : State) : s.cisWoken.seq.pg = s.seq.pg := by simp [State.cisWoken, State.event]

/-- A wake with every rail driven. -/
theorem does_cisternWake_driven (hw : s.wired = true) (hp : s.pwr.wakePend ≠ 0) (hc : s.pwr.cis = .asleep ∨ s.pwr.cis = .releasing)
    (hd : andNot (s.get F.PWR_CISRAILS_SLOTS) s.driven = 0) : Does s (exec .cisternWake s) [.power, .sequencer] s.wakeWrites fun t =>
      t.pwr.cis = .waking ∧ t.evt 2 0 = true ∧ ∀ x ∈ t.seq.rel, x.kind ≠ .cistern := by
  have he : s.cisternWake = s.cisWoken := (cisternWake_eq hp hc).trans (cisAdvance_of_driven ((cisReleased_cisWoken s).1.trans hd))
  exact .of hw (congrArg finish he) (kept_cisWoken s) (starts_settle (cis_cisWoken s) (evt_cisWoken s) (rel_cisWoken s))

/-- A wake that drives the next step of the rails. -/
theorem does_cisternWake_step (hw : s.wired = true) (hp : s.pwr.wakePend ≠ 0) (hc : s.pwr.cis = .asleep ∨ s.pwr.cis = .releasing) {k : Nat}
    (hg : andNot (s.get F.PWR_CISRAILS_SLOTS &&& s.driven) s.seq.pg = 0) (hk : s.cisStep = some k) :
    Does s (exec .cisternWake s) [.power, .sequencer] (s.wakeWrites ++ [(F.SEQ_UPMASK_DRIVEN, s.driven ||| s.cisSlots k)]) fun t =>
      (t.pwr.cis = .waking ∧ t.evt 2 0 = true ∧ ∀ x ∈ t.seq.rel, x.kind ≠ .cistern) ∧ t.seq.ramping = s.seq.ramping ||| s.cisSlots k := by
  have hrails := get_cisWoken (s := s) (f := F.PWR_CISRAILS_SLOTS) (by decide)
  have hdriven : s.cisWoken.driven = s.driven := get_cisWoken (by decide)
  have hslots : s.cisWoken.cisSlots k = s.cisSlots k := by
    have hstep : ∀ n, s.cisWoken.get (F.SEQ_SLOT_CFG_UPSTEP.ix n) = s.get (F.SEQ_SLOT_CFG_UPSTEP.ix n) := fun n =>
      get_cisWoken (by simp [Fld.ix, F.SEQ_SLOT_CFG_UPSTEP]; omega)
    simp only [State.cisSlots, hrails, hdriven, hstep]
  have he := (cisternWake_eq hp hc).trans (cisAdvance_of_step (k := k) (by rwa [hrails, hdriven, pg_cisWoken]) ((cisReleased_cisWoken s).2.trans hk))
  rw [hdriven, hslots] at he
  refine .of hw (congrArg finish he) (((kept_cisWoken s).set _ _).updSeq _ (by decide)) ⟨starts_settle (s := s) ?_ ?_ ?_, ?_⟩
  · rw [State.updSeq_pwr, State.set_pwr, cis_cisWoken]
  · rw [evt_updSeq]
    exact (CisternKept.of_set _ F.SEQ_UPMASK_DRIVEN _ (by decide)).evt 0 (evt_cisWoken s)
  · simpa using rel_cisWoken s
  · simp [ramping_cisWoken]

/-! ### Steps 3 and 4 of R148 -/

/-- Bells that were held for the Gallery and watchdogs that start again leave the cores and PWR. -/
theorem Disables.fireBell {t : State} (h : Disables s t) (n : Nat) : Disables s (t.fireBell n) := by
  have hbel : ∀ f, Disables s (t.updBel f) := fun _ => ⟨h.cores, h.link, h.pwr, h.regs⟩
  have hpend : ∀ m, Disables s (t.pendOn n m) := fun m => by
    unfold State.pendOn
    exact hbel _
  unfold State.fireBell
  refine .ite h (.ite (hpend _) ?_)
  split
  · exact hpend _
  · exact hbel _

theorem Disables.wakeUnits {t : State} (h : Disables s t) : Disables s t.wdlWrite.wdpWrite.wddWrite.bellsReleased := by
  have hl : Disables s t.wdlWrite := .ite ((h.set F.TMB_WDLCNT_MS (by decide) _).updFlt _) h
  have hp : Disables s t.wdlWrite.wdpWrite := .ite (hl.set F.TMB_WDPCNT_MS (by decide) _) hl
  have hd : Disables s t.wdlWrite.wdpWrite.wddWrite := .ite ((hp.set F.TMB_WDDCNT_MS (by decide) _).put F.TMB_WDDCNT_GRACE (by decide) _) hp
  exact (Disables.foldl (fun u n => .ite ((Disables.refl u).fireBell _) (.refl u)) _ hd).set F.GAL_BELLPEND_MASK (by decide) 0

theorem get_coresLost {f : Fld} (h : f.off ≠ 0x2010C) : s.coresLost.get f = s.get f :=
  State.get_set_of_off_ne h.symm { s with cores := s.cores.map Core.held } _

/-- The hall and the vector of a wake are as they were before the cores lost their state (R151, R152). -/
theorem wokenHall_coresLost (s : State) : s.coresLost.wokenHall = s.wokenHall := by
  have hpwr : s.coresLost.pwr = s.pwr := State.set_pwr _ _ _
  have hsrc := get_coresLost (s := s) (f := F.PWR_WAKESRC_SRC) (by decide)
  have hroute := get_coresLost (s := s) (f := F.PWR_WAKEROUTE_ROUTE) (by decide)
  have hen := get_coresLost (s := s) (f := F.PWR_HALLPCTL_ENABLE) (by decide)
  simp only [State.wokenHall, State.flag, hpwr, hsrc, hroute, hen]
  rfl

/-- The vector of the woken hall (R152). -/
def State.wakeVec (s : State) : Nat :=
  match s.wokenHall with
  | .L => s.get F.PWR_WAKEVECL_VEC
  | .P => s.get F.PWR_WAKEVECP_VEC

/-- Core 0 as it starts (R148 step 4, R152). -/
theorem core_wakeCore (s : State) : (s.wakeCore.core 0).rd 1 = BitVec.ofNat 48 (s.get F.PWR_WAKESRC_SRC) ∧ (s.wakeCore.core 0).hall = s.wokenHall
    ∧ (s.wakeCore.core 0).pc = BitVec.ofNat 48 (bsramBase + 4 * s.wakeVec) := by
  unfold State.wakeCore State.wakeVec
  cases s.wokenHall with
  | L =>
    simp only [State.core_updCore, if_true]
    have hhall : cswHall Core.reset.csw = .L := by decide
    exact ⟨rfl, hhall, rfl⟩
  | P =>
    simp only [State.core_updCore, if_true]
    have hhall : cswHall 0x4F000#48 = .P := by decide
    exact ⟨rfl, hhall, rfl⟩

theorem reg_wakeCore (s : State) (off : Nat) : s.wakeCore.reg off = s.reg off := by
  unfold State.wakeCore
  cases s.wokenHall <;> rfl

/-- The state steps 3 and 4 leave, up to the bells and watchdogs. -/
def State.cisReturned (s : State) : State :=
  s.coresLost.wakeCore.updPwr fun p => { p with cis := .awake, fabricUp := true, wakePend := 0, wakeGalL := false }

/-- A vector is a multiple of four in a PC's range. -/
theorem wakeVec_pc (v : Nat) : BitVec.ofNat 48 (bsramBase + 4 * v) &&& pcBits = BitVec.ofNat 48 (bsramBase + 4 * v) := by
  rw [and_pcBits_iff, BitVec.toNat_ofNat, bsramBase]
  omega

/-- The fabric is back, and core 0 starts in the woken hall. -/
theorem exec_wakeFabricRelease (hc : s.pwr.cis = .waking) (hr : andNot (s.get F.PWR_CISRAILS_SLOTS) (s.driven &&& s.seq.pg) = 0) :
    ∃ t, exec .wakeFabricRelease s = .next t ∧ t.pwr.fabricUp = true ∧ t.pwr.cis = .awake
      ∧ t.get F.PWR_CORERST_HOLD = 2 ^ Variant.cores s.variant - 2 ∧ (t.core 0).rd 1 = BitVec.ofNat 48 (s.get F.PWR_WAKESRC_SRC)
      ∧ (t.core 0).hall = s.wokenHall ∧ (t.core 0).pc = BitVec.ofNat 48 (bsramBase + 4 * s.wakeVec) := by
  have hgo : ¬ (!s.wakeReady) = true := by simp [State.wakeReady, hc, hr]
  have he : s.wakeRelease = s.cisReturned.wdlWrite.wdpWrite.wddWrite.bellsReleased := if_neg hgo
  have hd := (Disables.refl s.cisReturned).wakeUnits
  rw [← he] at hd
  obtain ⟨hrd, hhall, hpc⟩ := core_wakeCore s.coresLost
  have hsrc := get_coresLost (s := s) (f := F.PWR_WAKESRC_SRC) (by decide)
  have hvec : s.coresLost.wakeVec = s.wakeVec := by
    unfold State.wakeVec
    rw [wokenHall_coresLost, get_coresLost (by decide), get_coresLost (by decide)]
  have hcore : s.wakeRelease.core 0 = s.coresLost.wakeCore.core 0 := by
    rw [State.core, hd.cores]
    rfl
  have hcis : s.wakeRelease.pwr.cis = .awake := by
    rw [hd.pwr]
    rfl
  refine ⟨_, rfl, ?_, ?_, ?_, ?_, ?_, ?_⟩
  · rw [settle_pwr_fabricUp, hd.pwr]
    rfl
  · rw [(settle_of_not_entering (by simp [hcis])).1, hcis]
  · rw [settle_get _ _ (by decide), State.get, hd.regs _ (by decide), State.cisReturned, ← State.get, State.get_updPwr, State.get, reg_wakeCore,
      ← State.get]
    refine (State.get_set_same { s with cores := s.cores.map Core.held } _ F.PWR_CORERST_HOLD (by decide)).trans ?_
    simp only [State.coreMask]
    cases s.variant <;> rfl
  · rw [rd_settle, hcore, hrd, hsrc]
  · rw [hall_settle, hcore, hhall, wokenHall_coresLost]
  · rw [pc_settle, hcore, hpc, hvec, wakeVec_pc]
end

end Sys2Proof.Machine
end

section
/-! Stalls (R60, R63), the return of the T island to 24 MHz (R51), and the statement on the Cistern state. -/
namespace Sys2Proof.Machine

section
variable {s : State}

/-! ### Stalls -/

/-- A search among fewer finds the same, if it is still there. -/
theorem find?_eq_some_of_imp {α : Type} {l : List α} {p q : α → Bool} {a : α} (h : l.find? p = some a) (ha : q a = true)
    (hq : ∀ b, q b = true → p b = true) : l.find? q = some a := by
  induction l with
  | nil => cases h
  | cons b l ih =>
    cases hp : p b with
    | true =>
      obtain rfl : b = a := by simpa [hp] using h
      simp [ha]
    | false =>
      have hqb : q b = false := Bool.eq_false_iff.2 fun hb => by simp [hq b hb] at hp
      rw [List.find?_cons, hqb]
      exact ih (by simpa [hp] using h)

/-- A segment is fenced (R60). -/
def State.fence (s : State) (n : Nat) : State := s.set F.FLT_SEGSTAT_FENCED (setBit (s.get F.FLT_SEGSTAT_FENCED) n)

theorem fenced_fence {n : Nat} (hn : n < 13) (k : Nat) : (s.fence n).fenced k = (decide (k = n) || s.fenced k) := by
  have hget : (s.fence n).get F.FLT_SEGSTAT_FENCED = setBit (s.get F.FLT_SEGSTAT_FENCED) n % 2 ^ 13 :=
    State.get_set_same s _ F.FLT_SEGSTAT_FENCED (by decide)
  have hlt : s.get F.FLT_SEGSTAT_FENCED < 2 ^ 13 := bitsOf_lt _ _ _
  rw [State.fenced, hget, bit_eq_testBit, Nat.testBit_mod_two_pow, State.fenced, bit_eq_testBit, setBit, Nat.testBit_or, Nat.testBit_two_pow]
  by_cases hk : k < 13
  · simp [hk, Bool.or_comm, eq_comm]
  · have hfalse : (s.get F.FLT_SEGSTAT_FENCED).testBit k = false :=
      Nat.testBit_eq_false_of_lt (lt_of_lt_of_le hlt (Nat.pow_le_pow_right (by decide) (by omega)))
    simp [hk, hfalse, show k ≠ n by omega]

/-- The cores that stay free, when a segment other than the one chosen is fenced. -/
theorem lowestFree_fence {t : State} {n c m : Nat} (hn : n < 13) (hf : s.lowestFree m = some c) (hc : n ≠ c) (hv : t.variant = s.variant)
    (hh : t.get F.PWR_CORERST_HOLD = (s.fence n).get F.PWR_CORERST_HOLD) (hs : t.get F.FLT_SEGSTAT_FENCED = (s.fence n).get F.FLT_SEGSTAT_FENCED) :
    t.lowestFree m = some c := by
  have hfree : ∀ k, t.coreFree k = (s.coreFree k && decide (k ≠ n)) := fun k => by
    have hhold : t.get F.PWR_CORERST_HOLD = s.get F.PWR_CORERST_HOLD :=
      hh.trans (State.get_set_of_off_ne (by decide) _ _)
    have hfen : t.fenced k = (s.fence n).fenced k := by rw [State.fenced, hs, ← State.fenced]
    rw [State.coreFree, State.coreFree, hv, hhold, hfen, fenced_fence hn]
    by_cases hk : k = n <;> simp [hk]
  have hmem := List.find?_some hf
  refine find?_eq_some_of_imp hf ?_ fun k hk => ?_
  · rw [hfree]
    simpa [hc.symm] using hmem
  · rw [hfree] at hk
    simp only [Bool.and_eq_true] at hk ⊢
    exact ⟨hk.1, hk.2.1⟩

theorem kept_fence (n : Fin 13) (ps : List Area) : Kept s (s.fence n) ps [(F.FLT_SEGSTAT_FENCED.bitAt n, 1)] := by
  rw [State.fence, setBit_eq]
  exact (Kept.refl s ps).setBitAt F.FLT_SEGSTAT_FENCED n true (by have := n.isLt; simp [F.FLT_SEGSTAT_FENCED]; omega)

/-- The registers of a stall's record (R60 step 4). -/
def State.stallWrites (s : State) (n drained : Nat) : List (Fld × Nat) :=
  [(F.FLT_STALLREC0_VALID, 1), (F.FLT_STALLREC0_DRAINED, min 255 drained), (F.FLT_STALLREC0_SEG, n), (F.FLT_STALLREC1_TIME, s.tb.toNat % 2 ^ 32),
    (F.FLT_DRAINCNT_COUNT, min 65535 (s.get F.FLT_DRAINCNT_COUNT + 1)), (evtBit 22 0, 1)]

theorem kept_stallRecord (n : Fin 13) (drained : Nat) (ps : List Area) :
    Kept s ((s.fence n).stallRecord n drained) ps ((F.FLT_SEGSTAT_FENCED.bitAt n, 1) :: (s.fence n).stallWrites n drained) := by
  have hk := (((((((kept_fence (s := s) n ps).put F.FLT_STALLREC0_VALID true).set F.FLT_STALLREC0_DRAINED (satTo 255 drained)).set
    F.FLT_STALLREC0_SEG n).set F.FLT_STALLREC1_TIME (bitsOf (s.fence n).tb.toNat 31 0)).bump F.FLT_DRAINCNT_COUNT 1).event 22 0)
  rw [State.get_set_of_off_ne (by decide), State.get_set_of_off_ne (by decide), State.get_set_of_off_ne (by decide), State.put,
    State.get_set_of_off_ne (by decide)] at hk
  have htime : (s.fence n).stallWrites n drained = [(F.FLT_STALLREC0_VALID, ofBool true), (F.FLT_STALLREC0_DRAINED, satTo 255 drained),
      (F.FLT_STALLREC0_SEG, n.val), (F.FLT_STALLREC1_TIME, bitsOf (s.fence n).tb.toNat 31 0),
      (F.FLT_DRAINCNT_COUNT, satTo (2 ^ (15 + 1 - 0) - 1) ((s.fence n).get F.FLT_DRAINCNT_COUNT + 1)), (evtBit 22 0, 1)] := by
    rw [satTo_eq_min, satTo_eq_min, bitsOf_zero_right]
    rfl
  rw [htime]
  simp only [State.stallRecord, State.set_tb, State.put]
  exact hk

/-- The record leaves what stands below it in FLT, and the cores. -/
theorem get_stallRecord (u : State) (n drained : Nat) {f : Fld} (hf : f.off < 0x380108) (hevt : f.off ≠ 0x380004) :
    (u.stallRecord n drained).get f = u.get f := by
  have h22 : blockBase 22 + 4 ≠ f.off := hevt.symm
  have hrec : F.FLT_STALLREC0_SEG.off ≠ f.off ∧ F.FLT_STALLREC1_TIME.off ≠ f.off ∧ F.FLT_DRAINCNT_COUNT.off ≠ f.off := by
    simp only [F.FLT_STALLREC0_SEG, F.FLT_STALLREC1_TIME, F.FLT_DRAINCNT_COUNT]
    omega
  obtain ⟨h0, h1, h2⟩ := hrec
  simp only [State.stallRecord, State.bump]
  rw [State.get_event h22, State.get_set_of_off_ne h2, State.get_set_of_off_ne h1, State.get_set_of_off_ne h0,
    State.get_set_of_off_ne (show F.FLT_STALLREC0_DRAINED.off ≠ f.off from h0), State.put,
    State.get_set_of_off_ne (show F.FLT_STALLREC0_VALID.off ≠ f.off from h0)]

theorem cores_stallRecord (u : State) (n drained : Nat) : (u.stallRecord n drained).cores = u.cores := by
  simp [State.stallRecord, State.bump, State.event]

theorem variant_stallRecord (u : State) (n drained : Nat) : (u.stallRecord n drained).variant = u.variant := by
  simp [State.stallRecord, State.bump, State.event]

/-- Only the engines have jobs for a drain to end (R62). -/
theorem drainJobs_of_ne (u : State) {n : Nat} (h6 : n ≠ 6) (h7 : n ≠ 7) : u.drainJobs n = u := by rw [State.drainJobs, if_neg h6, if_neg h7]

/-- A stall with a core left to take the machine check (R60, R63). -/
theorem does_stall {n : Fin 13} {c : CoreId} (hw : s.wired = true) (hp : s.segPresent n = true) (hf : s.fenced n = false) (hu : s.pwr.fabricUp = true)
    (h6 : n.val ≠ 6) (h7 : n.val ≠ 7) (hc : n.val ≠ c.val) (hl : s.lowestFree 15 = some c.val) (drained : BitVec 16) :
    Does s (exec (.stallDeclared n drained) s) [.cores] ((F.FLT_SEGSTAT_FENCED.bitAt n, 1) :: s.stallWrites n drained.toNat) fun t =>
      (t.core c).due.mc = (s.core c).due.mc ++ [⟨1, n, none⟩] ∧ ∀ k, (s.core k).Same (t.core k) := by
  have hrec := kept_stallRecord (s := s) n drained.toNat [.cores]
  have hws : (s.fence n).stallWrites n drained.toNat = s.stallWrites n drained.toNat := by
    have hget : (s.fence n).get F.FLT_DRAINCNT_COUNT = s.get F.FLT_DRAINCNT_COUNT := State.get_set_of_off_ne (by decide) _ _
    have htb : (s.fence n).tb = s.tb := State.set_tb _ _ _
    rw [State.stallWrites, hget, htb, State.stallWrites]
  have hvar : ((s.fence n).stallRecord n drained.toNat).variant = s.variant := by rw [variant_stallRecord, State.fence, State.set_variant]
  have hfree : ((s.fence n).stallRecord n drained.toNat).lowestFree 15 = some c.val :=
    lowestFree_fence n.isLt hl hc hvar (get_stallRecord _ _ _ (by decide) (by decide)) (get_stallRecord _ _ _ (by decide) (by decide))
  have hcore : ∀ k, ((s.fence n).stallRecord n drained.toNat).core k = s.core k := fun k => by
    rw [State.core, cores_stallRecord, State.fence, State.set_cores, ← State.core]
  have hgo : ¬ ((!s.segPresent n || s.fenced n || !s.pwr.fabricUp) = true) := by simp [hp, hf, hu]
  have he : s.stall n drained.toNat = ((s.fence n).stallRecord n drained.toNat).updCore c fun q =>
      { q with due := { q.due with mc := q.due.mc ++ [⟨1, n, none⟩] } } := by
    refine (if_neg hgo).trans ?_
    show (((s.fence n).drainJobs n).stallRecord n drained.toNat).stallCheck 1 n = _
    rw [drainJobs_of_ne _ h6 h7, State.stallCheck, hfree]
    exact machineCheck_eq _ c _
  rw [hws] at hrec
  refine .of hw (congrArg finish he) (hrec.updCore c _ (by decide)) ⟨?_, fun k => same_settle_of_due hw ?_⟩
  · rw [due_settle, State.core_updCore, if_pos rfl, hcore]
  · rw [State.core_updCore, hcore, hcore]
    split
    · next h =>
      subst h
      exact ⟨_, rfl⟩
    · exact ⟨_, rfl⟩

/-- The T island returns to 24 MHz (R51). -/
theorem does_tSourceReturn (hw : s.wired = true) (ht : s.pwr.tsrc32 = true) (ho : s.pwr.osc24 = true)
    (hc : s.pwr.cis = .awake ∨ s.pwr.cis = .waking) :
    Does s (exec .tSourceReturn s) [.power] [] fun t => t.pwr.tsrc32 = false ∧ t.pwr.tacc = 0 := by
  have hgo : (s.pwr.tsrc32 && s.pwr.osc24 && (s.pwr.cis == .awake || s.pwr.cis == .waking)) = true := by simp [ht, ho, hc]
  refine .of hw (congrArg finish (if_pos hgo)) ((Kept.refl s _).updPwr _ (by decide)) ⟨?_, ?_⟩
  · rw [settle_pwr_tsrc32]
    rfl
  · rw [settle_pwr_tacc]
    rfl
end

/-- The clauses on the Cistern state and on stalls, one command after the other. -/
theorem cisternSleepsAndWakes : Claims.CisternSleepsAndWakes := by
  intro s w seg drained hw rails r n enabled
  have hn : n = wakeBit w := by cases w <;> rfl
  clear_value n
  subst hn
  refine ⟨fun hc hq hr => does_cisternEntry hw hc hq hr, fun hc => ?idle, fun ha => ⟨fun h => does_wakeEvent_disabled hw ha h,
    fun h hc => does_wakeEvent_asleep hw ha h hc, fun h hc => does_wakeEvent_entering hw ha h hc⟩, fun hp hc =>
    ⟨fun hd => does_cisternWake_driven hw hp hc hd, fun k hg hk => does_cisternWake_step hw hp hc hg hk⟩, fun hc hr => ?wakes,
    fun ht ho hc => does_tSourceReturn hw ht ho hc, fun hp hf hu c h6 h7 hc hl => does_stall hw hp hf hu h6 h7 hc hl drained⟩
  case idle => exact .of hw (congrArg finish (if_pos (by simp [hc]))) (.refl s []) trivial
  case wakes =>
    obtain ⟨t, he, hup, hcis, hhold, hrd, hhall, hpc⟩ := exec_wakeFabricRelease hc hr
    refine ⟨t, he, hup, hcis, hhold, hrd, hhall, hpc.trans ?_⟩
    unfold State.wakeVec
    cases s.wokenHall <;> rfl

/-- Settles O42: start-up releases the islands in order, and the Cistern sleeps and wakes. -/
theorem startUpAndSleep : Obligations.StartUpAndSleep := ⟨startUpReleasesIslandsInOrder, cisternSleepsAndWakes⟩

end Sys2Proof.Machine
end

section
/-! The rail sequencer (R176, R197, R205): the clauses on DOWN and ABORT fail. They ask of the state no more than `wired`, and so allow a value staged at
SEQ_STEPCTL, which is no opening member of a pair, so that no write stages one there. A read of the register then returns the staged bits (R89), the write
of DOWN or ABORT repeats them, and with GO among them the write also starts a power-up run, which acts first. -/
namespace Sys2Proof.Machine

/-- Both islands are released, core 0 executes, nothing is driven, SEQ_KCFG.ENABLE is `k`, and a value with GO set is staged at SEQ_STEPCTL. -/
def goStaged (k : Nat) : State :=
  { (State.reset.set F.PWR_CORERST_HOLD 0).set F.SEQ_KCFG_ENABLE k with
    pwr := { Pwr.reset with aonUp := true, fabricUp := true }, staged := [(F.SEQ_STEPCTL_GO.off, 1)] }

/-- Hall L on core 0 writes SEQ_STEPCTL. -/
def goStagedSrc : Src := .core 0 .L

/-! ### DOWN (R176, R178) -/

/-- The write of DOWN reaches SEQ_STEPCTL with a legal STEPDLY, the sequencer is OFF, and no slot is driven or up. -/
theorem goStaged_down : (goStaged 0).wired = true ∧ (goStaged 0).reachesField goStagedSrc F.SEQ_STEPCTL_DOWN 1 = true
    ∧ bitsOf (putBits ((goStaged 0).readReg goStagedSrc F.SEQ_STEPCTL_DOWN.off) 1 1 1) 23 16 ≤ 100
    ∧ ((goStaged 0).reached goStagedSrc).seq.state = .off ∧ ((goStaged 0).reached goStagedSrc).pwr.cis ≠ .entering
    ∧ ((goStaged 0).reached goStagedSrc).driven = 0 ∧ ((goStaged 0).reached goStagedSrc).upSlots = 0 := by decide +kernel

/-- A power-up run drove a slot first: the shutdown run has it to release, and is not over at once. -/
theorem exec_shutdownRun_goStaged : ∃ t, exec (.shutdownRun goStagedSrc) (goStaged 0) = .next t ∧ t.seq.state = .down :=
  ⟨_, rfl, by decide +kernel⟩

theorem not_shutdownRunsReleaseTheirSlots : ¬ Claims.ShutdownRunsReleaseTheirSlots := by
  intro h
  obtain ⟨hw, hreach, hdly, hstate, hcis, hdriven, hup⟩ := goStaged_down
  obtain ⟨t, ht, hdown⟩ := exec_shutdownRun_goStaged
  obtain ⟨down, -⟩ := h (goStaged 0) goStagedSrc ⟨.down, 0, 0, false⟩ [] 0 hw
  obtain ⟨-, nothingDriven⟩ := down hreach hdly (.inl hstate) hcis
  obtain ⟨t', ht', ⟨hoff, -⟩, -⟩ := nothingDriven hdriven hup
  obtain rfl : t' = t := Host.Outcome.next.inj (ht'.symm.trans ht)
  rw [hdown] at hoff
  cases hoff

/-- Refutes O43: with a value staged at SEQ_STEPCTL the write of DOWN is a write of GO too, and with nothing driven before it the sequencer does not end
in OFF. -/
theorem not_sequencerRunsSlots : ¬ Obligations.SequencerRunsSlots := fun h => not_shutdownRunsReleaseTheirSlots h.2

/-! ### ABORT (R197, R205) -/

theorem State.seqIs.state {t : State} {x : Seq} (h : t.seqIs x) : t.seq.state = x.state := by
  rw [show t.seq = { x with rel := t.seq.rel } from h]

/-- The write of ABORT reaches SEQ_STEPCTL with a legal STEPDLY, and runs take part in Kraluny stepping. -/
theorem goStaged_abort : (goStaged 1).wired = true ∧ (goStaged 1).reachesField goStagedSrc F.SEQ_STEPCTL_ABORT 1 = true
    ∧ bitsOf (putBits ((goStaged 1).readReg goStagedSrc F.SEQ_STEPCTL_ABORT.off) 2 2 1) 23 16 ≤ 100
    ∧ ((goStaged 1).reached goStagedSrc).kPart = true ∧ ((goStaged 1).reached goStagedSrc).seq.state = .off := by decide +kernel

/-- A stepped run was started first: the sequencer waits for its strobe. -/
theorem exec_abort_goStaged : ∃ t, exec (.abort goStagedSrc) (goStaged 1) = .next t ∧ t.seq.state = .kwait :=
  ⟨_, rfl, by decide +kernel⟩

theorem not_ksyncStepsDevicesTogether : ¬ Claims.KsyncStepsDevicesTogether := by
  intro h
  obtain ⟨hw, hreach, hdly, hpart, hoff⟩ := goStaged_abort
  obtain ⟨t, ht, hwait⟩ := exec_abort_goStaged
  obtain ⟨-, -, -, -, -, -, -, abort⟩ := h (goStaged 1) goStagedSrc hw
  obtain ⟨t', ht', hseq, -⟩ := abort hreach hdly hpart
  obtain rfl : t' = t := Host.Outcome.next.inj (ht'.symm.trans ht)
  have hstate : t'.seq.state = ((goStaged 1).reached goStagedSrc).seq.state := hseq.state
  rw [hwait, hoff] at hstate
  cases hstate

/-- Refutes O44: with a value staged at SEQ_STEPCTL the write of ABORT is a write of GO too, and the sequencer leaves OFF. -/
theorem not_sequencerTrimsAndSteps : ¬ Obligations.SequencerTrimsAndSteps := fun h => not_ksyncStepsDevicesTogether h.2

end Sys2Proof.Machine
end

section
/-! The monitor ADC (R231, R232): the clause on STOP fails. It asks of the state no more than `wired`, and so allows a value staged at ADC_CTL, which is no
opening member of a pair, so that no write stages one there. A read of the register then returns the staged bits (R89), the write of STOP repeats them, and
with START among them the write also starts a scan, whose first pass ends at once where no entry names a channel. -/
namespace Sys2Proof.Machine

/-- Both islands are released, core 0 executes, no entry of the scan list names a channel, and a value with START set is staged at ADC_CTL. -/
def startStaged : State :=
  { State.reset.set F.PWR_CORERST_HOLD 0 with
    pwr := { Pwr.reset with aonUp := true, fabricUp := true }, staged := [(F.ADC_CTL_START.off, 1)] }

/-- Hall L on core 0 writes ADC_CTL. -/
def startStagedSrc : Src := .core 0 .L

/-- The write of STOP reaches ADC_CTL, and no pass of the scan has ended. -/
theorem startStaged_stop : startStaged.wired = true ∧ startStaged.reachesField startStagedSrc F.ADC_CTL_STOP 1 = true
    ∧ (startStaged.reached startStagedSrc).adc.pass = 0 := by decide +kernel

/-- The scan was started before it was stopped: a pass has ended. -/
theorem exec_adcStop_startStaged : ∃ t, exec (.adcStop startStagedSrc) startStaged = .next t ∧ t.adc.pass = 1 :=
  ⟨_, rfl, by decide +kernel⟩

theorem not_adcScansAndTakesSnapshots : ¬ Claims.AdcScansAndTakesSnapshots := by
  intro h
  obtain ⟨hw, hreach, hpass⟩ := startStaged_stop
  obtain ⟨t, ht, hended⟩ := exec_adcStop_startStaged
  obtain ⟨-, stop, -⟩ := h startStaged startStagedSrc 0 0 (Vector.replicate 8 0) (Vector.replicate 120 0) hw
  obtain ⟨t', ht', hadc, -⟩ := stop hreach
  obtain rfl : t' = t := Host.Outcome.next.inj (ht'.symm.trans ht)
  have hkept : t'.adc.pass = (startStaged.reached startStagedSrc).adc.pass := congrArg Adc.pass hadc
  rw [hended, hpass] at hkept
  exact Nat.one_ne_zero hkept

/-- Refutes O37: with a value staged at ADC_CTL the write of STOP is a write of START too, and a pass of the scan begins and ends before the scan is stopped. -/
theorem not_sensorsAreSampled : ¬ Obligations.SensorsAreSampled := fun h => not_adcScansAndTakesSnapshots h.2

end Sys2Proof.Machine
end

section
/-! Accesses to installed DRAM with translation and keys off (R282, R427 to R430): what the checks answer, what a read returns, and what a store leaves in
the store buffer. -/
namespace Sys2Proof.Machine

/-! ### The checks (R282 to R284, R299) -/

section
variable {s : State} {c : CoreId} {x : Ctx} {k : Kind} {atomic : Bool}

theorem regionOf_dram {a : Nat} (h : a < 0x0200000000) : regionOf a = .dram := if_pos h

theorem translate_dram (hx : x.te = false) {va : Nat} (h : va < 0x0200000000) : translate s c x va k atomic = (s, .ok va 0) := by
  have hlow : ¬ 2 ^ 40 ≤ va := by omega
  simp only [translate, hx, Bool.not_false, if_true, if_neg hlow, typeTe0, regionOf_dram h]

theorem busCause_dram {h : Hall} {pa : Nat} (hr : pa < 0x0200000000) (hi : pa < s.installed) : s.busCause h pa k = none := by
  have hin : ¬ s.installed ≤ pa := Nat.not_le.2 hi
  cases k <;> simp [State.busCause, granted, regionOf_dram hr, hin]

theorem checkPhys_dram (hk : s.flag F.KEY_CTL_ENABLE = false) {pa : Nat} (hr : pa < 0x0200000000) (hi : pa < s.installed) (va n : Nat) :
    checkPhys s c x va n k atomic pa 0 = (s, none) := by
  simp [checkPhys, busCause_dram hr hi, regionOf_dram hr, hk]

/-- A piece of an access that lies in installed DRAM, below the end of the DRAM range. -/
def Piece.inDram (s : State) (p : Piece) : Prop := p.va < 0x0200000000 ∧ p.va < s.installed

/-- The part that a piece of DRAM becomes when it is checked: its address is its physical address, its memory type WB. -/
def Piece.dramPart (p : Piece) : Part := ⟨p.va, p.va, p.len, 0⟩

theorem translateAll_dram (hx : x.te = false) {ps : List Piece} (h : ∀ p ∈ ps, p.inDram s) :
    translateAll s c x atomic ps = (s, .inr (ps.map fun p => (p, p.va, 0))) := by
  induction ps with
  | nil => rfl
  | cons p ps ih =>
    rw [List.forall_mem_cons] at h
    simp [translateAll, translate_dram hx h.1.1, ih h.2]

theorem checkEach_dram (hk : s.flag F.KEY_CTL_ENABLE = false) {l : List (Piece × Nat × Nat)}
    (h : ∀ e ∈ l, e.2.1 < 0x0200000000 ∧ e.2.1 < s.installed ∧ e.2.2 = 0) : checkEach s c x atomic l = (s, none) := by
  induction l with
  | nil => rfl
  | cons e l ih =>
    obtain ⟨p, pa, mt⟩ := e
    rw [List.forall_mem_cons] at h
    obtain ⟨⟨hr, hi, rfl⟩, hl⟩ := h
    simp [checkEach, checkPhys_dram hk hr hi, ih hl]

theorem checkAll_dram (hx : x.te = false) (hk : s.flag F.KEY_CTL_ENABLE = false) {ps : List Piece} (h : ∀ p ∈ ps, p.inDram s) :
    checkAll s c x atomic ps = (s, .inr (ps.map Piece.dramPart)) := by
  have hall : ∀ e ∈ ps.map (fun p => (p, p.va, 0)), e.2.1 < 0x0200000000 ∧ e.2.1 < s.installed ∧ e.2.2 = 0 := by
    intro e he
    obtain ⟨p, hp, rfl⟩ := List.mem_map.1 he
    exact ⟨(h p hp).1, (h p hp).2, rfl⟩
  unfold checkAll
  simp only [translateAll_dram hx h, checkEach_dram hk fun e he => hall e (List.mem_filter.1 he).1, List.map_map]
  rfl

/-- The parts of a checked access of n bytes of DRAM, the same whatever its kind. -/
def dramParts (va n cut : Nat) : List Part := (splitPieces va n cut n .read).map Piece.dramPart

theorem map_dramPart_splitPieces (va n cut : Nat) (k : Kind) : (splitPieces va n cut n k).map Piece.dramPart = dramParts va n cut := by
  unfold dramParts splitPieces
  dsimp only
  split <;> rfl

theorem State.plainDram_iff {va : Word} {n : Nat} : s.plainDram c va n = true ↔
    (s.core c).ctx.te = false ∧ va.toNat + n ≤ s.installed ∧ va.toNat + n ≤ 0x0200000000 ∧ s.flag F.KEY_CTL_ENABLE = false := by
  simp [State.plainDram, Core.ctx, and_assoc]

/-- The pieces of an access, split where a boundary lies within it: each begins inside it. -/
theorem mem_splitPieces {va n cut size : Nat} {p : Piece} (hn : 0 < n) (hva : va + n ≤ 2 ^ 48) (hp : p ∈ splitPieces va n cut size k) :
    p.va < va + n := by
  unfold splitPieces at hp
  dsimp only at hp
  split at hp
  · rw [List.mem_singleton] at hp
    subst hp
    exact Nat.lt_add_of_pos_right hn
  · next hcut =>
    have hlt : min n (cut - va % cut) < n := lt_of_le_of_ne (Nat.min_le_left _ _) hcut
    rcases List.mem_pair.1 hp with rfl | rfl
    · exact Nat.lt_add_of_pos_right hn
    · dsimp only
      rw [Nat.mod_eq_of_lt (by omega)]
      omega

theorem checkAccess_plainDram {va : Word} {n : Nat} (hn : 0 < n) (h : s.plainDram c va n = true) (cut : Nat) :
    checkAccess s c (s.core c).ctx va.toNat n cut k atomic = (s, .inr (dramParts va.toNat n cut)) := by
  obtain ⟨hx, hi, hr, hk⟩ := State.plainDram_iff.1 h
  unfold checkAccess
  rw [checkAll_dram hx hk, map_dramPart_splitPieces]
  intro p hp
  have := mem_splitPieces hn (by omega) hp
  exact ⟨by omega, by omega⟩

end

/-! ### Parts end to end -/

/-- Parts of WB memory that cover n bytes from a upwards, end to end. -/
def PartsCover : List Part → Nat → Nat → Prop
  | [], _, n => n = 0
  | p :: ps, a, n => p.pa = a ∧ p.mt = 0 ∧ 0 < p.len ∧ p.len ≤ n ∧ PartsCover ps (a + p.len) (n - p.len)

theorem partsCover_dramParts {va n cut : Nat} (hn : 0 < n) (hc : 0 < cut) (hva : va + n ≤ 2 ^ 48) : PartsCover (dramParts va n cut) va n := by
  have hpos : 0 < min n (cut - va % cut) := Nat.lt_min.2 ⟨hn, Nat.sub_pos_of_lt (Nat.mod_lt va hc)⟩
  unfold dramParts splitPieces
  dsimp only
  split
  · simp [PartsCover, Piece.dramPart, hn]
  · next hcut =>
    have hlt : min n (cut - va % cut) < n := lt_of_le_of_ne (Nat.min_le_left _ _) hcut
    exact ⟨rfl, rfl, hpos, hlt.le, Nat.mod_eq_of_lt (by omega), rfl, Nat.sub_pos_of_lt hlt, le_refl _, Nat.sub_self _⟩

theorem length_dramParts (va n cut : Nat) : (dramParts va n cut).length ≤ 2 := by
  unfold dramParts splitPieces
  dsimp only
  split <;> simp

theorem setupPart_of_partsCover {ps : List Part} {a n : Nat} (h : PartsCover ps a n) (ha : a < 0x0200000000) : setupPart ps = none := by
  unfold setupPart
  split
  · obtain ⟨rfl, -⟩ := h
    simp [regionOf_dram ha]
  · rfl

/-! ### Reads of memory -/

section
variable {s : State} {c : CoreId}

theorem State.bytes_add (s : State) (a m n : Nat) : s.bytes a (m + n) = s.bytes a m ++ s.bytes (a + m) n := by
  induction m generalizing a with
  | zero => simp [State.bytes]
  | succ m ih => rw [Nat.succ_add, State.bytes, ih, State.bytes, List.cons_append, Nat.add_right_comm, Nat.add_assoc]

/-- DRAM delivers no poison when neither its path is fenced nor a line of the access is bad (R61, R757). -/
theorem poison_dram_iff {a n : Nat} (ha : a < 0x0200000000) : s.poison a n = none ↔
    s.fenced 4 = false ∧ s.fenced 11 = false ∧ ∀ l, a / 64 ≤ l → l ≤ (a + n - 1) / 64 → s.linePoison l = false := by
  have hlines : (List.range ((a + n - 1) / 64 + 1 - a / 64)).any (fun i => s.linePoison (a / 64 + i)) = false ↔
      ∀ l, a / 64 ≤ l → l ≤ (a + n - 1) / 64 → s.linePoison l = false := by
    simp only [List.any_eq_false, List.mem_range, Bool.not_eq_true]
    constructor
    · intro h l h1 h2
      have := h (l - a / 64) (by omega)
      rwa [Nat.add_sub_cancel' h1] at this
    · exact fun h i hi => h _ (by omega) (by omega)
  unfold State.poison
  simp only [regionOf_dram ha]
  rw [← hlines]
  cases s.fenced 4 <;> cases s.fenced 11 <;> simp

/-- A read inside one that meets no poison meets none. -/
theorem poison_dram_within {a n b m : Nat} (hr : a + n ≤ 0x0200000000) (h : s.poison a n = none) (hm : 0 < m) (hab : a ≤ b) (hbm : b + m ≤ a + n) :
    s.poison b m = none := by
  rw [poison_dram_iff (by omega)] at h ⊢
  obtain ⟨h4, h11, hl⟩ := h
  exact ⟨h4, h11, fun l h1 h2 => hl l (by omega) (by omega)⟩

theorem eccFix_of_nil (h : s.dram.eccSoft = []) (a n : Nat) : s.eccFix a n = s := by
  unfold State.eccFix
  split
  · rfl
  · simp only [h, List.filter_nil, List.foldl_nil, State.updDram]
    rw [← h]

theorem lastTouch_eq_zero {sb : List SbEntry} {a n : Nat} (h : ∀ e ∈ sb, e.touches a n = false) : lastTouch sb a n = 0 := by
  induction sb with
  | nil => rfl
  | cons e sb ih =>
    rw [List.forall_mem_cons] at h
    simp [lastTouch, ih h.2, h.1]

theorem readPart_quiet {p : Part} (hmt : p.mt = 0) (hr : p.pa < 0x0200000000) (hp : s.poison p.pa p.len = none) (he : s.dram.eccSoft = [])
    (hsb : ∀ e ∈ (s.core c).sb, e.touches p.pa p.len = false) : readPart s c p = (s, .ok (s.bytes p.pa p.len)) := by
  have hf : forwarded (s.core c).sb p.pa p.len = none := by
    unfold forwarded
    split <;> simp [lastTouch_eq_zero hsb]
  simp [readPart, hmt, hf, lastTouch_eq_zero hsb, drainN, readPhys, hp, eccFix_of_nil he, State.physBytes, regionOf_dram hr]

/-- A store that does not touch a range does not touch a part of it. -/
theorem touches_within {e : SbEntry} {a n b m : Nat} (h : e.touches a n = false) (hab : a ≤ b) (hbm : b + m ≤ a + n) : e.touches b m = false := by
  simp only [SbEntry.touches, Bool.and_eq_false_iff, decide_eq_false_iff_not] at h ⊢
  omega

theorem readParts_quiet {ps : List Part} {a n : Nat} (h : PartsCover ps a n) (hr : a + n ≤ 0x0200000000) (hp : s.poison a n = none)
    (he : s.dram.eccSoft = []) (hsb : ∀ e ∈ (s.core c).sb, e.touches a n = false) : readParts s c ps = (s, .ok (s.bytes a n)) := by
  induction ps generalizing a n with
  | nil =>
    cases h
    rfl
  | cons p ps ih =>
    obtain ⟨rfl, hmt, hpos, hle, hps⟩ := h
    have hread : readPart s c p = (s, .ok (s.bytes p.pa p.len)) :=
      readPart_quiet hmt (by omega) (poison_dram_within hr hp hpos (le_refl _) (by omega)) he fun e h => touches_within (hsb e h) (le_refl _) (by omega)
    have hrest : readParts s c ps = (s, .ok (s.bytes (p.pa + p.len) (n - p.len))) := by
      rcases Nat.eq_zero_or_pos (n - p.len) with h0 | hpos'
      · cases ps with
        | nil => rw [h0]; rfl
        | cons q ps =>
          obtain ⟨-, -, hq, hq', -⟩ := hps
          omega
      · exact ih hps (by omega) (poison_dram_within hr hp hpos' (by omega) (by omega)) fun e h => touches_within (hsb e h) (by omega) (by omega)
    simp only [readParts, hread, hrest]
    rw [← State.bytes_add, Nat.add_sub_cancel' hle]

end

/-! ### Stores in the buffer -/

/-- The stores that the parts of a write put into the buffer. -/
def storesOf : List Part → List Byte → List SbEntry
  | [], _ => []
  | p :: ps, l => ⟨p.pa, l.take p.len, false⟩ :: storesOf ps (l.drop p.len)

theorem flatMap_storesOf {ps : List Part} {a n : Nat} (h : PartsCover ps a n) {l : List Byte} (hl : l.length = n) :
    (storesOf ps l).flatMap (·.bytes) = l := by
  induction ps generalizing a n l with
  | nil => exact (List.length_eq_zero_iff.1 (hl.trans h)).symm
  | cons p ps ih =>
    obtain ⟨-, -, -, -, hps⟩ := h
    rw [storesOf, List.flatMap_cons, ih hps (by simp [hl]), List.take_append_drop]

/-- Each of them lies inside the bytes written. -/
theorem mem_storesOf {ps : List Part} {a n : Nat} (h : PartsCover ps a n) {l : List Byte} (hl : l.length = n) {e : SbEntry} (he : e ∈ storesOf ps l) :
    a ≤ e.addr ∧ e.addr + e.bytes.length ≤ a + n := by
  induction ps generalizing a n l with
  | nil => simp [storesOf] at he
  | cons p ps ih =>
    obtain ⟨rfl, -, -, hle, hps⟩ := h
    rcases List.mem_cons.1 he with rfl | he
    · simp only [List.length_take]
      omega
    · have := ih hps (by simp [hl]) he
      omega

section
variable {s : State} {c : CoreId} {x : Ctx}

theorem markDirty_of_te (hx : x.te = false) (va : Nat) : markDirty s c x va = s := by simp [markDirty, hx]

theorem writePart_dram (hx : x.te = false) {p : Part} (hmt : p.mt = 0) (l : List Byte) :
    writePart s c x p l = (if 32 ≤ (s.core c).sb.length then drainOne s c else s).updCore c fun q => { q with sb := q.sb ++ [⟨p.pa, l, false⟩] } := by
  simp [writePart, markDirty_of_te hx, hmt, sbCap]

theorem updCore_updCore (s : State) (c : CoreId) (f g : Core → Core) : (s.updCore c f).updCore c g = s.updCore c fun q => g (f q) := by
  simp [State.updCore, State.setCore, State.core]

/-- While the buffer has room, the stores of a write enter it and nothing leaves (R427, R428). -/
theorem writeParts_room (hx : x.te = false) {ps : List Part} {a n : Nat} (h : PartsCover ps a n) (hroom : (s.core c).sb.length + ps.length ≤ 32)
    (l : List Byte) : writeParts s c x ps l = s.updCore c fun q => { q with sb := q.sb ++ storesOf ps l } := by
  induction ps generalizing s a n l with
  | nil => simp [writeParts, storesOf, updCore_self]
  | cons p ps ih =>
    obtain ⟨-, hmt, -, -, hps⟩ := h
    rw [List.length_cons] at hroom
    have hstep : writePart s c x p (l.take p.len) = s.updCore c fun q => { q with sb := q.sb ++ [⟨p.pa, l.take p.len, false⟩] } := by
      rw [writePart_dram hx hmt, if_neg (by omega)]
    rw [writeParts, hstep, ih hps (by simp; omega), updCore_updCore]
    simp [storesOf]

/-! ### The youngest stores, whatever leaves the buffer before them -/

theorem sb_of_cores {t : State} (h : t.cores = s.cores) : (t.core c).sb = (s.core c).sb := by unfold State.core; rw [h]

theorem cores_putHost (s : State) (a : Nat) (l : List Byte) : (s.putHost a l).cores = s.cores := by
  induction l generalizing s a with
  | nil => rfl
  | cons b l ih => rw [State.putHost, ih]

theorem cores_putBytes (s : State) (a : Nat) (l : List Byte) : (s.putBytes a l).cores = s.cores := by
  induction l generalizing s a with
  | nil => rfl
  | cons b l ih => rw [State.putBytes, ih, State.putByte_cores]

theorem cores_logError (s : State) (b type seg : Nat) (mce : Bool) (addr : Option Nat) : (s.logError b type seg mce addr).cores = s.cores := by
  unfold State.logError
  split <;> simp

/-- A store that is performed is no longer in the buffer, and takes none with it. -/
theorem sb_performStore (s : State) (c : CoreId) (e : SbEntry) : ((performStore s c e).core c).sb = (s.core c).sb := by
  unfold performStore
  split
  · unfold State.physWrite
    split
    · exact sb_of_cores (cores_putHost _ _ _)
    · exact sb_of_cores (cores_putBytes _ _ _)
  · simp only [State.core_updCore, if_true]
    exact sb_of_cores (cores_logError _ _ _ _ _ _)

theorem sb_drainOne (s : State) (c : CoreId) : ((drainOne s c).core c).sb = (s.core c).sb.tail := by
  unfold drainOne
  split
  · next h => rw [h, List.tail_nil]
  · next h => rw [sb_performStore, h]; simp

/-- The stores of a write are the youngest of the buffer; of a full one, older stores leave (R428). -/
theorem sb_writeParts (hx : x.te = false) {ps : List Part} {a n : Nat} (h : PartsCover ps a n) (l : List Byte) {pre es : List SbEntry}
    (hsb : (s.core c).sb = pre ++ es) (hroom : es.length + ps.length ≤ 32) :
    ∃ pre', ((writeParts s c x ps l).core c).sb = pre' ++ (es ++ storesOf ps l) := by
  induction ps generalizing s a n l pre es with
  | nil => exact ⟨pre, by simpa [writeParts, storesOf] using hsb⟩
  | cons p ps ih =>
    obtain ⟨-, hmt, -, -, hps⟩ := h
    rw [List.length_cons] at hroom
    have hstep : ∃ pre', ((writePart s c x p (l.take p.len)).core c).sb = pre' ++ (es ++ [⟨p.pa, l.take p.len, false⟩]) := by
      rw [writePart_dram hx hmt]
      simp only [State.core_updCore, if_true]
      split
      · next hfull =>
        cases pre with
        | nil =>
          rw [hsb, List.nil_append] at hfull
          omega
        | cons e pre => exact ⟨pre, by simp [sb_drainOne, hsb]⟩
      · exact ⟨pre, by simp [hsb]⟩
    obtain ⟨pre1, h1⟩ := hstep
    obtain ⟨pre2, h2⟩ := ih hps (l.drop p.len) h1 (by simp; omega)
    exact ⟨pre2, by simp [writeParts, storesOf, h2]⟩

/-! ### A read of the youngest stores (R429, R430) -/

theorem lastTouch_append {pre post : List SbEntry} {e : SbEntry} {a n : Nat} (he : e.touches a n = true) (hpost : ∀ f ∈ post, f.touches a n = false) :
    lastTouch (pre ++ e :: post) a n = pre.length + 1 := by
  induction pre with
  | nil => simp [lastTouch, lastTouch_eq_zero hpost, he]
  | cons f pre ih => simp [lastTouch, ih]

theorem forwarded_append {pre post : List SbEntry} {e : SbEntry} {a n : Nat} (ha : e.addr = a) (hn : e.bytes.length = n) (hpos : 0 < n)
    (hpost : ∀ f ∈ post, f.touches a n = false) : forwarded (pre ++ e :: post) a n = some e.bytes := by
  subst ha hn
  have ht : e.touches e.addr e.bytes.length = true := by simp [SbEntry.touches, hpos]
  have hc : e.covers e.addr e.bytes.length = true := by simp [SbEntry.covers]
  simp [forwarded, lastTouch_append ht hpost, hc]

/-- What a read of exactly the parts of the youngest stores returns: their bytes, and nothing leaves the buffer. -/
theorem readParts_storesOf {ps : List Part} {a n : Nat} (h : PartsCover ps a n) {l : List Byte} (hl : l.length = n) {pre : List SbEntry}
    (hsb : (s.core c).sb = pre ++ storesOf ps l) : readParts s c ps = (s, .ok l) := by
  induction ps generalizing a n l pre with
  | nil =>
    rw [List.length_eq_zero_iff.1 (hl.trans h)]
    rfl
  | cons p ps ih =>
    obtain ⟨rfl, hmt, hpos, hle, hps⟩ := h
    have hl' : (l.drop p.len).length = n - p.len := by simp [hl]
    have hlater : ∀ f ∈ storesOf ps (l.drop p.len), f.touches p.pa p.len = false := by
      intro f hf
      have := mem_storesOf hps hl' hf
      simp only [SbEntry.touches, Bool.and_eq_false_iff, decide_eq_false_iff_not]
      omega
    have hread : readPart s c p = (s, .ok (l.take p.len)) := by
      have hfwd : forwarded (s.core c).sb p.pa p.len = some (l.take p.len) := by
        rw [hsb]
        exact forwarded_append rfl (by simp [hl, hle]) hpos hlater
      simp [readPart, hmt, hfwd]
    have hrest := ih hps hl' (pre := pre ++ [⟨p.pa, l.take p.len, false⟩]) (by simp [hsb, storesOf])
    simp [readParts, hread, hrest]

end
end Sys2Proof.Machine
end

section
/-! LD and ST (R296), and the statement on loads and stores of DRAM. -/
namespace Sys2Proof.Machine

/-! ### Operands of LD and ST (R249, R269, R296) -/

/-- The displacement of LD and ST: IMM16 with its two low bits cleared. -/
theorem toNat_and_dispMask (i : BitVec 16) : (i &&& 0xFFFC#16).toNat = i.toNat / 4 * 4 := by
  have h : i &&& 0xFFFC#16 = (i >>> 2) <<< 2 := by
    apply BitVec.eq_of_getLsbD_eq
    intro j hj
    interval_cases j <;> simp
  have := i.isLt
  rw [h, BitVec.toNat_shiftLeft, BitVec.toNat_ushiftRight, Nat.shiftLeft_eq, Nat.shiftRight_eq_div_pow]
  omega

theorem eaDisp_eq (base : Word) (i : BitVec 16) : eaDisp base i = base + BitVec.ofInt 48 (i.toInt - i.toInt % 4) := by
  have hi := i.isLt
  have hm := toNat_and_dispMask i
  have hint : (i &&& 0xFFFC#16).toInt = i.toInt - i.toInt % 4 := by
    rw [BitVec.toInt_eq_toNat_cond, BitVec.toInt_eq_toNat_cond, hm]
    split <;> split <;> omega
  rw [eaDisp, sext16, BitVec.signExtend, hint]

theorem sizeOf_spec (b : BitVec 2) :
    (sizeOf b).bytes = sizeBytes b.toNat ∧ (sizeOf b).align = sizeAlign b.toNat ∧ (sizeOf b).cut = sizeCut b.toNat := by
  revert b
  decide

/-- The size that the two low bits of IMM16 select. -/
theorem sizeOf_setWidth_spec (i : BitVec 16) : (sizeOf (i.setWidth 2)).bytes = sizeBytes (i.toNat % 4)
    ∧ (sizeOf (i.setWidth 2)).align = sizeAlign (i.toNat % 4) ∧ (sizeOf (i.setWidth 2)).cut = sizeCut (i.toNat % 4) := by
  rw [show i.toNat % 4 = (i.setWidth 2).toNat from (BitVec.toNat_setWidth 2 i).symm]
  exact sizeOf_spec _

theorem sizeBytes_pos {z : Nat} (h : z < 4) : 0 < sizeBytes z := by interval_cases z <;> decide

theorem sizeCut_pos (z : Nat) : 0 < sizeCut z := by unfold sizeCut; split <;> decide

/-! ### The two instructions -/

section
variable {s u : State} {c : CoreId} {rd ra : RegNo} {i : BitVec 16} {va : Word} {z : Nat}

/-- LD whose access is aligned and returns bytes (R296). -/
theorem exec_ld_ends (hr : s.ready c = true) (hw : s.wired = true) (hva : (s.core c).rd ra + BitVec.ofInt 48 (i.toInt - i.toInt % 4) = va)
    (hz : i.toNat % 4 = z) (ha : va.toNat % sizeAlign z = 0) {l : List Byte} (hl : loadMem s c va (sizeBytes z) (sizeCut z) = (u, .inr l)) :
    ∃ t, Ends s u t (exec (.ld c rd ra i) s) c ((s.core c).pc + 4#48) [rd] 0 ∧ (t.core c).rd rd = written rd (BitVec.ofNat 48 (ofLe l)) := by
  subst hva hz
  have hacc := accessed_loadMem s c ((s.core c).rd ra + BitVec.ofInt 48 (i.toInt - i.toInt % 4)) (sizeBytes (i.toNat % 4)) (sizeCut (i.toNat % 4))
  rw [hl] at hacc
  refine ⟨_, ends_next hr hw (gateKeep_none (.inl (by omega))) hacc (fun q => q.wr rd (BitVec.ofNat 48 (ofLe l))) [rd] 0 ?_ ?_, ?_⟩
  · exact (u.core c).kept_wr rd _
  · obtain ⟨hb, hal, hcut⟩ := sizeOf_setWidth_spec i
    simp only [loadTo, eaDisp_eq, hb, hal, hcut, ha, ne_eq, not_true_eq_false, if_false, hl]
  · simp [Core.rd_wr_same]

/-- ST whose access is aligned and raises no exception (R296). -/
theorem exec_st_ends (hr : s.ready c = true) (hw : s.wired = true) (hva : (s.core c).rd ra + BitVec.ofInt 48 (i.toInt - i.toInt % 4) = va)
    (hz : i.toNat % 4 = z) (ha : va.toNat % sizeAlign z = 0) (hacc : Accessed s u)
    (hs : storeMem s c va (sizeCut z) (leBytes (sizeBytes z) ((s.core c).rd rd).toNat) = (u, none)) :
    Ends s u (u.updCore c fun q => q.retire q.hold.isSome (q.pc + 4#48)).settle (exec (.st c rd ra i) s) c ((s.core c).pc + 4#48) [] 0 := by
  subst hva hz
  refine ends_same hr hw (gateKeep_none (.inl (by omega))) hacc ?_
  obtain ⟨hb, hal, hcut⟩ := sizeOf_setWidth_spec i
  simp only [storeFrom, eaDisp_eq, hb, hal, hcut, ha, ne_eq, not_true_eq_false, if_false, hs]

/-! ### Their accesses to plain DRAM -/

variable {n cut : Nat} {l : List Byte}

theorem partsCover_plainDram (h : s.plainDram c va n = true) (hn : 0 < n) (hc : 0 < cut) :
    PartsCover (dramParts va.toNat n cut) va.toNat n ∧ setupPart (dramParts va.toNat n cut) = none := by
  obtain ⟨-, -, hr, -⟩ := State.plainDram_iff.1 h
  have hcover := partsCover_dramParts hn hc (show va.toNat + n ≤ 2 ^ 48 by omega)
  exact ⟨hcover, setupPart_of_partsCover hcover (by omega)⟩

theorem loadMem_plainDram (h : s.plainDram c va n = true) (hn : 0 < n) (hc : 0 < cut) (hl : readParts s c (dramParts va.toNat n cut) = (s, .ok l)) :
    loadMem s c va n cut = (s, .inr l) := by
  simp only [loadMem, checkAccess_plainDram hn h, (partsCover_plainDram h hn hc).2, hl]

/-- A load that meets nothing that waits, no poison and no error to correct reads the bytes of memory, and changes nothing. -/
theorem loadMem_quietDram (h : s.quietDram c va n = true) (hn : 0 < n) (hc : 0 < cut) : loadMem s c va n cut = (s, .inr (s.bytes va.toNat n)) := by
  unfold State.quietDram at h
  simp only [Bool.and_eq_true, Option.isNone_iff_eq_none, List.isEmpty_iff, List.all_eq_true, Bool.not_eq_true'] at h
  obtain ⟨⟨⟨hplain, hpoison⟩, hecc⟩, hsb⟩ := h
  have hr : va.toNat + n ≤ 0x0200000000 := (State.plainDram_iff.1 hplain).2.2.1
  exact loadMem_plainDram hplain hn hc (readParts_quiet (partsCover_plainDram hplain hn hc).1 hr hpoison hecc hsb)

/-- A load of the youngest stores of the buffer reads them there (R429, R430). -/
theorem loadMem_youngest (h : s.plainDram c va n = true) (hn : 0 < n) (hc : 0 < cut) (hl : l.length = n) {pre : List SbEntry}
    (hsb : (s.core c).sb = pre ++ storesOf (dramParts va.toNat n cut) l) : loadMem s c va n cut = (s, .inr l) :=
  loadMem_plainDram h hn hc (readParts_storesOf (partsCover_plainDram h hn hc).1 hl hsb)

theorem storeMem_plainDram (h : s.plainDram c va n = true) (hn : 0 < n) (hc : 0 < cut) (hl : l.length = n) :
    storeMem s c va cut l = (writeParts s c (s.core c).ctx (dramParts va.toNat n cut) l, none) := by
  subst hl
  simp only [storeMem, checkAccess_plainDram hn h, (partsCover_plainDram h hn hc).2]

/-- A store that finds room enters the buffer, and nothing else changes (R427, R428). -/
theorem storeMem_room (h : s.plainDram c va n = true) (hn : 0 < n) (hc : 0 < cut) (hl : l.length = n) (hroom : (s.core c).sb.length + 2 ≤ 32) :
    storeMem s c va cut l = (s.updCore c fun q => { q with sb := q.sb ++ storesOf (dramParts va.toNat n cut) l }, none) := by
  have hlen := length_dramParts va.toNat n cut
  rw [storeMem_plainDram h hn hc hl, writeParts_room (State.plainDram_iff.1 h).1 (partsCover_plainDram h hn hc).1 (by omega)]

/-- With room or without, its bytes are the youngest of the buffer. -/
theorem storeMem_youngest (h : s.plainDram c va n = true) (hn : 0 < n) (hc : 0 < cut) (hl : l.length = n) :
    ∃ u pre, storeMem s c va cut l = (u, none) ∧ Accessed s u ∧ (u.core c).sb = pre ++ storesOf (dramParts va.toNat n cut) l := by
  have hlen := length_dramParts va.toNat n cut
  obtain ⟨pre, hsb⟩ := sb_writeParts (State.plainDram_iff.1 h).1 (partsCover_plainDram h hn hc).1 l (List.append_nil _).symm
    (by rw [List.length_nil]; omega)
  exact ⟨_, pre, storeMem_plainDram h hn hc hl, accessed_writeParts _ _ _ _ _, hsb⟩

/-- What tells whether DRAM is plain is kept by accesses, and by the end of the instruction that makes them. -/
theorem plainDram_retired (hw : s.wired = true) (ha : Accessed s u) :
    (u.updCore c fun q => q.retire q.hold.isSome (q.pc + 4#48)).settle.plainDram c va n = s.plainDram c va n := by
  unfold State.plainDram State.flag State.installed
  rw [csw_settle, State.core_updCore, if_pos rfl, Core.csw_retire, ha.csw c, wired_csw (State.wired_core hw c), settle_get _ _ rfl, State.get_updCore,
    State.get, ha.keys, ← State.get, settle_dram_usable, State.updCore_dram, ha.usable]

end

/-! ### The statement -/

theorem loadFromDramReadsItsBytes : Claims.LoadFromDramReadsItsBytes := by
  intro s c rd ra i hr hw va z ha hq
  have hz : z < 4 := Nat.mod_lt _ (by decide)
  obtain ⟨t, ⟨hnext, hpc, hleaves⟩, hrd⟩ := exec_ld_ends hr hw rfl rfl ha (loadMem_quietDram hq (sizeBytes_pos hz) (sizeCut_pos z)) (rd := rd)
  exact ⟨t, hnext, hrd, hpc, hleaves⟩

theorem storeToDramWaitsInTheBuffer : Claims.StoreToDramWaitsInTheBuffer := by
  intro s c rd ra i hr hw va z ha hp hroom
  have hn : 0 < sizeBytes z := sizeBytes_pos (Nat.mod_lt _ (by decide))
  have hl := leBytes_length (sizeBytes z) ((s.core c).rd rd).toNat
  obtain ⟨hcover, -⟩ := partsCover_plainDram hp hn (sizeCut_pos z)
  obtain ⟨hnext, hpc, hleaves⟩ :=
    exec_st_ends (va := va) (z := z) hr hw rfl rfl ha (accessed_updCore s c _ fun _ => rfl) (storeMem_room hp hn (sizeCut_pos z) hl hroom)
  refine ⟨_, hnext, hpc, { hleaves with rest := (restKept_updCore s c _).trans hleaves.rest }, _, ?_, flatMap_storesOf hcover hl, ?_⟩
  · simp only [sb_settle, State.core_updCore, if_true, Core.sb_retire]
  · simp only [List.all_eq_true, Bool.and_eq_true, decide_eq_true_eq]
    exact fun e he => mem_storesOf hcover hl he

theorem loadAfterStoreReadsTheValue : Claims.LoadAfterStoreReadsTheValue := by
  intro s t c rd rx ra i hr hw va z ha hp hst hready
  have hn : 0 < sizeBytes z := sizeBytes_pos (Nat.mod_lt _ (by decide))
  have hl := leBytes_length (sizeBytes z) ((s.core c).rd rx).toNat
  obtain ⟨u, pre, hstore, hacc, hsb⟩ := storeMem_youngest hp hn (sizeCut_pos z) hl
  have hends := exec_st_ends hr hw rfl rfl ha hacc hstore
  obtain rfl := Host.Outcome.next.inj (hst.symm.trans hends.next)
  have hload := loadMem_youngest ((plainDram_retired hw hacc).trans hp) hn (sizeCut_pos z) hl (pre := pre) (by simpa using hsb)
  have hbase := hends.leaves.w.regs ra List.not_mem_nil
  obtain ⟨v, hld, hrd⟩ := exec_ld_ends hready (wired_settle _) (by rw [hbase]) rfl ha hload (rd := rd)
  exact ⟨v, hld.next, by rw [hrd, ofLe_leBytes]⟩

/-- Settles O54: an access to plain DRAM is checked into parts laid end to end; a store puts one entry for each at the end of the buffer, and a load of the
same parts finds them there. -/
theorem dramLoadsAndStores : Obligations.DramLoadsAndStores :=
  ⟨loadFromDramReadsItsBytes, storeToDramWaitsInTheBuffer, loadAfterStoreReadsTheValue⟩

end Sys2Proof.Machine
end

section
/-! Every step ends by settling (SPEC.md, log entry 34), and the settling clears the bits that are wired to zero (R260, R264, R266). -/
namespace Sys2Proof.Machine

/-- Every command, whatever it does, ends by settling. -/
theorem exec_eq_finish (i : Instr) (s : State) : ∃ u, exec i s = finish u := by
  cases i
  all_goals exact ⟨_, rfl⟩

/-- Every step does: one that takes a command, and a cycle of the T island. -/
theorem step_eq_finish (s : State) : ∃ u, step s = finish u := by
  unfold step
  split
  · exact ⟨_, rfl⟩
  · next c rest _ => exact exec_eq_finish c _

/-- Settles O30: the state that a step answers is a settled one, and in a settled state the wired bits are zero. -/
theorem everyStepKeepsWiredBits : Obligations.EveryStepKeepsWiredBits := by
  intro s t h
  obtain ⟨u, hu⟩ := step_eq_finish s
  obtain rfl : u.settle = t := Host.Outcome.next.inj (hu.symm.trans h)
  exact wired_settle u

end Sys2Proof.Machine
end

section
/-! Loads and stores, plain and indexed (R249 to R252, R296 to R300): what the four instructions share, for each of the access sizes. -/
namespace Sys2Proof.Machine

/-! ### Operands -/

theorem sizeOf_info (b : BitVec 2) : (sizeOf b).info = b.toNat := by
  revert b
  decide

/-- The index is scaled by a power of two (R297). -/
theorem eaIndex_eq (base idx : Word) (sc : BitVec 2) : eaIndex base idx sc = base + idx * BitVec.ofNat 48 (2 ^ sc.toNat) := by
  refine congrArg (base + ·) (BitVec.eq_of_toNat_eq ?_)
  simp [BitVec.toNat_shiftLeft, Nat.shiftLeft_eq]

/-- A number of n bytes, read in two's complement (R297). -/
theorem signExtend_ofNat_eq_extended {n v : Nat} (hn : 0 < n) (hv : v < 2 ^ (8 * n)) :
    (BitVec.ofNat (8 * n) v).signExtend 48 = extended true n v := by
  have hpow : 2 ^ (8 * n) = 2 * 2 ^ (8 * n - 1) := by rw [← pow_succ']; congr 1; omega
  rw [BitVec.signExtend, BitVec.toInt_eq_toNat_cond, BitVec.toNat_ofNat, Nat.mod_eq_of_lt hv]
  by_cases h : 2 ^ (8 * n - 1) ≤ v
  · rw [if_neg (by omega)]
    simp [extended, h]
  · rw [if_pos (by omega)]
    simp [extended, h, BitVec.ofInt_natCast]

/-- What a load extends its bytes to, where a word is not extended (R297). -/
theorem loadValue_eq_extended {b : BitVec 2} {sx : Bool} (hsx : (sx && b == 3) = false) {v : Nat} (hv : v < 2 ^ (8 * sizeBytes b.toNat)) :
    (if sx then sextLoad (sizeOf b) v else BitVec.ofNat 48 v) = extended sx (sizeBytes b.toNat) v := by
  cases sx with
  | false => simp [extended]
  | true =>
    have hb : ∀ b : BitVec 2, b = 0 ∨ b = 1 ∨ b = 2 ∨ b = 3 := by decide
    rcases hb b with rfl | rfl | rfl | rfl
    · exact signExtend_ofNat_eq_extended (n := 1) (by decide) hv
    · exact signExtend_ofNat_eq_extended (n := 2) (by decide) hv
    · exact signExtend_ofNat_eq_extended (n := 4) (by decide) hv
    · cases hsx

theorem ofLe_lt (l : List Byte) : ofLe l < 2 ^ (8 * l.length) := by
  induction l with
  | nil => decide
  | cons b l ih =>
    have hb := b.isLt
    rw [ofLe, List.length_cons, show 8 * (l.length + 1) = 8 * l.length + 8 by omega, pow_add]
    omega

/-! ### Their ends -/

section
variable {s : State} {c : CoreId} {op : Nat} {body : State → State × IRes} {va : Word} {b : BitVec 2}

/-- A load of two size bits: at its address it is misaligned, or its access is refused, or the register takes what the bytes extend to. -/
theorem loadsTo_run (hr : s.ready c = true) (hw : s.wired = true) (hop : op < 0x0D) {rd : RegNo} {sx : Bool} {g : Nat → Word}
    (hb : body s = loadTo s c va (sizeOf b) fun q v => q.wr rd (g v))
    (hg : ∀ v < 2 ^ (8 * sizeBytes b.toNat), g v = extended sx (sizeBytes b.toNat) v) :
    LoadsTo s (finish (run s c op body)) c op rd va b.toNat sx := by
  obtain ⟨hbytes, halign, hcut⟩ := sizeOf_spec b
  have hgate : gateKeep s c op = none := gateKeep_none (.inl hop)
  simp only [loadTo, hbytes, halign, hcut, sizeOf_info] at hb
  refine ⟨fun hmis ht => ?misaligned, fun hal u r hl => ?aligned⟩
  case misaligned => exact run_exc hr hgate ht _ rfl body (by rw [hb, if_pos hmis]; rfl)
  case aligned =>
    rw [if_neg (not_not_intro hal), hl] at hb
    cases r with
    | inl e => exact fun ht => run_raises hr hgate ht e hb
    | inr l =>
      have hacc := accessed_loadMem s c va (sizeBytes b.toNat) (sizeCut b.toNat)
      rw [hl] at hacc
      have hlt := ofLe_lt l
      rw [loadMem_length hl] at hlt
      obtain ⟨hnext, hpc, hleaves⟩ := ends_next hr hw hgate hacc (fun q => q.wr rd (g (ofLe l))) [rd] 0 ((u.core c).kept_wr rd _) hb
      exact ⟨_, hnext, by simp [Core.rd_wr_same, hg _ hlt], hpc, hleaves⟩

/-- A core still free retires its store: beside it, what the store left stands. -/
theorem leaves_retired {u : State} (hw : u.wired = true) (k : Bool) (pc : Word) :
    Leaves u u (u.updCore c fun q => q.retire k pc).settle c [] [] [] 0 := by
  obtain ⟨hkw, hkf, hkd, hkc, hkp, hks⟩ := (u.core c).kept_refl [] [] [] 0
  exact leaves_end hw (.refl u) (fun q => q) [] [] [] 0 pc k hkw hkf hkd hkc hkp hks

/-- A store of two size bits: at its address it is misaligned, or its access is refused, or its bytes are stored. -/
theorem storesFrom_run (hr : s.ready c = true) (hw : s.wired = true) (hop : op < 0x0D) {v : Nat} (hb : body s = storeFrom s c va (sizeOf b) v) :
    StoresFrom s (finish (run s c op body)) c op v va b.toNat := by
  obtain ⟨hbytes, halign, hcut⟩ := sizeOf_spec b
  have hgate : gateKeep s c op = none := gateKeep_none (.inl hop)
  simp only [storeFrom, hbytes, halign, hcut, sizeOf_info] at hb
  refine ⟨fun hmis ht => ?misaligned, fun hal u r hs => ?aligned⟩
  case misaligned => exact run_exc hr hgate ht _ rfl body (by rw [hb, if_pos hmis]; rfl)
  case aligned =>
    rw [if_neg (not_not_intro hal), hs] at hb
    cases r with
    | some e => exact fun ht => run_raises hr hgate ht e hb
    | none =>
      intro hfree hwu
      have hrun : run s c op body = u.updCore c fun q => q.retire (s.core c).hold.isSome ((s.core c).pc + 4#48) := by
        rw [run_ready hr hgate, hb]
        exact if_pos hfree
      refine ⟨_, congrArg finish hrun, ?_, leaves_retired hwu _ _⟩
      rw [pc_settle, State.core_updCore, if_pos rfl, Core.pc_retire]
      exact pc_add_four (wired_pc (State.wired_core hw c))
end

/-! ### The statements -/

/-- Settles O6: LD and the indexed loads are loads of their two size bits, and read in two's complement a number of n bytes is what R297 says. -/
theorem loadsExtendWhatTheAccessReads : Obligations.LoadsExtendWhatTheAccessReads := by
  intro s c rd ra rb i size scale sx hr hw
  refine ⟨?plain, fun hsx => ?indexed⟩
  case plain =>
    rw [← BitVec.toNat_setWidth 2 i, ← eaDisp_eq]
    exact loadsTo_run hr hw (by decide) rfl fun v _ => by simp [extended]
  case indexed =>
    rw [← eaIndex_eq]
    refine loadsTo_run hr hw (by decide) ?_ fun v hv => loadValue_eq_extended hsx hv
    simp only [illegalWhen, hsx, Bool.or_false]
    rfl

/-- Settles O7: ST and the indexed stores are stores of their two size bits. -/
theorem storesStoreLowBytes : Obligations.StoresStoreLowBytes := by
  intro s c rd ra rb i size scale hr hw
  refine ⟨?plain, ?indexed⟩
  case plain =>
    rw [← BitVec.toNat_setWidth 2 i, ← eaDisp_eq]
    exact storesFrom_run hr hw (by decide) rfl
  case indexed =>
    rw [← eaIndex_eq]
    exact storesFrom_run hr hw (by decide) rfl

end Sys2Proof.Machine
end

section
/-! Branches and jumps (R270, R275, R306 to R308). -/
namespace Sys2Proof.Machine

/-! ### Conditions and targets -/

/-- The conditions in the order of R306's table. -/
theorem condHolds_eq (q : Core) {k : Nat} (hk : k < 16) :
    condHolds q.csw k = [q.nzcv.z, !q.nzcv.z, q.nzcv.c, !q.nzcv.c, q.nzcv.n, !q.nzcv.n, q.nzcv.v, !q.nzcv.v, q.nzcv.c && !q.nzcv.z,
      !q.nzcv.c || q.nzcv.z, q.nzcv.n == q.nzcv.v, q.nzcv.n != q.nzcv.v, !q.nzcv.z && q.nzcv.n == q.nzcv.v,
      q.nzcv.z || q.nzcv.n != q.nzcv.v, true, cswDo q.csw].getD k false := by
  interval_cases k <;> rfl

/-- A displacement counts instructions of four bytes (R270). -/
theorem signExtend_mul_four {n : Nat} (d : BitVec n) : d.signExtend 48 * 4#48 = BitVec.ofInt 48 (4 * d.toInt) := by
  rw [BitVec.signExtend, Int.mul_comm, BitVec.ofInt_mul]
  rfl

theorem branchTarget_eq (pc : Word) (d : BitVec 22) : branchTarget pc d = pc + BitVec.ofInt 48 (4 * d.toInt) := by
  rw [branchTarget, signExtend_mul_four]

theorem jumpTarget_eq (pc : Word) (d : BitVec 26) : jumpTarget pc d = pc + BitVec.ofInt 48 (4 * d.toInt) := by
  rw [jumpTarget, signExtend_mul_four]

/-- A displacement from an instruction's address leads to one (R260). -/
theorem pc_add_disp {n : Nat} {pc : Word} (h : pc.toNat % 4 = 0) (d : BitVec n) : (pc + BitVec.ofInt 48 (4 * d.toInt)).toNat % 4 = 0 := by
  rw [← signExtend_mul_four, BitVec.toNat_add, BitVec.toNat_mul, show (4#48).toNat = 4 from rfl]
  omega

theorem pc_aligned {s : State} (hw : s.wired = true) (c : CoreId) : (s.core c).pc.toNat % 4 = 0 := wired_pc (State.wired_core hw c)

/-! ### The ends of a jump -/

section
variable {s : State} {c : CoreId}

/-- A jump of a ready core that changes no register. -/
theorem ends_jump_same {op : Nat} {body : State → State × IRes} {pc : Word} (hr : s.ready c = true) (hw : s.wired = true) (hop : op < 0x0D)
    (hpc : pc.toNat % 4 = 0) (hb : body s = (s, .jump pc)) : ∃ t, Ends s s t (finish (run s c op body)) c pc [] 0 :=
  ⟨_, ends_jump hr hw (gateKeep_none (.inl hop)) (.refl s) (fun q => q) [] 0 pc hpc (Core.kept_refl _ _ _ _ _) (by rw [updCore_self]; exact hb)⟩

/-- A jump of a ready core that leaves the return address in W30 (R307, R308). -/
theorem ends_jump_link {op : Nat} {body : State → State × IRes} {pc : Word} (hr : s.ready c = true) (hw : s.wired = true) (hop : op < 0x0D)
    (hpc : pc.toNat % 4 = 0) (hb : body s = (s.updCore c fun q => q.wr 30 (q.pc + 4#48), .jump pc)) :
    ∃ t, Ends s s t (finish (run s c op body)) c pc [30] 0 ∧ (t.core c).rd 30 = (s.core c).pc + 4#48 :=
  ⟨_, ends_jump hr hw (gateKeep_none (.inl hop)) (.refl s) (fun q => q.wr 30 (q.pc + 4#48)) [30] 0 pc hpc (Core.kept_wr _ 30 _) hb,
    by simp [Core.rd_wr]⟩

/-- A register jump to an aligned target is one to that target, with its effect on the core. -/
theorem regJump_aligned {target : Core → Word} {f : Core → Core} (h : (target (s.core c)).toNat % 4 = 0) :
    ∃ body, regJump s c false target f = run s c 0x0A body ∧ body s = (s.updCore c f, .jump (target (s.core c))) :=
  ⟨_, rfl, if_neg (not_not_intro h)⟩

/-- A register jump to another target raises Alignment with INFO 6 (R275, R480). -/
theorem regJump_misaligned {target : Core → Word} {f : Core → Core} (hr : s.ready c = true) (h : (target (s.core c)).toNat % 4 ≠ 0)
    (ht : (s.core c).tpend = false) :
    Raises s (finish (regJump s c false target f)) c 0x0A (Exc.at 3 0 6 (target (s.core c)).toNat) :=
  run_exc hr (gateKeep_none (.inl (by decide))) ht _ rfl _ (if_pos h)

/-- A register jump to an aligned target that changes no register. -/
theorem ends_regJump {target : Core → Word} (hr : s.ready c = true) (hw : s.wired = true) (h : (target (s.core c)).toNat % 4 = 0) :
    ∃ t, Ends s s t (finish (regJump s c false target id)) c (target (s.core c)) [] 0 := by
  obtain ⟨body, hrun, hb⟩ := regJump_aligned (f := id) h
  rw [hrun]
  exact ends_jump_same hr hw (by decide) h (hb.trans (congrArg (·, _) (updCore_self s c)))

/-- BR is a jump where its condition holds, and else goes on to the next instruction (R306). -/
theorem exec_br_ends (hr : s.ready c = true) (hw : s.wired = true) (cond : BitVec 4) (d : BitVec 22) :
    ∃ t, Ends s s t (exec (.br c cond d) s) c
      (if condHolds (s.core c).csw cond.toNat then (s.core c).pc + BitVec.ofInt 48 (4 * d.toInt) else (s.core c).pc + 4#48) [] 0 := by
  by_cases h : condHolds (s.core c).csw cond.toNat = true
  · rw [if_pos h, ← branchTarget_eq]
    refine ends_jump_same (op := 0x08) hr hw (by decide) (by rw [branchTarget_eq]; exact pc_add_disp (pc_aligned hw c) d) ?_
    simp only [h, if_true]
  · rw [if_neg h]
    refine ⟨_, ends_same (op := 0x08) hr hw (gateKeep_none (.inl (by decide))) (.refl s) ?_⟩
    simp only [h]
    rfl
end

/-! ### The statement -/

/-- Settles O11: a branch taken and a register jump to an aligned target are jumps, and one to another target is refused. -/
theorem branchesGoToTheirTargets : Obligations.BranchesGoToTheirTargets := by
  intro s c cond near far ra hr hw q f holds
  refine ⟨?br, ?bl, fun hra => ⟨?jr, ?callr⟩, fun h30 => ?ret, fun hra ht => ⟨?jrBad, ?callrBad⟩, fun h30 ht => ?retBad⟩
  case br =>
    have h := exec_br_ends hr hw cond near
    rwa [condHolds_eq _ cond.isLt] at h
  case bl =>
    rw [← jumpTarget_eq]
    exact ends_jump_link hr hw (by decide) (by rw [jumpTarget_eq]; exact pc_add_disp (pc_aligned hw c) far) rfl
  case jr => exact ends_regJump (target := fun q => q.rd ra) hr hw hra
  case callr =>
    obtain ⟨body, hrun, hb⟩ := regJump_aligned (s := s) (c := c) (target := fun q => q.rd ra) (f := fun q => q.wr 30 (q.pc + 4#48)) hra
    have h := ends_jump_link (op := 0x0A) hr hw (by decide) hra hb
    rwa [← hrun] at h
  case ret => exact ends_regJump (target := fun q => q.rd 30) hr hw h30
  case jrBad => exact regJump_misaligned hr hra ht
  case callrBad => exact regJump_misaligned hr hra ht
  case retBad => exact regJump_misaligned hr h30 ht

end Sys2Proof.Machine
end

section
/-! NOP, CAPS and the moves of CSW (R264, R265, R280, R281, R309, R310). -/
namespace Sys2Proof.Machine

/-- An instruction that writes one general register and goes on to the next (R257, R260). -/
theorem ends_wr {s : State} {c : CoreId} {op : Nat} {body : State → State × IRes} {rd : RegNo} {v : Core → Word} (hr : s.ready c = true)
    (hw : s.wired = true) (hop : op < 0x0D) (hb : body s = (s.updCore c fun q => q.wr rd (v q), .next)) :
    ∃ t, Ends s s t (finish (run s c op body)) c ((s.core c).pc + 4#48) [rd] 0 ∧ (t.core c).rd rd = written rd (v (s.core c)) :=
  ⟨_, ends_next hr hw (gateKeep_none (.inl hop)) (.refl s) (fun q => q.wr rd (v q)) [rd] 0 (Core.kept_wr _ rd _) hb, by simp [Core.rd_wr_same]⟩

/-! ### What WRCSW may write (R264, R265) -/

theorem cswWritable_eq {n : Nat} (h : n < 4) : cswWritable n = [0x10FF3F#48, 0xFF3F#48, 0x3F#48, 0x3F#48].getD n 0 := by
  interval_cases n <;> rfl

theorem Core.stair_lt (q : Core) : q.stair < 4 := bitsOf_lt _ _ _

theorem moveCsw_and_mask (q : Core) (v : Word) : (q.moveCsw v).csw &&& cswWritable q.stair = v &&& cswWritable q.stair := by
  apply BitVec.eq_of_getLsbD_eq
  intro i hi
  simp only [Core.moveCsw, BitVec.getLsbD_and, BitVec.getLsbD_or, BitVec.getLsbD_not]
  cases (cswWritable q.stair).getLsbD i <;> simp

theorem cswKept_moveCsw (q : Core) (v : Word) : q.CswKept (q.moveCsw v) (cswWritable q.stair) := by
  apply BitVec.eq_of_getLsbD_eq
  intro i hi
  simp only [Core.moveCsw, BitVec.getLsbD_and, BitVec.getLsbD_or, BitVec.getLsbD_not]
  cases (cswWritable q.stair).getLsbD i <;> simp

/-- No stair may write a bit that is wired to zero. -/
theorem cswBits_and_cswWritable (n : Nat) : cswBits &&& cswWritable n = cswWritable n := by
  unfold cswWritable
  split
  · rfl
  · split <;> rfl

/-- A change of CSW that leaves HALL and STAIR leaves what the general registers read as (R259). -/
theorem Core.wKept_of_csw {q r : Core} (hregs : r.w = q.w) (hsp : r.sp = q.sp)
    (h : ∀ i, 16 ≤ i → i < 19 → r.csw.getLsbD i = q.csw.getLsbD i) : q.WKept r [] := by
  have hhall : r.hall = q.hall := congrArg hallOf (h 18 (by decide) (by decide))
  have hstair : r.stair = q.stair := by
    apply Nat.eq_of_testBit_eq
    intro i
    simp only [Core.stair, cswStair, testBit_bitsOf]
    by_cases hi : i < 2
    · rw [show r.csw.toNat.testBit (i + 16) = q.csw.toNat.testBit (i + 16) from h _ (by omega) (by omega)]
    · simp [hi]
  exact ⟨fun n _ => Core.rd_congr _ _ _ hregs hsp hhall hstair, fun k t _ => by simp only [Core.spOf, hsp]⟩

theorem Core.kept_moveCsw (q : Core) (v : Word) : q.Kept (q.moveCsw v) [] [] [] (cswWritable q.stair) := by
  have hcsw := cswKept_moveCsw q v
  have hbits : ∀ i, 16 ≤ i → i < 19 → (cswWritable q.stair).getLsbD i = false := by
    rw [cswWritable_eq q.stair_lt]
    have hs := q.stair_lt
    generalize q.stair = n at hs
    intro i hlo hhi
    interval_cases n <;> interval_cases i <;> rfl
  refine ⟨Core.wKept_of_csw rfl rfl fun i hlo hhi => cswKept_bit hcsw i (by omega) (hbits i hlo hhi), fun _ _ => rfl, fun _ _ => rfl, ⟨rfl, rfl⟩,
    ⟨rfl, rfl⟩, hcsw⟩

/-- Settles O12: NOP changes nothing, CAPS and RDCSW write one register, and what WRCSW may write is a mask of bits that are not wired to zero. -/
theorem statusAndCapabilityMoves : Obligations.StatusAndCapabilityMoves := by
  intro s c rd ra n hr hw q m
  have hm : cswWritable q.stair = m := cswWritable_eq q.stair_lt
  refine ⟨⟨_, ends_same (op := 0x0C) hr hw (gateKeep_none (.inl (by decide))) (.refl s) rfl⟩, ?caps, ?rdcsw, ?wrcsw⟩
  case caps =>
    exact ends_wr (op := 0x0C) (v := fun _ => BitVec.ofNat 48 (if n.val < 4 then Variant.cap s.variant n.val else 0)) hr hw (by decide)
      (by rw [apply_ite (BitVec.ofNat 48)]; rfl)
  case rdcsw => exact ends_wr (op := 0x0C) (v := Core.csw) hr hw (by decide) rfl
  case wrcsw =>
    rw [← hm]
    refine ⟨_, ends_next (op := 0x0C) hr hw (gateKeep_none (.inl (by decide))) (.refl s) (fun q => q.moveCsw (q.rd ra)) [] _
      (Core.kept_moveCsw _ _) rfl, ?_⟩
    rw [csw_settle, BitVec.and_assoc, cswBits_and_cswWritable, State.core_updCore, if_pos rfl, Core.csw_retire]
    exact moveCsw_and_mask _ _

end Sys2Proof.Machine
end

section
/-! Class 0x0D is privileged (R19, R299). -/
namespace Sys2Proof.Machine

/-- At stairs 2 and 3 the check before the operands refuses class 0x0D. -/
theorem gateKeep_unprivileged {s : State} {c : CoreId} (h : 2 ≤ (s.core c).stair) : gateKeep s c 0x0D = some Exc.privileged := by
  have hunit : unitAbsent s.variant 0x0D = none := by
    unfold unitAbsent
    split <;> rfl
  rw [gateKeep, hunit]
  exact if_pos ⟨rfl, h⟩

theorem raises_privileged {s : State} {c : CoreId} {len : Nat} {bar jg : Bool} {body : State → State × IRes} (hr : s.ready c = true)
    (ht : (s.core c).tpend = false) (h : 2 ≤ (s.core c).stair) :
    Raises s (finish (runWith s c 0x0D len bar jg body)) c 0x0D (Exc.plain 2 0 0) :=
  raises_of_gateKeep hr ht rfl (gateKeep_unprivileged h)

/-- Settles O17: each instruction of the class is a `runWith` of class 0x0D, which the check before its operands refuses. -/
theorem systemClassIsPrivileged : Obligations.SystemClassIsPrivileged := by
  intro s c ra rb rd n m k hr ht hs
  simp only [List.forall_mem_cons, List.not_mem_nil, false_imp_iff, implies_true, and_true]
  and_intros
  all_goals exact raises_privileged hr ht hs

end Sys2Proof.Machine
end

section
/-! The registers of a core after a reset (R263): cold reset, warm reset by RESET_N, and PWR_CORERST.HOLD. -/
namespace Sys2Proof.Machine

/-! ### The values of R263's table -/

/-- The registers of a core for which R263 gives a value have it. -/
def Core.AtReset (q : Core) : Prop :=
  (∀ n : RegNo, q.rd n = 0) ∧ (∀ (h : Hall) (t : Fin 4), q.spOf h t.val = 0) ∧ (∀ n : RegNo, q.f[n] = 0) ∧ (∀ n : Fin 8, q.da[n] = 0xC#128)
    ∧ q.csw = 0xF000#48 ∧ q.fcsw = 0

theorem Core.spOf_of_zero {q : Core} (h : q.sp = Vector.replicate 8 0) (k : Hall) (t : Nat) : q.spOf k t = 0 := by
  simp [Core.spOf, h]

theorem Core.rd_of_zero {q : Core} (hw : q.w = Vector.replicate 31 0) (hsp : q.sp = Vector.replicate 8 0) (n : RegNo) : q.rd n = 0 := by
  unfold Core.rd
  split
  · rfl
  · split
    · simp [hw]
    · exact Core.spOf_of_zero hsp _ _

/-- A core that is as a reset leaves it, TMB_TBHI aside, has the values of the table at the end of the command. -/
theorem atReset_settle {u : State} {c : CoreId} {q : Core} (h : u.core c = q.held) : (u.settle.core c).AtReset := by
  refine ⟨Core.rd_of_zero ?w ?sp, fun k t => Core.spOf_of_zero ?sp k t, fun n => ?f, fun n => ?da, ?csw, ?fcsw⟩
  case w => rw [w_settle, h]; rfl
  case sp => rw [sp_settle, h]; rfl
  case f => simp [h, Core.held, Core.reset]
  case da => simp [h, Core.held, Core.reset]
  case csw =>
    rw [csw_settle, h]
    exact (by decide : Core.reset.csw &&& cswBits = 0xF000#48)
  case fcsw =>
    rw [fcsw_settle, h]
    exact (by decide : Core.reset.fcsw &&& fcswBits = 0)

/-! ### Cold reset -/

theorem core_reset (c : CoreId) : State.reset.core c = Core.reset := by simp [State.core, State.reset]

theorem core_coldReset (s : State) (c : CoreId) : s.coldReset.core c = Core.reset.held := core_reset c

/-! ### Warm reset (R112) -/

theorem cores_commandLevel (s : State) (l : Nat) : (s.commandLevel l).cores = s.cores := by
  unfold State.commandLevel
  split
  · rfl
  · simp

theorem cores_tempoManual (s : State) : s.tempoManual.cores = s.cores := by
  unfold State.tempoManual
  split
  · rfl
  · exact cores_commandLevel s _

theorem cores_journalReplay (s : State) : s.journalReplay.cores = s.cores := by
  unfold State.journalReplay
  split
  · rfl
  · simp only
    split <;> simp

theorem cores_adcTrims (s : State) : s.adcTrims.cores = s.cores := by simp [State.adcTrims]

theorem cores_warmAon (s : State) : s.warmAon.cores = s.cores := by
  simp only [State.warmAon, cores_journalReplay, cores_tempoManual, cores_commandLevel, State.put_cores, cores_adcTrims]

theorem cores_cisAdvance (s : State) : s.cisAdvance.cores = s.cores := by
  unfold State.cisAdvance
  split
  · rfl
  · split
    · rfl
    · exact (State.updSeq_cores _ _).trans (State.set_cores _ _ _)

theorem cores_cisLeave (s : State) (ph : CisPhase) : (s.cisLeave ph).cores = s.cores := cores_cisAdvance _

/-- The cores are reset with the units, whatever becomes of a flash command. -/
theorem core_warmUnits (s : State) (c : CoreId) : s.warmUnits.core c = (s.core c).held := by
  unfold State.warmUnits
  split <;> exact Vector.getElem_map _ _

/-- The Cistern state at a warm reset (log entry 22). -/
def State.warmCistern (s : State) : State :=
  if s.pwr.cis = .awake ∨ s.pwr.cis = .entering then s.updPwr fun p => { p with cis := .awake } else s.cisLeave .awake

theorem cores_warmCistern (s : State) : s.warmCistern.cores = s.cores := by
  unfold State.warmCistern
  split
  · rfl
  · exact cores_cisLeave s _

/-- A warm reset that does not enter the start-up order resets every core, and what follows of it leaves them. -/
theorem core_warmReset {s : State} {cause : Nat} (h : s.pwr.aonUp = true) (horder : ¬ (cause = causeSeq ∨ cause = causeMains)) (c : CoreId) :
    ∃ q : Core, (s.warmReset cause).core c = q.held := by
  unfold State.warmReset
  rw [h, if_neg (by decide)]
  extract_lets written stores dram units aon cistern
  rw [if_neg horder]
  have hunits : units = (dram.regsWarm cause).warmUnits := rfl
  have haon : aon = (units.set F.PWR_RSTCAUSE_CAUSE (setBit (units.get F.PWR_RSTCAUSE_CAUSE) cause)).warmAon := rfl
  have hcistern : cistern = aon.warmCistern := rfl
  refine ⟨(dram.regsWarm cause).core c, ?_⟩
  rw [State.core, hcistern, cores_warmCistern, haon, cores_warmAon, State.set_cores, hunits]
  exact core_warmUnits _ c

/-! ### A core held in PWR_CORERST (R119) -/

section
variable {s t : State}

theorem Disables.endFlight (h : Disables s t) (p : Flight → Bool) (d : Done) : Disables s (t.endFlight p d) := by
  unfold State.endFlight
  split
  · exact h
  · exact h.updPump _

theorem Disables.revokeSlot (h : Disables s t) (c : Nat) (k : Hall) (slot : Nat) : Disables s (t.revokeSlot c k slot).1 := by
  unfold State.revokeSlot
  split
  · exact h
  · simp only
    split
    · dsimp only
      exact (h.endFlight _ _).updPump _
    · exact .ite ((h.endFlight _ _).event (by decide) 8) (h.endFlight _ _)

theorem Disables.revokeCore (h : Disables s t) (c : Nat) (k : Hall) : Disables s (t.revokeCore c k) :=
  .foldl (fun t slot => (Disables.refl t).revokeSlot c k slot) _ h

theorem Fld.le_off_ix {o : Nat} (f : Fld) (hf : o ≤ f.off) (n : Nat) : o ≤ (f.ix n).off := Nat.le_add_right_of_le hf

theorem Disables.llFreed (h : Disables s t) (n : Nat) : Disables s (t.llFreed n) :=
  ((((h.put _ (Fld.le_off_ix _ (by decide) n) _).put _ (Fld.le_off_ix _ (by decide) n) _).set _ (Fld.le_off_ix _ (by decide) n) _).updFlt _).event
    (by decide) 5

theorem Disables.journalRevoked (h : Disables s t) : Disables s t.journalRevoked := by
  refine Disables.staged ?_ _
  split
  · exact .ite h (h.endFlight _ _)
  · exact h

theorem Disables.wellsRevoked (h : Disables s t) (n : Nat) : Disables s (t.wellsRevoked n) :=
  .foldl (fun t w => .ite ((Disables.refl t).wellOff w 0) (.refl t)) _ h

theorem Disables.llRevoke (h : Disables s t) (n : Nat) : Disables s (t.llRevoke n) := by
  unfold State.llRevoke
  simp only
  split
  · exact h.llFreed n
  · exact .ite (h.updFlt _) (h.llFreed n)
  · exact .llFreed (.ite h.journalRevoked h) n
  · exact (h.wellsRevoked n).llFreed n

theorem Disables.llRevokeAll (h : Disables s t) (party : Nat × Nat → Bool) : Disables s (t.llRevokeAll party) :=
  .foldl (fun t n => (Disables.refl t).llRevoke n) _ h
end

/-- The tokens and locks of a core are revoked (R119, R810). -/
def State.coreRevoked (s : State) (c : CoreId) : State :=
  ((s.revokeCore c.val .L).revokeCore c.val .P).llRevokeAll fun o => o.1 != 0 && o.2 == c.val

theorem coreHold_eq (s : State) (c : CoreId) :
    coreHold s c = ((if s.fenced c.val then s.linesLost else drainAll s c).coreRevoked c).updCore c Core.held := rfl

theorem disables_coreRevoked (s : State) (c : CoreId) : Disables s (s.coreRevoked c) :=
  (((Disables.refl s).revokeCore _ _).revokeCore _ _).llRevokeAll _

/-- Holding a core does not write PWR_CORERST. -/
theorem get_hold_coreHold (s : State) (c : CoreId) : (coreHold s c).get F.PWR_CORERST_HOLD = s.get F.PWR_CORERST_HOLD := by
  have hstores : (if s.fenced c.val then s.linesLost else drainAll s c).reg F.PWR_CORERST_HOLD.off = s.reg F.PWR_CORERST_HOLD.off := by
    split
    · rfl
    · exact (accessed_drainAll s c).hold
  rw [coreHold_eq, State.get_updCore, State.get, (disables_coreRevoked _ c).regs _ (by decide), hstores, State.get]

theorem core_coreHold (s : State) (c : CoreId) : ∃ q : Core, (coreHold s c).core c = q.held := by
  rw [coreHold_eq, State.core_updCore, if_pos rfl]
  exact ⟨_, rfl⟩

/-- What a write of PWR_CORERST.HOLD does for one core. -/
def coreHoldStep (old : Nat) (s : State) (c : CoreId) : State :=
  if Variant.cores s.variant ≤ c.val ∨ bit (s.get F.PWR_CORERST_HOLD) c.val = bit old c.val then s
  else if bit (s.get F.PWR_CORERST_HOLD) c.val then coreHold s c else coreRelease s c

theorem coreHolds_eq (s : State) (old : Nat) : coreHolds s old = (List.finRange 4).foldl (coreHoldStep old) s := rfl

theorem foldl_coreHoldStep_same {s : State} {old : Nat} {l : List CoreId}
    (h : ∀ c ∈ l, bit (s.get F.PWR_CORERST_HOLD) c.val = bit old c.val) : l.foldl (coreHoldStep old) s = s := by
  induction l with
  | nil => rfl
  | cons c l ih =>
    obtain ⟨hc, hl⟩ := List.forall_mem_cons.1 h
    rw [List.foldl_cons, coreHoldStep, if_pos (.inr hc), ih hl]

/-- Where the bit of one core alone has been set, that core is held, and nothing else is done. -/
theorem coreHolds_of_set {s : State} {old : Nat} {k : CoreId} (hk : k.val < Variant.cores s.variant)
    (hnow : bit (s.get F.PWR_CORERST_HOLD) k.val = true) (hold : bit old k.val = false)
    (hsame : ∀ c : CoreId, c ≠ k → bit (s.get F.PWR_CORERST_HOLD) c.val = bit old c.val) : coreHolds s old = coreHold s k := by
  obtain ⟨pre, post, hl⟩ := List.append_of_mem (List.mem_finRange k)
  have hnodup := List.nodup_finRange 4
  rw [hl] at hnodup
  have hpre : k ∉ pre := fun hm => (List.disjoint_of_nodup_append hnodup) hm List.mem_cons_self
  have hpost : k ∉ post := (List.nodup_cons.1 hnodup.of_append_right).1
  have hstep : coreHoldStep old s k = coreHold s k := by
    rw [coreHoldStep, if_neg (by simp [hnow, hold, hk]), if_pos hnow]
  rw [coreHolds_eq, hl, List.foldl_append, List.foldl_cons, foldl_coreHoldStep_same fun c hm => hsame c (ne_of_mem_of_not_mem hm hpre), hstep]
  refine foldl_coreHoldStep_same fun c hm => ?_
  rw [get_hold_coreHold]
  exact hsame c (ne_of_mem_of_not_mem hm hpost)

/-! ### The write of PWR_CORERST -/

/-- The register PWR_CORERST (R155). -/
def coreRstReg : RegD := ⟨0x2010C, 0, 1, 0, 1, .always, [⟨3, 0, .rw, .coreHold, .cores, false⟩]⟩

theorem findReg_coreRst : findReg F.PWR_CORERST_HOLD.off = some (coreRstReg, 0, 0) := by decide +kernel

theorem cores_le_four (v : Variant) : Variant.cores v ≤ 4 := by cases v <;> decide

/-- A mask of present cores is legal. -/
theorem check_cores {u : State} {off word n v : Nat} (h : v < 2 ^ Variant.cores u.variant) : Legal.cores.check u off word n v = (v, none) := by
  have hand : v &&& u.coreMask = v := by rw [State.coreMask, Nat.and_two_pow_sub_one_eq_mod, Nat.mod_eq_of_lt h]
  simp [Legal.check, maskCheck, hand, andNot]

/-- What a write of PWR_CORERST makes its unit do (R119). -/
theorem hook_coreRst (u : State) (src : Src) (old eff : Nat) : u.hook src F.PWR_CORERST_HOLD.off old eff = coreHolds u (old % 16) := by
  simp [State.hook, State.hookLow, F.PWR_CORERST_HOLD]

/-- A write of a mask of present cores to HOLD. -/
theorem regWrite_hold {u : State} {src : Src} {x v : Nat} (hx : bitsOf x 3 0 = v) (hv : v < 2 ^ Variant.cores u.variant) :
    u.regWrite src F.PWR_CORERST_HOLD.off x = coreHolds (u.set F.PWR_CORERST_HOLD v) (u.get F.PWR_CORERST_HOLD) := by
  have happ : u.applyFields F.PWR_CORERST_HOLD.off x coreRstReg [] =
      ⟨putBits (u.reg F.PWR_CORERST_HOLD.off) 3 0 v, putBits x 3 0 v, []⟩ := by
    simp [State.applyFields, coreRstReg, Applied.field, hx, check_cores hv]
  rw [regWrite_of_holds findReg_coreRst rfl, regPresent_of_free (by decide) rfl (by decide), State.regApply, happ, hook_coreRst]
  rfl

/-- A source that sets the bit of one present core more holds that core. -/
theorem srcField_hold {s : State} {src : Src} {v : Nat} {k : CoreId} (h : s.reachesField src F.PWR_CORERST_HOLD v = true)
    (hv : v < 2 ^ Variant.cores (s.reached src).variant) (hset : v.testBit k = true)
    (hold : ((s.reached src).get F.PWR_CORERST_HOLD).testBit k = false)
    (hsame : ∀ j, j ≠ k.val → v.testBit j = ((s.reached src).get F.PWR_CORERST_HOLD).testBit j) :
    s.srcField src F.PWR_CORERST_HOLD v = coreHold ((s.reached src).set F.PWR_CORERST_HOLD v) k := by
  have hlt : v < 2 ^ 4 := lt_of_lt_of_le hv (Nat.pow_le_pow_right (by decide) (cores_le_four _))
  have hx : bitsOf (putBits (s.readReg src F.PWR_CORERST_HOLD.off) F.PWR_CORERST_HOLD.hi F.PWR_CORERST_HOLD.lo v) 3 0 = v :=
    (bitsOf_putBits_same _ 3 0 v).trans (Nat.mod_eq_of_lt hlt)
  have hget : ((s.reached src).set F.PWR_CORERST_HOLD v).get F.PWR_CORERST_HOLD = v :=
    (State.get_set_same _ _ _ (by decide)).trans (Nat.mod_eq_of_lt hlt)
  have hk : k.val < Variant.cores (s.reached src).variant := by
    refine Nat.lt_of_not_le fun hle => ?_
    rw [Nat.testBit_lt_two_pow (lt_of_lt_of_le hv (Nat.pow_le_pow_right (by decide) hle))] at hset
    cases hset
  rw [srcField_eq_regWrite h (by decide) (by decide +kernel) (by decide) (by decide) (by decide),
    regWrite_hold hx hv]
  refine coreHolds_of_set (by rwa [State.set_variant]) ?_ ?_ fun c hc => ?_
  · rw [hget, bit_eq_testBit, hset]
  · rw [bit_eq_testBit, hold]
  · rw [hget, bit_eq_testBit, bit_eq_testBit]
    exact hsame c.val fun e => hc (Fin.ext e)

/-! ### The statement -/

/-- Settles O32: each of the three leaves the core as a reset does, TMB_TBHI aside, before the command settles. -/
theorem resetCoresHoldTheirResetValues : Obligations.ResetCoresHoldTheirResetValues := by
  intro s src k hw u v holds
  refine ⟨?cold, fun haon => ?warm, fun hreach hv hold hsame => ?held⟩
  case cold => exact ⟨_, rfl, fun c => atReset_settle (core_coldReset s c)⟩
  case warm =>
    refine ⟨_, rfl, fun c => ?_⟩
    obtain ⟨q, hq⟩ := core_warmReset (cause := causeResetn) haon (by decide) c
    exact atReset_settle hq
  case held =>
    have hbit : v.testBit k = true := by simp [v, setBit]
    obtain ⟨q, hq⟩ := core_coreHold (u.set F.PWR_CORERST_HOLD v) k
    exact ⟨_, congrArg finish (srcField_hold hreach hv hbit hold hsame), atReset_settle hq⟩

end Sys2Proof.Machine
end

section
/-! The state that a cold reset leaves (R113, R263). -/
namespace Sys2Proof.Machine

theorem wiredBitsAtReset : Claims.WiredBitsAtReset := by
  refine decide_eq_true fun c => ?_
  rw [core_reset]
  decide

/-- The cores stand at the boot ROM in Hall L stair 0, with interrupts masked (R263). -/
theorem core_reset_starts : Core.reset.hall = .L ∧ Core.reset.stair = 0 ∧ cswIlevel Core.reset.csw = 15 := by decide

theorem resetLeavesTheBlockHeld : Claims.ResetLeavesTheBlockHeld := by
  refine ⟨rfl, rfl, rfl, rfl, fun c => ?cores, fun w hw => ?windows, rfl, fun x hx => List.eq_of_mem_replicate hx, rfl, rfl, rfl, fun _ => rfl⟩
  case cores =>
    obtain ⟨hhall, hstair, hilevel⟩ := core_reset_starts
    rw [core_reset]
    exact ⟨rfl, hhall, hstair, hilevel, rfl, rfl, Core.rd_of_zero rfl rfl⟩
  case windows =>
    rw [List.eq_of_mem_replicate hw]
    exact ⟨rfl, rfl⟩

/-- Settles O33: every core of `State.reset` is `Core.reset`, and no register is listed, so that each reads its Reset column. -/
theorem stateAtReset : Obligations.StateAtReset := ⟨wiredBitsAtReset, resetLeavesTheBlockHeld⟩

end Sys2Proof.Machine
end

section
/-! Changes of a core one after the other: what the whole leaves is what each of its steps leaves. -/
namespace Sys2Proof.Machine

section
variable {q r t : Core} {w w' fl fl' : List RegNo} {d d' : List (Fin 8)} {m m' : Word}

/-- Of a mask that spares HALL and STAIR, the hall and the stair stay (R264). -/
theorem Core.hall_stair_of_cswKept (h : q.CswKept r m) (hm : ∀ i < 19, 16 ≤ i → m.getLsbD i = false) :
    r.hall = q.hall ∧ r.stair = q.stair := by
  have hbit : ∀ i < 19, 16 ≤ i → r.csw.getLsbD i = q.csw.getLsbD i := fun i hlt hle => cswKept_bit h i (by omega) (hm i hlt hle)
  refine ⟨congrArg hallOf (hbit 18 (by decide) (by decide)), Nat.eq_of_testBit_eq fun i => ?_⟩
  simp only [Core.stair, cswStair, testBit_bitsOf]
  by_cases hi : i < 2
  · rw [show r.csw.toNat.testBit (i + 16) = q.csw.toNat.testBit (i + 16) from hbit _ (by omega) (by omega)]
  · simp [hi]

theorem Core.Kept.trans (h : q.Kept r w fl d m) (k : r.Kept t w' fl' d' m') (hm : ∀ i < 19, 16 ≤ i → m.getLsbD i = false) :
    q.Kept t (w ++ w') (fl ++ fl') (d ++ d') (m ||| m') := by
  obtain ⟨hhall, hstair⟩ := Core.hall_stair_of_cswKept h.csw hm
  refine ⟨⟨fun n hn => ?_, fun x i hx => ?_⟩, fun n hn => ?_, fun n hn => ?_, ⟨k.cr.1.trans h.cr.1, k.cr.2.trans h.cr.2⟩,
    ⟨k.fp.1.trans h.fp.1, k.fp.2.trans h.fp.2⟩, ?csw⟩
  case csw =>
    apply BitVec.eq_of_getLsbD_eq
    intro i hi
    simp only [BitVec.getLsbD_and, BitVec.getLsbD_not, BitVec.getLsbD_or, hi, decide_true, Bool.true_and]
    cases hmi : m.getLsbD i
    · cases hmi' : m'.getLsbD i
      · rw [cswKept_bit k.csw i hi hmi', cswKept_bit h.csw i hi hmi]
      · simp
    · simp
  · rw [List.mem_append, not_or] at hn
    exact (k.w.regs n hn.2).trans (h.w.regs n hn.1)
  · exact (k.w.pointers x i (by rwa [hhall, hstair])).trans (h.w.pointers x i hx)
  · rw [List.mem_append, not_or] at hn
    exact (k.f n hn.2).trans (h.f n hn.1)
  · rw [List.mem_append, not_or] at hn
    exact (k.da n hn.2).trans (h.da n hn.1)

/-- A change of CSW alone that spares HALL and STAIR. -/
theorem Core.kept_of_csw (v : Word) (h : q.CswKept { q with csw := v } m) (hm : ∀ i < 19, 16 ≤ i → m.getLsbD i = false) :
    q.Kept { q with csw := v } [] [] [] m :=
  ⟨Core.wKept_of_csw rfl rfl fun i hle hlt => cswKept_bit h i (by omega) (hm i hlt hle), fun _ _ => rfl, fun _ _ => rfl,
    ⟨rfl, rfl⟩, ⟨rfl, rfl⟩, h⟩

theorem Core.kept_setFlags (q : Core) (f : Nzcv) : q.Kept (q.setFlags f) [] [] [] flagBits :=
  Core.kept_of_csw _ (Core.cswKept_setFlags q f) (by decide)

/-- With S an instruction sets the flags, without it leaves them (R286). -/
theorem Core.kept_flagsIf (q : Core) (st : Bool) (f : Nzcv) : q.Kept (if st then q.setFlags f else q) [] [] [] flagBits := by
  cases st
  · exact Core.kept_refl _ _ _ _ _
  · exact Core.kept_setFlags _ _

theorem Core.kept_wr_wr (q : Core) (r₁ r₂ : RegNo) (v₁ v₂ : Word) : q.Kept ((q.wr r₁ v₁).wr r₂ v₂) [r₁, r₂] [] [] 0 :=
  (Core.kept_wr q r₁ v₁).trans (Core.kept_wr _ r₂ v₂) (by decide)

end

/-- An instruction that leaves the accumulators, the floating-point registers and the block writes general registers and CSW only. -/
theorem Leaves.regOnly {s t : State} {c : CoreId} {w : List RegNo} {m : Word} (h : Leaves s s t c w [] [] m) : RegOnly s t c w m :=
  ⟨h.w, h.f, h.da, h.cr, h.fp, h.csw, h.rest, h.cores⟩

end Sys2Proof.Machine
end

section
/-! Classes 0x01 to 0x03: the integer instructions (R286 to R295). Each writes a function of its operands to one register, or to a pair, and with S
or in a division the flags; the lemmas put the functions of the model in the words of the rules. -/
namespace Sys2Proof.Machine

/-! ### The ends of an integer instruction -/

section
variable {s : State} {c : CoreId} {op : Nat} {body : State → State × IRes} {rd ra rb : RegNo} {st : Bool}

theorem illegalWhen_of_legal {b : Bool} {r : State × IRes} (h : b = false) : illegalWhen b s r = r := by rw [h]; rfl

/-- An instruction that writes one general register, and with `st` the flags. -/
theorem intResult_run {v : Core → Word} {fl : Core → Nzcv} {v' : Word} {fl' : Option Nzcv} (hr : s.ready c = true) (hw : s.wired = true)
    (hop : op < 0x0D) (hb : body s = (s.updCore c fun q => (if st then q.setFlags (fl q) else q).wr rd (v q), .next)) (hv : v (s.core c) = v')
    (hfl : fl' = if st then some (fl (s.core c)) else none) : IntResult s (finish (run s c op body)) c rd v' fl' := by
  rw [runBody_next hr (gateKeep_none (.inl hop)) _ body hb]
  exact intResult_wr hw rd v st fl v' fl' hv hfl

/-- One that leaves the flags. -/
theorem intResult_run_none {v : Core → Word} {v' : Word} (hr : s.ready c = true) (hw : s.wired = true) (hop : op < 0x0D)
    (hb : body s = (s.updCore c fun q => q.wr rd (v q), .next)) (hv : v (s.core c) = v') :
    IntResult s (finish (run s c op body)) c rd v' none :=
  intResult_run (st := false) (fl := Core.nzcv) hr hw hop hb hv rfl

/-- An INT.R instruction whose function gives v, and the flags of v with carry C and overflow V (R286). -/
theorem intResult_intR {f : Core → Word → Word → Word × Nzcv} {v : Word} {C V : Prop} [Decidable C] [Decidable V] (hr : s.ready c = true)
    (hw : s.wired = true)
    (hf : f (s.core c) ((s.core c).rd ra) ((s.core c).rd rb) = (v, ⟨v.msb, decide (v = 0), decide C, decide V⟩)) :
    IntResult s (finish (intR s c rd ra rb st f)) c rd v (sFlags st v C V) :=
  intResult_run (v := fun q => (f q (q.rd ra) (q.rd rb)).1) (fl := fun q => (f q (q.rd ra) (q.rd rb)).2) hr hw (by decide) rfl (by rw [hf])
    (by rw [hf]; rfl)

/-- One of a single operand: RB is zero (R286). -/
theorem intResult_intR1 {f : Word → Word × Nzcv} {v : Word} {C V : Prop} [Decidable C] [Decidable V] (hr : s.ready c = true) (hw : s.wired = true)
    (hf : f ((s.core c).rd ra) = (v, ⟨v.msb, decide (v = 0), decide C, decide V⟩)) :
    IntResult s (finish (intR1 s c rd ra 0 st f)) c rd v (sFlags st v C V) :=
  intResult_run (v := fun q => (f (q.rd ra)).1) (fl := fun q => (f (q.rd ra)).2) hr hw (by decide) rfl (by rw [hf]) (by rw [hf]; rfl)

/-- A shift by an immediate count below 64 (R294). -/
theorem intResult_shiftI {f : Word → Nat → Word × Nzcv} {i : BitVec 16} (hr : s.ready c = true) (hw : s.wired = true) (hi : i.toNat < 64) :
    IntResult s (finish (shiftI s c rd i f)) c rd (f ((s.core c).rd rd) i.toNat).1 none := by
  have hlegal : decide (64 ≤ i.toNat) = false := decide_eq_false (Nat.not_le.2 hi)
  exact intResult_run_none (v := fun q => (f (q.rd rd) i.toNat).1) hr hw (by decide) (by rw [illegalWhen_of_legal hlegal, Nat.mod_eq_of_lt hi]) rfl

theorem Core.kept_mulPair (q : Core) (rd ra rb : RegNo) (st : Bool) (f : Word → Word → Nat) :
    q.Kept (q.mulPair rd ra rb st f) [rd, RegNo.succ rd] [] [] flagBits :=
  (Core.kept_flagsIf q st _).trans (Core.kept_wr_wr _ rd (RegNo.succ rd) _ _) (by decide)

/-- A product into a pair, and with S its flags (R287). -/
theorem pairResult_intPair {f : Word → Word → Nat} {v : Nat} {fl : Nzcv} (hr : s.ready c = true) (hw : s.wired = true) (hp : pairOk rd = true)
    (hf : f ((s.core c).rd ra) ((s.core c).rd rb) = v) (hv : v < 2 ^ 96) (hfl : pairFlags v = fl) :
    PairResult s (finish (intPair s c rd ra rb st f)) c rd v (if st then some fl else none) := by
  subst hf hfl
  obtain ⟨hnext, hpc, hleaves⟩ :=
    ends_next (op := 0x01) (body := fun s => illegalWhen (!pairOk rd) s (s.updCore c fun q => q.mulPair rd ra rb st f, .next)) hr hw
      (gateKeep_none (.inl (by decide))) (.refl s) _ _ _ (Core.kept_mulPair _ rd ra rb st f) (illegalWhen_of_legal (by rw [hp]; rfl))
  refine ⟨_, hnext, ?pair, ?flags, hpc, hleaves.regOnly⟩
  case pair =>
    simp only [Core.rdPair, rd_settle, State.core_updCore, if_true, Core.rd_retire]
    exact Core.rdPair_wrPair _ hp _ hv
  case flags =>
    simp only [nzcv_settle, State.core_updCore, if_true, Core.nzcv_retire, Core.mulPair]
    rw [Core.nzcv_congr _ _ (Core.csw_wrPair _ rd _)]
    cases st <;> simp

end

/-! ### Sums, differences and logical results -/

/-- Logical results leave C and V at 0 (R286). -/
theorem logicFlags_eq (v : Word) : logicFlags v = (v, ⟨v.msb, decide (v = 0), decide False, decide False⟩) := by
  rw [logicFlags, nzOf_eq, decide_false]

/-- Settles O1: sums and differences are those of addFlags_spec and subFlags_spec, at the carry that each of the four takes in. -/
theorem addAndSubtractGiveResultAndFlags : Obligations.AddAndSubtractGiveResultAndFlags := by
  intro s c rd ra rb st hr hw a b cin
  have hcin : ofBool (cswC (s.core c).csw) = cin := rfl
  refine ⟨intResult_intR hr hw ?add, intResult_intR hr hw ?adc, intResult_intR hr hw ?sub, intResult_intR hr hw ?sbc⟩
  case add => simpa [ofBool] using addFlags_spec a b false
  case adc => simp only [addFlags_spec, hcin]; rfl
  case sub => simpa [ofBool] using subFlags_spec a b true
  case sbc => simp only [subFlags_spec, hcin]; rfl

/-- Settles O2: each is a logical result, or leaves the flags. -/
theorem logicAndComparisonGiveResultAndFlags : Obligations.LogicAndComparisonGiveResultAndFlags := by
  intro s c rd ra rb st i hr hw a b d k
  refine ⟨?_, ?_, ?_, ?_, ?_, ?_, ?andi, ?ori, ?xori⟩
  case andi => exact intResult_run_none (v := fun q => q.rd rd &&& k) hr hw (by decide) rfl rfl
  case ori => exact intResult_run_none (v := fun q => q.rd rd ||| k) hr hw (by decide) rfl rfl
  case xori => exact intResult_run_none (v := fun q => q.rd rd ^^^ k) hr hw (by decide) rfl rfl
  -- The six that set the flags with S.
  all_goals exact intResult_intR hr hw (logicFlags_eq _)

/-! ### Shifts, extensions and counts (R286, R288) -/

theorem shlFlags_eq (a : Word) (n : Nat) : shlFlags a n =
    (a <<< n, ⟨(a <<< n).msb, decide (a <<< n = 0), decide (1 ≤ n ∧ n ≤ 48 ∧ hasBit a (48 - n)), decide False⟩) := by
  simp [shlFlags, nzOf_eq, Bool.and_assoc]

theorem shrFlags_eq (a : Word) (n : Nat) : shrFlags a n =
    (a >>> n, ⟨(a >>> n).msb, decide (a >>> n = 0), decide (1 ≤ n ∧ n ≤ 48 ∧ hasBit a (n - 1)), decide False⟩) := by
  simp [shrFlags, nzOf_eq, Bool.and_assoc]

/-- Beyond 48 the last bit out of an arithmetic shift is the sign (R288). -/
theorem sarFlags_eq (a : Word) (n : Nat) : sarFlags a n =
    (a.sshiftRight n, ⟨(a.sshiftRight n).msb, decide (a.sshiftRight n = 0), decide (1 ≤ n ∧ hasBit a (min (n - 1) 47)), decide False⟩) := by
  have hout : (if n ≤ 48 then a.getLsbD (n - 1) else a.msb) = a.getLsbD (min (n - 1) 47) := by
    split
    · rw [Nat.min_eq_left (by omega)]
    · rw [Nat.min_eq_right (by omega), BitVec.msb_eq_getLsbD_last]
  simp [sarFlags, nzOf_eq, hout]

theorem rorFlags_eq (a : Word) (n : Nat) : rorFlags a n =
    (a.rotateRight (n % 48), ⟨(a.rotateRight (n % 48)).msb, decide (a.rotateRight (n % 48) = 0),
      decide (1 ≤ n ∧ hasBit (a.rotateRight (n % 48)) 47), decide False⟩) := by
  simp [rorFlags, nzOf_eq, BitVec.msb_eq_getLsbD_last]

theorem shiftsGiveResultAndCarry : Claims.ShiftsGiveResultAndCarry := by
  intro s c rd ra rb st i hr hw hi a d n
  exact ⟨intResult_intR hr hw (shlFlags_eq _ _), intResult_intR hr hw (shrFlags_eq _ _), intResult_intR hr hw (sarFlags_eq _ _),
    intResult_intR hr hw (rorFlags_eq _ _), intResult_shiftI hr hw hi, intResult_shiftI hr hw hi, intResult_shiftI hr hw hi,
    intResult_shiftI hr hw hi⟩

/-- The zero bits above the highest bit set: at a set bit the count ends. -/
theorem clzNat_eq {m x n : Nat} (hn : n ≤ m) (hx : x < 2 ^ (m - n)) (hset : n < m → x.testBit (m - 1 - n) = true) : clzNat m x = n := by
  induction m generalizing n with
  | zero => simpa [clzNat, eq_comm] using hn
  | succ m ih =>
    cases n with
    | zero => simp [clzNat, show x.testBit m = true from hset (by omega)]
    | succ n =>
      have hclear : x.testBit m = false := Nat.testBit_lt_two_pow (lt_of_lt_of_le hx (Nat.pow_le_pow_right (by decide) (by omega)))
      have hrest : clzNat m x = n := ih (by omega) (by simpa using hx) fun h => by
        have := hset (by omega)
        rwa [show m + 1 - 1 - (n + 1) = m - 1 - n by omega] at this
      simp [clzNat, hclear, hrest, Nat.add_comm]

/-- The bits set among the low n, counted from the lowest. -/
theorem popCount_eq (n x : Nat) : popCount n x = ((List.range n).filter fun i => x.testBit i).length := by
  induction n generalizing x with
  | zero => rfl
  | succ n ih =>
    rw [popCount, ih, List.range_succ_eq_map, List.filter_cons, List.filter_map]
    have hshift : ((fun i => x.testBit i) ∘ Nat.succ) = fun i => (x / 2).testBit i := by
      funext i
      exact Nat.testBit_succ x i
    rw [hshift]
    rcases Nat.mod_two_eq_zero_or_one x with h | h <;> simp [Nat.testBit_zero, h, Nat.add_comm]

theorem extensionsAndCountsGiveResult : Claims.ExtensionsAndCountsGiveResult := by
  intro s c rd ra st hr hw a
  refine ⟨intResult_intR1 hr hw (logicFlags_eq _), intResult_intR1 hr hw (logicFlags_eq _), intResult_intR1 hr hw (logicFlags_eq _),
    fun n hn hlt hset => ?clz, ?popc⟩
  case clz =>
    have hclz : clzNat 48 a.toNat = n := clzNat_eq hn hlt hset
    rw [← hclz]
    exact intResult_intR1 hr hw (logicFlags_eq _)
  case popc =>
    have hpop : popCount 48 a.toNat = bitsSet a := popCount_eq 48 a.toNat
    rw [← hpop]
    exact intResult_intR1 hr hw (logicFlags_eq _)

/-- Settles O53: each shift, extension and count is a function of one operand and a count, given in the rule's words by the lemmas above. -/
theorem shiftsExtensionsAndCounts : Obligations.ShiftsExtensionsAndCounts := ⟨shiftsGiveResultAndCarry, extensionsAndCountsGiveResult⟩

/-! ### Immediate forms (R293, R295) -/

/-- Bits [47:16] of the immediate come from the second long (R271). -/
theorem imm48_eq (ext : BitVec 32) (i : BitVec 16) : imm48 ext i = ext ++ i := by
  apply BitVec.eq_of_toNat_eq
  have := ext.isLt
  have := i.isLt
  rw [imm48, BitVec.toNat_ofNat, BitVec.toNat_append, Nat.shiftLeft_eq, Nat.mul_comm, ← Nat.two_pow_add_eq_or_of_lt i.isLt]
  omega

/-- Settles O5: the forms of class 0x02 are those of class 0x01 with an immediate; ADDX advances by eight. -/
theorem immediateFormsGiveResult : Obligations.ImmediateFormsGiveResult := by
  intro s c rd ra i ext hr hw d k
  refine ⟨?ldi, ?addi, ?addiS, ?cmpi, ?muli, ?adpc, ?addx⟩
  case ldi => exact intResult_run_none (v := fun _ => k) hr hw (by decide) rfl rfl
  case addi => exact intResult_run_none (v := fun q => q.rd rd + k) hr hw (by decide) rfl rfl
  case addiS =>
    have hsum := addFlags_spec d k false
    refine intResult_run (st := true) (v := fun q => (addFlags (q.rd rd) k false).1) (fl := fun q => (addFlags (q.rd rd) k false).2) hr hw (by decide)
      rfl ?_ ?_
    · simpa [ofBool] using congrArg Prod.fst hsum
    · simpa [ofBool, sFlags] using (congrArg Prod.snd hsum).symm
  case cmpi =>
    have hdiff := subFlags_spec d k true
    refine intResult_run (st := true) (v := fun _ => 0) (fl := fun q => (subFlags (q.rd rd) k true).2) hr hw (by decide) rfl rfl ?_
    simpa [ofBool, sFlags] using (congrArg Prod.snd hdiff).symm
  case muli => exact intResult_run_none (v := fun q => q.rd rd * k) hr hw (by decide) rfl rfl
  case adpc => exact intResult_run_none (v := fun q => q.pc + k * 4#48) hr hw (by decide) rfl (by rw [BitVec.mul_comm])
  case addx =>
    obtain ⟨hkw, hkf, hkd, hkc, hkp, hks⟩ := (s.core c).kept_wr rd ((s.core c).rd ra + imm48 ext i)
    have hrun : runWith s c 0x03 8 false false (fun s => (s.updCore c fun q => q.wr rd (q.rd ra + imm48 ext i), .next)) =
        s.updCore c fun q => (q.wr rd (q.rd ra + imm48 ext i)).retire (s.core c).hold.isSome ((s.core c).pc + 8#48) := by
      rw [runWith_ready hr (gateKeep_none (.inl (by decide))) (.inl rfl)]
      exact retireAt_updCore hr _ _ _
    refine ⟨_, congrArg finish hrun, ?result, ?flags, ?pc, (leaves_end hw (.refl s) _ _ _ _ _ _ _ hkw hkf hkd hkc hkp hks).regOnly⟩
    case result => simp [Core.rd_wr_same, imm48_eq]
    case flags =>
      simp only [nzcv_settle, State.core_updCore, if_true, Core.nzcv_retire]
      exact Core.nzcv_congr _ _ (Core.csw_wr _ _ _)
    case pc =>
      have hpc := pc_aligned hw c
      rw [pc_settle, State.core_updCore, if_pos rfl, Core.pc_retire, and_pcBits_iff, BitVec.toNat_add, show (8#48).toNat = 8 from rfl]
      omega

/-! ### Products (R286, R287) -/

theorem toInt_bounds (a : Word) : -(2 ^ 47) ≤ a.toInt ∧ a.toInt < 2 ^ 47 := ⟨BitVec.le_toInt a, BitVec.toInt_lt⟩

/-- An integer fits a signed word just when the word of its low bits stands for it. -/
theorem toInt_ofInt_eq_iff (x : Int) : (BitVec.ofInt 48 x).toInt = x ↔ ¬ outside48 x := by
  rw [BitVec.toInt_ofInt]
  simp only [Int.bmod_def, outside48]
  omega

theorem mulFlags_eq (a b : Word) : mulFlags a b =
    (a * b, ⟨(a * b).msb, decide (a * b = 0), decide False, decide (outside48 (a.toInt * b.toInt))⟩) := by
  have hprod : a * b = BitVec.ofInt 48 (a.toInt * b.toInt) := by rw [BitVec.ofInt_mul, BitVec.ofInt_toInt, BitVec.ofInt_toInt]
  have hfits : decide ((a * b).toInt ≠ a.toInt * b.toInt) = decide (outside48 (a.toInt * b.toInt)) := by
    rw [decide_eq_decide, hprod, Ne, toInt_ofInt_eq_iff, not_not]
  simp only [mulFlags, nzOf_eq, hfits, decide_false]

/-- The product of two signed words takes 95 bits. -/
theorem toInt_mul_bounds (a b : Word) : -(2 ^ 94) ≤ a.toInt * b.toInt ∧ a.toInt * b.toInt ≤ 2 ^ 94 := by
  obtain ⟨ha, ha'⟩ := toInt_bounds a
  obtain ⟨hb, hb'⟩ := toInt_bounds b
  constructor <;> nlinarith

theorem toNat_mul_lt (a b : Word) : a.toNat * b.toNat < 2 ^ 96 :=
  calc a.toNat * b.toNat < 2 ^ 48 * 2 ^ 48 := Nat.mul_lt_mul'' a.isLt b.isLt
    _ = 2 ^ 96 := by norm_num

/-- The high half of a signed product (R286). -/
theorem mulS_high (a b : Word) : BitVec.ofNat 48 (mulS a b / 2 ^ 48) = BitVec.ofInt 48 ((a.toInt * b.toInt) / 2 ^ 48) := by
  apply BitVec.eq_of_toNat_eq
  rw [BitVec.toNat_ofNat, BitVec.toNat_ofInt, mulS, ofInt]
  generalize a.toInt * b.toInt = x
  omega

theorem mulS_eq (a b : Word) : mulS a b = (BitVec.ofInt 96 (a.toInt * b.toInt)).toNat := by
  rw [mulS, BitVec.toNat_ofInt]
  rfl

/-- The sign of a whole signed product is its bit 95 (R287). -/
theorem pairFlags_signed (a b : Word) : pairFlags (BitVec.ofInt 96 (a.toInt * b.toInt)).toNat =
    ⟨decide (a.toInt * b.toInt < 0), decide (a.toInt * b.toInt = 0), false, false⟩ := by
  have hbounds := toInt_mul_bounds a b
  generalize a.toInt * b.toInt = x at hbounds
  have hval : ((BitVec.ofInt 96 x).toNat : Int) = if x < 0 then x + 2 ^ 96 else x := by
    rw [BitVec.toNat_ofInt]
    split <;> omega
  generalize (BitVec.ofInt 96 x).toNat = v at hval
  have hbit : v.testBit 95 = decide (x < 0) := by
    rw [Nat.testBit_eq_decide_div_mod_eq, decide_eq_decide]
    split at hval <;> omega
  have hzero : (v % 2 ^ 96 == 0) = decide (x = 0) := by
    rw [Bool.eq_iff_iff, beq_iff_eq, decide_eq_true_iff]
    split at hval <;> omega
  rw [pairFlags, hbit, hzero]

theorem pairFlags_unsigned (a b : Word) : pairFlags (a.toNat * b.toNat) =
    ⟨decide (2 ^ 95 ≤ a.toNat * b.toNat), decide (a.toNat * b.toNat = 0), false, false⟩ := by
  have hlt := toNat_mul_lt a b
  generalize a.toNat * b.toNat = v at hlt
  have hbit : v.testBit 95 = decide (2 ^ 95 ≤ v) := by
    rw [Nat.testBit_eq_decide_div_mod_eq, decide_eq_decide]
    omega
  rw [pairFlags, hbit, Nat.mod_eq_of_lt hlt]
  rfl

/-- Settles O3: the model's products are those of the integers that the operands stand for. -/
theorem productsAreExact : Obligations.ProductsAreExact := by
  intro s c rd ra rb st hr hw a b hs hu
  refine ⟨intResult_intR hr hw (mulFlags_eq a b), ?mulh, intResult_intR hr hw (logicFlags_eq hu), fun hp => ⟨?mulp, ?mulpu⟩⟩
  case mulh => exact intResult_intR hr hw (by rw [mulS_high]; exact logicFlags_eq hs)
  case mulp => exact pairResult_intPair hr hw hp (mulS_eq a b) (BitVec.isLt _) (pairFlags_signed a b)
  case mulpu => exact pairResult_intPair hr hw hp rfl (toNat_mul_lt a b) (pairFlags_unsigned a b)

/-! ### Quotients and remainders (R289 to R291) -/

/-- The quotient of the most negative number by -1 is the only one that does not fit (R291). -/
theorem divOverflow_eq (a b : Word) (hb : b ≠ 0) : divOverflow a b = decide (outside48 (a.toInt.tdiv b.toInt)) := by
  have hmin : a = 0x800000000000#48 ↔ a.toInt = -(2 ^ 47) := BitVec.toInt_inj.symm
  have hneg : b = 0xFFFFFFFFFFFF#48 ↔ b.toInt = -1 := BitVec.toInt_inj.symm
  have hzero : b.toInt ≠ 0 := fun h => hb (BitVec.toInt_inj.1 h)
  obtain ⟨ha, ha'⟩ := toInt_bounds a
  rw [Bool.eq_iff_iff, divOverflow, Bool.and_eq_true, beq_iff_eq, beq_iff_eq, decide_eq_true_iff, hmin, hneg]
  generalize a.toInt = x at *
  generalize b.toInt = y at *
  constructor
  · rintro ⟨rfl, rfl⟩
    decide
  · intro hout
    have habs : (x.tdiv y).natAbs = x.natAbs / y.natAbs := Int.natAbs_tdiv x y
    have hle : x.natAbs / y.natAbs ≤ x.natAbs := Nat.div_le_self _ _
    have hx : x = -(2 ^ 47) := by omega
    refine ⟨hx, ?_⟩
    have hquot : x.natAbs / y.natAbs = x.natAbs := by omega
    have hpos : 0 < x.natAbs := by omega
    have hone : y.natAbs = 1 := by
      by_contra hne
      have : x.natAbs / y.natAbs < x.natAbs := Nat.div_lt_self hpos (by omega)
      omega
    rcases Int.natAbs_eq y with h | h
    · rw [h, hone, hx] at hout
      exact absurd hout (by decide)
    · rw [h, hone]
      rfl

section
variable {s : State} {c : CoreId} {rd ra rb : RegNo} {st sg : Bool} {f : Word → Word → Word}

theorem intResult_intDiv (hr : s.ready c = true) (hw : s.wired = true) (hb : (s.core c).rd rb ≠ 0) :
    IntResult s (finish (intDiv s c rd ra rb st sg f)) c rd (f ((s.core c).rd ra) ((s.core c).rd rb))
      (divFlags (s.core c) st (f ((s.core c).rd ra) ((s.core c).rd rb)) (sg && divOverflow ((s.core c).rd ra) ((s.core c).rd rb))) := by
  refine intResult_run (st := true) (v := fun q => f (q.rd ra) (q.rd rb))
    (fl := fun q => if st then nzOf (f (q.rd ra) (q.rd rb)) false (sg && divOverflow (q.rd ra) (q.rd rb))
      else { q.nzcv with v := sg && divOverflow (q.rd ra) (q.rd rb) }) hr hw (by decide) ?_ rfl ?_
  · simp only [if_neg hb]
    cases st <;> simp [Core.divide, Core.setV_eq]
  · cases st <;> simp [divFlags, nzOf_eq]

theorem raises_intDiv (hr : s.ready c = true) (ht : (s.core c).tpend = false) (hb : (s.core c).rd rb = 0) :
    Raises s (finish (intDiv s c rd ra rb st sg f)) c 0x01 (Exc.plain 8 0 0) :=
  run_exc hr (gateKeep_none (.inl (by decide))) ht _ rfl _ (if_pos hb)

end

/-- Settles O4: the four share their ends, and only a signed quotient can overflow. -/
theorem divisionTruncatesAndChecksZero : Obligations.DivisionTruncatesAndChecksZero := by
  intro s c rd ra rb st hr hw a b q r v
  refine ⟨fun hb => ?_, fun hb ht => ⟨raises_intDiv hr ht hb, raises_intDiv hr ht hb, raises_intDiv hr ht hb, raises_intDiv hr ht hb⟩⟩
  have hv : (true && divOverflow a b) = v := divOverflow_eq a b hb
  rw [← hv]
  exact ⟨intResult_intDiv hr hw hb, intResult_intDiv hr hw hb, intResult_intDiv hr hw hb, intResult_intDiv hr hw hb⟩

end Sys2Proof.Machine
end

section
/-! Stores that leave the buffer, and the fences (R305, R313, R427, R436). -/
namespace Sys2Proof.Machine

section
variable {s : State} {c : CoreId}

theorem sb_drainN (s : State) (c : CoreId) (n : Nat) : ((drainN s c n).core c).sb = (s.core c).sb.drop n := by
  induction n generalizing s with
  | zero => rfl
  | succ n ih => rw [drainN, ih, sb_drainOne, List.drop_tail]

theorem sb_drainAll (s : State) (c : CoreId) : ((drainAll s c).core c).sb = [] := by rw [drainAll, sb_drainN, List.drop_length]

theorem drainAll_of_sb_nil (h : (s.core c).sb = []) : drainAll s c = s := by
  rw [drainAll, h]
  rfl

/-- Behind the youngest device-weak store there is none (R436). -/
theorem weak_drop_lastWeak (l : List SbEntry) : ∀ e ∈ l.drop (lastWeak l), e.weak = false := by
  induction l with
  | nil => simp
  | cons e l ih =>
    unfold lastWeak
    split
    · simpa using ih
    · next h0 =>
      rw [Nat.eq_zero_of_not_pos h0] at ih
      cases hw : e.weak <;> simpa [hw] using ih

theorem weak_drainWeak (s : State) (c : CoreId) : ∀ e ∈ ((drainWeak s c).core c).sb, e.weak = false := by
  rw [drainWeak, sb_drainN]
  exact weak_drop_lastWeak _

/-- A fence of a ready core: its stores leave as `drain` says, and nothing else changes. -/
theorem ends_fence {drain : State → CoreId → State} (hr : s.ready c = true) (hw : s.wired = true) (hd : Accessed s (drain s c)) :
    ∃ t, Ends s (drain s c) t (finish (fence s c 0 drain)) c ((s.core c).pc + 4#48) [] 0 ∧ (t.core c).sb = ((drain s c).core c).sb :=
  ⟨_, ends_same hr hw (gateKeep_none (.inl (by decide))) hd rfl, by simp⟩

/-! ### One store (R427, R436) -/

theorem drainAt_of_mayLeave {k : Nat} {e : SbEntry} (he : (s.core c).sb[k]? = some e) (hm : mayLeave (s.core c).sb k = true) :
    drainAt s c k = performStore (s.updCore c fun q => { q with sb := (s.core c).sb.take k ++ (s.core c).sb.drop (k + 1) }) c e := by
  simp only [drainAt, he, hm, if_true]

/-- A store that meets no poison, elsewhere than in the link window, writes its bytes. -/
theorem byte_performStore {e : SbEntry} (hp : s.poison e.addr e.bytes.length = none) (hl : regionOf e.addr ≠ .link) (a : Nat) :
    (performStore s c e).byte a = if h : e.addr ≤ a ∧ a - e.addr < e.bytes.length then e.bytes[a - e.addr]'h.2 else s.byte a := by
  simp only [performStore, hp, State.physWrite, if_neg hl]
  exact State.byte_putBytes _ _ _

end

/-- Settles O10: the fences are drains, of all stores or up to the youngest device-weak one. -/
theorem fencesEmptyTheStoreBuffer : Obligations.FencesEmptyTheStoreBuffer := by
  intro s c k hw
  refine ⟨fun hr => ⟨?full, ?io⟩, fun hup hf e he hm => ?drain⟩
  case full =>
    have hall := ends_fence hr hw (accessed_drainAll s c)
    rw [sb_drainAll] at hall
    simp only [List.forall_mem_cons, List.not_mem_nil, false_imp_iff, implies_true, and_true]
    exact ⟨hall, hall, hall⟩
  case io =>
    obtain ⟨t, ht, hsb⟩ := ends_fence hr hw (accessed_drainWeak s c)
    exact ⟨t, ht, by rw [hsb]; exact weak_drainWeak s c⟩
  case drain =>
    have hmay : mayLeave (s.core c).sb k.val = true := by
      simp only [mayLeave, he]
      exact hm
    have hexec : exec (.storeDrain c k) s = finish (drainAt s c k.val) :=
      congrArg finish (if_pos (by rw [hup, hf]; rfl))
    rw [hexec, drainAt_of_mayLeave he hmay]
    refine ⟨_, rfl, ?_, fun hl hp a => ?_⟩
    · rw [sb_settle, sb_performStore]
      simp
    · rw [settle_byte]
      exact byte_performStore (s := s.updCore c _) hp hl a

end Sys2Proof.Machine
end

section
/-! Atomics (R301 to R304): the word is read once every earlier access is complete; what is stored is visible at the end. -/
namespace Sys2Proof.Machine

/-! ### Z alone -/

theorem Core.kept_setZ (q : Core) (b : Bool) : q.Kept (q.setZ b) [] [] [] 4#48 := by
  refine Core.kept_of_csw _ (cswSet_kept _ _ _ _ _ (by decide) fun i hlo hhi => ?_) (by decide)
  obtain rfl : i = 2 := by omega
  rfl

@[simp] theorem Core.z_setZ (q : Core) (b : Bool) : (q.setZ b).nzcv.z = b := by
  rw [Core.nzcv, Core.setZ, cswZ, getLsbD_cswSet _ _ _ _ _ (by decide)]
  cases b <;> rfl

section
variable {s u1 u : State} {c : CoreId} {rd ra rb : RegNo} {va : Word} {ps : List Part} {l : List Byte} {m : Word}

/-- The state in which an atomic leaves memory: the new value stored and visible, or, with none, the page dirty all the same (R301, R304). -/
def atomicEnd (u : State) (c : CoreId) (x : Ctx) (va : Nat) (ps : List Part) : Option Nat → State
  | some v => drainAll (writeParts u c x ps (leBytes 6 v)) c
  | none => markDirty u c x va

theorem accessed_atomicEnd (u : State) (c : CoreId) (x : Ctx) (va : Nat) (ps : List Part) (o : Option Nat) :
    Accessed u (atomicEnd u c x va ps o) := by
  cases o with
  | none => exact accessed_markDirty _ _ _ _
  | some v => exact (accessed_writeParts _ _ _ _ _).trans (accessed_drainAll _ _)

/-- An atomic on an aligned word within a line that may be accessed and reads as `l`. -/
theorem ends_atomic {body : State → State × IRes} {f : Nat → Option Nat} {g : Core → Nat → Core}
    (hr : s.ready c = true) (hw : s.wired = true) (heven : va.toNat % 2 = 0) (hline : va.toNat % 64 < 60)
    (hcheck : checkAccess (drainAll s c) c ((drainAll s c).core c).ctx va.toNat 6 4096 .write true = (u1, .inr ps))
    (hread : readParts u1 c ps = (u, .ok l)) (hg : ∀ q : Core, q.Kept (g q (ofLe l)) [rd] [] [] m) (hb : body s = atomic s c va f g) :
    ∃ t q, Ends s (atomicEnd u c ((drainAll s c).core c).ctx va.toNat ps (f (ofLe l))) t (finish (run s c 0x07 body)) c
        ((s.core c).pc + 4#48) [rd] m
      ∧ (t.core c).nzcv = (g q (ofLe l)).nzcv ∧ ∀ n, (t.core c).rd n = (g q (ofLe l)).rd n := by
  have hacc : Accessed s (atomicEnd u c ((drainAll s c).core c).ctx va.toNat ps (f (ofLe l))) := by
    have h1 := accessed_checkAccess (drainAll s c) c ((drainAll s c).core c).ctx va.toNat 6 4096 .write true
    have h2 := accessed_readParts u1 c ps
    rw [hcheck] at h1
    rw [hread] at h2
    exact (((accessed_drainAll s c).trans h1).trans h2).trans (accessed_atomicEnd _ _ _ _ _ _)
  have hbody : body s = ((atomicEnd u c ((drainAll s c).core c).ctx va.toNat ps (f (ofLe l))).updCore c fun q => g q (ofLe l), .next) := by
    rw [hb, atomic, if_neg (by omega)]
    simp only [hcheck, hread]
    cases f (ofLe l) <;> rfl
  generalize atomicEnd u c ((drainAll s c).core c).ctx va.toNat ps (f (ofLe l)) = v at hacc hbody ⊢
  refine ⟨_, v.core c, ends_next hr hw (gateKeep_none (.inl (by decide))) hacc (fun q => g q (ofLe l)) _ _ (hg _) hbody, ?_, fun n => ?_⟩
  · simp only [nzcv_settle, State.core_updCore, if_true, Core.nzcv_retire]
  · simp only [rd_settle, State.core_updCore, if_true, Core.rd_retire]

theorem raises_atomic {body : State → State × IRes} {f : Nat → Option Nat} {g : Core → Nat → Core} (hr : s.ready c = true)
    (ht : (s.core c).tpend = false) (hbad : va.toNat % 2 ≠ 0 ∨ 60 ≤ va.toNat % 64) (hb : body s = atomic s c va f g) :
    Raises s (finish (run s c 0x07 body)) c 0x07 (Exc.at 3 0 7 va.toNat) :=
  run_exc hr (gateKeep_none (.inl (by decide))) ht _ rfl _ (hb.trans (if_pos hbad))

/-- CAS (R301): what memory holds goes to Wd, and Z tells whether it is Wd's value. -/
theorem ends_cas (hr : s.ready c = true) (hw : s.wired = true) (heven : ((s.core c).rd ra).toNat % 2 = 0)
    (hline : ((s.core c).rd ra).toNat % 64 < 60)
    (hcheck : checkAccess (drainAll s c) c ((drainAll s c).core c).ctx ((s.core c).rd ra).toNat 6 4096 .write true = (u1, .inr ps))
    (hread : readParts u1 c ps = (u, .ok l)) :
    ∃ t, Ends s (atomicEnd u c ((drainAll s c).core c).ctx ((s.core c).rd ra).toNat ps
        (if ofLe l = ((s.core c).rd rd).toNat then some ((s.core c).rd rb).toNat else none)) t (exec (.cas c rd ra rb) s) c
        ((s.core c).pc + 4#48) [rd] 4
      ∧ (t.core c).rd rd = written rd (BitVec.ofNat 48 (ofLe l)) ∧ (t.core c).nzcv.z = decide (ofLe l = ((s.core c).rd rd).toNat) := by
  obtain ⟨t, q, hends, hflags, hregs⟩ := ends_atomic (rd := rd) (m := 4)
    (body := fun s => atomic s c ((s.core c).rd ra) (fun old => if old = ((s.core c).rd rd).toNat then some ((s.core c).rd rb).toNat else none)
      fun q old => (q.setZ (old == ((s.core c).rd rd).toNat)).wr rd (BitVec.ofNat 48 old)) hr hw heven hline hcheck hread
    (fun q => (Core.kept_setZ q _).trans (Core.kept_wr _ rd _) (by decide)) rfl
  refine ⟨t, hends, by rw [hregs, Core.rd_wr_same], ?_⟩
  rw [hflags, Core.nzcv_congr _ _ (Core.csw_wr _ _ _), Core.z_setZ]
  rfl

/-- FADD (R301): the sum is stored whatever memory holds. -/
theorem ends_fetchAdd (hr : s.ready c = true) (hw : s.wired = true) (heven : ((s.core c).rd ra).toNat % 2 = 0)
    (hline : ((s.core c).rd ra).toNat % 64 < 60)
    (hcheck : checkAccess (drainAll s c) c ((drainAll s c).core c).ctx ((s.core c).rd ra).toNat 6 4096 .write true = (u1, .inr ps))
    (hread : readParts u1 c ps = (u, .ok l)) :
    ∃ t, Ends s (atomicEnd u c ((drainAll s c).core c).ctx ((s.core c).rd ra).toNat ps (some ((ofLe l + ((s.core c).rd rb).toNat) % 2 ^ 48))) t
        (exec (.fetchAdd c rd ra rb) s) c ((s.core c).pc + 4#48) [rd] 0
      ∧ (t.core c).rd rd = written rd (BitVec.ofNat 48 (ofLe l)) := by
  obtain ⟨t, q, hends, -, hregs⟩ := ends_atomic (rd := rd) (m := 0)
    (body := fun s => atomic s c ((s.core c).rd ra) (fun old => some ((old + ((s.core c).rd rb).toNat) % 2 ^ 48))
      fun q old => q.wr rd (BitVec.ofNat 48 old)) hr hw heven hline hcheck hread (fun q => Core.kept_wr q rd _) rfl
  exact ⟨t, hends, by rw [hregs, Core.rd_wr_same]⟩

end

/-- Settles O8: CAS and FADD are atomics that differ in what they store and in what they do with Z. -/
theorem atomicsReadModifyWriteOneWord : Obligations.AtomicsReadModifyWriteOneWord := by
  intro s u1 u c rd ra rb ps l hr hw q va x stored
  refine ⟨fun hbad ht => ⟨raises_atomic hr ht hbad rfl, raises_atomic hr ht hbad rfl⟩, fun heven hline hcheck hread => ⟨?cas, ?fadd⟩⟩
  case cas =>
    have hcas := ends_cas (rd := rd) (rb := rb) hr hw heven hline hcheck hread
    rwa [apply_ite (atomicEnd _ _ _ _ _)] at hcas
  case fadd => exact ends_fetchAdd hr hw heven hline hcheck hread

/-! ### A word of installed DRAM (R301, R304) -/

section
variable {s : State} {c : CoreId}

theorem getElem_leBytes {n v i : Nat} (h : i < (leBytes n v).length) : (leBytes n v)[i] = BitVec.ofNat 8 (v / 256 ^ i) := by
  induction n generalizing v i with
  | zero => simp [leBytes] at h
  | succ n ih =>
    cases i with
    | zero => simp [leBytes]
    | succ i => simp only [leBytes, List.getElem_cons_succ, ih, Nat.div_div_eq_div_mul, pow_succ']

/-- Byte i of the number that the bytes of memory spell. -/
theorem ofNat_ofLe_bytes (s : State) {a n i : Nat} (h : i < n) : BitVec.ofNat 8 (ofLe (s.bytes a n) / 256 ^ i) = s.byte (a + i) := by
  induction n generalizing a i with
  | zero => omega
  | succ n ih =>
    have hb := (s.byte a).isLt
    cases i with
    | zero =>
      apply BitVec.eq_of_toNat_eq
      simp only [State.bytes, ofLe, BitVec.toNat_ofNat, Nat.pow_zero, Nat.div_one, Nat.add_zero]
      omega
    | succ i =>
      have hrest : ((s.byte a).toNat + 256 * ofLe (s.bytes (a + 1) n)) / 256 = ofLe (s.bytes (a + 1) n) := by omega
      rw [State.bytes, ofLe, pow_succ', ← Nat.div_div_eq_div_mul, hrest, ih (by omega), Nat.add_right_comm, Nat.add_assoc]

/-- A word that lies within a line is one part of its access. -/
theorem dramParts_word {va : Nat} (heven : va % 2 = 0) (hline : va % 64 < 60) : dramParts va 6 4096 = [⟨va, va, 6, 0⟩] := by
  have hcut : min 6 (4096 - va % 4096) = 6 := by omega
  unfold dramParts splitPieces
  simp only [hcut, if_true]
  rfl

/-- The state after an atomic on such a word: the new value's bytes, or, with none, what memory held. -/
theorem byte_atomicEnd {va : Nat} {x : Ctx} (hx : x.te = false) (hsb : (s.core c).sb = []) (hd : va < 0x0200000000) (hp : s.poison va 6 = none)
    (o : Option Nat) (a : Nat) : (atomicEnd s c x va [⟨va, va, 6, 0⟩] o).byte a =
      if va ≤ a ∧ a < va + 6 then BitVec.ofNat 8 (o.getD (ofLe (s.bytes va 6)) / 256 ^ (a - va)) else s.byte a := by
  cases o with
  | none =>
    rw [atomicEnd, markDirty_of_te hx]
    split
    · next h => rw [Option.getD_none, ofNat_ofLe_bytes s (by omega), Nat.add_sub_cancel' h.1]
    · rfl
  | some v =>
    have hwrite : writeParts s c x [⟨va, va, 6, 0⟩] (leBytes 6 v) =
        s.updCore c fun q => { q with sb := q.sb ++ [⟨va, leBytes 6 v, false⟩] } := by
      rw [writeParts, writePart_dram hx rfl, hsb]
      rfl
    have hdrain : drainAll (s.updCore c fun q => { q with sb := q.sb ++ [⟨va, leBytes 6 v, false⟩] }) c =
        performStore ((s.updCore c fun q => { q with sb := q.sb ++ [⟨va, leBytes 6 v, false⟩] }).updCore c fun q => { q with sb := [] }) c
          ⟨va, leBytes 6 v, false⟩ := by
      have hone : ((s.updCore c fun q => { q with sb := q.sb ++ [⟨va, leBytes 6 v, false⟩] }).core c).sb = [⟨va, leBytes 6 v, false⟩] := by
        simp [hsb]
      simp only [drainAll, hone, List.length_singleton, drainN, drainOne]
    have hperform := byte_performStore (e := ⟨va, leBytes 6 v, false⟩) (c := c)
      (s := (s.updCore c fun q => { q with sb := q.sb ++ [⟨va, leBytes 6 v, false⟩] }).updCore c fun q => { q with sb := [] })
      (by rw [leBytes_length]; exact hp) (by simp [regionOf_dram hd]) a
    rw [atomicEnd, hwrite, hdrain, hperform]
    simp only [leBytes_length, getElem_leBytes]
    by_cases h : va ≤ a ∧ a < va + 6
    · rw [dif_pos (by omega), if_pos h, Option.getD_some]
    · rw [dif_neg (by omega), if_neg h]
      rfl

end

/-- Settles O9: the word's access is one part, checked and read without effect, and all that an atomic does to memory is to store its bytes. -/
theorem atomicOnDramWritesOnlyItsWord : Obligations.AtomicOnDramWritesOnlyItsWord := by
  intro s c rd ra rb hr hw q va old put heven hline hsb hq
  unfold State.quietDram at hq
  simp only [Bool.and_eq_true, Option.isNone_iff_eq_none, List.isEmpty_iff, List.all_eq_true, Bool.not_eq_true'] at hq
  obtain ⟨⟨⟨hplain, hpoison⟩, hecc⟩, hclear⟩ := hq
  obtain ⟨hx, -, hrange, -⟩ := State.plainDram_iff.1 hplain
  have hparts : dramParts va.toNat 6 4096 = [⟨va.toNat, va.toNat, 6, 0⟩] := dramParts_word heven hline
  have hcheck : checkAccess (drainAll s c) c ((drainAll s c).core c).ctx va.toNat 6 4096 .write true
      = (s, .inr [⟨va.toNat, va.toNat, 6, 0⟩]) := by
    rw [drainAll_of_sb_nil hsb, checkAccess_plainDram (by decide) hplain, hparts]
  have hread : readParts s c [⟨va.toNat, va.toNat, 6, 0⟩] = (s, .ok (s.bytes va.toNat 6)) := by
    rw [← hparts]
    exact readParts_quiet (partsCover_plainDram hplain (by decide) (by decide)).1 hrange hpoison hecc hclear
  have hbytes : ∀ {t : State} {o : Option Nat},
      RestKept (atomicEnd s c ((drainAll s c).core c).ctx va.toNat [⟨va.toNat, va.toNat, 6, 0⟩] o) t →
      put t (o.getD old) := fun hrest a => by
    rw [hrest.bytes, drainAll_of_sb_nil hsb]
    exact byte_atomicEnd hx hsb (by omega) hpoison _ a
  refine ⟨?cas, ?fadd⟩
  case cas =>
    obtain ⟨t, hends, hrd, hz⟩ := ends_cas (rd := rd) (rb := rb) hr hw heven hline hcheck hread
    refine ⟨t, hends.next, hrd, hz, ?_⟩
    have := hbytes hends.leaves.rest
    rwa [apply_ite (Option.getD · old)] at this
  case fadd =>
    obtain ⟨t, hends, hrd⟩ := ends_fetchAdd (rd := rd) (rb := rb) hr hw heven hline hcheck hread
    exact ⟨t, hends.next, hrd, hbytes hends.leaves.rest⟩

end Sys2Proof.Machine
end

section
/-! BELL and BELLW (R315 to R318, R494). -/
namespace Sys2Proof.Machine

section
variable {s u : State} {c : CoreId} {op : Nat} {body : State → State × IRes}

/-- An instruction that acts through `u` on other units, of a core that is still free then, ends as any other. -/
theorem endsIn_run (hr : s.ready c = true) (hw : s.wired = true) (hop : op < 0x0D) (hb : body s = (u, .next)) :
    EndsIn s u (finish (run s c op body)) c := by
  intro hfree hwu
  have hrun : run s c op body = u.updCore c fun q => q.retire (s.core c).hold.isSome ((s.core c).pc + 4#48) := by
    rw [run_ready hr (gateKeep_none (.inl hop)), hb]
    exact if_pos hfree
  refine ⟨_, congrArg finish hrun, ?_, leaves_retired hwu _ _⟩
  rw [pc_settle, State.core_updCore, if_pos rfl, Core.pc_retire]
  exact pc_add_four (pc_aligned hw c)

theorem Accessed.hall (h : Accessed s u) (k : CoreId) : (u.core k).hall = (s.core k).hall := by rw [h.core k]; rfl

/-! ### A bell that fires (R492, R493, R495) -/

theorem accessed_crossBell (s : State) (b m : Nat) : Accessed s (s.crossBell b m) :=
  .ite (.refl s) ⟨fun _ => rfl, rfl, rfl, rfl, rfl, rfl, rfl⟩

theorem RestKept.refl (s : State) : RestKept s s := ⟨fun _ => rfl, fun _ _ => rfl, rfl, ⟨rfl, rfl⟩, ⟨rfl, rfl⟩, ⟨rfl, rfl, rfl⟩,
  ⟨rfl, rfl, rfl, rfl, rfl, rfl⟩, rfl⟩

theorem restKept_crossBell (s : State) (b m : Nat) : RestKept s (s.crossBell b m) := by
  unfold State.crossBell
  split
  · exact .refl s
  · exact ⟨fun _ => rfl, fun _ _ => rfl, rfl, ⟨rfl, rfl⟩, ⟨rfl, rfl⟩, ⟨rfl, rfl, rfl⟩, ⟨rfl, rfl, rfl, rfl, rfl, rfl⟩, rfl⟩

theorem cores_crossBell (s : State) (b m : Nat) : (s.crossBell b m).cores = s.cores := by
  unfold State.crossBell
  split <;> rfl

/-- A bell whose level is not zero is requested on the present cores of the mask. -/
theorem mem_pend_crossBell {b m k : Nat} (hl : s.belLevel b ≠ 0) (hk : k < 4) (hm : bit m k = true) (hpres : k < Variant.cores s.variant) :
    b ∈ (s.crossBell b m).bel.pend.getD k [] := by
  rw [State.crossBell, if_neg hl, pend_pendOn, if_pos hk, hm, decide_eq_true hpres]
  exact (mem_insertNat _ _ _).2 (.inl rfl)

/-! ### The end of BELL (R315) -/

/-- What BELL does with a legal bell, `u`, is done once the earlier stores of its core are visible. -/
theorem ends_bell {ra : RegNo} {b : Fin 32} {v : State} (hr : s.ready c = true) (hw : s.wired = true) (hb : b.val < 16)
    (hacc : Accessed (drainAll s c) u) (hcores : u.cores = (drainAll s c).cores) (hrest : RestKept v u)
    (hu : (if ((s.core c).rd ra).toNat % 16 = 0 then drainAll s c else if (drainAll s c).fenced 8 then (drainAll s c).postPoison c 8
      else (drainAll s c).ringBell (s.core c).hall b.val (((s.core c).rd ra).toNat % 16)) = u) :
    ∃ t, Ends s v t (exec (.bell c ra b 0) s) c ((s.core c).pc + 4#48) [] 0 ∧ (t.core c).sb = [] ∧ PendKept u.bel t.bel := by
  have hlegal : ((0 : BitVec 5) != 0 || decide (16 ≤ b.val)) = false := by simp [hb]
  have hdrain := accessed_drainAll s c
  obtain ⟨hnext, hpc, hleaves⟩ : Ends s u (u.updCore c fun q => q.retire q.hold.isSome (q.pc + 4#48)).settle (exec (.bell c ra b 0) s) c
      ((s.core c).pc + 4#48) [] 0 := by
    refine ends_same hr hw (gateKeep_none (.inl (by decide))) (hdrain.trans hacc) ?_
    simp only [illegalWhen_of_legal hlegal, hdrain.rd, hdrain.hall, hu]
  refine ⟨_, ⟨hnext, hpc, { hleaves with rest := hrest.trans hleaves.rest }⟩, ?_, settle_pend (u.updCore c _)⟩
  simp only [sb_settle, State.core_updCore, if_true, Core.sb_retire]
  exact (sb_of_cores hcores).trans (sb_drainAll s c)

/-- BELLW of an encoding that is legal, the Pump not fenced, is the doorbell of its value (R316). -/
theorem endsIn_bellw {ra : RegNo} {bad quad : Bool} {v : Core → Nat} {x : Nat} (hr : s.ready c = true) (hw : s.wired = true) (hbad : bad = false)
    (hf : (drainAll s c).fenced 5 = false) (hv : v ((drainAll s c).core c) = x) :
    EndsIn s ((drainAll s c).doorbell (.core c (s.core c).hall) ((s.core c).rd ra).toNat quad x) (finish (bellw s c ra bad quad v)) c := by
  have hdrain := accessed_drainAll s c
  refine endsIn_run hr hw (by decide) ?_
  simp only [illegalWhen_of_legal hbad, hf, hdrain.rd, hdrain.hall, hv]
  rfl

end

/-- Settles O13: BELL fires a bell, or records the denied one; BELLW is the doorbell of its value. -/
theorem bellsAndDoorbellsOfCores : Obligations.BellsAndDoorbellsOfCores := by
  intro s c ra rb b hr hw q u well mask
  have hu : Accessed s u := accessed_drainAll s c
  have bit_mask : ∀ k : Fin 4, bit mask k.val = (q.rd ra).getLsbD k.val := fun k => by
    rw [bit, Nat.testBit_mod_two_pow (j := 4), decide_eq_true k.isLt]
    rfl
  refine ⟨fun hb hf => ?bell, fun hf => ⟨?long, fun hp => ?quad⟩⟩
  case bell =>
    intro denied
    by_cases hd : denied
    case pos =>
      obtain ⟨hm, hP, hL⟩ := hd
      have hring : u.ringBell q.hall b.val mask = u.event 8 0 := if_pos ⟨hP, hL⟩
      obtain ⟨t, hends, hsb, -⟩ := ends_bell hr hw hb (accessed_event u 8 0 (by decide)) (State.event_cores u 8 0) (.refl _)
        ((if_neg hm).trans ((if_neg (Bool.eq_false_iff.1 (hf.resolve_right hm))).trans hring))
      rw [if_pos ⟨hm, hP, hL⟩]
      exact ⟨t, hends, hsb, fun h => absurd ⟨hm, hP, hL⟩ h⟩
    case neg =>
      rw [if_neg hd]
      by_cases hm : mask = 0
      case pos =>
        obtain ⟨t, hends, hsb, -⟩ := ends_bell hr hw hb (.refl u) rfl (.refl u) (if_pos hm)
        refine ⟨t, hends, hsb, fun _ _ k _ hbit => absurd ((bit_mask k).trans hbit) ?_⟩
        rw [hm]
        simp [bit]
      case neg =>
        have hring : u.ringBell q.hall b.val mask = u.crossBell b.val mask := if_neg fun h => hd ⟨hm, h⟩
        obtain ⟨t, hends, hsb, hpend⟩ := ends_bell hr hw hb (accessed_crossBell u _ _) (cores_crossBell u _ _) (restKept_crossBell u _ _)
          ((if_neg hm).trans ((if_neg (Bool.eq_false_iff.1 (hf.resolve_right hm))).trans hring))
        refine ⟨t, hends, hsb, fun _ hl k hk hbit => hpend _ _ k.isLt (mem_pend_crossBell hl k.isLt ((bit_mask k).trans hbit)
          (hu.variant ▸ hk))⟩
  case long => exact endsIn_bellw hr hw rfl hf (by rw [hu.rd])
  case quad => exact endsIn_bellw hr hw (by rw [hp]; rfl) hf (by rw [hu.rd, hu.rd])

end Sys2Proof.Machine
end

section
/-! JOBGET, JOBPOLL and JOBDONE (R319 to R326). -/
namespace Sys2Proof.Machine

section
variable {s u : State} {c : CoreId}

/-! ### Cores at the end of a command -/

/-- The frame of an instruction that leaves its core as `f` makes it, whether it retires or waits. -/
theorem leaves_settle (hw : s.wired = true) (ha : Accessed s u) {f : Core → Core} {w fl : List RegNo} {d : List (Fin 8)} {m : Word}
    (hk : (u.core c).Kept (f (u.core c)) w fl d m) : Leaves s u (u.updCore c f).settle c w fl d m := by
  obtain ⟨hcores, hrest⟩ := leaves_rest (c := c) hw ha f
  have hl := leaves_end (c := c) hw ha f w fl d m 0 false hk.w hk.f hk.da hk.cr hk.fp hk.csw
  obtain ⟨⟨hregs, hptr⟩, hf, hda, hcr, hfp, hcsw, -, -⟩ := hl
  refine ⟨⟨fun n hn => ?_, fun h t hx => ?_⟩, fun n hn => ?_, fun n hn => ?_, ?_, ?_, ?_, hcores, hrest⟩
  · simpa using hregs n hn
  · simpa using hptr h t hx
  · simpa using hf n hn
  · simpa using hda n hn
  · simpa [Core.CrKept] using hcr
  · simpa [Core.FpKept, fcsw_settle] using hfp
  · simpa [Core.CswKept, csw_settle] using hcsw

/-! ### Tokens taken (R319 to R321) -/

theorem accessed_updPump (s : State) (f : Pump → Pump) : Accessed s (s.updPump f) := ⟨fun _ => rfl, rfl, rfl, rfl, rfl, rfl, rfl⟩

theorem Core.kept_putToken (q : Core) (rd : RegNo) (tok addr : Nat) : q.Kept (q.putToken rd tok addr) [rd, RegNo.succ rd] [] [] 0 :=
  Core.kept_wr_wr q rd (RegNo.succ rd) _ _

theorem Core.rd_putToken (q : Core) {rd : RegNo} (hp : pairOk rd = true) (tok addr : Nat) :
    (q.putToken rd tok addr).rd rd = BitVec.ofNat 48 tok ∧ (q.putToken rd tok addr).rd (RegNo.succ rd) = BitVec.ofNat 48 addr := by
  obtain ⟨h0, h1, hne, -⟩ := pairOk_ne hp
  constructor
  · rw [Core.putToken, Core.rd_wr, if_neg fun h => hne h.1.symm, Core.rd_wr, if_pos ⟨rfl, h0⟩]
  · rw [Core.putToken, Core.rd_wr, if_pos ⟨rfl, h1⟩]

theorem Core.rd_setZ (q : Core) (b : Bool) (n : RegNo) : (q.setZ b).rd n = q.rd n := (Core.kept_setZ q b).w.regs n List.not_mem_nil

/-- JOBGET that finds a token takes it (R320). -/
theorem ends_jobget {rd : RegNo} {tok addr : Nat} (hr : s.ready c = true) (hw : s.wired = true) (hp : pairOk rd = true) (hu : Accessed s u)
    (ht : s.takeToken c.val (s.core c).hall = some (tok, addr, u)) :
    ∃ t, Ends s u t (exec (.jobget c rd 0) s) c ((s.core c).pc + 4#48) [rd, RegNo.succ rd] 0
      ∧ (t.core c).rd rd = BitVec.ofNat 48 tok ∧ (t.core c).rd (RegNo.succ rd) = BitVec.ofNat 48 addr := by
  have hlegal : ((0 : BitVec 10) != 0 || !pairOk rd) = false := by rw [hp]; rfl
  have hends : Ends s u (u.updCore c fun q => (q.putToken rd tok addr).retire q.hold.isSome (q.pc + 4#48)).settle (exec (.jobget c rd 0) s) c
      ((s.core c).pc + 4#48) [rd, RegNo.succ rd] 0 := by
    show Ends s u _ (finish (runWith _ _ _ _ _ _ _)) _ _ _ _
    rw [runWith_run hr (gateKeep_none (.inl (by decide))) _ _ (.inl rfl)]
    refine ends_next hr hw (gateKeep_none (.inl (by decide))) hu (fun q => q.putToken rd tok addr) _ _ (Core.kept_putToken _ rd tok addr) ?_
    simp only [illegalWhen_of_legal hlegal, ht]
  exact ⟨_, hends, by simp [Core.rd_putToken, hp], by simp [Core.rd_putToken, hp]⟩

/-- JOBPOLL writes what it finds, and Z tells whether it is a token (R321). -/
theorem ends_jobpoll {rd : RegNo} {tok addr : Nat} {z : Bool} (hr : s.ready c = true) (hw : s.wired = true) (hp : pairOk rd = true)
    (hu : Accessed s u) (ht : s.takeToken c.val (s.core c).hall = if z then some (tok, addr, u) else none)
    (hz : z = false → u = s ∧ tok = 0 ∧ addr = 0) :
    ∃ t, Ends s u t (exec (.jobpoll c rd 0) s) c ((s.core c).pc + 4#48) [rd, RegNo.succ rd] 4
      ∧ (t.core c).rd rd = BitVec.ofNat 48 tok ∧ (t.core c).rd (RegNo.succ rd) = BitVec.ofNat 48 addr ∧ (t.core c).nzcv.z = z := by
  have hlegal : ((0 : BitVec 10) != 0 || !pairOk rd) = false := by rw [hp]; rfl
  have hends : Ends s u (u.updCore c fun q => ((q.putToken rd tok addr).setZ z).retire q.hold.isSome (q.pc + 4#48)).settle
      (exec (.jobpoll c rd 0) s) c ((s.core c).pc + 4#48) [rd, RegNo.succ rd] 4 := by
    refine ends_next hr hw (gateKeep_none (.inl (by decide))) hu (fun q => (q.putToken rd tok addr).setZ z) _ _
      ((Core.kept_putToken _ rd tok addr).trans (Core.kept_setZ _ z) (by decide)) ?_
    simp only [illegalWhen_of_legal hlegal, ht]
    cases z with
    | true => rfl
    | false =>
      obtain ⟨rfl, rfl, rfl⟩ := hz rfl
      rfl
  exact ⟨_, hends, by simp [Core.rd_setZ, Core.rd_putToken, hp], by simp [Core.rd_setZ, Core.rd_putToken, hp], by simp⟩

/-- JOBGET at an empty inlet waits: only that changes (R320). -/
theorem ends_jobget_wait {rd : RegNo} (hr : s.ready c = true) (hw : s.wired = true) (hp : pairOk rd = true)
    (ht : s.takeToken c.val (s.core c).hall = none) :
    ∃ t, Ends s s t (exec (.jobget c rd 0) s) c (s.core c).pc [] 0 ∧ (t.core c).jobWait = true := by
  have hlegal : ((0 : BitVec 10) != 0 || !pairOk rd) = false := by rw [hp]; rfl
  have hnext : exec (.jobget c rd 0) s = .next (s.updCore c fun q => { q with jobWait := true }).settle := by
    show finish (runWith _ _ _ _ _ _ _) = _
    rw [runWith_ready hr (gateKeep_none (.inl (by decide))) (.inl rfl)]
    simp only [illegalWhen_of_legal hlegal, ht]
    rfl
  refine ⟨_, ⟨hnext, ?pc, leaves_settle hw (.refl s) ?kept⟩, by simp⟩
  case pc =>
    rw [pc_settle, State.core_updCore, if_pos rfl]
    exact (and_pcBits_iff _).2 (pc_aligned hw c)
  case kept => exact ⟨⟨fun _ _ => rfl, fun _ _ _ => rfl⟩, fun _ _ => rfl, fun _ _ => rfl, ⟨rfl, rfl⟩, ⟨rfl, rfl⟩, rfl⟩

/-- The oldest token of an inlet is taken (R320, R321). -/
theorem takeToken_of_find {k slot tag : Nat} {h : Hall} {f : Flight} {e : Bool} (hf : s.pump.flight.find? (·.inInlet k h) = some f)
    (hl : f.loc = .core k h slot tag false e) : s.takeToken k h = some (jobToken f.job slot tag, s.copyAddr k h slot,
      s.updPump fun p => { p with flight := p.flight.map fun g => if g = f then { f with loc := .core k h slot tag true e } else g }) := by
  simp only [State.takeToken, hf, hl]

theorem takeToken_of_empty {k : Nat} {h : Hall} (hf : s.pump.flight.find? (·.inInlet k h) = none) : s.takeToken k h = none := by
  simp only [State.takeToken, hf]

/-! ### Tokens returned (R323, R324) -/

theorem jobDone_accepted {k tok res : Nat} {h : Hall} {f : Flight} (h1 : bitsOf tok 47 32 = 0) (h2 : bitsOf tok 23 20 = 0)
    (hf : s.pump.flight.find? (·.isToken k h (bitsOf tok 16 14) (bitsOf tok 31 24)) = some f) :
    s.jobDone k h tok res = (s.updPump fun p =>
      { p with flight := p.flight.erase f ++ [{ f with done := some ⟨bitsOf res 7 0, bitsOf res 39 8, k⟩ }] }, true) := by
  have hlive := List.find?_some hf
  have hany : s.pump.flight.any (·.isToken k h (bitsOf tok 16 14) (bitsOf tok 31 24)) = true :=
    List.any_eq_true.2 ⟨f, List.mem_of_find?_eq_some hf, hlive⟩
  have hopen : (fun g : Flight => g.done.isNone && g.isToken k h (bitsOf tok 16 14) (bitsOf tok 31 24)) =
      (·.isToken k h (bitsOf tok 16 14) (bitsOf tok 31 24)) := by
    funext g
    simp [Flight.isToken]
  simp only [State.jobDone, h1, h2, ne_eq, not_true_eq_false, or_self, if_false, hany, if_true, State.endFlight, hopen, hf]

theorem jobDone_refused {k tok res : Nat} {h : Hall} (hbad : bitsOf tok 47 32 ≠ 0 ∨ bitsOf tok 23 20 ≠ 0
    ∨ s.pump.flight.any (·.isToken k h (bitsOf tok 16 14) (bitsOf tok 31 24)) = false) : s.jobDone k h tok res = (s, false) := by
  unfold State.jobDone
  dsimp only
  split
  · rfl
  · next hz =>
    rw [if_neg]
    exact Bool.eq_false_iff.1 ((or_assoc.2 hbad).resolve_left hz)

/-! ### Stores that leave the buffer leave the Pump alone -/

theorem pump_putHost (s : State) (a : Nat) (l : List Byte) : (s.putHost a l).pump = s.pump := by
  induction l generalizing s a with
  | nil => rfl
  | cons b l ih => rw [State.putHost, ih]

theorem pump_putBytes (s : State) (a : Nat) (l : List Byte) : (s.putBytes a l).pump = s.pump := by
  induction l generalizing s a with
  | nil => rfl
  | cons b l ih => rw [State.putBytes, ih, State.putByte_pump]

theorem pump_logError (s : State) (b type seg : Nat) (mce : Bool) (addr : Option Nat) : (s.logError b type seg mce addr).pump = s.pump := by
  unfold State.logError
  split <;> simp

theorem pump_performStore (s : State) (c : CoreId) (e : SbEntry) : (performStore s c e).pump = s.pump := by
  unfold performStore
  split
  · unfold State.physWrite
    split
    · exact pump_putHost _ _ _
    · exact pump_putBytes _ _ _
  · exact pump_logError _ _ _ _ _ _

theorem pump_drainN (s : State) (c : CoreId) (n : Nat) : (drainN s c n).pump = s.pump := by
  induction n generalizing s with
  | zero => rfl
  | succ n ih =>
    rw [drainN, ih, drainOne]
    split
    · rfl
    · exact pump_performStore _ _ _

theorem pump_drainAll (s : State) (c : CoreId) : (drainAll s c).pump = s.pump := pump_drainN s c _

/-! ### The end of JOBDONE -/

/-- JOBDONE leaves its core but for Z, which tells whether the token was accepted (R324). -/
theorem ends_jobdone {ra rb : RegNo} {z : Bool} (hr : s.ready c = true) (hw : s.wired = true) (hu : Accessed s u)
    (hz : (s.jobDone c.val (s.core c).hall ((s.core c).rd ra).toNat ((s.core c).rd rb).toNat).2 = z)
    (ht : (if z then ((drainAll s c).jobDone c.val (s.core c).hall ((s.core c).rd ra).toNat ((s.core c).rd rb).toNat).1 else s) = u) :
    ∃ t, Ends s u t (exec (.jobdone c ra rb 0) s) c ((s.core c).pc + 4#48) [] 4 ∧ (t.core c).nzcv.z = z ∧ (t.core c).sb = (u.core c).sb := by
  have hends : Ends s u (u.updCore c fun q => (q.setZ z).retire q.hold.isSome (q.pc + 4#48)).settle (exec (.jobdone c ra rb 0) s) c
      ((s.core c).pc + 4#48) [] 4 := by
    refine ends_next hr hw (gateKeep_none (.inl (by decide))) hu (fun q => q.setZ z) _ _ (Core.kept_setZ _ z) ?_
    simp only [illegalWhen_of_legal (show ((0 : BitVec 5) != 0) = false from rfl), hz, ht]
  exact ⟨_, hends, by simp, by simp [Core.setZ]⟩

end

/-- Settles O14: the three instructions are what takeToken and jobDone answer, written to the core. -/
theorem jobTokensAreTakenAndReturned : Obligations.JobTokensAreTakenAndReturned := by
  intro s c rd ra rb hr hw q first
  refine ⟨fun hp => ⟨fun f slot tag e hf hl => ?taken, fun hf => ?empty⟩, ?accepted, ?refused⟩
  case taken =>
    have htake := takeToken_of_find hf hl
    exact ⟨ends_jobget hr hw hp (accessed_updPump s _) htake, ends_jobpoll (z := true) hr hw hp (accessed_updPump s _) htake (nofun)⟩
  case empty =>
    have hnone := takeToken_of_empty hf
    exact ⟨ends_jobget_wait hr hw hp hnone,
      ends_jobpoll (tok := 0) (addr := 0) (z := false) hr hw hp (.refl s) hnone fun _ => ⟨rfl, rfl, rfl⟩⟩
  case accepted =>
    intro tok res u mine f hf h1 h2 ended
    have hu : (u.jobDone c.val q.hall tok res).1 = u.updPump fun p => { p with flight := p.flight.erase f ++ [ended] } := by
      rw [jobDone_accepted h1 h2 ((congrArg (·.flight.find? mine) (pump_drainAll s c)).trans hf)]
    obtain ⟨t, hends, hz, hsb⟩ := ends_jobdone (ra := ra) (rb := rb) (z := true) hr hw ((accessed_drainAll s c).trans (accessed_updPump _ _))
      (congrArg Prod.snd (jobDone_accepted h1 h2 hf)) hu
    exact ⟨t, hends, hz, hsb.trans (sb_drainAll s c)⟩
  case refused =>
    intro tok hbad
    obtain ⟨t, hends, hz, -⟩ := ends_jobdone (z := false) hr hw (.refl s) (congrArg Prod.snd (jobDone_refused hbad)) rfl
    exact ⟨t, hends, hz⟩

end Sys2Proof.Machine
end

section
/-! SLEEP (R327 to R329). -/
namespace Sys2Proof.Machine

section
variable {s : State} {c : CoreId}

/-! ### The end of a held window -/

/-- A window and CSW.HELD are not in the control registers. -/
theorem Core.cr_withWindow (q : Core) (w : Option HoldWin) (csw : Word) (h : Hall) (i : Nat) :
    ({ q with hold := w, csw := csw } : Core).cr h i = q.cr h i := by
  cases h <;> rfl

/-- END of HOLDSTAT is the code, 0 or 5, with which a window ended (R501, R503). -/
theorem Core.crField_endHold {q : Core} {code : Nat} (hopen : q.hold.isSome = true) (hcode : ¬ (1 ≤ code ∧ code ≤ 4)) (hlt : code < 8) :
    (q.endHold code).crField q.hall 0x08D 3 1 = code := by
  obtain ⟨w, hw⟩ := Option.isSome_iff_exists.1 hopen
  have hinfo : crInfo q.hall crHOLDSTAT = some (0xFFFF3F, 1, 1) := by cases q.hall <;> rfl
  have hstored := Core.crField_setCr_same q q.hall crHOLDSTAT 3 1 (putBits (q.cr q.hall crHOLDSTAT).toNat 3 1 code) _ _ _ (by decide) hinfo
    (by decide) (by decide) (fun h => absurd h.2.2 (by decide)) (by decide)
  have hcr : (q.endHold code).cr q.hall 0x08D
      = (q.setCr q.hall crHOLDSTAT (BitVec.ofNat 48 (putBits (q.cr q.hall crHOLDSTAT).toNat 3 1 code))).cr q.hall crHOLDSTAT := by
    simp only [Core.endHold, hw, if_neg hcode, Core.cr_withWindow]
    rfl
  rw [Core.crField, hcr, ← Core.crField, hstored, bitsOf_putBits_same]
  exact Nat.mod_eq_of_lt hlt

theorem Core.due_endHold (q : Core) (code : Nat) : (q.endHold code).due = q.due := by
  unfold Core.endHold
  split <;> simp

/-- The end of a window leaves the fields of CSW below HELD. -/
theorem Core.bitsOf_csw_endHold (q : Core) (code : Nat) {hi lo : Nat} (h : hi < 21) :
    bitsOf (q.endHold code).csw.toNat hi lo = bitsOf q.csw.toNat hi lo := by
  unfold Core.endHold
  split
  · rfl
  · exact bitsOf_cswSet_of_disjoint _ _ _ _ _ _ (by decide) (.inl h)

/-! ### A core that falls asleep -/

/-- A sleeping core sleeps on at the end of a command, unless it is woken (R327, R328). -/
theorem asleep_settle (h : (s.core c).asleep = true) : (s.settle.core c).asleep = true ∨ (s.core c).due ≠ Due.none
    ∨ (∃ src, s.settle.takeable c.val (s.core c).hall (cswIlevel (s.core c).csw) src = true)
    ∨ (s.pwr.cis = .entering ∧ s.settle.pwr.cis = .awake) := by
  have hunits := settles_settleUnits s
  rcases hunits.wake with ⟨-, hkept⟩ | hcancel
  case inr => exact .inr (.inr (.inr hcancel))
  have hcore : s.settleUnits.core c = s.core c := by
    rw [hunits.cores c]
    exact congrArg (fun a => { s.core c with asleep := a }) (hkept c)
  have hsettled : (s.settle.core c).asleep = ((s.core c).asleep && !s.settleUnits.wakes c (s.core c)) := by
    rw [← hcore]
    simp [State.settle, State.settleCores, State.settleCore, State.core]
  cases hwakes : s.settleUnits.wakes c (s.core c)
  case false => exact .inl (by rw [hsettled, h, hwakes]; rfl)
  case true =>
    rcases Bool.or_eq_true_iff.1 hwakes with hdue | hsource
    · exact .inr (.inl (bne_iff_ne.1 hdue))
    · obtain ⟨src, -, htake⟩ := List.any_eq_true.1 hsource
      exact .inr (.inr (.inl ⟨src, htake⟩))

/-- What SLEEP makes of its core (R327). -/
def Core.fallAsleep (q : Core) : Core := ((q.endHold 5).retire q.hold.isSome (q.pc + 4#48)).asleepNow

/-- SLEEP where it is allowed: the window ends with EXIT, and the core retires and sleeps (R327). -/
theorem exec_sleep (hr : s.ready c = true) (ht : (s.core c).tpend = false) (hstair : (s.core c).stair < 2) :
    exec (.sleep c 0) s = .next (s.updCore c Core.fallAsleep).settle := by
  have hg : gateKeep s c 0x0C = none := gateKeep_none (.inl (by decide))
  refine congrArg finish ?_
  rw [runBar, runWith_run hr hg true false (.inr ht), run_ready hr hg]
  simp only [illegalWhen_of_legal (show ((0 : BitVec 15) != 0) = false from rfl), if_neg (Nat.not_le.2 hstair), conclude, endHold_eq]
  rw [retireAt_updCore hr]
  simp [State.updCore, State.setCore, State.core, Core.fallAsleep]

theorem Core.sysKept_fallAsleep (q : Core) : q.SysKept q.fallAsleep [] [(q.hall, 0x08D)] 0x200000#48 := by
  have hkept := q.sysKept_endHold 5
  exact { hkept with
    w := fun n hn hm => (Core.rd_of_w (by rfl) hn).trans (hkept.w n hn hm)
    cr := fun k i hm => (Core.cr_retire q.hold.isSome (q.pc + 4#48) (q.endHold 5) k i).trans (hkept.cr k i hm) }

end

/-- Settles O16: the core sleeps from the end of SLEEP, and is awake at the end of the command only by what wakes it. -/
theorem sleepStopsTheCore : Obligations.SleepStopsTheCore := by
  intro s c hr hw ht q
  refine ⟨fun hstair => ?sleeps, fun hstair => ?privileged⟩
  case sleeps =>
    have hcore : (s.updCore c Core.fallAsleep).core c = q.fallAsleep := by rw [State.core_updCore, if_pos rfl]
    refine ⟨_, exec_sleep hr ht hstair, ?advanced, sysKept_end hw (.refl s) _ _ _ _ q.sysKept_fallAsleep, ?closed, fun hopen => ?exit, ?wakes⟩
    case advanced =>
      unfold Advanced
      rw [pc_settle, hcore]
      exact pc_add_four (pc_aligned hw c)
    case closed =>
      rw [hold_settle, hcore]
      simp [Core.fallAsleep, Core.asleepNow, Core.retire]
    case exit =>
      rw [Core.crField, cr_settle, hcore]
      exact Core.crField_endHold hopen (by decide) (by decide)
    case wakes =>
      have hwake := asleep_settle (s := s.updCore c Core.fallAsleep) (c := c) (by rw [hcore]; rfl)
      rw [hcore] at hwake
      have hhall : q.fallAsleep.hall = q.hall := q.hall_endHold 5
      have hlevel : cswIlevel q.fallAsleep.csw = cswIlevel q.csw := q.bitsOf_csw_endHold 5 (by decide)
      have hdue : q.fallAsleep.due = q.due := q.due_endHold 5
      rw [hhall, hlevel] at hwake
      rw [due_settle, hcore]
      exact hwake
  case privileged =>
    have hg : gateKeep s c 0x0C = none := gateKeep_none (.inl (by decide))
    show Raises s (finish (runBar s c 0x0C _)) c 0x0C _
    rw [runBar, runWith_run hr hg true false (.inr ht)]
    refine run_exc hr hg ht Exc.privileged rfl _ ?_
    simp only [illegalWhen_of_legal (show ((0 : BitVec 15) != 0) = false from rfl), show 2 ≤ (s.core c).stair from hstair, if_true]

end Sys2Proof.Machine
end

section
/-! Taking an exception (R475 to R486). -/
namespace Sys2Proof.Machine

/-! ### CSW on entry (R483 step 5, R485) -/

theorem bitsOf_cswSet_same (v : Word) (hi lo x : Nat) (h : hi < 48) : bitsOf (cswSet v hi lo x).toNat hi lo = x % 2 ^ (hi + 1 - lo) := by
  rw [cswSet, BitVec.toNat_ofNat, Nat.mod_eq_of_lt (putBits_lt _ _ _ _ _ v.isLt h), bitsOf_putBits_same]

theorem getLsbD_cswSet_same (v : Word) (i x : Nat) (h : i < 48) : (cswSet v i i x).getLsbD i = x.testBit 0 := by
  rw [getLsbD_cswSet _ _ _ _ _ h, if_pos (by omega), Nat.sub_self]

theorem getLsbD_cswSet_of_disjoint (v : Word) (hi lo x i : Nat) (h : hi < 48) (hd : i < lo ∨ hi < i) :
    (cswSet v hi lo x).getLsbD i = v.getLsbD i := by
  rw [getLsbD_cswSet _ _ _ _ _ h, if_neg (by omega)]

theorem cswSet_cswSet_same (v : Word) (hi lo x y : Nat) (h : hi < 48) : cswSet (cswSet v hi lo x) hi lo y = cswSet v hi lo y := by
  apply BitVec.eq_of_getLsbD_eq
  intro i _
  simp only [getLsbD_cswSet _ _ _ _ _ h]
  split <;> rfl

section
variable {old : Word} {x : Ctx} {il : Nat}

theorem hall_entryCsw : cswHall (entryCsw old x il) = x.hall := by
  simp (disch := decide) only [cswHall, entryCsw, getLsbD_cswSet_of_disjoint, getLsbD_cswSet_same]
  cases x.hall <;> rfl

theorem stair_entryCsw (h : x.stair < 4) : cswStair (entryCsw old x il) = x.stair := by
  simp (disch := decide) only [cswStair, entryCsw, bitsOf_cswSet_of_disjoint, bitsOf_cswSet_same]
  exact Nat.mod_eq_of_lt h

theorem key_entryCsw (h : x.key < 16) : cswKey (entryCsw old x il) = x.key := by
  simp (disch := decide) only [cswKey, entryCsw, bitsOf_cswSet_of_disjoint, bitsOf_cswSet_same]
  exact Nat.mod_eq_of_lt h

theorem ilevel_entryCsw (h : il < 16) : cswIlevel (entryCsw old x il) = il := by
  simp (disch := decide) only [cswIlevel, entryCsw, bitsOf_cswSet_of_disjoint, bitsOf_cswSet_same]
  exact Nat.mod_eq_of_lt h

theorem te_entryCsw : cswTe (entryCsw old x il) = x.te := by
  simp (disch := decide) only [cswTe, entryCsw, getLsbD_cswSet_of_disjoint, getLsbD_cswSet_same]
  cases x.te <;> rfl

theorem uopen_entryCsw : cswUopen (entryCsw old x il) = false := by
  simp (disch := decide) only [cswUopen, entryCsw, getLsbD_cswSet_of_disjoint, getLsbD_cswSet_same, Nat.zero_testBit]

theorem held_entryCsw : cswHeld (entryCsw old x il) = false := by
  simp (disch := decide) only [cswHeld, entryCsw, getLsbD_cswSet_same, Nat.zero_testBit]

/-- The flags lie below every field that an entry sets. -/
theorem getLsbD_entryCsw {i : Nat} (h : i < 8) : (entryCsw old x il).getLsbD i = old.getLsbD i := by
  simp (disch := omega) only [entryCsw, getLsbD_cswSet_of_disjoint]
end

/-! ### The core after the end of a held window -/

/-- The flags are the low four bits of CSW. -/
theorem Core.nzcv_of_bits {q r : Core} (h : ∀ i, i < 4 → r.csw.getLsbD i = q.csw.getLsbD i) : r.nzcv = q.nzcv := by
  simp only [Core.nzcv, cswN, cswZ, cswC, cswV, h 3 (by decide), h 2 (by decide), h 1 (by decide), h 0 (by decide)]

section
variable (q : Core) (code : Nat)

theorem Core.spOf_endHold (h : Hall) {t : Nat} (ht : t < 4) : (q.endHold code).spOf h t = q.spOf h t := by
  have hcr := q.cr_endHold code (h := h) (i := t) (by simp; omega)
  simpa only [Core.cr, if_pos ht] using hcr

theorem Core.rd_endHold {n : RegNo} (hn : n.val < 31) : (q.endHold code).rd n = q.rd n :=
  (q.sysKept_endHold code).w n hn List.not_mem_nil

/-- A frame shows HELD as 0 whether the window has ended or not (R484). -/
theorem Core.unheld_csw_endHold : cswSet (q.endHold code).csw 21 21 0 = cswSet q.csw 21 21 0 := by
  unfold Core.endHold
  split
  · rfl
  · exact cswSet_cswSet_same _ _ _ _ _ (by decide)

end

/-! ### The core after an entry -/

/-- The core after the switch of R483 step 5. -/
def Core.atVector (q : Core) (x : Ctx) (sp va csw fa syn : Word) (il : Nat) : Core :=
  { q.setSp x.hall x.stair sp with
    w := (q.w.set 1 syn).set 2 fa, csw := entryCsw csw x il, pc := va, asleep := false, jobWait := false, hold := none }

section
variable {q : Core} {x : Ctx} {sp va csw fa syn : Word} {il : Nat}

theorem Core.rd_atVector_syndrome : (q.atVector x sp va csw fa syn il).rd 1 = syn := by
  simp [Core.rd, Core.atVector]

theorem Core.rd_atVector_address : (q.atVector x sp va csw fa syn il).rd 2 = fa := by
  simp [Core.rd, Core.atVector]

theorem Core.rd_atVector {n : RegNo} (h3 : 3 ≤ n.val) (h31 : n.val < 31) : (q.atVector x sp va csw fa syn il).rd n = q.rd n := by
  simp only [Core.rd, h31, dif_pos, Core.atVector]
  rw [Vector.getElem_set_ne _ _ (by omega), Vector.getElem_set_ne _ _ (by omega)]

theorem Core.spOf_atVector (h : x.stair < 4) : (q.atVector x sp va csw fa syn il).spOf x.hall x.stair = sp :=
  (Core.spOf_setSp q _ _ _ _ _ h h).trans (if_pos ⟨rfl, rfl⟩)

theorem Core.cr_atVector {k : Hall} {i : Nat} (h : x.stair < 4) (hne : (k, i) ≠ (x.hall, x.stair)) :
    (q.atVector x sp va csw fa syn il).cr k i = q.cr k i := by
  have hset : (q.atVector x sp va csw fa syn il).cr k i = (q.setSp x.hall x.stair sp).cr k i := by cases k <;> rfl
  rw [hset, Core.cr_setSp _ _ _ _ _ _ h, if_neg fun e => hne (Prod.ext e.1 e.2)]

end

/-! ### The entry -/

section
variable {s u1 u2 : State} {c : CoreId} {x : Ctx} {sp : Word} {ps vps : List Part}

/-- An entry whose frame and vector pass the checks (R483). -/
theorem enterAt_of_checks {vec il : Nat} {sv : Saved} {fa syn : Word} {va : Word} {u : State}
    (hva : (s.core c).cr x.hall (crVBASE x.stair) + BitVec.ofNat 48 (64 * vec) = va)
    (hframe : checkAccess s c x (sp - 48#48).toNat 48 4096 .write false = (u1, .inr ps))
    (hvector : checkAccess u1 c x va.toNat 4 4096 .fetch false = (u2, .inr vps))
    (hu : writeParts u2 c x ps (frameBytes sv.pc sv.csw sv.w1 sv.w2 sv.w3 sv.w30 fa syn) = u) (hpoison : u.poison (partsPa vps) 4 = none) :
    enterAt s c x sp vec il sv fa syn = (u.updCore c fun q => q.atVector x (sp - 48#48) va sv.csw fa syn il, none) := by
  have hclean : ∀ f, (u.updCore c f).poison (partsPa vps) 4 = none := fun _ => hpoison
  simp only [enterAt, hva, hframe, hvector, hu, vectorFetched, BitVec.ofNat_toNat, BitVec.setWidth_eq]
  rw [hclean]
  rfl

/-- An entry that succeeds onto an aligned stack pointer needs no reserve stack. -/
theorem enterOr_of_enterAt {lock : State → Nat → State} {h : Hall} {t : Nat} {n : Entry} {u : State} (hsp : ((s.core c).spOf h t).toNat % 16 = 0)
    (henter : enterAt s c ((s.core c).entryCtx h t) ((s.core c).spOf h t) n.exc.vec (entryIlevel n.exc.vec (cswIlevel n.saved.csw)) n.saved n.fa
      (syndrome n.exc n.opc n.saved.csw) = (u, none)) : enterOr lock s c h t n = u := by
  simp only [enterOr, hsp, ne_eq, not_true_eq_false, if_false, henter]

theorem enterHall_of_enterAt {h : Hall} {t : Nat} {n : Entry} {u : State} (hsp : ((s.core c).spOf h t).toNat % 16 = 0)
    (henter : enterAt s c ((s.core c).entryCtx h t) ((s.core c).spOf h t) n.exc.vec (entryIlevel n.exc.vec (cswIlevel n.saved.csw)) n.saved n.fa
      (syndrome n.exc n.opc n.saved.csw) = (u, none)) : enterHall s c h t n = u := by
  cases h
  case L =>
    rw [enterHall, enterL]
    exact enterOr_of_enterAt hsp henter
  case P =>
    rw [enterHall, enterP]
    exact enterOr_of_enterAt hsp henter

/-! ### What the entry is given -/

theorem targetStair_eq (q : Core) (h : Hall) (vec p : Nat) : targetStair q h vec p
    = if ((1 ≤ vec ∧ vec ≤ 0xD) ∨ vec = 0x10) ∧ 1 ≤ p ∧ bit (q.cr h 0x083).toNat vec = true then 1 else 0 := by
  simp [targetStair, delegable, crDELEGX, and_assoc]

theorem Core.targetStair_endHold (q : Core) (code : Nat) (h : Hall) (vec p : Nat) : targetStair (q.endHold code) h vec p = targetStair q h vec p := by
  rw [targetStair_eq, targetStair_eq, Core.cr_endHold q code (by simp)]

/-- The syndrome of an entry names the hall and the stair in which the exception arose (R479). -/
theorem Core.syndrome_endHold (q : Core) (code : Nat) (e : Exc) (opc : Nat) : syndrome e opc (q.endHold code).csw
    = BitVec.ofNat 48 (e.vec * 2 ^ 42 + opc * 2 ^ 36 + (if e.fa.isSome then 2 ^ 35 else 0) + q.stair * 2 ^ 32
      + (if q.hall = .P then 2 ^ 31 else 0) + e.cause * 2 ^ 16 + e.info) := by
  have hfav : ofBool e.fa.isSome * 2 ^ 35 = if e.fa.isSome then 2 ^ 35 else 0 := by
    cases e.fa <;> simp [ofBool]
  have hhall : hallNat (cswHall (q.endHold code).csw) * 2 ^ 31 = if q.hall = .P then 2 ^ 31 else 0 := by
    rw [show cswHall (q.endHold code).csw = q.hall from q.hall_endHold code]
    cases q.hall <;> rfl
  have hstair : cswStair (q.endHold code).csw = q.stair := q.stair_endHold code
  rw [syndrome, hfav, hhall, hstair]

/-- The frame of an entry is that of the running code before its window ended (R484). -/
theorem Core.frameBytes_endHold (q : Core) (code : Nat) (pc fa syn : Word) :
    frameBytes pc (q.endHold code).csw ((q.endHold code).rd 1) ((q.endHold code).rd 2) ((q.endHold code).rd 3) ((q.endHold code).rd 30) fa syn
      = frameBytes pc q.csw (q.rd 1) (q.rd 2) (q.rd 3) (q.rd 30) fa syn := by
  rw [frameBytes, Core.unheld_csw_endHold, Core.rd_endHold, Core.rd_endHold, Core.rd_endHold, Core.rd_endHold, frameBytes] <;> decide

/-- The level on entry below the interrupt vectors: 15 or as it was (R485). -/
theorem Core.entryIlevel_endHold (q : Core) (code : Nat) {vec : Nat} (h : vec < 0x31) : entryIlevel vec (cswIlevel (q.endHold code).csw)
    = if 0x11 ≤ vec ∧ vec ≤ 0x16 then 15 else cswIlevel q.csw := by
  rw [entryIlevel, if_neg (by omega), show cswIlevel (q.endHold code).csw = cswIlevel q.csw from q.bitsOf_csw_endHold code (by decide)]

theorem Core.hall_entryCtx (q : Core) (h : Hall) (t : Nat) : (q.entryCtx h t).hall = h := by
  unfold Core.entryCtx
  split <;> rfl

theorem Core.stair_entryCtx (q : Core) (h : Hall) (t : Nat) : (q.entryCtx h t).stair = t := by
  unfold Core.entryCtx
  split
  · exact Eq.symm ‹_›
  · rfl

theorem Core.key_entryCtx_lt (q : Core) (h : Hall) (t : Nat) : (q.entryCtx h t).key < 16 := by
  unfold Core.entryCtx
  split
  · exact bitsOf_lt _ 3 0
  · exact bitsOf_lt _ 11 8

theorem Core.entryCtx_endHold (q : Core) (code : Nat) (h : Hall) {st : Nat} (hst : st < 2) : (q.endHold code).entryCtx h st
    = if st = 0 then ⟨h, 0, bitsOf (q.cr h 0x082).toNat 3 0, bit (q.cr h 0x082).toNat 4, false⟩
      else ⟨h, 1, bitsOf (q.cr h 0x082).toNat 11 8, bit (q.cr h 0x082).toNat 12, false⟩ := by
  have hcfg : (q.endHold code).cr h crEXCFG = q.cr h 0x082 := q.cr_endHold code (by simp [crEXCFG])
  rw [Core.entryCtx, hcfg]
  split
  · rfl
  · rw [show st = 1 by omega]

theorem Core.SysKept.buffersOf {q r : Core} {w : List RegNo} {crs : List (Hall × Nat)} {m : Word} (h : q.SysKept r w crs m) (b : Core) :
    q.SysKept (r.buffersOf b) w crs m := by
  obtain ⟨hw, hcr, hf, hda, hfp, hcsw⟩ := h
  refine ⟨hw, fun k i hi => ?_, hf, hda, hfp, hcsw⟩
  rw [← hcr k i hi]
  cases k <;> rfl

/-- The target of an exception does not depend on the window that its entry ends (R475, R477, R482). -/
theorem takeException_eq {v : State} {e : Exc} {pc : Word} {st : Nat} {h : Hall}
    (hv : endHold s c (if 0x14 ≤ e.vec ∧ e.vec ≤ 0x16 then 4 else 5) = v)
    (hh : (if e.toL then .L else (s.core c).hall) = h) (hst : targetStair (s.core c) h e.vec (s.core c).stair = st) :
    takeException s c e pc = enterHall v c h st ⟨e, e.opc.getD (opAt v c pc), (v.core c).saved pc⟩ := by
  have hhall : (v.core c).hall = (s.core c).hall := by simp [← hv, endHold_eq]
  have hstair : targetStair (v.core c) h e.vec (v.core c).stair = st := by simp [← hv, endHold_eq, Core.targetStair_endHold, hst]
  simp only [takeException, hv, hhall, hh, hstair]

theorem accessed_entry {va k n : Nat} (l : List Byte) (hframe : checkAccess s c x k 48 4096 .write false = (u1, .inr ps))
    (hvector : checkAccess u1 c x va n 4096 .fetch false = (u2, .inr vps)) : Accessed s (writeParts u2 c x ps l) := by
  have h1 : Accessed s u1 := by simpa only [hframe] using accessed_checkAccess s c x k 48 4096 .write false
  have h2 : Accessed u1 u2 := by simpa only [hvector] using accessed_checkAccess u1 c x va n 4096 .fetch false
  exact (h1.trans h2).trans (accessed_writeParts u2 c x ps l)

end

/-- Settles O25: the checks passed, the entry is the frame's write and the switch of the core that the end of the window left. -/
theorem exceptionEntryBuildsTheFrame : Obligations.ExceptionEntryBuildsTheFrame := by
  refine ⟨fun s c n hr ht => ?brk, fun s u1 u2 c e pc ps vps _ hvec => ?entry⟩
  case brk => exact run_exc hr (gateKeep_none (.inl (by decide))) ht (Exc.plain 0x10 0 n.toNat) rfl _ rfl
  case entry =>
    intro q v h st cfg x sp va fa syn frame u halign hframe hvector hpoison t
    obtain ⟨code, hcode⟩ : ∃ n, n = if 0x14 ≤ e.vec ∧ e.vec ≤ 0x16 then 4 else 5 := ⟨_, rfl⟩
    have hv : v.core c = q.endHold code := by simp [v, q, endHold_eq, hcode]
    have hst : st < 2 := by
      simp only [st]
      split <;> decide
    have hsp : (v.core c).spOf h st = sp := hv ▸ q.spOf_endHold code h (by omega)
    have hctx : (v.core c).entryCtx h st = x := hv ▸ q.entryCtx_endHold code h hst
    have hxhall : x.hall = h := hctx ▸ Core.hall_entryCtx _ h st
    have hxstair : x.stair = st := hctx ▸ Core.stair_entryCtx _ h st
    have hva : (v.core c).cr x.hall (crVBASE x.stair) + BitVec.ofNat 48 (64 * e.vec) = va := by
      rw [hxhall, hxstair, hv, Core.cr_endHold q code (by simp [crVBASE]; omega)]
      rfl
    have hentered : t = u.updCore c fun r => r.atVector x (sp - 48#48) va (q.endHold code).csw fa syn
        (if 0x11 ≤ e.vec ∧ e.vec ≤ 0x16 then 15 else cswIlevel q.csw) := by
      have htarget : t = enterHall v c h st _ := takeException_eq rfl rfl (targetStair_eq _ _ _ _)
      refine htarget.trans (enterHall_of_enterAt (hsp.symm ▸ halign) ?_)
      rw [hctx, hsp, hv]
      simp only [Core.saved, q.syndrome_endHold, q.entryIlevel_endHold code hvec]
      exact enterAt_of_checks hva hframe hvector (congrArg _ (q.frameBytes_endHold code pc fa syn)) hpoison
    have hacc : Accessed v u := accessed_entry frame hframe hvector
    have hkept : q.SysKept (u.core c) [] [(q.hall, 0x08D)] 0x200000#48 := by
      rw [hacc.core c, hv]
      exact (q.sysKept_endHold code).buffersOf _
    have hcore : t.core c = (u.core c).atVector x (sp - 48#48) va (q.endHold code).csw fa syn
        (if 0x11 ≤ e.vec ∧ e.vec ≤ 0x16 then 15 else cswIlevel q.csw) := by rw [hentered, State.core_updCore, if_pos rfl]
    have hlt : x.stair < 4 := by omega
    have hil : (if 0x11 ≤ e.vec ∧ e.vec ≤ 0x16 then 15 else cswIlevel q.csw) < 16 := by
      split
      · decide
      · exact bitsOf_lt _ 15 12
    rw [hcore]
    refine ⟨rfl, hall_entryCsw.trans hxhall, (stair_entryCsw hlt).trans hxstair, te_entryCsw, key_entryCsw (hctx ▸ Core.key_entryCtx_lt _ h st),
      uopen_entryCsw, held_entryCsw, ilevel_entryCsw hil, ?flags, Core.rd_atVector_syndrome, Core.rd_atVector_address,
      fun n h3 h31 => (Core.rd_atVector h3 h31).trans (hkept.w n h31 List.not_mem_nil), ?pointer, rfl, rfl, fun k i hi => ?registers,
      hkept.f, hkept.da, hkept.fp, fun k hk => ?others, ?rest⟩
    case flags =>
      refine Core.nzcv_of_bits fun i hi => (getLsbD_entryCsw (by omega)).trans ?_
      exact cswKept_bit (q.sysKept_endHold code).csw i (by omega) (by interval_cases i <;> rfl)
    case pointer =>
      rw [← hxhall, ← hxstair]
      exact Core.spOf_atVector hlt
    case registers =>
      simp only [List.mem_cons, not_or, List.not_mem_nil, not_false_eq_true, and_true] at hi
      obtain ⟨hstat, hsp⟩ := hi
      exact (Core.cr_atVector hlt (by rwa [hxhall, hxstair])).trans (hkept.cr k i (by simpa using hstat))
    case others =>
      have hother : v.core k = s.core k := by rw [show v = s.updCore c _ from endHold_eq s c _, State.core_updCore, if_neg hk.symm]
      rw [hentered, State.core_updCore, if_neg hk.symm, ← hother]
      exact hacc.same k
    case rest =>
      rw [hentered]
      exact restKept_updCore u c _

end Sys2Proof.Machine
end

section
/-! Numbers of decimal instructions: rows of digits, results cut to their field (R330, R337, R348), and division by a power of ten (R346). -/
namespace Sys2Proof.Machine

/-! ### Rows of digits -/

/-- The value of k digits, the first the most significant: what reading them one after the other gives. -/
theorem foldl_digits (g : Nat → Nat) (k : Nat) : ((((List.range k).map g).foldl (fun a d => a * 10 + d) 0 : Nat) : Int)
    = ((List.range k).map fun i => (g i : Int) * 10 ^ (k - 1 - i)).sum := by
  induction k with
  | zero => rfl
  | succ k ih =>
    have hshift : (List.range k).map (fun i => (g i : Int) * 10 ^ (k + 1 - 1 - i))
        = (List.range k).map fun i => (g i : Int) * 10 ^ (k - 1 - i) * 10 := by
      refine List.map_congr_left fun i hi => ?_
      rw [mul_assoc, ← pow_succ, show k - 1 - i + 1 = k + 1 - 1 - i by have := List.mem_range.1 hi; omega]
    rw [List.range_succ, List.map_append, List.foldl_append, List.map_append, List.sum_append, hshift, List.sum_map_mul_right, ← ih]
    simp

theorem foldl_digits_lt (l : List Nat) (h : ∀ d ∈ l, d < 10) : l.foldl (fun a d => a * 10 + d) 0 < 10 ^ l.length := by
  induction l using List.reverseRecOn with
  | nil => decide
  | append_singleton l d ih =>
    have hl := ih fun e he => h e (by simp [he])
    have hd := h d (by simp)
    rw [List.foldl_append, List.length_append, List.length_singleton, pow_succ]
    simp only [List.foldl_cons, List.foldl_nil]
    omega

/-! ### The digits of a number -/

/-- A digit of a number is the same digit of its low digits. -/
theorem mod_pow_div_pow_mod (x b : Nat) {j k : Nat} (h : j < k) : x % b ^ k / b ^ j % b = x / b ^ j % b := by
  obtain ⟨m, rfl⟩ := Nat.exists_eq_add_of_lt h
  rw [show j + m + 1 = j + (m + 1) from rfl, pow_add, Nat.mod_mul_right_div_self, Nat.mod_mod_of_dvd _ (dvd_pow_self b (Nat.succ_ne_zero m))]

theorem toBcd_div_pow_mod {j k : Nat} (h : j < k) (x : Nat) : toBcd k x / 16 ^ j % 16 = x / 10 ^ j % 10 := by
  induction j generalizing k x with
  | zero =>
    obtain ⟨k, rfl⟩ := Nat.exists_eq_succ_of_ne_zero h.ne'
    simp only [toBcd, pow_zero, Nat.div_one]
    omega
  | succ j ih =>
    obtain ⟨k, rfl⟩ := Nat.exists_eq_succ_of_ne_zero (Nat.ne_zero_of_lt h)
    have hhead : toBcd (k + 1) x / 16 = toBcd k (x / 10) := by
      rw [toBcd]
      omega
    rw [pow_succ', ← Nat.div_div_eq_div_mul, hhead, ih (Nat.lt_of_succ_lt_succ h), Nat.div_div_eq_div_mul, ← pow_succ']

/-- Zoned digits are the digits of the number (R349). -/
theorem zonedHas_zoneBytes (n x : Nat) : ZonedHas (zoneBytes n x) n x := by
  induction n generalizing x with
  | zero => exact ⟨rfl, fun i hi => absurd hi (Nat.not_lt_zero i)⟩
  | succ n ih =>
    obtain ⟨hlen, hdigit⟩ := ih (x / 10)
    refine ⟨by simp [zoneBytes, hlen], fun i hi => ?_⟩
    rw [zoneBytes, List.getD_eq_getElem?_getD, List.getElem?_append, hlen]
    by_cases hin : i < n
    · rw [if_pos hin, ← List.getD_eq_getElem?_getD, hdigit i hin, Nat.div_div_eq_div_mul, ← pow_succ',
        show n - 1 - i + 1 = n + 1 - 1 - i by omega]
    · obtain rfl : i = n := by omega
      rw [if_neg hin, Nat.sub_self, Nat.add_sub_cancel, Nat.sub_self, pow_zero, Nat.div_one, List.getElem?_cons_zero, Option.getD_some,
        BitVec.toNat_ofNat, Nat.mod_eq_of_lt (by omega)]

/-- Of a number cut to its low digits the zoned digits are the same. -/
theorem ZonedHas.of_mod {l : List Byte} {n x : Nat} (h : ZonedHas l n (x % 10 ^ n)) : ZonedHas l n x :=
  ⟨h.1, fun i hi => by rw [h.2 i hi, mod_pow_div_pow_mod _ _ (by omega)]⟩

/-! ### A result cut to its field -/

theorem natAbs_signed (b : Bool) (m : Nat) : (signed b m).natAbs = m := by cases b <;> simp [signed]

theorem signed_eq_mul (b : Bool) (m : Nat) : signed b m = (if b = true then -1 else 1) * (m : Int) := by cases b <;> simp [signed]

theorem signed_natAbs (v : Int) : signed (decide (v < 0)) v.natAbs = v := by
  by_cases h : v < 0
  · simp only [signed, h, decide_true, if_true]
    omega
  · simp only [signed, h, decide_false, Bool.false_eq_true, if_false]
    omega

section
variable (k : Nat) (v : Int)

theorem natAbs_fitDigits : (fitDigits k v).1.natAbs = v.natAbs % 10 ^ k := natAbs_signed _ _

theorem fitDigits_neg_iff : (fitDigits k v).1 < 0 ↔ v < 0 ∧ v.natAbs % 10 ^ k ≠ 0 := by
  unfold fitDigits signed
  generalize v.natAbs % 10 ^ k = m
  by_cases h : v < 0
  · simp only [h, decide_true, if_true, true_and]
    omega
  · simp [h]

theorem fitDigits_eq_zero_iff : (fitDigits k v).1 = 0 ↔ v.natAbs % 10 ^ k = 0 := by
  rw [← Int.natAbs_eq_zero, natAbs_fitDigits]

theorem decide_fitDigits_neg : decide ((fitDigits k v).1 < 0) = decide (v < 0 ∧ v.natAbs % 10 ^ k ≠ 0) := by
  simp only [fitDigits_neg_iff]

theorem fitDigits_beq_zero : ((fitDigits k v).1 == 0) = decide (v.natAbs % 10 ^ k = 0) := by
  rw [beq_eq_decide]
  simp only [fitDigits_eq_zero_iff]

/-- A number that fits its field is stored as it is. -/
theorem fitDigits_of_lt {k : Nat} {v : Int} (h : v.natAbs < 10 ^ k) : fitDigits k v = (v, false) := by
  simp [fitDigits, Nat.mod_eq_of_lt h, signed_natAbs, h]

end

/-! ### Binary results (R348) -/

section
variable (w : Nat) (v : Int)

theorem fitBinary_fst : (fitBinary w v).1 = (BitVec.ofInt w v).toNat := by rw [BitVec.toNat_ofInt]; rfl

theorem fitBinary_testBit : (fitBinary w v).1.testBit (w - 1) = (BitVec.ofInt w v).msb := by
  rw [fitBinary_fst, BitVec.msb, BitVec.getMsbD]
  cases w with
  | zero => simp
  | succ w => simp [BitVec.getLsbD]

theorem fitBinary_beq_zero : ((fitBinary w v).1 == 0) = decide (BitVec.ofInt w v = 0) := by
  rw [fitBinary_fst, beq_eq_decide]
  simp only [← BitVec.toNat_inj, BitVec.toNat_ofNat, BitVec.ofNat_eq_ofNat, Nat.zero_mod]

theorem fitBinary_snd : (fitBinary w v).2 = decide (v < -(2 ^ (w - 1)) ∨ 2 ^ (w - 1) ≤ v) := (Bool.decide_or _ _).symm

end

/-- A number of n bits read in two's complement. -/
theorem signedOf_mod_eq_toInt {n : Nat} (hn : 0 < n) (x : Nat) : signedOf n (x % 2 ^ n) = (BitVec.ofNat n x).toInt := by
  have hpow : 2 ^ n = 2 * 2 ^ (n - 1) := by rw [← pow_succ']; congr 1; omega
  rw [signedOf, BitVec.toInt_eq_toNat_cond, BitVec.toNat_ofNat]
  by_cases h : x % 2 ^ n < 2 ^ (n - 1)
  · rw [if_pos h, if_pos (by omega)]
  · rw [if_neg h, if_neg (by omega)]
    simp

/-! ### Division by a power of ten (R346) -/

theorem ediv_emod_of_eq {a b q r : Int} (h : a = r + b * q) (h0 : 0 ≤ r) (h1 : r < b) : a / b = q ∧ a % b = r :=
  (Int.ediv_emod_unique (by omega)).2 ⟨h.symm, h0, h1⟩

section
variable {d q r : Nat}

/-- The negative of a number lies below a multiple of the divisor, unless it is one. -/
theorem neg_ediv_emod (h : r < d) : (-(r + d * q) : Int) / d = (if r = 0 then -(q : Int) else -(q + 1))
    ∧ (-(r + d * q) : Int) % d = if r = 0 then 0 else (d - r : Int) := by
  by_cases hr : r = 0
  · subst hr
    exact ediv_emod_of_eq (by simp) (le_refl _) (by omega)
  · simp only [hr, if_false]
    exact ediv_emod_of_eq (by ring) (by omega) (by omega)

/-- Half a divisor more, divided, is the nearest whole number, a half counting up. -/
theorem half_up_ediv (h : r < d) : (2 * (r + d * q) + d : Int) / (2 * d) = if d ≤ 2 * r then (q + 1 : Int) else q := by
  split
  · exact (ediv_emod_of_eq (r := 2 * r - d) (by ring) (by omega) (by omega)).1
  · exact (ediv_emod_of_eq (r := 2 * r + d) (by ring) (by omega) (by omega)).1

end

section
variable {v : Int} {k : Nat}

theorem ten_pow_cast (k : Nat) : (10 : Int) ^ k = (10 ^ k : Nat) := (Nat.cast_pow 10 k).symm

theorem natAbs_eq_mod_add (v : Int) (k : Nat) : (v.natAbs : Int) = (v.natAbs % 10 ^ k : Nat) + (10 ^ k : Nat) * (v.natAbs / 10 ^ k : Nat) := by
  exact_mod_cast (Nat.mod_add_div v.natAbs (10 ^ k)).symm

theorem scaleDown_of_nonneg (h : 0 ≤ v) (mode : Nat) : scaleDown mode k v = scaled mode k v := by
  have hlt : v.natAbs % 10 ^ k < 10 ^ k := Nat.mod_lt _ (Nat.pow_pos (by decide))
  have habs := natAbs_eq_mod_add v k
  unfold scaleDown scaled
  simp only [ten_pow_cast, signed, not_lt.2 h, decide_false, Bool.false_and, Bool.false_eq_true, if_false]
  generalize v.natAbs % 10 ^ k = r at hlt habs ⊢
  generalize v.natAbs / 10 ^ k = q at habs ⊢
  generalize 10 ^ k = d at hlt habs ⊢
  have hv : v = r + d * q := by omega
  have hdq : (0 : Int) ≤ d * q := by positivity
  obtain ⟨hdiv, hmod⟩ := ediv_emod_of_eq hv (Int.natCast_nonneg r) (by omega)
  match mode with
  | 0 => exact hdiv.symm.trans (Int.tdiv_eq_ediv_of_nonneg h).symm
  | 1 =>
    rw [if_pos h, hv, half_up_ediv hlt]
    simp
  | 2 =>
    simp only [hdiv, hmod, Bool.or_eq_true, Bool.and_eq_true, beq_iff_eq, decide_eq_true_eq]
    split <;> split <;> omega
  | 3 =>
    simp only [show -v / d = _ from hv ▸ (neg_ediv_emod hlt).1, Bool.and_eq_true, decide_eq_true_eq]
    split <;> split <;> omega
  | _ + 4 => exact hdiv.symm

theorem scaleDown_of_neg (h : v < 0) (mode : Nat) : scaleDown mode k v = scaled mode k v := by
  have hlt : v.natAbs % 10 ^ k < 10 ^ k := Nat.mod_lt _ (Nat.pow_pos (by decide))
  have habs := natAbs_eq_mod_add v k
  unfold scaleDown scaled
  simp only [ten_pow_cast, signed, h, not_lt.2 h.le, decide_true, decide_false, Bool.false_and, Bool.true_and, if_true]
  generalize v.natAbs % 10 ^ k = r at hlt habs ⊢
  generalize v.natAbs / 10 ^ k = q at habs ⊢
  generalize 10 ^ k = d at hlt habs ⊢
  have hv : v = -(r + d * q : Int) := by omega
  obtain ⟨hdiv, hmod⟩ := ediv_emod_of_eq (a := -v) (b := d) (q := q) (by omega) (Int.natCast_nonneg r) (by omega)
  obtain ⟨hfloor, hrest⟩ := neg_ediv_emod (q := q) hlt
  rw [← hv] at hfloor hrest
  match mode with
  | 0 =>
    have htdiv : v.tdiv d = -(-v / d) := by rw [← Int.tdiv_eq_ediv_of_nonneg (by omega), Int.neg_tdiv, neg_neg]
    exact (htdiv.trans (congrArg Neg.neg hdiv)).symm
  | 1 =>
    rw [if_neg (not_le.2 h), hv, neg_neg, half_up_ediv hlt]
    simp
  | 2 =>
    simp only [hfloor, hrest, Bool.or_eq_true, Bool.and_eq_true, beq_iff_eq, decide_eq_true_eq]
    split <;> split <;> split <;> omega
  | 3 => exact congrArg Neg.neg hdiv.symm
  | _ + 4 =>
    simp only [hfloor, decide_eq_true_eq]
    split <;> split <;> omega

/-- The division of the model, by magnitude and sign, is that of the rule. -/
theorem scaleDown_eq_scaled (mode k : Nat) (v : Int) : scaleDown mode k v = scaled mode k v := by
  rcases lt_or_ge v 0 with h | h
  · exact scaleDown_of_neg h mode
  · exact scaleDown_of_nonneg h mode

end

end Sys2Proof.Machine
end

section
/-! Packed fields: what the scan of an operand finds, the value it has, and the bytes of a result (R330 to R335). -/
namespace Sys2Proof.Machine

/-! ### Nibbles -/

theorem nibbleOf_cons_add_two (b : Byte) (l : List Byte) (i : Nat) : nibbleOf (b :: l) (i + 2) = nibbleOf l i := by simp [nibbleOf]

theorem nibbles_eq_map (l : List Byte) : nibbles l = (List.range (2 * l.length)).map (nibbleOf l) := by
  induction l with
  | nil => rfl
  | cons b l ih =>
    have hrest : nibbleOf (b :: l) ∘ Nat.succ ∘ Nat.succ = nibbleOf l := funext fun i => nibbleOf_cons_add_two b l i
    rw [List.length_cons, Nat.mul_succ, List.range_succ_eq_map, List.range_succ_eq_map, nibbles, List.flatMap_cons, ← nibbles, ih]
    simp only [List.map_cons, List.map_map, hrest]
    rfl

theorem beBytes_length (n x : Nat) : (beBytes n x).length = n := by rw [beBytes, List.length_reverse, leBytes_length]

/-- A nibble of the bytes of a number. -/
theorem nibbleOf_beBytes {n i : Nat} (h : i < 2 * n) (x : Nat) : nibbleOf (beBytes n x) i = x / 16 ^ (2 * n - 1 - i) % 16 := by
  have hbyte : ((beBytes n x).getD (i / 2) 0).toNat = x / 16 ^ (2 * (n - 1 - i / 2)) % 256 := by
    have hlt : i / 2 < (leBytes n x).reverse.length := by simp only [List.length_reverse, leBytes_length]; omega
    rw [beBytes, List.getD_eq_getElem _ _ hlt, List.getElem_reverse, getElem_leBytes, BitVec.toNat_ofNat, leBytes_length, pow_mul]
    rfl
  unfold nibbleOf
  rw [hbyte]
  split
  · rw [show 2 * n - 1 - i = 2 * (n - 1 - i / 2) + 1 by omega, pow_succ, ← Nat.div_div_eq_div_mul]
    omega
  · rw [show 2 * n - 1 - i = 2 * (n - 1 - i / 2) by omega]
    omega

/-! ### The scan of a packed operand (R331, R335) -/

theorem badNibble_digit {nib : Nat → Nat} {n i : Nat} (h : i ≠ 2 * n - 1) : badNibble nib n i ↔ 9 < nib i := by rw [badNibble, if_neg h]

section
variable (b b' : Byte) (l : List Byte)

theorem badNibble_high : badNibble (nibbleOf (b :: b' :: l)) (b :: b' :: l).length 0 ↔ 9 < b.toNat / 16 :=
  badNibble_digit (by simp only [List.length_cons]; omega)

theorem badNibble_low : badNibble (nibbleOf (b :: b' :: l)) (b :: b' :: l).length 1 ↔ 9 < b.toNat % 16 :=
  badNibble_digit (by simp only [List.length_cons]; omega)

theorem badNibble_add_two (i : Nat) :
    badNibble (nibbleOf (b :: b' :: l)) (b :: b' :: l).length (i + 2) ↔ badNibble (nibbleOf (b' :: l)) (b' :: l).length i := by
  have hlast : i + 2 = 2 * (l.length + 1 + 1) - 1 ↔ i = 2 * (l.length + 1) - 1 := by omega
  simp only [badNibble, List.length_cons, nibbleOf_cons_add_two, hlast]

theorem scanPacked_cons_cons (k : Nat) : scanPacked k (b :: b' :: l) =
    if 9 < b.toNat / 16 ∨ 9 < b.toNat % 16 then some (1, k) else scanPacked (k + 1) (b' :: l) := by
  rw [scanPacked]
  exact List.cons_ne_nil _ _

end

theorem scanPacked_eq_none {l : List Byte} (h : ∀ i < 2 * l.length, ¬ badNibble (nibbleOf l) l.length i) (k : Nat) : scanPacked k l = none := by
  match l with
  | [] => rfl
  | [b] =>
    have h0 : ¬ 9 < b.toNat / 16 := h 0 Nat.two_pos
    have h1 : ¬ b.toNat % 16 < 10 := h 1 Nat.one_lt_two
    rw [scanPacked, if_neg h0, if_neg h1]
  | b :: b' :: l =>
    have h0 := (badNibble_high b b' l).not.1 (h 0 (by simp))
    have h1 := (badNibble_low b b' l).not.1 (h 1 (by simp only [List.length_cons]; omega))
    rw [scanPacked_cons_cons, if_neg (not_or.2 ⟨h0, h1⟩)]
    exact scanPacked_eq_none (fun i hi => (badNibble_add_two b b' l i).not.1 (h _ (by simp only [List.length_cons] at hi ⊢; omega))) _

/-- The first invalid nibble, its cause and its byte. -/
theorem scanPacked_eq_some {l : List Byte} {j : Nat} (hj : j < 2 * l.length) (hbad : badNibble (nibbleOf l) l.length j)
    (h : ∀ i < j, ¬ badNibble (nibbleOf l) l.length i) (k : Nat) : scanPacked k l = some (if j = 2 * l.length - 1 then 2 else 1, k + j / 2) := by
  match l, j with
  | [], _ => exact absurd hj (Nat.not_lt_zero _)
  | [b], 0 =>
    have h0 : 9 < b.toNat / 16 := hbad
    rw [scanPacked, if_pos h0]
    rfl
  | [b], 1 =>
    have h0 : ¬ 9 < b.toNat / 16 := h 0 Nat.one_pos
    have h1 : b.toNat % 16 < 10 := hbad
    rw [scanPacked, if_neg h0, if_pos h1]
    rfl
  | [b], j + 2 => exact absurd hj (by simp)
  | b :: b' :: l, 0 =>
    rw [scanPacked_cons_cons, if_pos (.inl ((badNibble_high b b' l).1 hbad)), if_neg (by simp only [List.length_cons]; omega)]
    rfl
  | b :: b' :: l, 1 =>
    rw [scanPacked_cons_cons, if_pos (.inr ((badNibble_low b b' l).1 hbad)), if_neg (by simp only [List.length_cons]; omega)]
    rfl
  | b :: b' :: l, j + 2 =>
    have h0 := (badNibble_high b b' l).not.1 (h 0 (by omega))
    have h1 := (badNibble_low b b' l).not.1 (h 1 (by omega))
    have hlast : j + 2 = 2 * (b :: b' :: l).length - 1 ↔ j = 2 * (b' :: l).length - 1 := by simp only [List.length_cons]; omega
    rw [scanPacked_cons_cons, if_neg (not_or.2 ⟨h0, h1⟩), scanPacked_eq_some (by simp only [List.length_cons] at hj ⊢; omega)
      ((badNibble_add_two b b' l j).1 hbad) fun i hi => (badNibble_add_two b b' l i).not.1 (h _ (by omega))]
    simp only [hlast, show k + 1 + j / 2 = k + (j + 2) / 2 by omega]

/-! ### The value of a packed operand (R330, R333) -/

theorem packedVal_eq {l : List Byte} (hl : l ≠ []) : packedVal l = signed (minusSign (nibbleOf l (2 * l.length - 1)))
    (((List.range (2 * l.length - 1)).map (nibbleOf l)).foldl (fun a d => a * 10 + d) 0) := by
  have hlen : 2 * l.length = 2 * l.length - 1 + 1 := by have := List.length_pos_iff.2 hl; omega
  unfold packedVal
  rw [nibbles_eq_map, hlen, List.range_succ, List.map_append]
  simp

theorem minusSign_iff (d : Nat) : minusSign d = true ↔ d = 0xB ∨ d = 0xD := by simp [minusSign]

/-- The magnitude that the digits of a packed operand spell. -/
def packedAbs (nib : Nat → Nat) (n : Nat) : Nat := ((List.range (2 * n - 1)).map nib).foldl (fun a d => a * 10 + d) 0

/-- What PackedIs says, with the magnitude as a number. -/
theorem packedIs_iff {nib : Nat → Nat} {n : Nat} {v : Int} : PackedIs nib n v ↔
    (∀ i < 2 * n, ¬ badNibble nib n i) ∧ v = signed (minusSign (nib (2 * n - 1))) (packedAbs nib n) := by
  unfold PackedIs packedAbs
  rw [signed_eq_mul, foldl_digits]
  simp only [minusSign_iff, Nat.sub_sub, Nat.reduceAdd]

/-- A valid operand passes the scan and reads as its value. -/
theorem PackedIs.reads {l : List Byte} {n : Nat} {v : Int} (h : PackedIs (nibbleOf l) n v) (hl : l.length = n) (hn : 0 < n) :
    scanPacked 0 l = none ∧ packedVal l = v := by
  subst hl
  obtain ⟨hvalid, hv⟩ := packedIs_iff.1 h
  exact ⟨scanPacked_eq_none hvalid 0, (packedVal_eq (List.length_pos_iff.1 hn)).trans hv.symm⟩

theorem PackedIs.natAbs_lt {nib : Nat → Nat} {n : Nat} {v : Int} (h : PackedIs nib n v) : v.natAbs < 10 ^ (2 * n - 1) := by
  obtain ⟨hvalid, rfl⟩ := packedIs_iff.1 h
  rw [natAbs_signed]
  refine (foldl_digits_lt _ fun d hd => ?_).trans_eq (by rw [List.length_map, List.length_range])
  obtain ⟨i, hi, rfl⟩ := List.mem_map.1 hd
  have := hvalid i (by have := List.mem_range.1 hi; omega)
  rw [badNibble_digit (by have := List.mem_range.1 hi; omega)] at this
  omega

/-- Of the nibbles those of the field alone count. -/
theorem PackedIs.congr {f g : Nat → Nat} {n : Nat} {v : Int} (h : PackedIs f n v) (hfg : ∀ i < 2 * n, g i = f i) (hn : 0 < n) : PackedIs g n v := by
  obtain ⟨hvalid, hv⟩ := packedIs_iff.1 h
  have habs : packedAbs g n = packedAbs f n :=
    congrArg (List.foldl _ 0) (List.map_congr_left fun i hi => hfg i (by have := List.mem_range.1 hi; omega))
  refine packedIs_iff.2 ⟨fun i hi => ?_, by rw [hv, habs, hfg _ (by omega)]⟩
  rw [badNibble, hfg i hi]
  exact hvalid i hi

/-! ### The bytes of a packed result (R332, R337) -/

theorem packBytes_length (n : Nat) (v : Int) : (packBytes n v).length = n := beBytes_length _ _

/-- The digits and the sign of a result cut to its field. -/
theorem packNat_fitDigits {n : Nat} (hn : 0 < n) (v : Int) :
    PackedHas (fun i => packNat n (fitDigits (2 * n - 1) v).1 / 16 ^ (2 * n - 1 - i) % 16) n v := by
  unfold packNat
  rw [natAbs_fitDigits]
  simp only [fitDigits_neg_iff]
  have hsign : (if v < 0 ∧ v.natAbs % 10 ^ (2 * n - 1) ≠ 0 then 0xD else 0xC) < 16 := by split <;> decide
  refine ⟨fun i hi => ?digit, ?sign⟩
  case digit =>
    dsimp only
    rw [show 2 * n - 1 - i = 2 * n - 2 - i + 1 by omega, pow_succ', ← Nat.div_div_eq_div_mul, Nat.add_div_of_dvd_right (Nat.dvd_mul_left _ _),
      Nat.mul_div_cancel _ (by decide), Nat.div_eq_of_lt hsign, Nat.add_zero, toBcd_div_pow_mod (by omega), mod_pow_div_pow_mod _ _ (by omega)]
  case sign =>
    dsimp only
    rw [Nat.sub_self, pow_zero, Nat.div_one]
    omega

theorem packedHas_packBytes {n : Nat} (hn : 0 < n) (v : Int) : PackedHas (nibbleOf (packBytes n (fitDigits (2 * n - 1) v).1)) n v := by
  have hnib : ∀ i < 2 * n, nibbleOf (packBytes n (fitDigits (2 * n - 1) v).1) i = packNat n (fitDigits (2 * n - 1) v).1 / 16 ^ (2 * n - 1 - i) % 16 :=
    fun i hi => nibbleOf_beBytes hi _
  obtain ⟨hdigit, hsign⟩ := packNat_fitDigits hn v
  exact ⟨fun i hi => (hnib i (by omega)).trans (hdigit i hi), (hnib _ (by omega)).trans hsign⟩

/-! ### Accumulators (R262) -/

theorem nibbleAcc_eq (a : Acc128) {i : Nat} (h : i < 32) : nibbleOf (beBytes 16 a.toNat) i = nibbleAcc a i := nibbleOf_beBytes h _

/-- A valid accumulator reads as its value. -/
theorem accVal_of_packedIs {a : Acc128} {v : Int} (h : PackedIs (nibbleAcc a) 16 v) : accVal a = v :=
  ((h.congr (fun _ hi => nibbleAcc_eq a hi) (by decide)).reads (beBytes_length _ _) (by decide)).2

theorem packedHas_wrAcc (v : Int) : PackedHas (nibbleAcc (BitVec.ofNat 128 (packNat 16 (fitDigits 31 v).1))) 16 v := by
  have hnib : ∀ i < 32, nibbleAcc (BitVec.ofNat 128 (packNat 16 (fitDigits 31 v).1)) i = packNat 16 (fitDigits 31 v).1 / 16 ^ (31 - i) % 16 := by
    intro i hi
    rw [nibbleAcc, BitVec.toNat_ofNat, show 2 ^ 128 = 16 ^ 32 by norm_num, mod_pow_div_pow_mod _ _ (by omega)]
  obtain ⟨hdigit, hsign⟩ := packNat_fitDigits (n := 16) (by decide) v
  exact ⟨fun i hi => (hnib i (by omega)).trans (hdigit i hi), (hnib 31 (by decide)).trans hsign⟩

end Sys2Proof.Machine
end

section
/-! Zoned fields: what the scan of a source finds and the value it has (R334). -/
namespace Sys2Proof.Machine

/-- Byte i of a zoned source is permitted: a digit, or a sign in the first place (R334). -/
abbrev zonedByte (l : List Byte) (i : Nat) : Prop :=
  (0x30 ≤ (l.getD i 0).toNat ∧ (l.getD i 0).toNat ≤ 0x39) ∨ (i = 0 ∧ (l.getD i 0 = 0x2B#8 ∨ l.getD i 0 = 0x2D#8))

theorem scanZoned_eq (l : List Byte) : scanZoned l = ((List.range l.length).find? fun i => decide (¬ zonedByte l i)).map fun i => (3, i) := by
  have hbad : ∀ i : Nat, (!(decide (0x30 ≤ (l.getD i 0).toNat) && decide ((l.getD i 0).toNat ≤ 0x39))
      && !(i == 0 && (l.getD i 0 == 0x2B#8 || l.getD i 0 == 0x2D#8))) = decide (¬ zonedByte l i) := by
    intro i
    simp only [zonedByte, decide_not, Bool.decide_or, Bool.decide_and, Bool.not_or, beq_eq_decide]
  simp only [scanZoned, hbad]

theorem scanZoned_eq_none {l : List Byte} (h : ∀ i < l.length, zonedByte l i) : scanZoned l = none := by
  rw [scanZoned_eq, Option.map_eq_none_iff, List.find?_eq_none]
  intro i hi
  rw [decide_eq_true_eq, not_not]
  exact h i (List.mem_range.1 hi)

/-- The first byte that is not permitted. -/
theorem scanZoned_eq_some {l : List Byte} {j : Nat} (hj : j < l.length) (hbad : ¬ zonedByte l j) (h : ∀ i < j, zonedByte l i) :
    scanZoned l = some (3, j) := by
  have hfind : ((List.range l.length).find? fun i => decide (¬ zonedByte l i)) = some j :=
    List.find?_range_eq_some.2 ⟨decide_eq_true hbad, List.mem_range.2 hj, fun i hi => by rw [decide_not, Bool.not_not]; exact decide_eq_true (h i hi)⟩
  rw [scanZoned_eq, hfind, Option.map_some]

/-- The digits of a zoned source, a sign counting as 0. -/
theorem map_zoned_digits (l : List Byte) : l.map (fun b => b.toNat - 0x30) = (List.range l.length).map fun i => (l.getD i 0).toNat - 0x30 :=
  List.ext_getElem (by simp) fun i h _ => by simp [List.getElem?_eq_getElem (List.length_map _ ▸ h)]

theorem foldl_zoned {l : List Byte} (h : ∀ i < l.length, zonedByte l i) :
    l.foldl (fun a b => if 0x30 ≤ b.toNat then a * 10 + (b.toNat - 0x30) else a) 0
      = (l.map fun b => b.toNat - 0x30).foldl (fun a d => a * 10 + d) 0 := by
  cases l with
  | nil => rfl
  | cons b l =>
    have hhead : (if 0x30 ≤ b.toNat then 0 * 10 + (b.toNat - 0x30) else 0) = 0 * 10 + (b.toNat - 0x30) := by split <;> omega
    rw [List.foldl_map, List.foldl_cons, List.foldl_cons, hhead]
    refine List.foldl_ext _ _ _ fun a d hd => if_pos ?_
    obtain ⟨i, hi, rfl⟩ := List.getElem_of_mem hd
    have hdigit := h (i + 1) (Nat.succ_lt_succ hi)
    rw [zonedByte, List.getD_cons_succ, List.getD_eq_getElem _ _ hi] at hdigit
    exact (hdigit.resolve_right fun h0 => Nat.succ_ne_zero i h0.1).1

/-- A valid source passes the scan and reads as its value. -/
theorem ZonedIs.reads {l : List Byte} {v : Int} (h : ZonedIs l v) : scanZoned l = none ∧ zonedVal l = v := by
  obtain ⟨hvalid, rfl⟩ := h
  refine ⟨scanZoned_eq_none hvalid, ?_⟩
  have hhead : l.headD 0 = l.getD 0 0 := by cases l <;> rfl
  rw [zonedVal, foldl_zoned hvalid, map_zoned_digits, signed_eq_mul, foldl_digits, hhead]
  simp only [beq_iff_eq]

end Sys2Proof.Machine
end

section
/-! Storage operands of decimal instructions in DRAM (R342, R356, R357): what the checks answer, what is read, and what a result leaves in the store
buffer. -/
namespace Sys2Proof.Machine

section
variable {s t : State} {c : CoreId} {a b : Word} {n m : Nat} {k : Kind}

/-! ### Pieces and parts -/

theorem map_dramPart_storagePieces (a : Word) (n : Nat) (k : Kind) : (storagePieces a n k).map Piece.dramPart = dramParts a.toNat n 4096 := by
  unfold storagePieces dramParts splitPieces
  dsimp only
  split <;> rfl

theorem length_storagePieces (a : Word) (n : Nat) (k : Kind) : (storagePieces a n k).length = (dramParts a.toNat n 4096).length := by
  rw [← map_dramPart_storagePieces a n k, List.length_map]

theorem storagePieces_inDram (h : s.plainDram c a n = true) (hn : 0 < n) : ∀ p ∈ storagePieces a n k, p.inDram s := by
  obtain ⟨-, hi, hr, -⟩ := State.plainDram_iff.1 h
  intro p hp
  have := mem_splitPieces hn (by omega) hp
  exact ⟨by omega, by omega⟩

/-- The check of operands that lie in DRAM answers their parts and changes nothing. -/
theorem checkAll_storage (h : s.plainDram c a n = true) {ps : List Piece} (hp : ∀ p ∈ ps, p.inDram s) :
    checkAll s c (s.core c).ctx false ps = (s, .inr (ps.map Piece.dramPart)) := by
  obtain ⟨hx, -, -, hk⟩ := State.plainDram_iff.1 h
  exact checkAll_dram hx hk hp

/-! ### Operands read -/

theorem State.plainDram_of_quietDram (h : s.quietDram c a n = true) : s.plainDram c a n = true := by
  simp only [State.quietDram, Bool.and_eq_true] at h
  obtain ⟨⟨⟨hplain, -⟩, -⟩, -⟩ := h
  exact hplain

theorem readStorage_quietDram (h : s.quietDram c a n = true) (hn : 0 < n) :
    readStorage s c (dramParts a.toNat n 4096) = (s, .inr (s.bytes a.toNat n)) := by
  have hplain := State.plainDram_of_quietDram h
  obtain ⟨-, -, hr, -⟩ := State.plainDram_iff.1 hplain
  simp only [State.quietDram, Bool.and_eq_true, Option.isNone_iff_eq_none, List.isEmpty_iff, List.all_eq_true, Bool.not_eq_true'] at h
  obtain ⟨⟨⟨-, hpoison⟩, hecc⟩, hsb⟩ := h
  simp only [readStorage, readParts_quiet (partsCover_plainDram (cut := 4096) hplain hn (by decide)).1 hr hpoison hecc hsb]

theorem readSource_quietDram (h : s.quietDram c a n = true) (hn : 0 < n) : readSource s c a n = (s, .inr (s.bytes a.toNat n)) := by
  have hplain := State.plainDram_of_quietDram h
  simp only [readSource, checkAll_storage hplain (storagePieces_inDram hplain hn), map_dramPart_storagePieces, readStorage_quietDram h hn]

section
variable (A B C : List Piece)

theorem partsOf_first : partsOf ((A ++ B ++ C).map Piece.dramPart) 0 A.length = A.map Piece.dramPart := by simp [partsOf]

theorem partsOf_second : partsOf ((A ++ B ++ C).map Piece.dramPart) A.length B.length = B.map Piece.dramPart := by simp [partsOf, List.append_assoc]

theorem partsOf_third : partsOf ((A ++ B ++ C).map Piece.dramPart) (A.length + B.length) C.length = C.map Piece.dramPart := by
  simp [partsOf, ← List.drop_drop]

end

/-- The pieces that an instruction writes, if it stores at all. -/
theorem storePieces_spec (h : s.plainDram c a n = true) (hn : 0 < n) (store : Bool) :
    (∀ p ∈ (if store then storagePieces a n .write else []), p.inDram s)
      ∧ ((if store then storagePieces a n .write else []).map Piece.dramPart) = if store then dramParts a.toNat n 4096 else [] := by
  cases store
  · exact ⟨fun p hp => absurd hp List.not_mem_nil, rfl⟩
  · exact ⟨storagePieces_inDram h hn, map_dramPart_storagePieces a n .write⟩

/-- The pieces of a second operand, if there is one. -/
theorem secondPieces_spec (h : m = 0 ∨ s.quietDram c b m = true) :
    (∀ p ∈ (if m = 0 then [] else storagePieces b m .read), p.inDram s)
      ∧ readStorage s c ((if m = 0 then [] else storagePieces b m .read).map Piece.dramPart) = (s, .inr (s.bytes b.toNat m)) := by
  by_cases hm : m = 0
  · subst hm
    exact ⟨fun p hp => absurd hp List.not_mem_nil, rfl⟩
  · have hq := h.resolve_left hm
    have hpos := Nat.pos_of_ne_zero hm
    rw [if_neg hm, map_dramPart_storagePieces]
    exact ⟨storagePieces_inDram (State.plainDram_of_quietDram hq) hpos, readStorage_quietDram hq hpos⟩

/-- Operands of a storage-to-storage instruction; m is 0 for one that has no second. -/
theorem readBoth_quietDram (ha : s.quietDram c a n = true) (hn : 0 < n) (hb : m = 0 ∨ s.quietDram c b m = true) (store : Bool) :
    readBoth s c a b n m store = (s, .inr (s.bytes a.toNat n, s.bytes b.toNat m, if store then dramParts a.toNat n 4096 else [])) := by
  have hplain := State.plainDram_of_quietDram ha
  obtain ⟨hwdram, hwrite⟩ := storePieces_spec hplain hn store
  obtain ⟨hrdram, hread⟩ := secondPieces_spec hb
  have hdram := List.forall_mem_append.2 ⟨List.forall_mem_append.2 ⟨storagePieces_inDram (k := .read) hplain hn, hwdram⟩, hrdram⟩
  unfold readBoth
  simp only [checkAll_storage hplain hdram, partsOf_first, partsOf_second, partsOf_third, map_dramPart_storagePieces, hwrite,
    readStorage_quietDram ha hn, hread]

/-! ### Results stored -/

/-- A core with stores behind those of its buffer. -/
def Core.queue (q : Core) (es : List SbEntry) : Core := { q with sb := q.sb ++ es }

theorem Core.kept_queue (q : Core) (es : List SbEntry) : q.Kept (q.queue es) [] [] [] 0 :=
  ⟨⟨fun _ _ => rfl, fun _ _ _ => rfl⟩, fun _ _ => rfl, fun _ _ => rfl, ⟨rfl, rfl⟩, ⟨rfl, rfl⟩, rfl⟩

theorem tiles_storesOf {ps : List Part} {x : Nat} (h : PartsCover ps x n) {l : List Byte} (hl : l.length = n) : tiles (storesOf ps l) x l := by
  induction ps generalizing x n l with
  | nil => exact List.length_eq_zero_iff.1 (hl.trans h)
  | cons p ps ih =>
    obtain ⟨rfl, -, -, hle, hps⟩ := h
    have hlen : (l.take p.len).length = p.len := by rw [List.length_take, hl, Nat.min_eq_left hle]
    refine ⟨rfl, ?_, ?_⟩
    · rw [hlen]
    · rw [hlen]
      exact ih hps (by rw [List.length_drop, hl])

theorem buffered_of_queue (h : s.plainDram c a n = true) (hn : 0 < n) {l : List Byte} (hl : l.length = n)
    (hsb : (t.core c).sb = ((s.core c).queue (storesOf (dramParts a.toNat n 4096) l)).sb) : Buffered s t c a.toNat l :=
  ⟨_, hsb, tiles_storesOf (partsCover_plainDram h hn (by decide)).1 hl⟩

/-- A result enters the buffer, which has room for it. -/
theorem writeParts_plainDram (h : s.plainDram c a n = true) (hn : 0 < n) (hroom : s.sbRoom c 2 = true) (l : List Byte) :
    writeParts s c (s.core c).ctx (dramParts a.toNat n 4096) l = s.updCore c fun q => q.queue (storesOf (dramParts a.toNat n 4096) l) := by
  have hlen := length_dramParts a.toNat n 4096
  have hfree : (s.core c).sb.length + 2 ≤ 32 := of_decide_eq_true hroom
  exact writeParts_room (State.plainDram_iff.1 h).1 (partsCover_plainDram h hn (by decide)).1 (by omega) l

theorem writeField_plainDram {l : List Byte} (h : s.plainDram c a n = true) (hn : 0 < n) (hl : l.length = n) :
    writeField s c a l = (writeParts s c (s.core c).ctx (dramParts a.toNat n 4096) l, none) := by
  subst hl
  simp only [writeField, checkAll_storage h (storagePieces_inDram h hn), map_dramPart_storagePieces]

end
end Sys2Proof.Machine
end

section
/-! How a decimal instruction ends: its flags and DO are set, and overflow with DOT set traps at the next instruction (R336 to R340). -/
namespace Sys2Proof.Machine

/-! ### Flags and DO -/

theorem Core.csw_of_cswKept_zero {q r : Core} (h : q.CswKept r 0) : r.csw = q.csw :=
  BitVec.eq_of_getLsbD_eq fun i hi => cswKept_bit h i hi BitVec.getLsbD_zero

theorem Core.kept_doIf (q : Core) (v : Bool) : q.Kept (if v then q.setDo else q) [] [] [] 0x10#48 := by
  cases v
  · exact Core.kept_refl _ _ _ _ _
  · refine Core.kept_of_csw _ (cswSet_kept _ _ _ _ _ (by decide) fun i hlo hhi => ?_) (by decide)
    obtain rfl : i = 4 := by omega
    rfl

theorem Core.kept_decFlags (q : Core) (n z v : Bool) : q.Kept (q.decFlags n z v) [] [] [] 0x1F#48 :=
  (Core.kept_setFlags q _).trans (Core.kept_doIf _ v) (by decide)

@[simp] theorem Core.nzcv_decFlags (q : Core) (n z v : Bool) : (q.decFlags n z v).nzcv = ⟨n, z, false, v⟩ := by
  refine Eq.trans (Core.nzcv_of_bits fun i hi => ?_) (Core.nzcv_setFlags q _)
  exact cswKept_bit (Core.kept_doIf _ v).csw i (by omega) (by interval_cases i <;> rfl)

@[simp] theorem Core.do_decFlags (q : Core) (n z v : Bool) : cswDo (q.decFlags n z v).csw = (cswDo q.csw || v) := by
  have hdo : cswDo (q.setFlags ⟨n, z, false, v⟩).csw = cswDo q.csw := cswKept_bit (Core.kept_setFlags q _).csw 4 (by decide) rfl
  cases v
  · exact hdo.trans (Bool.or_false _).symm
  · exact (getLsbD_cswSet_same _ 4 1 (by decide)).trans (Bool.or_true _).symm

@[simp] theorem Core.da_decFlags (q : Core) (n z v : Bool) : (q.decFlags n z v).da = q.da := by cases v <;> rfl

@[simp] theorem Core.sb_decFlags (q : Core) (n z v : Bool) : (q.decFlags n z v).sb = q.sb := by cases v <;> rfl

theorem cswDo_and (v : Word) : cswDo (v &&& cswBits) = cswDo v := by
  have hbit : cswBits.getLsbD 4 = true := rfl
  rw [cswDo, BitVec.getLsbD_and, hbit, Bool.and_true, cswDo]

/-! ### Accumulators -/

theorem badAcc_accNo (i : Fin 8) : badAcc (accNo i) = false := decide_eq_false (Nat.not_lt.2 (Nat.le_of_lt_succ i.isLt))

theorem accNo_mod (i : Fin 8) : (accNo i).val % 8 = i.val := Nat.mod_eq_of_lt i.isLt

theorem Core.rdAcc_accNo {q : Core} {i : Fin 8} {v : Int} (h : PackedIs (nibbleAcc q.da[i]) 16 v) : q.rdAcc (accNo i) = v := by
  simp only [Core.rdAcc, Fin.getElem_fin, Fin.val_ofNat, accNo_mod]
  exact accVal_of_packedIs h

theorem Core.da_wrAcc (q : Core) (i : Fin 8) (v : Int) : (q.wrAcc (accNo i) v).da[i] = BitVec.ofNat 128 (packNat 16 v) := by
  simp [Core.wrAcc, accNo_mod]

theorem Core.kept_wrAcc (q : Core) (i : Fin 8) (v : Int) : q.Kept (q.wrAcc (accNo i) v) [] [] [i] 0 := by
  refine ⟨⟨fun _ _ => rfl, fun _ _ _ => rfl⟩, fun _ _ => rfl, fun j hj => ?_, ⟨rfl, rfl⟩, ⟨rfl, rfl⟩, rfl⟩
  have hne : i.val ≠ j.val := fun h => hj (by rw [Fin.ext h]; exact List.mem_singleton_self j)
  simp [Core.wrAcc, accNo_mod, Vector.getElem_set_ne, hne]

/-! ### The end of an instruction -/

section
variable {s t : State} {c : CoreId} {op : Nat} {body : State → State × IRes} {w : List RegNo} {d : List (Fin 8)} {n z v : Bool} {P Q : State → Prop}

theorem gateKeep_dsc (hv : Variant.hasDsc s.variant = true) (hop : op ≠ 0x0D) : gateKeep s c op = none := by
  simp [gateKeep, unitAbsent, hv, hop]

/-- What a decimal instruction has left when its flags are set. -/
structure DecLeft (s t : State) (c : CoreId) (w : List RegNo) (d : List (Fin 8)) (n z v : Bool) (r : Core) : Prop where
  flags : (t.core c).nzcv = ⟨n, z, false, v⟩
  overflow : cswDo (t.core c).csw = (cswDo (s.core c).csw || v)
  advanced : Advanced s t c
  leaves : Leaves s s t c w [] d 0x1F#48
  rd : ∀ i, (t.core c).rd i = r.rd i
  da : (t.core c).da = r.da
  sb : (t.core c).sb = r.sb

variable {f : Core → Core}

/-- The core after `f`, the flags and retirement. -/
def Core.decRetire (q : Core) (f : Core → Core) (n z v k : Bool) (pc : Word) : Core := ((f q).decFlags n z v).retire k pc

theorem Core.kept_retire (q : Core) (k : Bool) (pc : Word) : q.Kept (q.retire k pc) [] [] [] 0 :=
  ⟨⟨fun _ _ => rfl, fun _ _ _ => rfl⟩, fun _ _ => rfl, fun _ _ => rfl, ⟨rfl, rfl⟩, ⟨rfl, rfl⟩, rfl⟩

theorem decLeft_updCore (hk : (s.core c).Kept (f (s.core c)) w [] d 0) (k : Bool) :
    DecLeft s (s.updCore c fun q => q.decRetire f n z v k ((s.core c).pc + 4#48)) c w d n z v (f (s.core c)) := by
  have hflags := Core.kept_decFlags (f (s.core c)) n z v
  obtain ⟨hkw, hkf, hkd, hkc, hkp, hks⟩ := (hk.trans hflags (by decide)).trans (Core.kept_retire _ k ((s.core c).pc + 4#48)) (by decide)
  have hcore : (s.updCore c fun q => q.decRetire f n z v k ((s.core c).pc + 4#48)).core c
      = ((f (s.core c)).decFlags n z v).retire k ((s.core c).pc + 4#48) := by rw [State.core_updCore, if_pos rfl]; rfl
  have hothers : ∀ j, j ≠ c → (s.core j).Same ((s.updCore c fun q => q.decRetire f n z v k ((s.core c).pc + 4#48)).core j) := fun j hj => by
    rw [State.core_updCore, if_neg hj.symm]
    exact .refl _
  have hrest := restKept_updCore s c fun q => q.decRetire f n z v k ((s.core c).pc + 4#48)
  rw [List.append_nil, List.append_nil] at hkw hkd
  constructor
  case flags => rw [hcore, Core.nzcv_retire, Core.nzcv_decFlags]
  case overflow => rw [hcore, Core.csw_retire, Core.do_decFlags, Core.csw_of_cswKept_zero hk.csw]
  case advanced => rw [Advanced, hcore, Core.pc_retire]
  case leaves =>
    refine ⟨?_, ?_, ?_, ?_, ?_, ?_, hothers, hrest⟩ <;> rw [hcore]
    exacts [hkw, hkf, hkd, hkc, hkp, hks]
  case rd => exact fun i => by rw [hcore, Core.rd_retire, hflags.w.regs i List.not_mem_nil]
  case da => rw [hcore, Core.da_retire, Core.da_decFlags]
  case sb => rw [hcore, Core.sb_retire, Core.sb_decFlags]

theorem decLeft_settle (hw : s.wired = true) (hk : (s.core c).Kept (f (s.core c)) w [] d 0) (k : Bool) :
    DecLeft s (s.updCore c fun q => q.decRetire f n z v k ((s.core c).pc + 4#48)).settle c w d n z v (f (s.core c)) := by
  obtain ⟨hflags, hdo, hpc, -, hrd, hda, hsb⟩ := decLeft_updCore (n := n) (z := z) (v := v) hk k
  obtain ⟨hkw, hkf, hkd, hkc, hkp, hks⟩ := hk.trans (Core.kept_decFlags (f (s.core c)) n z v) (by decide)
  rw [List.append_nil] at hkw hkd
  refine ⟨(nzcv_settle _ _).trans hflags, ?_, ?_, leaves_end hw (.refl s) (fun q => (f q).decFlags n z v) w [] d _ _ k hkw hkf hkd hkc hkp hks,
    fun i => (rd_settle _ _ _).trans (hrd i), (da_settle _ _).trans hda, (sb_settle _ _).trans hsb⟩
  · rw [csw_settle, cswDo_and, hdo]
  · rw [Advanced, pc_settle, hpc, pc_add_four (wired_pc (State.wired_core hw c))]

/-- A body that changes its core alone and ends by setting the flags (R337 to R339). -/
theorem decEnds_run (hr : s.ready c = true) (hw : s.wired = true) (hv : Variant.hasDsc s.variant = true) (hop : op ≠ 0x0D)
    (hk : (s.core c).Kept (f (s.core c)) w [] d 0) (hb : body s = decEnd (s.updCore c f) c n z v)
    (hP : ∀ t, DecLeft s t c w d n z v (f (s.core c)) → P t) : DecEnds s (finish (run s c op body)) c op w d n z v P := by
  have hret : retireAt (body s).1 c (s.core c).hold.isSome ((s.core c).pc + 4#48)
      = s.updCore c fun q => q.decRetire f n z v (s.core c).hold.isSome ((s.core c).pc + 4#48) := by
    rw [hb, decEnd, updCore_updCore]
    exact retireAt_updCore hr (fun q => (f q).decFlags n z v) _ _
  have hres : (body s).2 = if v = true ∧ cswDot (s.core c).csw = true then .trapAfter (Exc.plain 0x0B 0 0) else .next := by
    rw [hb, decEnd, State.core_updCore, if_pos rfl, Core.csw_of_cswKept_zero hk.csw]
    simp only [Bool.and_eq_true]
  have hrun := run_ready (body := body) hr (gateKeep_dsc hv hop)
  by_cases htrap : v = true ∧ cswDot (s.core c).csw = true
  · have hleft := decLeft_updCore (n := n) (z := z) (v := v) hk (s.core c).hold.isSome
    refine ⟨_, hleft.flags, hleft.overflow, hleft.advanced, hleft.leaves, hP _ hleft, ?_⟩
    rw [if_pos htrap] at hres ⊢
    intro htp
    rw [hrun, conclude]
    simp only [hres, htp, Bool.false_eq_true, if_false, finish]
    exact congrArg (fun t => Host.Outcome.next (takeException t c _ _).settle) hret
  · have hleft := decLeft_settle (n := n) (z := z) (v := v) hw hk (s.core c).hold.isSome
    refine ⟨_, hleft.flags, hleft.overflow, hleft.advanced, hleft.leaves, hP _ hleft, ?_⟩
    rw [if_neg htrap] at hres ⊢
    rw [hrun, conclude]
    simp only [hres, finish]
    exact congrArg (fun t => Host.Outcome.next t.settle) hret

theorem DecEnds.imp {o : Host.Outcome State Fault Refusal} (h : DecEnds s o c op w d n z v P) (hPQ : ∀ t, P t → Q t) :
    DecEnds s o c op w d n z v Q := by
  obtain ⟨t, hflags, hdo, hpc, hleaves, hP, ho⟩ := h
  exact ⟨t, hflags, hdo, hpc, hleaves, hPQ t hP, ho⟩

/-! ### Exceptions before the end -/

theorem raises_dsc (hr : s.ready c = true) (hv : Variant.hasDsc s.variant = true) (ht : (s.core c).tpend = false) (hop : op ≠ 0x0D) {e : Exc}
    (he : e.opc = none) (hb : body s = (s, .exc e)) : Raises s (finish (run s c op body)) c op e :=
  run_exc hr (gateKeep_dsc hv hop) ht e he body hb

/-- An encoding that must not occur (R341, R347, R350). -/
theorem raises_dscIllegal (hr : s.ready c = true) (hv : Variant.hasDsc s.variant = true) (ht : (s.core c).tpend = false) (hop : op ≠ 0x0D) {bad : Bool}
    {g : State → State × IRes} (hbad : bad = true) : Raises s (finish (run s c op fun s => illegalWhen bad s (g s))) c op (Exc.plain 1 0 0) :=
  raises_dsc hr hv ht hop rfl (by rw [hbad]; rfl)

/-! ### The three kinds of result -/

variable {a : Word} {m : Nat}

/-- A result stored as the bytes l. -/
theorem decEnds_stored (hr : s.ready c = true) (hw : s.wired = true) (hv : Variant.hasDsc s.variant = true) (hop : op ≠ 0x0D)
    (ha : s.plainDram c a m = true) (hm : 0 < m) (hroom : s.sbRoom c 2 = true) {l : List Byte} (hl : l.length = m)
    (hb : body s = decEnd (writeParts s c (s.core c).ctx (dramParts a.toNat m 4096) l) c n z v) :
    DecEnds s (finish (run s c op body)) c op [] [] n z v fun t => Buffered s t c a.toNat l :=
  decEnds_run hr hw hv hop (Core.kept_queue _ _) (hb.trans (by rw [writeParts_plainDram ha hm hroom]))
    fun _ ht => buffered_of_queue ha hm hl ht.sb

/-- A value stored as a packed field. -/
theorem decResult_packed (hr : s.ready c = true) (hw : s.wired = true) (hv : Variant.hasDsc s.variant = true) (hop : op ≠ 0x0D)
    (ha : s.plainDram c a m = true) (hm : 0 < m) (hroom : s.sbRoom c 2 = true) (x : Int)
    (hb : body s = decEnd (writeParts s c (s.core c).ctx (dramParts a.toNat m 4096) (packBytes m (fitDigits (2 * m - 1) x).1)) c
      (decide ((fitDigits (2 * m - 1) x).1 < 0)) ((fitDigits (2 * m - 1) x).1 == 0) (fitDigits (2 * m - 1) x).2) :
    DecResult s (finish (run s c op body)) c op [] (2 * m - 1) x
      fun t => ∃ out : List Byte, out.length = m ∧ PackedHas (nibbleOf out) m x ∧ Buffered s t c a.toNat out := by
  rw [decide_fitDigits_neg, fitDigits_beq_zero] at hb
  exact (decEnds_stored hr hw hv hop ha hm hroom (packBytes_length _ _) hb).imp fun _ ht => ⟨_, packBytes_length _ _, packedHas_packBytes hm x, ht⟩

/-- A value written to an accumulator. -/
theorem decResult_acc (hr : s.ready c = true) (hw : s.wired = true) (hv : Variant.hasDsc s.variant = true) (hop : op ≠ 0x0D) (i : Fin 8) (x : Int)
    (hb : body s = decEnd (s.updCore c fun q => q.wrAcc (accNo i) (fitDigits 31 x).1) c
      (decide ((fitDigits 31 x).1 < 0)) ((fitDigits 31 x).1 == 0) (fitDigits 31 x).2) :
    DecResult s (finish (run s c op body)) c op [i] 31 x fun t => PackedHas (nibbleAcc ((t.core c).da[i])) 16 x := by
  rw [decide_fitDigits_neg, fitDigits_beq_zero] at hb
  refine decEnds_run hr hw hv hop (Core.kept_wrAcc _ i _) hb fun t ht => ?_
  rw [ht.da, Core.da_wrAcc]
  exact packedHas_wrAcc x

/-- A value written in binary to what `put` writes. -/
theorem binResult_put (hr : s.ready c = true) (hw : s.wired = true) (hv : Variant.hasDsc s.variant = true) (hop : op ≠ 0x0D) {k : Nat} (x : Int)
    {put : Core → Nat → Core} {R : State → Nat → Prop} (hk : (s.core c).Kept (put (s.core c) (BitVec.ofInt k x).toNat) w [] [] 0)
    (hR : ∀ t : State, (∀ i, (t.core c).rd i = (put (s.core c) (BitVec.ofInt k x).toNat).rd i) → R t (BitVec.ofInt k x).toNat)
    (hb : body s = decEnd (s.updCore c fun q => put q (fitBinary k x).1) c ((fitBinary k x).1.testBit (k - 1)) ((fitBinary k x).1 == 0)
      (fitBinary k x).2) :
    BinResult s (finish (run s c op body)) c op w k x R := by
  rw [fitBinary_testBit, fitBinary_beq_zero, fitBinary_snd, fitBinary_fst] at hb
  exact decEnds_run hr hw hv hop hk hb fun t ht => hR t ht.rd

end
end Sys2Proof.Machine
end

section
/-! Class 0x10: the storage-to-storage instructions, and the statement on them (R335, R336, R341 to R346). -/
namespace Sys2Proof.Machine

/-! ### The check of packed operands (R335) -/

/-- Nibble j is the first invalid one of a packed field of k bytes. -/
abbrev firstBad (l : List Byte) (k j : Nat) : Prop := j < 2 * k ∧ badNibble (nibbleOf l) k j ∧ ∀ i < j, ¬ badNibble (nibbleOf l) k i

/-- Decimal Data for nibble j of operand `opn`, a packed field of k bytes at `va` (R335). -/
def nibbleExc (k opn j : Nat) (va : Word) : Exc := Exc.at 9 (if j = 2 * k - 1 then 2 else 1) opn ((va.toNat + j / 2) % 2 ^ 48)

theorem decimalData_nibble (k opn j : Nat) (va : Word) : decimalData opn va (if j = 2 * k - 1 then 2 else 1, j / 2) = nibbleExc k opn j va := rfl

theorem scanPacked_of_firstBad {l : List Byte} {k j : Nat} (h : firstBad l k j) (hl : l.length = k) :
    scanPacked 0 l = some (if j = 2 * k - 1 then 2 else 1, j / 2) := by
  subst hl
  obtain ⟨hj, hbad, hbefore⟩ := h
  rw [scanPacked_eq_some hj hbad hbefore, Nat.zero_add]

section
variable {s : State} {c : CoreId} {ra rb : RegNo} {l1 l2 : Fin 32} {bad : Bool} {f : Int → Int → Option Int} {x y v : Int} {j : Nat}

/-- A packed operand of memory that is valid passes the scan and reads as its value. -/
theorem reads_bytes {a n : Nat} (h : PackedIs (nibbleOf (s.bytes a n)) n x) (hn : 0 < n) :
    scanPacked 0 (s.bytes a n) = none ∧ packedVal (s.bytes a n) = x := h.reads (State.bytes_length s a n) hn

theorem scanPacked_bytes {a n : Nat} (h : firstBad (s.bytes a n) n j) :
    scanPacked 0 (s.bytes a n) = some (if j = 2 * n - 1 then 2 else 1, j / 2) := scanPacked_of_firstBad h (State.bytes_length s a n)

/-! ### Instructions that replace operand 1 -/

/-- What they compute with valid operands is stored. -/
theorem decResult_decimalSS (hr : s.ready c = true) (hw : s.wired = true) (hv : Variant.hasDsc s.variant = true) (hbad : bad = false)
    (ha : s.quietDram c ((s.core c).rd ra) (l1.val + 1) = true) (hb : s.quietDram c ((s.core c).rd rb) (l2.val + 1) = true)
    (hroom : s.sbRoom c 2 = true) (hx : PackedIs (nibbleOf (s.bytes ((s.core c).rd ra).toNat (l1.val + 1))) (l1.val + 1) x)
    (hy : PackedIs (nibbleOf (s.bytes ((s.core c).rd rb).toNat (l2.val + 1))) (l2.val + 1) y) (hf : f x y = some v) :
    DecResult s (finish (decimalSS s c ra rb l1 l2 bad f)) c 0x10 [] (2 * (l1.val + 1) - 1) v fun t => ∃ out : List Byte,
      out.length = l1.val + 1 ∧ PackedHas (nibbleOf out) (l1.val + 1) v ∧ Buffered s t c ((s.core c).rd ra).toNat out := by
  obtain ⟨hscanx, hvalx⟩ := reads_bytes hx (Nat.succ_pos _)
  obtain ⟨hscany, hvaly⟩ := reads_bytes hy (Nat.succ_pos _)
  refine decResult_packed hr hw hv (by decide) (State.plainDram_of_quietDram ha) (Nat.succ_pos _) hroom v ?_
  rw [illegalWhen_of_legal hbad]
  simp only [readBoth_quietDram ha (Nat.succ_pos _) (.inr hb), dataCheck, hscanx, hscany, Option.map_none, hvalx, hvaly, hf, if_true]

/-- An exception in their place, by the operands' check or for want of a result (R335, R345). -/
theorem raises_decimalSS_data (hr : s.ready c = true) (hv : Variant.hasDsc s.variant = true) (ht : (s.core c).tpend = false) (hbad : bad = false)
    (ha : s.quietDram c ((s.core c).rd ra) (l1.val + 1) = true) (hb : s.quietDram c ((s.core c).rd rb) (l2.val + 1) = true) {e : Exc} (he : e.opc = none)
    (hdata : dataCheck ((s.core c).rd ra) ((s.core c).rd rb) (s.bytes ((s.core c).rd ra).toNat (l1.val + 1))
      (s.bytes ((s.core c).rd rb).toNat (l2.val + 1)) = some e) :
    Raises s (finish (decimalSS s c ra rb l1 l2 bad f)) c 0x10 e := by
  refine raises_dsc hr hv ht (by decide) he ?_
  rw [illegalWhen_of_legal hbad]
  simp only [readBoth_quietDram ha (Nat.succ_pos _) (.inr hb), hdata]

theorem raises_decimalSS_zero (hr : s.ready c = true) (hv : Variant.hasDsc s.variant = true) (ht : (s.core c).tpend = false) (hbad : bad = false)
    (ha : s.quietDram c ((s.core c).rd ra) (l1.val + 1) = true) (hb : s.quietDram c ((s.core c).rd rb) (l2.val + 1) = true)
    (hx : PackedIs (nibbleOf (s.bytes ((s.core c).rd ra).toNat (l1.val + 1))) (l1.val + 1) x)
    (hy : PackedIs (nibbleOf (s.bytes ((s.core c).rd rb).toNat (l2.val + 1))) (l2.val + 1) y) (hf : f x y = none) :
    Raises s (finish (decimalSS s c ra rb l1 l2 bad f)) c 0x10 (Exc.plain 0x0A 1 0) := by
  obtain ⟨hscanx, hvalx⟩ := reads_bytes hx (Nat.succ_pos _)
  obtain ⟨hscany, hvaly⟩ := reads_bytes hy (Nat.succ_pos _)
  refine raises_dsc hr hv ht (by decide) rfl ?_
  rw [illegalWhen_of_legal hbad]
  simp only [readBoth_quietDram ha (Nat.succ_pos _) (.inr hb), dataCheck, hscanx, hscany, Option.map_none, hvalx, hvaly, hf]

theorem badLengths_eq_false_iff : badLengths l1 l2 = false ↔ l2 < l1 ∧ l2.val ≤ 15 := by
  simp only [badLengths, Bool.or_eq_false_iff, decide_eq_false_iff_not, Nat.not_le, Nat.not_lt, Fin.lt_def]

/-! ### DCMP and DSCALE -/

/-- DCMP with an invalid operand (R335, R341). -/
theorem raises_dcmp (hr : s.ready c = true) (hv : Variant.hasDsc s.variant = true) (ht : (s.core c).tpend = false)
    (ha : s.quietDram c ((s.core c).rd ra) (l1.val + 1) = true) (hb : s.quietDram c ((s.core c).rd rb) (l2.val + 1) = true) {e : Exc} (he : e.opc = none)
    (hdata : dataCheck ((s.core c).rd ra) ((s.core c).rd rb) (s.bytes ((s.core c).rd ra).toNat (l1.val + 1))
      (s.bytes ((s.core c).rd rb).toNat (l2.val + 1)) = some e) : Raises s (exec (.dcmp c ra rb l1 l2) s) c 0x10 e := by
  refine raises_dsc hr hv ht (by decide) he ?_
  simp only [readBoth_quietDram ha (Nat.succ_pos _) (.inr hb), hdata]

theorem ends_dcmp (hr : s.ready c = true) (hw : s.wired = true) (hv : Variant.hasDsc s.variant = true)
    (ha : s.quietDram c ((s.core c).rd ra) (l1.val + 1) = true) (hb : s.quietDram c ((s.core c).rd rb) (l2.val + 1) = true)
    (hx : PackedIs (nibbleOf (s.bytes ((s.core c).rd ra).toNat (l1.val + 1))) (l1.val + 1) x)
    (hy : PackedIs (nibbleOf (s.bytes ((s.core c).rd rb).toNat (l2.val + 1))) (l2.val + 1) y) :
    ∃ t, Ends s s t (exec (.dcmp c ra rb l1 l2) s) c ((s.core c).pc + 4#48) [] flagBits
      ∧ (t.core c).nzcv = ⟨decide (x < y), decide (x = y), false, false⟩ := by
  obtain ⟨hscanx, hvalx⟩ := reads_bytes hx (Nat.succ_pos _)
  obtain ⟨hscany, hvaly⟩ := reads_bytes hy (Nat.succ_pos _)
  refine ⟨_, ends_next hr hw (gateKeep_dsc hv (by decide)) (.refl s) (fun q => q.setFlags ⟨decide (x < y), decide (x = y), false, false⟩) [] flagBits
    (Core.kept_setFlags _ _) ?_, ?_⟩
  · simp only [readBoth_quietDram ha (Nat.succ_pos _) (.inr hb), dataCheck, hscanx, hscany, Option.map_none, hvalx, hvaly, beq_eq_decide]
  · simp only [nzcv_settle, State.core_updCore, if_true, Core.nzcv_retire, Core.nzcv_setFlags]

theorem scaleOf_eq (b : Word) : scaleOf b = (BitVec.ofNat 6 b.toNat).toInt := signedOf_mod_eq_toInt (by decide) _

theorem decResult_dscale (hr : s.ready c = true) (hw : s.wired = true) (hv : Variant.hasDsc s.variant = true) (hmode : l2.val ≤ 4)
    (ha : s.quietDram c ((s.core c).rd ra) (l1.val + 1) = true) (hroom : s.sbRoom c 2 = true)
    (hx : PackedIs (nibbleOf (s.bytes ((s.core c).rd ra).toNat (l1.val + 1))) (l1.val + 1) x) {e : Int} (he : scaleOf ((s.core c).rd rb) = e)
    (hval : v = if 0 ≤ e then x * 10 ^ e.toNat else scaled l2.val (-e).toNat x) :
    DecResult s (exec (.dscale c ra rb l1 l2) s) c 0x10 [] (2 * (l1.val + 1) - 1) v fun t => ∃ out : List Byte,
      out.length = l1.val + 1 ∧ PackedHas (nibbleOf out) (l1.val + 1) v ∧ Buffered s t c ((s.core c).rd ra).toNat out := by
  obtain ⟨hscan, hvalx⟩ := reads_bytes hx (Nat.succ_pos _)
  refine decResult_packed hr hw hv (by decide) (State.plainDram_of_quietDram ha) (Nat.succ_pos _) hroom v ?_
  rw [illegalWhen_of_legal (decide_eq_false (Nat.not_lt.2 hmode))]
  simp only [readBoth_quietDram ha (Nat.succ_pos _) (.inl rfl), hscan, hvalx, he, scaleDown_eq_scaled, ← hval, if_true]

theorem raises_dscale (hr : s.ready c = true) (hv : Variant.hasDsc s.variant = true) (ht : (s.core c).tpend = false) (hmode : l2.val ≤ 4)
    (ha : s.quietDram c ((s.core c).rd ra) (l1.val + 1) = true) (hbad : firstBad (s.bytes ((s.core c).rd ra).toNat (l1.val + 1)) (l1.val + 1) j) :
    Raises s (exec (.dscale c ra rb l1 l2) s) c 0x10 (nibbleExc (l1.val + 1) 1 j ((s.core c).rd ra)) := by
  refine raises_dsc hr hv ht (by decide) rfl ?_
  rw [illegalWhen_of_legal (decide_eq_false (Nat.not_lt.2 hmode))]
  simp only [readBoth_quietDram ha (Nat.succ_pos _) (.inl rfl), scanPacked_bytes hbad, decimalData_nibble]

end

/-! ### The statement -/

theorem decimalFieldsAreComputed : Claims.DecimalFieldsAreComputed := by
  intro s c ra rb l1 l2 x y hr hw hv q a b n m e field ha hroom hx
  refine ⟨fun hb hy => ⟨?sum, ?difference, fun hlt hle => ⟨?product, fun hy0 => ⟨?quotient, ?remainder⟩⟩, ends_dcmp hr hw hv ha hb hx hy⟩,
    fun hmode => decResult_dscale hr hw hv hmode ha hroom hx (scaleOf_eq _) rfl⟩
  case sum => exact decResult_decimalSS hr hw hv rfl ha hb hroom hx hy rfl
  case difference => exact decResult_decimalSS hr hw hv rfl ha hb hroom hx hy rfl
  case product => exact decResult_decimalSS hr hw hv (badLengths_eq_false_iff.2 ⟨hlt, hle⟩) ha hb hroom hx hy rfl
  case quotient => exact decResult_decimalSS hr hw hv (badLengths_eq_false_iff.2 ⟨hlt, hle⟩) ha hb hroom hx hy (if_neg hy0)
  case remainder => exact decResult_decimalSS hr hw hv (badLengths_eq_false_iff.2 ⟨hlt, hle⟩) ha hb hroom hx hy (if_neg hy0)

theorem decimalOperandsAreChecked : Claims.DecimalOperandsAreChecked := by
  intro s c ra rb l1 l2 x j hr hw hv ht q a b n m legal first data products sums
  refine ⟨fun hbad i hi => ?lengths, fun hmode => raises_dscIllegal hr hv ht (by decide) (decide_eq_true hmode), fun ha =>
    ⟨fun hfirst hmode => raises_dscale hr hv ht hmode ha hfirst, fun hb => ⟨fun i hi => ?data, fun hlegal hx hy => ?zero⟩⟩⟩
  case lengths =>
    have hlengths : badLengths l1 l2 = true := by rwa [← Bool.not_eq_false, badLengths_eq_false_iff]
    simp only [products, List.mem_cons, List.not_mem_nil, or_false] at hi
    rcases hi with rfl | rfl | rfl <;> exact raises_dscIllegal hr hv ht (by decide) hlengths
  case data =>
    have hraises : ∀ e : Exc, e.opc = none → dataCheck a b (s.bytes a.toNat n) (s.bytes b.toNat m) = some e → Raises s (exec i s) c 0x10 e := by
      intro e he hdata
      simp only [sums, products, List.mem_cons, List.not_mem_nil, or_false] at hi
      rcases hi with (rfl | rfl | rfl) | ⟨hlegal, hi⟩
      · exact raises_decimalSS_data hr hv ht rfl ha hb he hdata
      · exact raises_decimalSS_data hr hv ht rfl ha hb he hdata
      · exact raises_dcmp hr hv ht ha hb he hdata
      · have hlengths := badLengths_eq_false_iff.2 hlegal
        rcases hi with rfl | rfl | rfl <;> exact raises_decimalSS_data hr hv ht hlengths ha hb he hdata
    refine ⟨fun hfirst => hraises (nibbleExc n 1 j a) rfl ?_, fun hx hfirst => hraises (nibbleExc m 2 j b) rfl ?_⟩
    · rw [dataCheck, scanPacked_bytes hfirst]
      rfl
    · rw [dataCheck, (reads_bytes hx (Nat.succ_pos _)).1, scanPacked_bytes hfirst]
      rfl
  case zero =>
    have hlengths := badLengths_eq_false_iff.2 hlegal
    exact ⟨raises_decimalSS_zero hr hv ht hlengths ha hb hx hy (if_pos rfl), raises_decimalSS_zero hr hv ht hlengths ha hb hx hy (if_pos rfl)⟩

/-- Settles O55: the operands of a storage-to-storage instruction in DRAM are read as they stand; a scan that passes gives their values, one that fails the
first invalid nibble, and what is stored are the digits of the result cut to its field. -/
theorem decimalFieldsAreReplaced : Obligations.DecimalFieldsAreReplaced := ⟨decimalFieldsAreComputed, decimalOperandsAreChecked⟩

end Sys2Proof.Machine
end

section
/-! Class 0x12: the conversions (R347 to R349). -/
namespace Sys2Proof.Machine

section
variable {s : State} {c : CoreId} {ra rb : RegNo} {l1 l2 : Fin 32} {bad : Bool} {w : List RegNo} {k : Nat} {y : Int} {j : Nat}

/-! ### Packed to binary -/

theorem binResult_toBinary (hr : s.ready c = true) (hw : s.wired = true) (hv : Variant.hasDsc s.variant = true) (hbad : bad = false)
    (hb : s.quietDram c ((s.core c).rd rb) (l2.val + 1) = true)
    (hy : PackedIs (nibbleOf (s.bytes ((s.core c).rd rb).toNat (l2.val + 1))) (l2.val + 1) y) {put : Core → Nat → Core} {R : State → Nat → Prop}
    (hk : (s.core c).Kept (put (s.core c) (BitVec.ofInt k y).toNat) w [] [] 0)
    (hR : ∀ t : State, (∀ i, (t.core c).rd i = (put (s.core c) (BitVec.ofInt k y).toNat).rd i) → R t (BitVec.ofInt k y).toNat) :
    BinResult s (finish (toBinary s c rb l2 bad k put)) c 0x12 w k y R := by
  obtain ⟨hscan, hval⟩ := reads_bytes hy (Nat.succ_pos _)
  refine binResult_put hr hw hv (by decide) y hk hR ?_
  rw [illegalWhen_of_legal hbad]
  simp only [readSource_quietDram hb (Nat.succ_pos _), hscan, hval]

theorem raises_toBinary (hr : s.ready c = true) (hv : Variant.hasDsc s.variant = true) (ht : (s.core c).tpend = false) (hbad : bad = false)
    (hb : s.quietDram c ((s.core c).rd rb) (l2.val + 1) = true)
    (hfirst : firstBad (s.bytes ((s.core c).rd rb).toNat (l2.val + 1)) (l2.val + 1) j) {put : Core → Nat → Core} :
    Raises s (finish (toBinary s c rb l2 bad k put)) c 0x12 (nibbleExc (l2.val + 1) 2 j ((s.core c).rd rb)) := by
  refine raises_dsc hr hv ht (by decide) rfl ?_
  rw [illegalWhen_of_legal hbad]
  simp only [readSource_quietDram hb (Nat.succ_pos _), scanPacked_bytes hfirst, decimalData_nibble]

/-! ### Binary to packed -/

theorem decResult_fromBinary (hr : s.ready c = true) (hw : s.wired = true) (hv : Variant.hasDsc s.variant = true) (hbad : bad = false)
    (ha : s.plainDram c ((s.core c).rd ra) (l1.val + 1) = true) (hroom : s.sbRoom c 2 = true) {get : Core → Int} (hget : get (s.core c) = y) :
    DecResult s (finish (fromBinary s c ra l1 bad get)) c 0x12 [] (2 * (l1.val + 1) - 1) y fun t => ∃ out : List Byte,
      out.length = l1.val + 1 ∧ PackedHas (nibbleOf out) (l1.val + 1) y ∧ Buffered s t c ((s.core c).rd ra).toNat out := by
  refine decResult_packed hr hw hv (by decide) ha (Nat.succ_pos _) hroom y ?_
  rw [illegalWhen_of_legal hbad]
  simp only [hget, writeField_plainDram ha (Nat.succ_pos _) (packBytes_length _ _)]

/-! ### Between packed and zoned -/

variable {scan : List Byte → Option (Nat × Nat)} {val : List Byte → Int} {form : Nat → Int → List Byte × Bool × Bool × Bool}

theorem checkAll_convert (ha : s.plainDram c ((s.core c).rd ra) (l1.val + 1) = true) (hb : s.quietDram c ((s.core c).rd rb) (l2.val + 1) = true) :
    checkAll s c (s.core c).ctx false (storagePieces ((s.core c).rd ra) (l1.val + 1) .write ++ storagePieces ((s.core c).rd rb) (l2.val + 1) .read)
      = (s, .inr (dramParts ((s.core c).rd ra).toNat (l1.val + 1) 4096 ++ dramParts ((s.core c).rd rb).toNat (l2.val + 1) 4096)) := by
  have hdram := List.forall_mem_append.2 ⟨storagePieces_inDram (k := .write) ha (Nat.succ_pos _),
    storagePieces_inDram (k := .read) (State.plainDram_of_quietDram hb) (Nat.succ_pos _)⟩
  rw [checkAll_storage ha hdram, List.map_append, map_dramPart_storagePieces, map_dramPart_storagePieces]

/-- A valid source is converted and the bytes formed are stored. -/
theorem decEnds_convert (hr : s.ready c = true) (hw : s.wired = true) (hv : Variant.hasDsc s.variant = true)
    (ha : s.plainDram c ((s.core c).rd ra) (l1.val + 1) = true) (hb : s.quietDram c ((s.core c).rd rb) (l2.val + 1) = true)
    (hroom : s.sbRoom c 2 = true) (hsrc : scan (s.bytes ((s.core c).rd rb).toNat (l2.val + 1)) = none
      ∧ val (s.bytes ((s.core c).rd rb).toNat (l2.val + 1)) = y) {out : List Byte} {ng z v : Bool} (hl : out.length = l1.val + 1)
    (hform : form (l1.val + 1) y = (out, ng, z, v)) :
    DecEnds s (finish (convert s c ra rb l1 l2 scan val form)) c 0x12 [] [] ng z v fun t => Buffered s t c ((s.core c).rd ra).toNat out := by
  obtain ⟨hscan, hval⟩ := hsrc
  refine decEnds_stored hr hw hv (by decide) ha (Nat.succ_pos _) hroom hl ?_
  simp only [checkAll_convert ha hb, length_storagePieces, List.drop_left, List.take_left, readStorage_quietDram hb (Nat.succ_pos _), hscan, hval, hform]

theorem raises_convert (hr : s.ready c = true) (hv : Variant.hasDsc s.variant = true) (ht : (s.core c).tpend = false)
    (ha : s.plainDram c ((s.core c).rd ra) (l1.val + 1) = true) (hb : s.quietDram c ((s.core c).rd rb) (l2.val + 1) = true) {e : Nat × Nat}
    (hscan : scan (s.bytes ((s.core c).rd rb).toNat (l2.val + 1)) = some e) :
    Raises s (finish (convert s c ra rb l1 l2 scan val form)) c 0x12 (decimalData 2 ((s.core c).rd rb) e) := by
  refine raises_dsc hr hv ht (by decide) rfl ?_
  simp only [checkAll_convert ha hb, length_storagePieces, List.drop_left, readStorage_quietDram hb (Nat.succ_pos _), hscan]

theorem raises_convert_packed (hr : s.ready c = true) (hv : Variant.hasDsc s.variant = true) (ht : (s.core c).tpend = false)
    (ha : s.plainDram c ((s.core c).rd ra) (l1.val + 1) = true) (hb : s.quietDram c ((s.core c).rd rb) (l2.val + 1) = true)
    (hfirst : firstBad (s.bytes ((s.core c).rd rb).toNat (l2.val + 1)) (l2.val + 1) j) :
    Raises s (finish (convert s c ra rb l1 l2 (scanPacked 0) val form)) c 0x12 (nibbleExc (l2.val + 1) 2 j ((s.core c).rd rb)) := by
  rw [← decimalData_nibble]
  exact raises_convert hr hv ht ha hb (scanPacked_bytes hfirst)

theorem raises_ztop (hr : s.ready c = true) (hv : Variant.hasDsc s.variant = true) (ht : (s.core c).tpend = false)
    (ha : s.plainDram c ((s.core c).rd ra) (l1.val + 1) = true) (hb : s.quietDram c ((s.core c).rd rb) (l2.val + 1) = true) (hj : j < l2.val + 1)
    (hbad : ¬ zonedByte (s.bytes ((s.core c).rd rb).toNat (l2.val + 1)) j)
    (hbefore : ∀ i < j, zonedByte (s.bytes ((s.core c).rd rb).toNat (l2.val + 1)) i) :
    Raises s (exec (.ztop c ra rb l1 l2) s) c 0x12 (decimalData 2 ((s.core c).rd rb) (3, j)) :=
  raises_convert hr hv ht ha hb (scanZoned_eq_some (by rwa [State.bytes_length]) hbad hbefore)

theorem decResult_ztop (hr : s.ready c = true) (hw : s.wired = true) (hv : Variant.hasDsc s.variant = true)
    (ha : s.plainDram c ((s.core c).rd ra) (l1.val + 1) = true) (hb : s.quietDram c ((s.core c).rd rb) (l2.val + 1) = true)
    (hroom : s.sbRoom c 2 = true) (hy : ZonedIs (s.bytes ((s.core c).rd rb).toNat (l2.val + 1)) y) :
    DecResult s (exec (.ztop c ra rb l1 l2) s) c 0x12 [] (2 * (l1.val + 1) - 1) y fun t => ∃ out : List Byte,
      out.length = l1.val + 1 ∧ PackedHas (nibbleOf out) (l1.val + 1) y ∧ Buffered s t c ((s.core c).rd ra).toNat out :=
  DecEnds.imp (decEnds_convert (form := fun n v => let r := fitDigits (2 * n - 1) v; (packBytes n r.1, decide (r.1 < 0), r.1 == 0, r.2))
      hr hw hv ha hb hroom hy.reads (packBytes_length _ _)
      (Prod.ext rfl (Prod.ext (decide_fitDigits_neg _ _) (Prod.ext (fitDigits_beq_zero _ _) rfl))))
    fun _ ht => ⟨_, packBytes_length _ _, packedHas_packBytes (Nat.succ_pos _) y, ht⟩

/-- The zoned digits of a value cut to its field. -/
theorem zonedHas_fitDigits (k : Nat) (y : Int) : ZonedHas (zoneBytes k (fitDigits k y).1.natAbs) k y.natAbs := by
  rw [natAbs_fitDigits]
  exact (zonedHas_zoneBytes _ _).of_mod

theorem decEnds_ptoz (hr : s.ready c = true) (hw : s.wired = true) (hv : Variant.hasDsc s.variant = true)
    (ha : s.plainDram c ((s.core c).rd ra) (l1.val + 1) = true) (hb : s.quietDram c ((s.core c).rd rb) (l2.val + 1) = true)
    (hroom : s.sbRoom c 2 = true) (hy : PackedIs (nibbleOf (s.bytes ((s.core c).rd rb).toNat (l2.val + 1))) (l2.val + 1) y) :
    DecEnds s (exec (.ptoz c ra rb l1 l2) s) c 0x12 [] [] (decide (y < 0)) (decide (y.natAbs % 10 ^ (l1.val + 1) = 0))
      (decide (10 ^ (l1.val + 1) ≤ y.natAbs)) fun t => ∃ out, ZonedHas out (l1.val + 1) y.natAbs ∧ Buffered s t c ((s.core c).rd ra).toNat out :=
  DecEnds.imp (decEnds_convert (form := fun n v => let r := fitDigits n v; (zoneBytes n r.1.natAbs, decide (v < 0), r.1 == 0, r.2))
      hr hw hv ha hb hroom (reads_bytes hy (Nat.succ_pos _)) (zonedHas_fitDigits _ y).1
      (Prod.ext rfl (Prod.ext rfl (Prod.ext (fitDigits_beq_zero _ _) rfl))))
    fun _ ht => ⟨_, zonedHas_fitDigits _ y, ht⟩

theorem decResult_ptozs (hr : s.ready c = true) (hw : s.wired = true) (hv : Variant.hasDsc s.variant = true)
    (ha : s.plainDram c ((s.core c).rd ra) (l1.val + 1) = true) (hb : s.quietDram c ((s.core c).rd rb) (l2.val + 1) = true)
    (hroom : s.sbRoom c 2 = true) (hy : PackedIs (nibbleOf (s.bytes ((s.core c).rd rb).toNat (l2.val + 1))) (l2.val + 1) y) :
    DecResult s (exec (.ptozs c ra rb l1 l2) s) c 0x12 [] l1.val y fun t => ∃ out, ZonedHas out l1.val y.natAbs
      ∧ Buffered s t c ((s.core c).rd ra).toNat ((if y < 0 ∧ y.natAbs % 10 ^ l1.val ≠ 0 then 0x2D#8 else 0x2B#8) :: out) := by
  have hzoned := zonedHas_fitDigits l1.val y
  have hlen : ((if y < 0 ∧ y.natAbs % 10 ^ l1.val ≠ 0 then 0x2D#8 else 0x2B#8)
      :: zoneBytes l1.val (fitDigits l1.val y).1.natAbs).length = l1.val + 1 := by
    rw [List.length_cons, hzoned.1]
  exact DecEnds.imp (decEnds_convert
      (form := fun n v =>
        let r := fitDigits (n - 1) v
        ((if r.1 < 0 then 0x2D#8 else 0x2B#8) :: zoneBytes (n - 1) r.1.natAbs, decide (r.1 < 0), r.1 == 0, r.2))
      hr hw hv ha hb hroom (reads_bytes hy (Nat.succ_pos _)) hlen
      (Prod.ext (congrArg (· :: _) (if_congr (fitDigits_neg_iff l1.val y) rfl rfl))
        (Prod.ext (decide_fitDigits_neg _ _) (Prod.ext (fitDigits_beq_zero _ _) rfl))))
    fun _ ht => ⟨_, hzoned, ht⟩

end

/-! ### Registers written -/

section
variable {q r : Core} {ra : RegNo}

theorem Core.rd_of_wr {v : Word} (h : ∀ i, r.rd i = (q.wr ra v).rd i) : r.rd ra = written ra v := (h ra).trans (Core.rd_wr_same _ _ _)

theorem Core.rdPair_of_wrPair (hp : pairOk ra = true) {v : Nat} (hv : v < 2 ^ 96) (h : ∀ i, r.rd i = (q.wrPair ra v).rd i) : r.rdPair ra = v := by
  rw [Core.rdPair, h, h]
  exact Core.rdPair_wrPair q hp v hv

theorem Core.kept_wrPair (q : Core) (ra : RegNo) (v : Nat) : q.Kept (q.wrPair ra v) [ra, RegNo.succ ra] [] [] 0 := Core.kept_wr_wr _ _ _ _ _

end

theorem signedOf_rdPair (q : Core) (r : RegNo) : signedOf 96 (q.rdPair r) = (BitVec.ofNat 96 (q.rdPair r)).toInt := by
  have hlow := (q.rd r).isLt
  have hhigh := (q.rd (RegNo.succ r)).isLt
  have hlt : q.rdPair r < 2 ^ 96 := by unfold Core.rdPair; omega
  rw [← signedOf_mod_eq_toInt (by decide), Nat.mod_eq_of_lt hlt]

/-! ### The statement -/

theorem decimalConversionsConvert : Claims.DecimalConversionsConvert := by
  intro s c ra rb l1 l2 y j hr hw hv q a b n m src packed okByte
  refine ⟨fun hb hy => ⟨?dtob, fun hp => ?dtobP, fun ha hroom => ⟨decEnds_ptoz hr hw hv ha hb hroom hy, decResult_ptozs hr hw hv ha hb hroom hy⟩⟩,
    fun ha hroom => ⟨?btod, fun hp => ?btodP, fun hb hy => decResult_ztop hr hw hv ha hb hroom hy⟩,
    fun ht => ⟨?dtobIllegal, ?dtobPIllegal, ?btodIllegal, ?btodPIllegal, fun hb =>
      ⟨fun hj hbad hbefore => ⟨?dtobData, fun hp => ?dtobPData, fun ha => ⟨?ptozData, ?ptozsData⟩⟩, fun ha hj hbad hbefore => ?ztopData⟩⟩⟩
  case dtob => exact binResult_toBinary hr hw hv rfl hb hy (Core.kept_wr _ _ _) fun t ht => Core.rd_of_wr ht
  case dtobP =>
    exact binResult_toBinary hr hw hv (by simp [hp]) hb hy (Core.kept_wrPair _ _ _) fun t ht => Core.rdPair_of_wrPair hp (BitVec.isLt _) ht
  case btod => exact decResult_fromBinary hr hw hv rfl ha hroom rfl
  case btodP => exact decResult_fromBinary hr hw hv (by simp [hp]) ha hroom (signedOf_rdPair _ _)
  case dtobIllegal => exact fun h => raises_dscIllegal hr hv ht (by decide) (bne_iff_ne.2 h)
  case dtobPIllegal => exact fun h => raises_dscIllegal hr hv ht (by decide) (by simpa using h)
  case btodIllegal => exact fun h => raises_dscIllegal hr hv ht (by decide) (bne_iff_ne.2 h)
  case btodPIllegal => exact fun h => raises_dscIllegal hr hv ht (by decide) (by simpa using h)
  case dtobData => exact raises_toBinary hr hv ht rfl hb ⟨hj, hbad, hbefore⟩
  case dtobPData => exact raises_toBinary hr hv ht (by simp [hp]) hb ⟨hj, hbad, hbefore⟩
  case ptozData => exact raises_convert_packed hr hv ht ha hb ⟨hj, hbad, hbefore⟩
  case ptozsData => exact raises_convert_packed hr hv ht ha hb ⟨hj, hbad, hbefore⟩
  case ztopData => exact raises_ztop hr hv ht ha hb hj hbad hbefore

end Sys2Proof.Machine
end

section
/-! Class 0x11: the accumulator instructions (R350 to R352), and the statement on conversions and accumulators. -/
namespace Sys2Proof.Machine

section
variable {s : State} {c : CoreId} {d e f : Fin 8} {ra rb : RegNo} {k : Fin 32} {bad : Bool} {w : List RegNo} {n : Nat} {x y z : Int}

/-! ### The kinds of accumulator instruction -/

theorem decResult_accOp (hr : s.ready c = true) (hw : s.wired = true) (hv : Variant.hasDsc s.variant = true) (hbad : bad = false) {g : Core → Int}
    (hg : g (s.core c) = x) :
    DecResult s (finish (accOp s c (accNo d) bad g)) c 0x11 [d] 31 x fun t => PackedHas (nibbleAcc ((t.core c).da[d])) 16 x := by
  refine decResult_acc hr hw hv (by decide) d x ?_
  rw [illegalWhen_of_legal (by rw [hbad, badAcc_accNo]; rfl), hg]

theorem binResult_accBinary (hr : s.ready c = true) (hw : s.wired = true) (hv : Variant.hasDsc s.variant = true) (hbad : bad = false)
    (hx : PackedIs (nibbleAcc (s.core c).da[e]) 16 x) {put : Core → Nat → Core} {R : State → Nat → Prop}
    (hk : (s.core c).Kept (put (s.core c) (BitVec.ofInt n x).toNat) w [] [] 0)
    (hR : ∀ t : State, (∀ i, (t.core c).rd i = (put (s.core c) (BitVec.ofInt n x).toNat).rd i) → R t (BitVec.ofInt n x).toNat) :
    BinResult s (finish (accBinary s c (accNo e) 0 bad n put)) c 0x11 w n x R := by
  refine binResult_put hr hw hv (by decide) x hk hR ?_
  rw [illegalWhen_of_legal (by rw [hbad, badAcc_accNo]; rfl), Core.rdAcc_accNo hx]

/-! ### DACMP, DALD and DAST -/

theorem ends_dacmp (hr : s.ready c = true) (hw : s.wired = true) (hv : Variant.hasDsc s.variant = true)
    (hx : PackedIs (nibbleAcc (s.core c).da[e]) 16 x) (hy : PackedIs (nibbleAcc (s.core c).da[f]) 16 y) :
    ∃ t, Ends s s t (exec (.dacmp c 0 (accNo e) (accNo f)) s) c ((s.core c).pc + 4#48) [] flagBits
      ∧ (t.core c).nzcv = ⟨decide (x < y), decide (x = y), false, false⟩ := by
  refine ⟨_, ends_next hr hw (gateKeep_dsc hv (by decide)) (.refl s)
    (fun q => q.setFlags ⟨decide (q.rdAcc (accNo e) < q.rdAcc (accNo f)), q.rdAcc (accNo e) == q.rdAcc (accNo f), false, false⟩) [] flagBits
    (Core.kept_setFlags _ _) (illegalWhen_of_legal (by rw [badAcc_accNo, badAcc_accNo]; rfl)), ?_⟩
  simp only [nzcv_settle, State.core_updCore, if_true, Core.nzcv_retire, Core.nzcv_setFlags, Core.rdAcc_accNo hx, Core.rdAcc_accNo hy, beq_eq_decide]

/-- A field of at most 16 bytes fits an accumulator (R352). -/
theorem decResult_dald (hr : s.ready c = true) (hw : s.wired = true) (hv : Variant.hasDsc s.variant = true) (hk : k.val ≤ 15)
    (ha : s.quietDram c ((s.core c).rd ra) (k.val + 1) = true)
    (hz : PackedIs (nibbleOf (s.bytes ((s.core c).rd ra).toNat (k.val + 1))) (k.val + 1) z) :
    DecResult s (exec (.dald c (accNo d) ra k) s) c 0x11 [d] 31 z fun t => PackedHas (nibbleAcc ((t.core c).da[d])) 16 z := by
  obtain ⟨hscan, hval⟩ := reads_bytes hz (Nat.succ_pos _)
  have hfit : fitDigits 31 z = (z, false) := fitDigits_of_lt (hz.natAbs_lt.trans_le (Nat.pow_le_pow_right (by decide) (by omega)))
  refine decResult_acc hr hw hv (by decide) d z ?_
  rw [illegalWhen_of_legal (by rw [badAcc_accNo, decide_eq_false (Nat.not_lt.2 hk)]; rfl), hfit]
  simp only [readSource_quietDram ha (Nat.succ_pos _), hscan, hval]

theorem decResult_dast (hr : s.ready c = true) (hw : s.wired = true) (hv : Variant.hasDsc s.variant = true) (hk : k.val ≤ 15)
    (hx : PackedIs (nibbleAcc (s.core c).da[e]) 16 x) (ha : s.plainDram c ((s.core c).rd ra) (k.val + 1) = true) (hroom : s.sbRoom c 2 = true) :
    DecResult s (exec (.dast c (accNo e) ra k) s) c 0x11 [] (2 * (k.val + 1) - 1) x fun t => ∃ out : List Byte,
      out.length = k.val + 1 ∧ PackedHas (nibbleOf out) (k.val + 1) x ∧ Buffered s t c ((s.core c).rd ra).toNat out := by
  refine decResult_packed hr hw hv (by decide) ha (Nat.succ_pos _) hroom x ?_
  rw [illegalWhen_of_legal (by rw [badAcc_accNo, decide_eq_false (Nat.not_lt.2 hk)]; rfl)]
  simp only [Core.rdAcc_accNo hx, writeField_plainDram ha (Nat.succ_pos _) (packBytes_length _ _)]

end

/-! ### The statement -/

theorem accumulatorsCompute : Claims.AccumulatorsCompute := by
  intro s c d e f ra rb k x y z hr hw hv q a n D E acc
  have hE : badAcc E = false := badAcc_accNo e
  have hF : badAcc (accNo f) = false := badAcc_accNo f
  refine ⟨decResult_accOp hr hw hv rfl rfl, fun hx => ?source, fun hk ha hz => decResult_dald hr hw hv hk ha hz, fun ht =>
    ⟨fun hacc i hi => ?field, fun hrb i hi => ?zero, fun hk => ?length⟩⟩
  case source =>
    have hval : q.rdAcc E = x := Core.rdAcc_accNo hx
    refine ⟨decResult_accOp hr hw hv (by rw [hE]; rfl) hval, decResult_accOp hr hw hv (by rw [hE]; rfl) (congrArg Neg.neg hval),
      decResult_accOp hr hw hv hE (congrArg (· * 10 ^ k.val) hval), ?right, ?truncated,
      binResult_accBinary hr hw hv rfl hx (Core.kept_wr _ _ _) fun t ht => Core.rd_of_wr ht,
      fun hp => binResult_accBinary hr hw hv (by rw [hp]; rfl) hx (Core.kept_wrPair _ _ _) fun t ht => Core.rdPair_of_wrPair hp (BitVec.isLt _) ht,
      fun hk ha hroom => decResult_dast hr hw hv hk hx ha hroom, fun hy => ?both⟩
    case right => exact decResult_accOp hr hw hv hE ((congrArg (scaleDown 1 k.val) hval).trans (scaleDown_eq_scaled _ _ _))
    case truncated => exact decResult_accOp hr hw hv hE ((congrArg (scaleDown 0 k.val) hval).trans (scaleDown_eq_scaled _ _ _))
    case both =>
      have hval' : q.rdAcc (accNo f) = y := Core.rdAcc_accNo hy
      have hlegal : (badAcc E || badAcc (accNo f)) = false := by rw [hE, hF]; rfl
      exact ⟨decResult_accOp hr hw hv hlegal (congrArg₂ (· + ·) hval hval'), decResult_accOp hr hw hv hlegal (congrArg₂ (· - ·) hval hval'),
        decResult_accOp hr hw hv hlegal (congrArg₂ (· * ·) hval hval'), ends_dacmp hr hw hv hx hy⟩
  case field =>
    have hbad : badAcc ra = true := decide_eq_true hacc
    simp only [List.mem_cons, List.not_mem_nil, or_false] at hi
    rcases hi with rfl | rfl | rfl | rfl | rfl | rfl | rfl | rfl | rfl | rfl | rfl | rfl | rfl | rfl <;>
      exact raises_dscIllegal hr hv ht (by decide) (by simp [hbad])
  case zero =>
    simp only [List.mem_cons, List.not_mem_nil, or_false] at hi
    rcases hi with rfl | rfl | rfl | rfl | rfl | rfl <;> exact raises_dscIllegal hr hv ht (by decide) (by simp [hrb])
  case length =>
    have hlong : decide (15 < k.val) = true := decide_eq_true hk
    exact ⟨raises_dscIllegal hr hv ht (by decide) (by rw [hlong, Bool.or_true]), raises_dscIllegal hr hv ht (by decide) (by rw [hlong, Bool.or_true])⟩

/-- Settles O56: a source in DRAM or in an accumulator is read as its value, and a result is cut to its field, its word or its pair. -/
theorem decimalConversionsAndAccumulators : Obligations.DecimalConversionsAndAccumulators := ⟨decimalConversionsConvert, accumulatorsCompute⟩

end Sys2Proof.Machine
end

section
/-! A core's own bytes of DRAM, one at a time (R389, R390, R429): what the check of a unit's bytes answers, and what a read of one byte returns with
stores of the instruction in the buffer. -/
namespace Sys2Proof.Machine

/-! ### A state with one core replaced -/

section
variable (s : State) (c : CoreId) (r r' : Core)

@[simp] theorem State.core_setCore_same : (s.setCore c r).core c = r := by simp [State.setCore, State.core]

@[simp] theorem State.setCore_setCore : (s.setCore c r).setCore c r' = s.setCore c r' := by simp [State.setCore]

@[simp] theorem State.updCore_setCore (f : Core → Core) : (s.setCore c r).updCore c f = s.setCore c (f r) := by
  rw [State.updCore, State.core_setCore_same, State.setCore_setCore]

theorem State.setCore_core : s.setCore c (s.core c) = s := updCore_self s c

end

/-! ### Bytes that are reached as they stand -/

/-- Byte x lies in installed DRAM, and core c reaches it without translation and keys. -/
structure State.PlainAt (s : State) (c : CoreId) (x : Nat) : Prop where
  te : cswTe (s.core c).csw = false
  keys : s.flag F.KEY_CTL_ENABLE = false
  installed : x < s.installed
  low : x < 0x0200000000

/-- A read of byte x meets neither poison nor an error to correct, nor a store that waits. -/
structure State.QuietAt (s : State) (c : CoreId) (x : Nat) : Prop where
  plain : s.PlainAt c x
  clean : s.poison x 1 = none
  exact : s.dram.eccSoft = []
  apart : ∀ e ∈ (s.core c).sb, e.touches x 1 = false

section
variable {s : State} {c : CoreId} {a : Word} {n x : Nat} {r : Core}

theorem State.plainAt_of_plainDram (h : s.plainDram c a n = true) (hlt : x < a.toNat + n) : s.PlainAt c x := by
  obtain ⟨hte, hi, hl, hk⟩ := State.plainDram_iff.1 h
  exact ⟨hte, hk, by omega, by omega⟩

theorem State.quietAt_of_quietDram (h : s.quietDram c a n = true) (hle : a.toNat ≤ x) (hlt : x < a.toNat + n) : s.QuietAt c x := by
  have hplain := State.plainDram_of_quietDram h
  obtain ⟨-, -, hlow, -⟩ := State.plainDram_iff.1 hplain
  simp only [State.quietDram, Bool.and_eq_true, Option.isNone_iff_eq_none, List.isEmpty_iff, List.all_eq_true, Bool.not_eq_true'] at h
  obtain ⟨⟨⟨-, hpoison⟩, hecc⟩, hsb⟩ := h
  exact ⟨State.plainAt_of_plainDram hplain hlt, poison_dram_within hlow hpoison Nat.one_pos hle hlt, hecc,
    fun e he => touches_within (hsb e he) hle hlt⟩

theorem State.toNat_add_le_of_plainDram (h : s.plainDram c a n = true) : a.toNat + n ≤ 0x0200000000 := (State.plainDram_iff.1 h).2.2.1

/-! ### The check of the bytes a unit uses (R389) -/

/-- Every part lies where its virtual address says, in memory of type WB. -/
def InPlace (ps : List (Nat × Part)) : Prop := ∀ p ∈ ps, p.2.pa = p.2.va ∧ p.2.mt = 0

theorem bytePart_of_inPlace {ps : List (Nat × Part)} (h : InPlace ps) (opn va : Nat) : bytePart ps opn va = ⟨va, va, 1, 0⟩ := by
  unfold bytePart
  split
  · next p hfind =>
    obtain ⟨hpa, hmt⟩ := h _ (List.mem_of_find?_eq_some hfind)
    dsimp only at hpa hmt
    rw [hpa, hmt, Nat.add_sub_cancel_left]
  · rfl

theorem mem_usePages {l : List Use} {seen : List (Nat × Nat)} {p : Nat × Piece} (h : p ∈ usePages l seen) :
    ∃ u ∈ l, p.2 = ⟨u.va, 1, 0, u.kind⟩ := by
  induction l generalizing seen with
  | nil => exact absurd h List.not_mem_nil
  | cons u l ih =>
    rw [usePages] at h
    split at h
    · obtain ⟨v, hv, hp⟩ := ih h
      exact ⟨v, List.mem_cons_of_mem _ hv, hp⟩
    · rcases List.mem_cons.1 h with rfl | h
      · exact ⟨u, List.mem_cons_self, rfl⟩
      · obtain ⟨v, hv, hp⟩ := ih h
        exact ⟨v, List.mem_cons_of_mem _ hv, hp⟩

/-- Bytes of DRAM pass the check, which changes nothing; the core may meanwhile have moved on in the instruction. -/
theorem checkUses_plain (hcsw : r.csw = (s.core c).csw) {l : List Use} (h : ∀ u ∈ l, s.PlainAt c u.va) :
    ∃ ps, checkUses (s.setCore c r) c l = (s.setCore c r, .inr ps) ∧ InPlace ps := by
  have hcheck : checkAll (s.setCore c r) c ((s.setCore c r).core c).ctx false ((usePages l []).map (·.2))
      = (s.setCore c r, .inr (((usePages l []).map (·.2)).map Piece.dramPart)) := by
    rcases l.eq_nil_or_concat with rfl | ⟨l, u, rfl⟩
    · rfl
    · obtain ⟨hte, hkeys, -, -⟩ := h u (by simp)
      have hctx : ((s.setCore c r).core c).ctx.te = false := by
        rw [State.core_setCore_same]
        exact (congrArg cswTe hcsw).trans hte
      refine checkAll_dram (s := s.setCore c r) hctx hkeys fun p hp => ?_
      obtain ⟨y, hy, rfl⟩ := List.mem_map.1 hp
      obtain ⟨v, hv, hva⟩ := mem_usePages hy
      obtain ⟨-, -, hi, hlow⟩ := h v hv
      rw [hva]
      exact ⟨hlow, hi⟩
  refine ⟨((usePages l []).map (·.1)).zip (((usePages l []).map (·.2)).map Piece.dramPart), by simp only [checkUses, hcheck], fun p hp => ?_⟩
  obtain ⟨y, -, hy⟩ := List.mem_map.1 (List.of_mem_zip (show (p.1, p.2) ∈ _ from hp)).2
  rw [← hy]
  exact ⟨rfl, rfl⟩

/-! ### What the store buffer supplies to a read of one byte (R429) -/

/-- A byte that a store writes. -/
def SbEntry.byteAt (e : SbEntry) (x : Nat) : Byte := e.bytes.getD (x - e.addr) 0

theorem SbEntry.touches_one_iff {e : SbEntry} : e.touches x 1 = true ↔ e.addr ≤ x ∧ x < e.addr + e.bytes.length := by
  simp only [SbEntry.touches, Bool.and_eq_true, decide_eq_true_eq, Nat.lt_succ_iff]

/-- A read of byte x by a core with this store buffer returns v: the youngest store that writes the byte supplies it, or none does and memory holds it. -/
def Supplies (sb : List SbEntry) (x : Nat) (mem v : Byte) : Prop :=
  forwarded sb x 1 = some [v] ∨ (∀ e ∈ sb, e.touches x 1 = false) ∧ v = mem

variable {sb : List SbEntry} {e : SbEntry} {mem v : Byte}

theorem lastTouch_le_length (sb : List SbEntry) (a n : Nat) : lastTouch sb a n ≤ sb.length := by
  induction sb with
  | nil => exact le_refl _
  | cons e sb ih =>
    simp only [lastTouch, List.length_cons]
    split
    · omega
    · split <;> omega

theorem lastTouch_append_of_untouched {a : Nat} (h : e.touches a n = false) : lastTouch (sb ++ [e]) a n = lastTouch sb a n := by
  induction sb with
  | nil => simp [lastTouch, h]
  | cons f sb ih => simp only [List.cons_append, lastTouch, ih]

theorem Supplies.append_untouched (h : Supplies sb x mem v) (he : e.touches x 1 = false) : Supplies (sb ++ [e]) x mem v := by
  rcases h with h | ⟨hsb, hv⟩
  · left
    have hle := lastTouch_le_length sb x 1
    have hpos : 0 < lastTouch sb x 1 := by
      by_contra h0
      simp [forwarded, h0] at h
      split at h <;> simp at h
    rw [← h, forwarded, forwarded, lastTouch_append_of_untouched he, List.getElem?_append_left (by omega)]
  · exact .inr ⟨List.forall_mem_append.2 ⟨hsb, by simpa using he⟩, hv⟩

theorem supplies_append_touched (he : e.touches x 1 = true) : Supplies (sb ++ [e]) x mem (e.byteAt x) := by
  obtain ⟨hle, hlt⟩ := SbEntry.touches_one_iff.1 he
  have hcovers : e.covers x 1 = true := by
    simp only [SbEntry.covers, Bool.and_eq_true, decide_eq_true_eq]
    omega
  have hbyte : (e.bytes.drop (x - e.addr)).take 1 = [e.byteAt x] := by
    have hi : x - e.addr < e.bytes.length := by omega
    rw [List.drop_eq_getElem_cons hi, SbEntry.byteAt, List.getD_eq_getElem _ _ hi]
    rfl
  left
  simp [forwarded, lastTouch_append he (post := []) (fun f hf => absurd hf List.not_mem_nil), hcovers, hbyte]

/-- A byte of DRAM is read as the buffer supplies it, and nothing leaves the buffer. -/
theorem readByte_of_supplies (hq : s.QuietAt c x) (h : Supplies r.sb x (s.byte x) v) :
    readByte (s.setCore c r) c ⟨x, x, 1, 0⟩ = (s.setCore c r, .inr v.toNat) := by
  obtain ⟨⟨-, -, -, hlow⟩, hclean, hexact, -⟩ := hq
  have hread : readPart (s.setCore c r) c ⟨x, x, 1, 0⟩ = (s.setCore c r, .ok [v]) := by
    rcases h with h | ⟨hsb, rfl⟩
    · simp [readPart, h]
    · exact readPart_quiet rfl hlow hclean hexact (by rw [State.core_setCore_same]; exact hsb)
  simp [readByte, hread]

end
end Sys2Proof.Machine
end

section
/-! Instructions that are executed in units (R361, R388, R392): what a core has done so far, how a run of units ends, and what the instruction leaves. -/
namespace Sys2Proof.Machine

/-! ### What a core has done so far -/

section
variable (q : Core) (n : RegNo) (v : Word)

@[simp] theorem Core.sb_wr : (q.wr n v).sb = q.sb := by
  unfold Core.wr Core.setSp
  split
  · rfl
  · split <;> rfl

@[simp] theorem Core.due_wr : (q.wr n v).due = q.due := by
  unfold Core.wr Core.setSp
  split
  · rfl
  · split <;> rfl

@[simp] theorem Core.pc_wr : (q.wr n v).pc = q.pc := by
  unfold Core.wr Core.setSp
  split
  · rfl
  · split <;> rfl

end

section
variable {q r : Core} {w fl : List RegNo} {d : List (Fin 8)} {m : Word} {es : List SbEntry} {n : RegNo} {e : SbEntry}

theorem Core.Kept.of_subset {w' : List RegNo} (h : q.Kept r w fl d m) (hw : w ⊆ w') : q.Kept r w' fl d m :=
  { h with w := ⟨fun n hn => h.w.regs n fun hmem => hn (hw hmem), h.w.pointers⟩ }

/-- Inside an instruction a core has written general registers of `w` and put the stores `es` into its buffer. -/
structure Core.Strung (q r : Core) (w : List RegNo) (es : List SbEntry) : Prop where
  kept : q.Kept r w [] [] 0
  sb : r.sb = q.sb ++ es
  due : r.due = q.due
  pc : r.pc = q.pc

theorem Core.Strung.refl (q : Core) (w : List RegNo) : q.Strung q w [] := ⟨q.kept_refl _ _ _ _, (List.append_nil _).symm, rfl, rfl⟩

theorem Core.Strung.wr (h : q.Strung r w es) (hn : n ∈ w) (v : Word) : q.Strung (r.wr n v) w es where
  kept := (h.kept.trans (r.kept_wr n v) (by decide)).of_subset (List.append_subset.2 ⟨List.Subset.refl w, by simpa using hn⟩)
  sb := (r.sb_wr n v).trans h.sb
  due := (r.due_wr n v).trans h.due
  pc := (r.pc_wr n v).trans h.pc

theorem Core.Strung.queue (h : q.Strung r w es) (es' : List SbEntry) : q.Strung (r.queue es') w (es ++ es') where
  kept := (h.kept.trans (r.kept_queue es') (by decide)).of_subset (by simp)
  sb := by rw [Core.queue, h.sb, List.append_assoc]
  due := h.due
  pc := h.pc

theorem Core.Strung.csw (h : q.Strung r w es) : r.csw = q.csw := Core.csw_of_cswKept_zero h.kept.csw

theorem Core.rd_queue (q : Core) (es : List SbEntry) (n : RegNo) : (q.queue es).rd n = q.rd n := rfl

theorem Core.rd_wr_self (q : Core) (hn : n ≠ 0) (v : Word) : (q.wr n v).rd n = v := by rw [Core.rd_wr, if_pos ⟨rfl, hn⟩]

theorem Core.rd_wr_other (q : Core) {n' : RegNo} (h : n ≠ n') (v : Word) : (q.wr n v).rd n' = q.rd n' := by
  rw [Core.rd_wr, if_neg fun hn => h hn.1]

end

/-! ### The end of an instruction whose core alone changed -/

/-- What the statements read of a core at the end of an instruction. -/
structure Core.Alike (q r : Core) : Prop where
  rd : ∀ n, q.rd n = r.rd n
  sb : q.sb = r.sb
  nzcv : q.nzcv = r.nzcv

section
variable {s : State} {c : CoreId} {r : Core} {op : Nat} {body : State → State × IRes} {w f : List RegNo} {d : List (Fin 8)} {m : Word}

theorem leaves_setCore (hw : s.wired = true) (hk : (s.core c).Kept r w f d m) : Leaves s s (s.setCore c r).settle c w f d m := by
  obtain ⟨hcores, hrest⟩ := leaves_rest (c := c) hw (.refl s) fun _ => r
  obtain ⟨⟨hregs, hpointers⟩, hf, hd, ⟨hcrL, hcrP⟩, ⟨hfcsw, hfta⟩, hcsw⟩ := hk
  refine ⟨⟨fun n hn => ?_, fun x i hx => ?_⟩, fun n hn => ?_, fun n hn => ?_, ⟨?_, ?_⟩, ⟨?_, ?_⟩,
    Core.cswKept_settle (wired_csw (State.wired_core hw c)) hcsw ?_, hcores, hrest⟩
  · rw [rd_settle, State.core_setCore_same, hregs n hn]
  · rw [spOf_settle, State.core_setCore_same, hpointers x i hx]
  · rw [f_settle, State.core_setCore_same, hf n hn]
  · rw [da_settle, State.core_setCore_same, hd n hn]
  · rw [crL_settle, State.core_setCore_same, hcrL]
  · rw [crP_settle, State.core_setCore_same, hcrP]
  · rw [fcsw_settle, State.core_setCore_same, hfcsw, wired_fcsw (State.wired_core hw c)]
  · rw [fta_settle, State.core_setCore_same, hfta]
  · rw [csw_settle, State.core_setCore_same]

theorem alike_settle (s : State) (c : CoreId) (r : Core) : ((s.setCore c r).settle.core c).Alike r :=
  ⟨fun n => by rw [rd_settle, State.core_setCore_same], by rw [sb_settle, State.core_setCore_same],
    by rw [nzcv_settle, State.core_setCore_same]⟩

/-- An instruction that has changed its core to r and goes on to the next. -/
theorem ends_core_next (hr : s.ready c = true) (hw : s.wired = true) (hg : gateKeep s c op = none) (hk : (s.core c).Kept r w [] [] m)
    (hb : body s = (s.setCore c r, .next)) :
    ∃ t, Ends s s t (finish (run s c op body)) c ((s.core c).pc + 4#48) w m ∧ (t.core c).Alike r := by
  refine ⟨_, ends_next hr hw hg (.refl s) (fun _ => r) w m hk hb, ?_⟩
  rw [show (s.updCore c fun q => Core.retire r q.hold.isSome (q.pc + 4#48)) = s.setCore c (r.retire (s.core c).hold.isSome ((s.core c).pc + 4#48)) from rfl]
  obtain ⟨hrd, hsb, hnzcv⟩ := alike_settle s c (r.retire (s.core c).hold.isSome ((s.core c).pc + 4#48))
  exact ⟨hrd, hsb, hnzcv⟩

/-- An instruction that is interrupted at a unit boundary (R392): its core has changed to r, and the instruction is still to be executed. -/
theorem ends_core_cut (hr : s.ready c = true) (hw : s.wired = true) (hg : gateKeep s c op = none) (hk : (s.core c).Kept r w [] [] m)
    (hpc : r.pc = (s.core c).pc) (hb : body s = (s.setCore c r, .cut)) :
    ∃ t, Ends s s t (finish (run s c op body)) c (s.core c).pc w m ∧ (t.core c).Alike r := by
  refine ⟨(s.setCore c r).settle, ⟨by rw [run_ready hr hg, hb]; rfl, ?_, leaves_setCore hw hk⟩, alike_settle s c r⟩
  rw [pc_settle, State.core_setCore_same, hpc]
  exact (and_pcBits_iff _).2 (wired_pc (State.wired_core hw c))

theorem due_of_ready (hr : s.ready c = true) : (s.core c).due = Due.none := by
  have h := State.ready_dueEvent hr
  unfold State.dueEvent at h
  dsimp only at h
  generalize (s.core c).due = d at h ⊢
  obtain ⟨mc, dev, dog, stop⟩ := d
  cases mc with
  | cons _ _ => exact absurd h (by simp)
  | nil => cases dev <;> cases dog <;> cases stop <;> simp_all [Due.none]

end

/-! ### Runs of units (R388, R392, R393) -/

section
variable {s : State} {c : CoreId} {unit : State → State × UnitRes}

/-- A run without a limit whose units keep an invariant and lower its measure ends with the instruction complete. -/
theorem units_of_invariant {I : Nat → Core → Prop} {P : Core → Prop}
    (hstep : ∀ n r, I n r → (∃ r', unit (s.setCore c r) = (s.setCore c r', .done) ∧ P r')
      ∨ ∃ r' k, k < n ∧ unit (s.setCore c r) = (s.setCore c r', .more) ∧ r'.due = Due.none ∧ I k r')
    {fuel n : Nat} {r : Core} (hI : I n r) (hfuel : n < fuel) : ∃ r', units unit c fuel 0 (s.setCore c r) = (s.setCore c r', .next) ∧ P r' := by
  induction fuel generalizing n r with
  | zero => exact absurd hfuel (Nat.not_lt_zero n)
  | succ fuel ih =>
    rcases hstep n r hI with ⟨r', hunit, hP⟩ | ⟨r', k, hk, hunit, hdue, hI'⟩
    · exact ⟨r', by simp only [units, hunit], hP⟩
    · obtain ⟨r'', hrun, hP⟩ := ih hI' (by omega)
      have hgo : ¬ (0 = 1 ∨ ((s.setCore c r').core c).due ≠ Due.none) := by
        rw [State.core_setCore_same, hdue]
        simp
      exact ⟨r'', by simp only [units, hunit, if_neg hgo, hrun], hP⟩

/-- An execution limited to one unit. -/
theorem units_one {fuel : Nat} {t u : State} {res : UnitRes} (hunit : unit t = (u, res)) (hres : ∀ e, res ≠ .exc e) :
    units unit c (fuel + 1) 1 t = (u, if res = .done then .next else .cut) := by
  cases res with
  | exc e => exact absurd rfl (hres e)
  | done => simp [units, hunit]
  | more => simp [units, hunit]

end

/-! ### Blocks of 256 bytes (R388) -/

/-- The blocks of 256 bytes that n bytes from a reach into. -/
def blocks (a n : Nat) : Nat := (a % 256 + n + 255) / 256

theorem blocks_lt_unitFuel (a n : Nat) : blocks a n < unitFuel n := by
  unfold blocks unitFuel
  omega

/-- A unit that ends before its operand ends with a block. -/
theorem blocks_up {a l n : Nat} (hn : n = min l (256 - a % 256)) (hlt : n < l) : blocks (a + n) (l - n) + 1 = blocks a l := by
  unfold blocks
  omega

theorem blocks_down {a l n : Nat} (hn : n = min l ((a + (l - 1)) % 256 + 1)) (hlt : n < l) : blocks a (l - n) + 1 = blocks a l := by
  unfold blocks
  omega

end Sys2Proof.Machine
end

section
/-! MOVS, MOVB, MOVT and FILLS over DRAM (R382, R386 to R391): what a unit writes, and what it leaves. -/
namespace Sys2Proof.Machine

/-! ### Bytes as an instruction sees them (R390) -/

section
variable (s : State) (d : Nat) (out bs : List Byte) (b : Byte)

/-- Stores behind those that an instruction has made show their own bytes, and elsewhere what stood before. -/
theorem State.seen_append (x : Nat) : s.seen d (out ++ bs) (out ++ bs).length x =
    if d + out.length ≤ x ∧ x < d + out.length + bs.length then bs.getD (x - (d + out.length)) 0 else s.seen d out out.length x := by
  unfold State.seen
  simp only [List.length_append, List.getD_eq_getElem?_getD]
  by_cases hin : d + out.length ≤ x ∧ x < d + out.length + bs.length
  · rw [if_pos hin, if_pos (by omega), List.getElem?_append_right (by omega), Nat.sub_sub]
  · rw [if_neg hin]
    by_cases hx : d ≤ x ∧ x < d + out.length
    · rw [if_pos hx, if_pos (by omega), List.getElem?_append_left (by omega)]
    · rw [if_neg hx, if_neg (by omega)]

theorem State.seen_prepend (x : Nat) : s.seen d (bs ++ out) (bs ++ out).length x =
    if d ≤ x ∧ x < d + bs.length then bs.getD (x - d) 0 else s.seen (d + bs.length) out out.length x := by
  unfold State.seen
  simp only [List.length_append, List.getD_eq_getElem?_getD]
  by_cases hin : d ≤ x ∧ x < d + bs.length
  · rw [if_pos hin, if_pos (by omega), List.getElem?_append_left (by omega)]
  · rw [if_neg hin]
    by_cases hx : d + bs.length ≤ x ∧ x < d + bs.length + out.length
    · rw [if_pos hx, if_pos (by omega), List.getElem?_append_right (by omega), Nat.sub_sub]
    · rw [if_neg hx, if_neg (by omega)]

theorem State.update_seen_append : Function.update (s.seen d out out.length) (d + out.length) b = s.seen d (out ++ [b]) (out ++ [b]).length := by
  funext x
  rw [State.seen_append, Function.update_apply, List.length_singleton]
  by_cases hx : x = d + out.length
  · rw [if_pos hx, if_pos (by omega), hx, Nat.sub_self]
    rfl
  · rw [if_neg hx, if_neg (by omega)]

theorem State.update_seen_cons : Function.update (s.seen (d + 1) out out.length) d b = s.seen d (b :: out) (b :: out).length := by
  funext x
  rw [← List.singleton_append, State.seen_prepend, Function.update_apply, List.length_singleton]
  by_cases hx : x = d
  · rw [if_pos hx, if_pos (by omega), hx, Nat.sub_self]
    rfl
  · rw [if_neg hx, if_neg (by omega)]

end

section
variable {s : State} {c : CoreId} {d : Nat} {out bs : List Byte} {sb : List SbEntry}

/-- The stores of an instruction supply its later reads. -/
theorem supplies_append {j x : Nat} (hj : out.length = j) (h : Supplies sb x (s.byte x) (s.seen d out j x)) :
    Supplies (sb ++ [⟨d + j, bs, false⟩]) x (s.byte x) (s.seen d (out ++ bs) (j + bs.length) x) := by
  subst hj
  rw [← List.length_append, State.seen_append]
  by_cases hx : d + out.length ≤ x ∧ x < d + out.length + bs.length
  · rw [if_pos hx]
    exact supplies_append_touched (SbEntry.touches_one_iff.2 hx)
  · rw [if_neg hx]
    exact h.append_untouched (Bool.eq_false_iff.2 fun ht => hx (SbEntry.touches_one_iff.1 ht))

theorem supplies_prepend {j x : Nat} (hj : out.length = j) (h : Supplies sb x (s.byte x) (s.seen (d + bs.length) out j x)) :
    Supplies (sb ++ [⟨d, bs, false⟩]) x (s.byte x) (s.seen d (bs ++ out) (j + bs.length) x) := by
  subst hj
  rw [Nat.add_comm, ← List.length_append, State.seen_prepend]
  by_cases hx : d ≤ x ∧ x < d + bs.length
  · rw [if_pos hx]
    exact supplies_append_touched (SbEntry.touches_one_iff.2 hx)
  · rw [if_neg hx]
    exact h.append_untouched (Bool.eq_false_iff.2 fun ht => hx (SbEntry.touches_one_iff.1 ht))

theorem tiles_append {es : List SbEntry} {j : Nat} (hj : out.length = j) (h : tiles es d out) (bs : List Byte) :
    tiles (es ++ [⟨d + j, bs, false⟩]) d (out ++ bs) := by
  subst hj
  induction es generalizing d out with
  | nil =>
    rw [show out = [] from h]
    exact ⟨rfl, List.take_length.symm, List.drop_length⟩
  | cons e es ih =>
    obtain ⟨haddr, hbytes, hrest⟩ := h
    have hle : e.bytes.length ≤ out.length := by
      have := congrArg List.length hbytes
      rw [List.length_take] at this
      omega
    have hnext := ih hrest
    rw [List.length_drop, Nat.add_assoc, Nat.add_sub_cancel' hle] at hnext
    refine ⟨haddr, by rwa [List.take_append_of_le_length hle], ?_⟩
    rwa [List.drop_append_of_le_length hle]

theorem tiles_cons {es : List SbEntry} (h : tiles es (d + bs.length) out) : tiles (⟨d, bs, false⟩ :: es) d (bs ++ out) :=
  ⟨rfl, List.take_left.symm, by rwa [List.drop_left]⟩

end

/-! ### One position -/

/-- What a position writes, of the bytes that it sees (R382). -/
def Move.value (m : Move) (v : Nat → Byte) (src : Nat) : Byte :=
  match m with
  | .copy => v src
  | .table t => v (t.toNat + (v src).toNat)
  | .fill b => BitVec.ofNat 8 b

/-- The bytes that a position may read. -/
def Move.reads (m : Move) (src : Nat) : List Nat :=
  match m with
  | .copy => [src]
  | .table t => src :: (List.range 256).map (t.toNat + ·)
  | .fill _ => []

/-- The table does not reach the end of the address space; a fill is a byte. -/
def Move.Proper : Move → Prop
  | .copy => True
  | .table t => t.toNat + 256 ≤ 2 ^ 48
  | .fill b => b < 256

/-- What positions write, each of the bytes as the earlier ones left them (R390): address and byte. -/
def Move.writes (m : Move) : (Nat → Byte) → List (Nat × Nat) → List (Nat × Byte)
  | _, [] => []
  | v, p :: l => (p.2, m.value v p.1) :: m.writes (Function.update v p.2 (m.value v p.1)) l

/-- With `wrote` written in the unit, a position sees v at the addresses that R names. -/
def Shows (t : State) (c : CoreId) (ps : List (Nat × Part)) (wrote : List (Nat × Nat)) (R : Nat → Prop) (v : Nat → Byte) : Prop :=
  ∀ x, R x → ∀ opn, seenByte t c ps wrote opn x = (t, .inr (v x).toNat)

section
variable {s t : State} {c : CoreId} {ps : List (Nat × Part)} {wrote : List (Nat × Nat)} {R : Nat → Prop} {v : Nat → Byte} {m : Move}

theorem addrAt_of_lt {a : Word} {i : Nat} (h : a.toNat + i < 2 ^ 48) : addrAt a i = a.toNat + i := Nat.mod_eq_of_lt h

theorem Shows.cons (h : Shows t c ps wrote R v) (hps : InPlace ps) (dst : Nat) (b : Byte) :
    Shows t c ps ((dst, b.toNat) :: wrote) R (Function.update v dst b) := by
  intro x hx opn
  have hold := h x hx opn
  simp only [seenByte, bytePart_of_inPlace hps, List.find?_cons, Function.update_apply] at hold ⊢
  by_cases hd : x = dst
  · simp [hd]
  · rw [if_neg hd, beq_eq_false_iff_ne.2 (Ne.symm hd)]
    exact hold

theorem moveByte_of_shows (h : Shows t c ps wrote R v) (hm : m.Proper) {src : Nat} (hsrc : ∀ x ∈ m.reads src, R x) :
    moveByte t c ps wrote m src = (t, .inr (m.value v src).toNat) := by
  cases m with
  | copy => exact h src (hsrc src (List.mem_singleton_self src)) 1
  | fill b => rw [moveByte, Move.value, BitVec.toNat_ofNat, Nat.mod_eq_of_lt hm]
  | table a =>
    have hb := (v src).isLt
    have hmem : a.toNat + (v src).toNat ∈ (Move.table a).reads src :=
      List.mem_cons_of_mem _ (List.mem_map.2 ⟨_, List.mem_range.2 hb, rfl⟩)
    have hlast : a.toNat + 256 ≤ 2 ^ 48 := hm
    simp only [moveByte, h src (hsrc src List.mem_cons_self) 1, addrAt_of_lt (show a.toNat + (v src).toNat < 2 ^ 48 by omega), h _ (hsrc _ hmem) 0]
    rfl

theorem moveLoop_of_shows (h : Shows t c ps wrote R v) (hps : InPlace ps) (hm : m.Proper) {l : List (Nat × Nat)}
    (hl : ∀ p ∈ l, ∀ x ∈ m.reads p.1, R x) :
    moveLoop c ps m l wrote t = (t, .inr (((m.writes v l).map fun p => (p.1, p.2.toNat)).reverse ++ wrote)) := by
  induction l generalizing wrote v with
  | nil => rfl
  | cons p l ih =>
    obtain ⟨hp, hrest⟩ := List.forall_mem_cons.1 hl
    simp only [moveLoop, moveByte_of_shows h hm hp, bytePart_of_inPlace hps, ih (h.cons hps p.2 _) hrest, Move.writes]
    simp

/-! ### A unit -/

variable {r : Core} {l : List (Nat × Nat)}

theorem plainAt_moveUses (hm : m.Proper) (hl : l ≠ []) (hsrc : ∀ p ∈ l, ∀ x ∈ m.reads p.1, s.QuietAt c x) (hdst : ∀ p ∈ l, s.PlainAt c p.2) :
    ∀ u ∈ moveUses m l, s.PlainAt c u.va := by
  intro u hu
  obtain ⟨p, hp⟩ := List.exists_mem_of_ne_nil l hl
  rcases List.mem_append.1 hu with hu | hu
  · cases m with
    | copy => exact absurd hu List.not_mem_nil
    | fill b => exact absurd hu List.not_mem_nil
    | table a =>
      obtain ⟨i, hi, rfl⟩ := List.mem_map.1 hu
      have hi' := List.mem_range.1 hi
      have hlast : a.toNat + 256 ≤ 2 ^ 48 := hm
      dsimp only
      rw [addrAt_of_lt (by omega)]
      exact (hsrc p hp _ (List.mem_cons_of_mem _ (List.mem_map.2 ⟨i, hi, rfl⟩))).plain
  · obtain ⟨y, hy, hu⟩ := List.mem_flatMap.1 hu
    rcases List.mem_append.1 hu with hu | hu
    · cases m with
      | fill b => exact absurd hu List.not_mem_nil
      | copy | table =>
        rw [List.mem_singleton.1 hu]
        exact (hsrc y hy y.1 List.mem_cons_self).plain
    · rw [List.mem_singleton.1 hu]
      exact hdst y hy

/-- A unit over DRAM puts one store into the buffer: of its bytes, at its lowest address. -/
theorem moveUnit_plain (hcsw : r.csw = (s.core c).csw) (hroom : r.sb.length < 32) (hm : m.Proper) (hl : l ≠ [])
    (hsrc : ∀ p ∈ l, ∀ x ∈ m.reads p.1, s.QuietAt c x) (hdst : ∀ p ∈ l, s.PlainAt c p.2)
    (hv : ∀ x, s.QuietAt c x → Supplies r.sb x (s.byte x) (v x)) (down : Bool) :
    moveUnit (s.setCore c r) c m l down = (s.setCore c (r.queue [⟨(if down then l.getLastD (0, 0) else l.headD (0, 0)).2,
      if down then ((m.writes v l).map (·.2)).reverse else (m.writes v l).map (·.2), false⟩]), none) := by
  obtain ⟨ps, hcheck, hps⟩ := checkUses_plain hcsw (plainAt_moveUses hm hl hsrc hdst)
  have hshows : Shows (s.setCore c r) c ps [] (s.QuietAt c) v := by
    intro x hx opn
    simp only [seenByte, bytePart_of_inPlace hps, List.find?_nil]
    exact readByte_of_supplies hx (hv x hx)
  have hte : ((s.setCore c r).core c).ctx.te = false := by
    obtain ⟨p, hp⟩ := List.exists_mem_of_ne_nil l hl
    rw [State.core_setCore_same]
    exact (congrArg cswTe hcsw).trans (hdst p hp).te
  have hbytes : ∀ l' : List (Nat × Byte), (l'.map fun p => (p.1, p.2.toNat)).map (fun w => BitVec.ofNat 8 w.2) = l'.map (·.2) := by
    simp
  unfold moveUnit
  simp only [hcheck, moveLoop_of_shows hshows hps hm hsrc, bytePart_of_inPlace hps, List.append_nil]
  rw [writePart_dram hte rfl, State.core_setCore_same, if_neg (by omega), State.updCore_setCore]
  cases down <;> simp only [Bool.false_eq_true, if_false, if_true, List.reverse_reverse, List.map_reverse, hbytes] <;> rfl

end
end Sys2Proof.Machine
end

section
/-! Runs of units that store: what they write (R382, R390), the loop over the units, and how the instruction ends (R386, R388, R392). -/
namespace Sys2Proof.Machine

/-! ### The bytes written -/

/-- The bytes that n positions write from d upwards, each read after the earlier ones are written (R390). -/
def State.moveOut (s : State) (m : Move) (d a : Nat) : Nat → List Byte
  | 0 => []
  | n + 1 => s.moveOut m d a n ++ [m.value (s.seen d (s.moveOut m d a n) n) (a + n)]

/-- The bytes that n positions write below dEnd, from the high end down (R382). -/
def State.moveOutDown (s : State) (dEnd aEnd : Nat) : Nat → List Byte
  | 0 => []
  | n + 1 => s.seen (dEnd - n) (s.moveOutDown dEnd aEnd n) n (aEnd - n - 1) :: s.moveOutDown dEnd aEnd n

section
variable (s : State) (m : Move) (d a : Nat)

theorem State.length_moveOut (n : Nat) : (s.moveOut m d a n).length = n := by
  induction n with
  | zero => rfl
  | succ n ih => rw [State.moveOut, List.length_append, ih, List.length_singleton]

theorem State.length_moveOutDown (n : Nat) : (s.moveOutDown d a n).length = n := by
  induction n with
  | zero => rfl
  | succ n ih => rw [State.moveOutDown, List.length_cons, ih]

theorem State.take_moveOut {i n : Nat} (h : i ≤ n) : (s.moveOut m d a n).take i = s.moveOut m d a i := by
  induction n, h using Nat.le_induction with
  | base => exact List.take_of_length_le (s.length_moveOut m d a i).le
  | succ n h ih => rw [State.moveOut, List.take_append_of_le_length (by rwa [State.length_moveOut]), ih]

theorem State.drop_moveOutDown {i n : Nat} (h : i ≤ n) : (s.moveOutDown d a n).drop (n - i) = s.moveOutDown d a i := by
  induction n, h using Nat.le_induction with
  | base => rw [Nat.sub_self, List.drop_zero]
  | succ n h ih => rw [Nat.succ_sub h, State.moveOutDown, List.drop_succ_cons, ih]

/-- Of the bytes written the first i are all that a position sees of its i-th place. -/
theorem State.seen_take (out : List Byte) (i : Nat) : s.seen d (out.take i) i = s.seen d out i := by
  funext x
  unfold State.seen
  by_cases hx : d ≤ x ∧ x < d + i
  · rw [if_pos hx, if_pos hx, List.getD_eq_getElem?_getD, List.getElem?_take_of_lt (by omega), List.getD_eq_getElem?_getD]
  · rw [if_neg hx, if_neg hx]

theorem State.getD_moveOut {i n : Nat} (h : i < n) : (s.moveOut m d a n).getD i 0 = m.value (s.seen d (s.moveOut m d a n) i) (a + i) := by
  have hprefix : (s.moveOut m d a n)[i]? = (s.moveOut m d a (i + 1))[i]? := by
    rw [← s.take_moveOut m d a h, List.getElem?_take_of_lt (Nat.lt_succ_self i)]
  rw [← s.seen_take d _ i, s.take_moveOut m d a h.le, List.getD_eq_getElem?_getD, hprefix, State.moveOut,
    List.getElem?_append_right (s.length_moveOut m d a i).le, State.length_moveOut, Nat.sub_self]
  rfl

theorem State.getD_moveOutDown {i n : Nat} (h : i < n) : (s.moveOutDown d a n).getD i 0
    = s.seen (d - (n - 1 - i)) (s.moveOutDown d a (n - 1 - i)) (n - 1 - i) (a - (n - 1 - i) - 1) := by
  have hdrop := s.drop_moveOutDown d a (show n - 1 - i + 1 ≤ n by omega)
  rw [show n - (n - 1 - i + 1) = i by omega] at hdrop
  have hhead := congrArg (·[0]?) hdrop
  simp only [List.getElem?_drop, Nat.add_zero, State.moveOutDown, List.getElem?_cons_zero] at hhead
  rw [List.getD_eq_getElem?_getD, hhead]
  rfl

theorem State.moveOut_succ (n : Nat) :
    s.moveOut m d a (n + 1) = s.moveOut m d a n ++ [m.value (s.seen d (s.moveOut m d a n) n) (a + n)] := rfl

variable {m}

/-- A unit of n positions after j writes the next bytes. -/
theorem Move.writes_up {j n : Nat} {src : Nat → Nat} (hsrc : ∀ i < n, ∀ v, m.value v (src i) = m.value v (a + j + i)) :
    s.moveOut m d a j ++ (m.writes (s.seen d (s.moveOut m d a j) j) ((List.range n).map fun i => (src i, d + j + i))).map (·.2)
      = s.moveOut m d a (j + n) := by
  induction n generalizing j src with
  | zero => rw [List.range_zero, List.map_nil, Move.writes, List.map_nil, List.append_nil, Nat.add_zero]
  | succ n ih =>
    have hnext := ih (j := j + 1) (src := fun i => src (i + 1)) fun i hi v => by
      rw [hsrc (i + 1) (by omega), show a + j + (i + 1) = a + (j + 1) + i by omega]
    have hupdate := s.update_seen_append d (s.moveOut m d a j) (m.value (s.seen d (s.moveOut m d a j) j) (a + j))
    rw [State.length_moveOut, ← State.moveOut_succ, State.length_moveOut] at hupdate
    rw [List.range_succ_eq_map, List.map_cons, List.map_map, Move.writes, List.map_cons, hsrc 0 (Nat.succ_pos n), Nat.add_zero, Nat.add_zero,
      hupdate, ← List.singleton_append, ← List.append_assoc, ← State.moveOut_succ, show j + (n + 1) = j + 1 + n by omega, ← hnext]
    simp only [Function.comp_def, Nat.succ_eq_add_one, Nat.add_assoc, Nat.add_comm 1]

theorem Move.writes_down {j n : Nat} (h : j + n ≤ d) :
    ((Move.copy.writes (s.seen (d - j) (s.moveOutDown d a j) j) ((List.range n).map fun i => (a - j - 1 - i, d - j - 1 - i))).map (·.2)).reverse
      ++ s.moveOutDown d a j = s.moveOutDown d a (j + n) := by
  induction n generalizing j with
  | zero => rfl
  | succ n ih =>
    have hnext := ih (j := j + 1) (by omega)
    have hupdate := s.update_seen_cons (d - (j + 1)) (s.moveOutDown d a j) (s.seen (d - j) (s.moveOutDown d a j) j (a - j - 1))
    rw [List.length_cons, State.length_moveOutDown, show d - (j + 1) + 1 = d - j by omega] at hupdate
    rw [List.range_succ_eq_map, List.map_cons, List.map_map, Move.writes, List.map_cons, List.reverse_cons, List.append_assoc,
      show j + (n + 1) = j + 1 + n by omega, ← hnext]
    simp only [Function.comp_def, Nat.sub_zero, Move.value, Nat.sub_sub] at hupdate ⊢
    rw [hupdate, List.singleton_append, State.moveOutDown]
    simp only [Nat.succ_eq_add_one, Nat.add_assoc, Nat.add_comm 1, Nat.sub_sub]

end

/-! ### The loop over the units -/

section
variable {s : State} {c : CoreId} {unit : State → State × UnitRes} {w : List RegNo} {len k : Nat} {size left : Nat → Nat}
  {J : Nat → List SbEntry → Core → Prop} {bad : Bool} {lim : Nat} {lenf : Core → Nat} {r : Core} {m : Word}

/-- A string instruction whose units are done. -/
theorem ends_string_next (hr : s.ready c = true) (hw : s.wired = true) (hv : Variant.hasDsc s.variant = true) (hbad : bad = false)
    (hk : (s.core c).Kept r w [] [] m) (hrun : units unit c (unitFuel (lenf (s.core c))) lim s = (s.setCore c r, .next)) :
    ∃ t, Ends s s t (finish (strRun s c bad lim lenf unit)) c ((s.core c).pc + 4#48) w m ∧ (t.core c).Alike r := by
  unfold strRun
  exact ends_core_next hr hw (gateKeep_dsc hv (by decide)) hk ((illegalWhen_of_legal hbad).trans hrun)

/-- A string instruction that an event interrupts. -/
theorem ends_string_cut (hr : s.ready c = true) (hw : s.wired = true) (hv : Variant.hasDsc s.variant = true) (hbad : bad = false)
    (hk : (s.core c).Kept r w [] [] m) (hpc : r.pc = (s.core c).pc)
    (hrun : units unit c (unitFuel (lenf (s.core c))) lim s = (s.setCore c r, .cut)) :
    ∃ t, Ends s s t (finish (strRun s c bad lim lenf unit)) c (s.core c).pc w m ∧ (t.core c).Alike r := by
  unfold strRun
  exact ends_core_cut hr hw (gateKeep_dsc hv (by decide)) hk hpc ((illegalWhen_of_legal hbad).trans hrun)

/-- Units that carry an instruction over `len` positions, by one store each: after j positions with the stores es, J holds; the next unit takes
`size j` positions, and `left j` units are enough for the rest. Of the operands the first k positions can be reached. -/
structure StoringUnits (s : State) (c : CoreId) (unit : State → State × UnitRes) (w : List RegNo) (len k : Nat) (size left : Nat → Nat)
    (J : Nat → List SbEntry → Core → Prop) : Prop where
  start : J 0 [] (s.core c)
  strung : ∀ {j es r}, J j es r → (s.core c).Strung r w es
  fits : ∀ j < len, size j ≤ len - j
  shrinks : ∀ j < len, size j < len - j → left (j + size j) + 1 = left j
  step : ∀ {j es r}, J j es r → j < len → j + size j ≤ k → es.length < 10 →
    ∃ e r', unit (s.setCore c r) = (s.setCore c r', if len - j = size j then .done else .more) ∧ J (j + size j) (es ++ [e]) r'

/-- A run to the end. -/
theorem StoringUnits.run (h : StoringUnits s c unit w len k size left J) (hdue : (s.core c).due = Due.none) (hlen : 0 < len) (hk : k = len)
    (hleft : left 0 < 10) {fuel : Nat} (hfuel : left 0 < fuel) :
    ∃ es r, units unit c fuel 0 s = (s.setCore c r, .next) ∧ J len es r := by
  have hrun := units_of_invariant (s := s) (c := c) (unit := unit) (fuel := fuel)
    (I := fun n r => ∃ j es, J j es r ∧ j < len ∧ n = left j ∧ es.length + left j ≤ left 0) (P := fun r => ∃ es, J len es r) ?_
    (r := s.core c) ⟨0, [], h.start, hlen, rfl, (Nat.zero_add _).le⟩ hfuel
  · obtain ⟨r, hunits, es, hJ⟩ := hrun
    rw [State.setCore_core] at hunits
    exact ⟨es, r, hunits, hJ⟩
  · rintro n r ⟨j, es, hJ, hj, rfl, hes⟩
    have hfit := h.fits j hj
    obtain ⟨e, r', hunit, hJ'⟩ := h.step hJ hj (by omega) (by omega)
    by_cases hlast : len - j = size j
    · rw [if_pos hlast] at hunit
      rw [← hlast, Nat.add_sub_cancel' hj.le] at hJ'
      exact .inl ⟨r', hunit, _, hJ'⟩
    · have hshrink := h.shrinks j hj (by omega)
      rw [if_neg hlast] at hunit
      refine .inr ⟨r', left (j + size j), by omega, hunit, (h.strung hJ').due.trans hdue, _, _, hJ', by omega, rfl, ?_⟩
      rw [List.length_append, List.length_singleton]
      omega

/-- A string instruction that stores, executed whole or for one unit. -/
theorem StoringUnits.ends (h : StoringUnits s c unit w len k size left J) (hr : s.ready c = true) (hw : s.wired = true)
    (hv : Variant.hasDsc s.variant = true) (hbad : bad = false) (hlen : 0 < len) (hleft : len ≤ 2048 → left 0 < 10)
    (hfuel : left 0 < unitFuel (lenf (s.core c))) (hlim : (lim = 1 ∧ k = size 0) ∨ (lim = 0 ∧ len ≤ 2048 ∧ k = len)) :
    ∃ t es r, Ends s s t (finish (strRun s c bad lim lenf unit)) c (if k = len then (s.core c).pc + 4#48 else (s.core c).pc) w 0
      ∧ (t.core c).Alike r ∧ J k es r := by
  rcases hlim with ⟨rfl, rfl⟩ | ⟨rfl, hle, rfl⟩
  · obtain ⟨e, r, hunit, hJ⟩ := h.step h.start hlen (by omega) (by decide)
    rw [State.setCore_core, Nat.sub_zero] at hunit
    rw [Nat.zero_add] at hJ
    have hstrung := h.strung hJ
    have hrun := units_one (fuel := unitFuel (lenf (s.core c)) - 1) (c := c) hunit (by intro e; split <;> exact UnitRes.noConfusion)
    rw [Nat.sub_add_cancel (by omega)] at hrun
    by_cases hlast : size 0 = len
    · rw [if_pos hlast.symm, if_pos rfl] at hrun
      obtain ⟨t, hends, halike⟩ := ends_string_next hr hw hv hbad hstrung.kept hrun
      exact ⟨t, _, r, by rwa [if_pos hlast], halike, hJ⟩
    · rw [if_neg (Ne.symm hlast), if_neg (by decide)] at hrun
      obtain ⟨t, hends, halike⟩ := ends_string_cut hr hw hv hbad hstrung.kept hstrung.pc hrun
      exact ⟨t, _, r, by rwa [if_neg hlast], halike, hJ⟩
  · obtain ⟨es, r, hrun, hJ⟩ := h.run (due_of_ready hr) hlen rfl (hleft hle) hfuel
    obtain ⟨t, hends, halike⟩ := ends_string_next hr hw hv hbad (h.strung hJ).kept hrun
    exact ⟨t, es, r, by rwa [if_pos rfl], halike, hJ⟩

end
end Sys2Proof.Machine
end

section
/-! The four instructions that store: MOVS, MOVT and FILLS upwards, MOVB downwards, and the statement on them (R361, R381 to R383, R386 to R388). -/
namespace Sys2Proof.Machine

/-! ### Lengths and positions -/

theorem lenOf_ofNat {n : Nat} (h : n < 2 ^ 24) : lenOf (BitVec.ofNat 48 n) = n := by
  rw [lenOf, BitVec.toNat_ofNat]
  omega

theorem lenOf_lt (v : Word) : lenOf v < 2 ^ 24 := Nat.mod_lt _ (by decide)

theorem toNat_add_ofNat {v : Word} {n : Nat} (h : v.toNat + n < 2 ^ 48) : (v + BitVec.ofNat 48 n).toNat = v.toNat + n := by
  rw [BitVec.toNat_add, BitVec.toNat_ofNat, Nat.mod_eq_of_lt (a := n) (by omega), Nat.mod_eq_of_lt h]

theorem add_ofNat_add (v : Word) (i j : Nat) : v + BitVec.ofNat 48 i + BitVec.ofNat 48 j = v + BitVec.ofNat 48 (i + j) := by
  rw [BitVec.add_assoc, BitVec.ofNat_add]

/-! ### Registers of a move (R386, R387) -/

/-- RD, RA where it advances, and RB after n more positions. -/
def Core.moveProgress (q : Core) (rd ra rb : RegNo) (adv : Bool) (n left : Nat) : Core :=
  let q := q.wr rd (q.rd rd + BitVec.ofNat 48 n)
  let q := if adv then q.wr ra (q.rd ra + BitVec.ofNat 48 n) else q
  q.wr rb (BitVec.ofNat 48 left)

/-- The progress registers of a move are distinct and none is W0 (R361). -/
structure Distinct (rd ra rb : RegNo) : Prop where
  rd_ne : rd ≠ 0
  ra_ne : ra ≠ 0
  rb_ne : rb ≠ 0
  rd_ne_ra : rd ≠ ra
  rd_ne_rb : rd ≠ rb
  ra_ne_rb : ra ≠ rb

section
variable {q r : Core} {rd ra rb : RegNo} {adv : Bool} {n left : Nat} {w : List RegNo} {es : List SbEntry}

theorem Core.rd_moveProgress (h : Distinct rd ra rb) :
    (q.moveProgress rd ra rb adv n left).rd rd = q.rd rd + BitVec.ofNat 48 n
      ∧ (q.moveProgress rd ra rb adv n left).rd ra = (if adv then q.rd ra + BitVec.ofNat 48 n else q.rd ra)
      ∧ (q.moveProgress rd ra rb adv n left).rd rb = BitVec.ofNat 48 left := by
  obtain ⟨hd, ha, hb, hda, hdb, hab⟩ := h
  cases adv <;> simp [Core.moveProgress, Core.rd_wr, hd, ha, hb, hda, hda.symm, hdb.symm, hab.symm]

theorem Core.Strung.moveProgress (h : q.Strung r w es) (hd : rd ∈ w) (ha : adv = true → ra ∈ w) (hb : rb ∈ w) :
    q.Strung (r.moveProgress rd ra rb adv n left) w es := by
  cases adv
  · exact (h.wr hd _).wr hb _
  · exact ((h.wr hd _).wr (ha rfl) _).wr hb _

end

/-! ### Ascending moves and fills -/

section
variable {s : State} {c : CoreId} {rd ra rb : RegNo} {m : Move} {adv : Bool} {w : List RegNo} {k j : Nat} {es : List SbEntry} {r : Core}

/-- Operands of an ascending move whose first k positions lie in DRAM. -/
structure UpOperands (s : State) (c : CoreId) (rd ra rb : RegNo) (m : Move) (adv : Bool) (w : List RegNo) (k : Nat) : Prop where
  distinct : Distinct rd ra rb
  rd_mem : rd ∈ w
  ra_mem : adv = true → ra ∈ w
  rb_mem : rb ∈ w
  proper : m.Proper
  dst : s.plainDram c ((s.core c).rd rd) k = true
  src : ∀ i < k, ∀ x ∈ m.reads (((s.core c).rd ra).toNat + i), s.QuietAt c x
  within : adv = true → ((s.core c).rd ra).toNat + k ≤ 0x0200000000
  fixed : adv = false → ∃ b, m = .fill b

/-- After j positions of an ascending move, with the stores es. -/
structure MovedUp (s : State) (c : CoreId) (rd ra rb : RegNo) (m : Move) (adv : Bool) (w : List RegNo) (j : Nat) (es : List SbEntry) (r : Core) :
    Prop where
  strung : (s.core c).Strung r w es
  tiled : tiles es ((s.core c).rd rd).toNat (s.moveOut m ((s.core c).rd rd).toNat ((s.core c).rd ra).toNat j)
  supplied : ∀ x, s.QuietAt c x → Supplies r.sb x (s.byte x)
    (s.seen ((s.core c).rd rd).toNat (s.moveOut m ((s.core c).rd rd).toNat ((s.core c).rd ra).toNat j) j x)
  dst : r.rd rd = (s.core c).rd rd + BitVec.ofNat 48 j
  src : r.rd ra = if adv then (s.core c).rd ra + BitVec.ofNat 48 j else (s.core c).rd ra
  length : lenOf (r.rd rb) = lenOf ((s.core c).rd rb) - j
  left : 0 < j → r.rd rb = BitVec.ofNat 48 (lenOf ((s.core c).rd rb) - j)

theorem supplies_start {x : Nat} (h : s.QuietAt c x) (d : Nat) : Supplies (s.core c).sb x (s.byte x) (s.seen d [] 0 x) :=
  .inr ⟨h.apart, if_neg (by omega)⟩

theorem movedUp_start : MovedUp s c rd ra rb m adv w 0 [] (s.core c) where
  strung := .refl _ w
  tiled := rfl
  supplied _ hx := supplies_start hx _
  dst := (BitVec.add_zero _).symm
  src := by cases adv <;> simp
  length := rfl
  left h := absurd h (lt_irrefl 0)

/-- A source address of a unit stands for its position. -/
theorem UpOperands.source (h : UpOperands s c rd ra rb m adv w k) (hJ : MovedUp s c rd ra rb m adv w j es r) {i : Nat} (hi : j + i < k) :
    m.reads (addrAt (r.rd ra) i) = m.reads (((s.core c).rd ra).toNat + j + i)
      ∧ ∀ v, m.value v (addrAt (r.rd ra) i) = m.value v (((s.core c).rd ra).toNat + j + i) := by
  cases hadv : adv
  · obtain ⟨b, rfl⟩ := h.fixed hadv
    exact ⟨rfl, fun _ => rfl⟩
  · have hle := h.within hadv
    have haddr : addrAt (r.rd ra) i = ((s.core c).rd ra).toNat + j + i := by
      rw [hJ.src, if_pos hadv, addrAt_of_lt] <;> rw [toNat_add_ofNat (by omega)]
      omega
    rw [haddr]
    exact ⟨rfl, fun _ => rfl⟩

/-- What a unit of n positions stores. -/
theorem moveUnit_up (h : UpOperands s c rd ra rb m adv w k) (hJ : MovedUp s c rd ra rb m adv w j es r) {n : Nat} (hpos : 0 < n) (hk : j + n ≤ k)
    (hroom : (s.core c).sb.length + es.length < 32) :
    ∃ bs, moveUnit (s.setCore c r) c m ((List.range n).map fun i => (addrAt (r.rd ra) i, addrAt (r.rd rd) i)) false
        = (s.setCore c (r.queue [⟨((s.core c).rd rd).toNat + j, bs, false⟩]), none)
      ∧ s.moveOut m ((s.core c).rd rd).toNat ((s.core c).rd ra).toNat j ++ bs
        = s.moveOut m ((s.core c).rd rd).toNat ((s.core c).rd ra).toNat (j + n) := by
  have hlow := State.toNat_add_le_of_plainDram h.dst
  have hd : (r.rd rd).toNat = ((s.core c).rd rd).toNat + j := by rw [hJ.dst, toNat_add_ofNat (by omega)]
  have hlist : (List.range n).map (fun i => (addrAt (r.rd ra) i, addrAt (r.rd rd) i))
      = (List.range n).map fun i => (addrAt (r.rd ra) i, ((s.core c).rd rd).toNat + j + i) :=
    List.map_congr_left fun i hi => by
      have hlt := List.mem_range.1 hi
      rw [addrAt_of_lt (a := r.rd rd) (by omega), hd]
  have hhead : (((List.range n).map fun i => (addrAt (r.rd ra) i, ((s.core c).rd rd).toNat + j + i)).headD (0, 0)).2
      = ((s.core c).rd rd).toNat + j := by
    obtain ⟨n, rfl⟩ := Nat.exists_eq_succ_of_ne_zero hpos.ne'
    rw [List.range_succ_eq_map]
    rfl
  have hmove := moveUnit_plain hJ.strung.csw (by rw [hJ.strung.sb, List.length_append]; exact hroom) h.proper
    (l := (List.range n).map fun i => (addrAt (r.rd ra) i, ((s.core c).rd rd).toNat + j + i)) (by simpa using hpos.ne') ?src ?dst hJ.supplied false
  case src =>
    intro p hp x hx
    obtain ⟨i, hi, rfl⟩ := List.mem_map.1 hp
    have hlt := List.mem_range.1 hi
    rw [(h.source hJ (by omega)).1, Nat.add_assoc] at hx
    exact h.src (j + i) (by omega) x hx
  case dst =>
    intro p hp
    obtain ⟨i, hi, rfl⟩ := List.mem_map.1 hp
    have hlt := List.mem_range.1 hi
    exact State.plainAt_of_plainDram h.dst (by dsimp only; omega)
  simp only [Bool.false_eq_true, if_false, hhead] at hmove
  exact ⟨_, by rw [hlist]; exact hmove, Move.writes_up s _ _ fun i hi v => (h.source hJ (by omega)).2 v⟩

/-- The store of a unit and the registers after it (R386, R387). -/
theorem MovedUp.advance (h : UpOperands s c rd ra rb m adv w k) (hJ : MovedUp s c rd ra rb m adv w j es r) {n : Nat} (hpos : 0 < n) {bs : List Byte}
    (hout : s.moveOut m ((s.core c).rd rd).toNat ((s.core c).rd ra).toNat j ++ bs
      = s.moveOut m ((s.core c).rd rd).toNat ((s.core c).rd ra).toNat (j + n)) :
    MovedUp s c rd ra rb m adv w (j + n) (es ++ [⟨((s.core c).rd rd).toNat + j, bs, false⟩])
      ((r.queue [⟨((s.core c).rd rd).toNat + j, bs, false⟩]).moveProgress rd ra rb adv n (lenOf ((s.core c).rd rb) - j - n)) := by
  obtain ⟨hrd, hra, hrb⟩ := Core.rd_moveProgress (q := r.queue [⟨((s.core c).rd rd).toNat + j, bs, false⟩]) (adv := adv) (n := n)
    (left := lenOf ((s.core c).rd rb) - j - n) h.distinct
  have hbs : bs.length = n := by
    have hlen := congrArg List.length hout
    rw [List.length_append, State.length_moveOut, State.length_moveOut] at hlen
    omega
  have hstrung := (hJ.strung.queue [⟨((s.core c).rd rd).toNat + j, bs, false⟩]).moveProgress (adv := adv) (n := n)
    (left := lenOf ((s.core c).rd rb) - j - n) h.rd_mem h.ra_mem h.rb_mem
  have hlenlt := lenOf_lt ((s.core c).rd rb)
  refine ⟨hstrung, hout ▸ tiles_append (s.length_moveOut m _ _ j) hJ.tiled bs, fun x hx => ?_, ?_, ?_, ?_, fun _ => by rw [hrb, Nat.sub_sub]⟩
  · have hsupplied := supplies_append (bs := bs) (s.length_moveOut m _ _ j) (hJ.supplied x hx)
    rwa [hout, hbs, hJ.strung.sb, List.append_assoc, ← hstrung.sb] at hsupplied
  · rw [hrd, Core.rd_queue, hJ.dst, add_ofNat_add]
  · rw [hra, Core.rd_queue, hJ.src]
    cases adv
    · rfl
    · exact add_ofNat_add _ _ _
  · rw [hrb, lenOf_ofNat (by omega), Nat.sub_sub]

/-- A unit of an ascending move over DRAM. -/
theorem moveUp_step (h : UpOperands s c rd ra rb m adv w k) (hJ : MovedUp s c rd ra rb m adv w j es r) (hj : j < lenOf ((s.core c).rd rb)) {n : Nat}
    (hn : n = min (lenOf ((s.core c).rd rb) - j) (256 - (((s.core c).rd rd).toNat + j) % 256)) (hk : j + n ≤ k)
    (hroom : (s.core c).sb.length + es.length < 32) :
    ∃ e r', moveUp (s.setCore c r) c rd ra rb m adv = (s.setCore c r', if lenOf ((s.core c).rd rb) - j = n then .done else .more)
      ∧ MovedUp s c rd ra rb m adv w (j + n) (es ++ [e]) r' := by
  have hpos : 0 < n := by omega
  have hlow := State.toNat_add_le_of_plainDram h.dst
  have hunit : unitLen (r.rd rd) (lenOf ((s.core c).rd rb) - j) = n := by rw [unitLen, hJ.dst, toNat_add_ofNat (by omega), hn]
  obtain ⟨bs, hmove, hout⟩ := moveUnit_up h hJ hpos hk hroom
  refine ⟨_, _, ?_, hJ.advance h hpos hout⟩
  unfold moveUp
  simp only [State.core_setCore_same, hJ.length, hunit, hmove, State.updCore_setCore, if_neg (Nat.sub_ne_zero_of_lt hj)]
  rfl

variable {mOf : State → Move}

/-- The units of an ascending move; what a position writes is read from registers that stay. -/
theorem storingUnits_up (h : UpOperands s c rd ra rb m adv w k) (hroom : s.sbRoom c 10 = true)
    (hm : ∀ {j es r}, MovedUp s c rd ra rb m adv w j es r → mOf (s.setCore c r) = m) :
    StoringUnits s c (fun t => moveUp t c rd ra rb (mOf t) adv) w (lenOf ((s.core c).rd rb)) k
      (fun j => min (lenOf ((s.core c).rd rb) - j) (256 - (((s.core c).rd rd).toNat + j) % 256))
      (fun j => blocks (((s.core c).rd rd).toNat + j) (lenOf ((s.core c).rd rb) - j)) (MovedUp s c rd ra rb m adv w) where
  start := movedUp_start
  strung hJ := hJ.strung
  fits _ _ := Nat.min_le_left _ _
  shrinks j _ hlt := by
    rw [← Nat.add_assoc, ← Nat.sub_sub]
    exact blocks_up rfl hlt
  step hJ hj hk hes := by
    have hfree : (s.core c).sb.length + 10 ≤ 32 := of_decide_eq_true hroom
    simp only [hm hJ]
    exact moveUp_step h hJ hj rfl hk (by omega)

/-- An ascending move, executed whole or for one unit: the bytes written and the registers. -/
theorem ends_up (hr : s.ready c = true) (hw : s.wired = true) (hv : Variant.hasDsc s.variant = true) {bad : Bool} (hbad : bad = false)
    (hlen : 0 < lenOf ((s.core c).rd rb)) (hroom : s.sbRoom c 10 = true) {lim : Nat}
    (hlim : (lim = 1 ∧ k = min (lenOf ((s.core c).rd rb)) (256 - ((s.core c).rd rd).toNat % 256))
      ∨ (lim = 0 ∧ lenOf ((s.core c).rd rb) ≤ 2048 ∧ k = lenOf ((s.core c).rd rb)))
    (h : UpOperands s c rd ra rb m adv w k) (hm : ∀ {j es r}, MovedUp s c rd ra rb m adv w j es r → mOf (s.setCore c r) = m) :
    ∃ t, finish (strRun s c bad lim (fun q => lenOf (q.rd rb)) fun t => moveUp t c rd ra rb (mOf t) adv) = .next t ∧ Leaves s s t c w [] [] 0
      ∧ (t.core c).pc = (if k = lenOf ((s.core c).rd rb) then (s.core c).pc + 4#48 else (s.core c).pc)
      ∧ (t.core c).rd rb = BitVec.ofNat 48 (lenOf ((s.core c).rd rb) - k)
      ∧ ((t.core c).rd rd = (s.core c).rd rd + BitVec.ofNat 48 k
        ∧ ∃ out : List Byte, out.length = k
          ∧ (∀ i < k, out.getD i 0 = m.value (s.seen ((s.core c).rd rd).toNat out i) (((s.core c).rd ra).toNat + i))
          ∧ Buffered s t c ((s.core c).rd rd).toNat out)
      ∧ (t.core c).rd ra = if adv then (s.core c).rd ra + BitVec.ofNat 48 k else (s.core c).rd ra := by
  obtain ⟨t, es, r, ⟨hnext, hpc, hleaves⟩, ⟨hrd, hsb, -⟩, hJ⟩ := (storingUnits_up h hroom hm).ends hr hw hv hbad hlen
    (fun hle => by unfold blocks; omega) (lenf := fun q => lenOf (q.rd rb)) (blocks_lt_unitFuel _ _) hlim
  refine ⟨t, hnext, hleaves, hpc, ?_, ⟨(hrd rd).trans hJ.dst, _, s.length_moveOut m _ _ k, fun i hi => s.getD_moveOut m _ _ hi, es, ?_, hJ.tiled⟩,
    (hrd ra).trans hJ.src⟩
  · rw [hrd, hJ.left (by omega)]
  · rw [hsb, hJ.strung.sb]

end
end Sys2Proof.Machine
end

section
/-! MOVB, from the high end down, and the statement on the instructions that store (R361, R381 to R383, R386 to R388, R390, R392). -/
namespace Sys2Proof.Machine

section
variable {s : State} {c : CoreId} {rd ra rb : RegNo} {k j n : Nat} {es : List SbEntry} {r : Core}

/-! ### A move downwards -/

/-- Operands of MOVB whose last k positions lie in DRAM, and which do not wrap. -/
structure DownOperands (s : State) (c : CoreId) (rd ra rb : RegNo) (k : Nat) : Prop where
  distinct : Distinct rd ra rb
  le : k ≤ lenOf ((s.core c).rd rb)
  dst_le : ((s.core c).rd rd).toNat + lenOf ((s.core c).rd rb) ≤ 2 ^ 48
  src_le : ((s.core c).rd ra).toNat + lenOf ((s.core c).rd rb) ≤ 2 ^ 48
  dst : s.plainDram c ((s.core c).rd rd + BitVec.ofNat 48 (lenOf ((s.core c).rd rb) - k)) k = true
  src : s.quietDram c ((s.core c).rd ra + BitVec.ofNat 48 (lenOf ((s.core c).rd rb) - k)) k = true

/-- The bytes that j positions of MOVB write. -/
def State.movbOut (s : State) (c : CoreId) (rd ra rb : RegNo) (j : Nat) : List Byte :=
  s.moveOutDown (((s.core c).rd rd).toNat + lenOf ((s.core c).rd rb)) (((s.core c).rd ra).toNat + lenOf ((s.core c).rd rb)) j

/-- After j positions of MOVB, with the stores es. -/
structure MovedDown (s : State) (c : CoreId) (rd ra rb : RegNo) (j : Nat) (es : List SbEntry) (r : Core) : Prop where
  strung : (s.core c).Strung r [rb] es
  tiled : tiles es.reverse (((s.core c).rd rd).toNat + lenOf ((s.core c).rd rb) - j) (s.movbOut c rd ra rb j)
  supplied : ∀ x, s.QuietAt c x → Supplies r.sb x (s.byte x)
    (s.seen (((s.core c).rd rd).toNat + lenOf ((s.core c).rd rb) - j) (s.movbOut c rd ra rb j) j x)
  length : lenOf (r.rd rb) = lenOf ((s.core c).rd rb) - j
  left : 0 < j → r.rd rb = BitVec.ofNat 48 (lenOf ((s.core c).rd rb) - j)

theorem movedDown_start : MovedDown s c rd ra rb 0 [] (s.core c) where
  strung := .refl _ _
  tiled := rfl
  supplied _ hx := supplies_start hx _
  length := rfl
  left h := absurd h (lt_irrefl 0)

/-- What a unit of n positions stores. -/
theorem moveUnit_down (h : DownOperands s c rd ra rb k) (hJ : MovedDown s c rd ra rb j es r) (hpos : 0 < n) (hk : j + n ≤ k)
    (hroom : (s.core c).sb.length + es.length < 32) :
    ∃ bs, moveUnit (s.setCore c r) c .copy ((List.range n).map fun i =>
          (addrAt (r.rd ra) (lenOf ((s.core c).rd rb) - j - 1 - i), addrAt (r.rd rd) (lenOf ((s.core c).rd rb) - j - 1 - i))) true
        = (s.setCore c (r.queue [⟨((s.core c).rd rd).toNat + lenOf ((s.core c).rd rb) - (j + n), bs, false⟩]), none)
      ∧ bs ++ s.movbOut c rd ra rb j = s.movbOut c rd ra rb (j + n) := by
  obtain ⟨hdistinct, hle, hdle, hsle, hdst, hsrc⟩ := h
  have hd := hJ.strung.kept.w.regs rd (by simpa using hdistinct.rd_ne_rb)
  have ha := hJ.strung.kept.w.regs ra (by simpa using hdistinct.ra_ne_rb)
  rw [hd, ha]
  generalize hlen : lenOf ((s.core c).rd rb) = len at *
  have hdaddr : ∀ i < n, addrAt ((s.core c).rd rd) (len - j - 1 - i) = ((s.core c).rd rd).toNat + len - j - 1 - i :=
    fun i hi => by rw [addrAt_of_lt (by omega)]; omega
  have haaddr : ∀ i < n, addrAt ((s.core c).rd ra) (len - j - 1 - i) = ((s.core c).rd ra).toNat + len - j - 1 - i :=
    fun i hi => by rw [addrAt_of_lt (by omega)]; omega
  have hlist : (List.range n).map (fun i => (addrAt ((s.core c).rd ra) (len - j - 1 - i), addrAt ((s.core c).rd rd) (len - j - 1 - i)))
      = (List.range n).map fun i => (((s.core c).rd ra).toNat + len - j - 1 - i, ((s.core c).rd rd).toNat + len - j - 1 - i) :=
    List.map_congr_left fun i hi => by rw [haaddr i (List.mem_range.1 hi), hdaddr i (List.mem_range.1 hi)]
  have hlast : (((List.range n).map fun i =>
      (((s.core c).rd ra).toNat + len - j - 1 - i, ((s.core c).rd rd).toNat + len - j - 1 - i)).getLastD (0, 0)).2
      = ((s.core c).rd rd).toNat + len - (j + n) := by
    obtain ⟨n, rfl⟩ := Nat.exists_eq_succ_of_ne_zero hpos.ne'
    rw [List.range_succ, List.map_append, List.map_singleton, List.getLastD_concat]
    dsimp only
    omega
  have hdnat := toNat_add_ofNat (v := (s.core c).rd rd) (n := len - k) (by omega)
  have hanat := toNat_add_ofNat (v := (s.core c).rd ra) (n := len - k) (by omega)
  have hmove := moveUnit_plain (s := s) (c := c) hJ.strung.csw (by rw [hJ.strung.sb, List.length_append]; exact hroom) (m := .copy) trivial
    (l := (List.range n).map fun i => (((s.core c).rd ra).toNat + len - j - 1 - i, ((s.core c).rd rd).toNat + len - j - 1 - i))
    (by simpa using hpos.ne') ?src ?dst hJ.supplied true
  case src =>
    intro p hp x hx
    obtain ⟨i, hi, rfl⟩ := List.mem_map.1 hp
    have hlt := List.mem_range.1 hi
    rw [List.mem_singleton.1 hx]
    exact State.quietAt_of_quietDram hsrc (by dsimp only; omega) (by dsimp only; omega)
  case dst =>
    intro p hp
    obtain ⟨i, hi, rfl⟩ := List.mem_map.1 hp
    have hlt := List.mem_range.1 hi
    exact State.plainAt_of_plainDram hdst (by dsimp only; omega)
  simp only [if_true, hlast] at hmove
  refine ⟨_, by rw [hlist]; exact hmove, ?_⟩
  unfold State.movbOut
  rw [hlen]
  exact Move.writes_down s _ _ (by omega)

/-- The store of a unit and the register after it (R386). -/
theorem MovedDown.advance (h : DownOperands s c rd ra rb k) (hJ : MovedDown s c rd ra rb j es r) (hpos : 0 < n) (hk : j + n ≤ k) {bs : List Byte}
    (hout : bs ++ s.movbOut c rd ra rb j = s.movbOut c rd ra rb (j + n)) :
    MovedDown s c rd ra rb (j + n) (es ++ [⟨((s.core c).rd rd).toNat + lenOf ((s.core c).rd rb) - (j + n), bs, false⟩])
      ((r.queue [⟨((s.core c).rd rd).toNat + lenOf ((s.core c).rd rb) - (j + n), bs, false⟩]).wr rb
        (BitVec.ofNat 48 (lenOf ((s.core c).rd rb) - j - n))) := by
  have hle := h.le
  have hlenlt := lenOf_lt ((s.core c).rd rb)
  have hj : (s.movbOut c rd ra rb j).length = j := s.length_moveOutDown _ _ j
  have hbs : bs.length = n := by
    have hlen := congrArg List.length hout
    rw [List.length_append, hj, show (s.movbOut c rd ra rb (j + n)).length = j + n from s.length_moveOutDown _ _ _] at hlen
    omega
  have hstrung := (hJ.strung.queue [⟨((s.core c).rd rd).toNat + lenOf ((s.core c).rd rb) - (j + n), bs, false⟩]).wr (List.mem_singleton_self rb)
    (BitVec.ofNat 48 (lenOf ((s.core c).rd rb) - j - n))
  have hback : ((s.core c).rd rd).toNat + lenOf ((s.core c).rd rb) - j
      = ((s.core c).rd rd).toNat + lenOf ((s.core c).rd rb) - (j + n) + bs.length := by omega
  have hrb := Core.rd_wr_self (r.queue [⟨((s.core c).rd rd).toNat + lenOf ((s.core c).rd rb) - (j + n), bs, false⟩]) h.distinct.rb_ne
    (BitVec.ofNat 48 (lenOf ((s.core c).rd rb) - j - n))
  refine ⟨hstrung, ?_, fun x hx => ?_, by rw [hrb, lenOf_ofNat (by omega), Nat.sub_sub], fun _ => by rw [hrb, Nat.sub_sub]⟩
  · rw [List.reverse_append, ← hout]
    exact tiles_cons (hback ▸ hJ.tiled)
  · have hsupplied := supplies_prepend (bs := bs) hj (hback ▸ hJ.supplied x hx)
    rwa [hout, hbs, hJ.strung.sb, List.append_assoc, ← hstrung.sb] at hsupplied

/-- A unit of MOVB over DRAM. -/
theorem moveDown_step (h : DownOperands s c rd ra rb k) (hJ : MovedDown s c rd ra rb j es r) (hj : j < lenOf ((s.core c).rd rb))
    (hn : n = min (lenOf ((s.core c).rd rb) - j) ((((s.core c).rd rd).toNat + (lenOf ((s.core c).rd rb) - j - 1)) % 256 + 1)) (hk : j + n ≤ k)
    (hroom : (s.core c).sb.length + es.length < 32) :
    ∃ e r', moveDown (s.setCore c r) c rd ra rb = (s.setCore c r', if lenOf ((s.core c).rd rb) - j = n then .done else .more)
      ∧ MovedDown s c rd ra rb (j + n) (es ++ [e]) r' := by
  have hpos : 0 < n := by omega
  have hdle := h.dst_le
  have hunit : unitLenDown (r.rd rd) (lenOf ((s.core c).rd rb) - j) = n := by
    rw [unitLenDown, hJ.strung.kept.w.regs rd (by simpa using h.distinct.rd_ne_rb), addrAt_of_lt (by omega), hn]
  obtain ⟨bs, hmove, hout⟩ := moveUnit_down h hJ hpos hk hroom
  refine ⟨_, _, ?_, hJ.advance h hpos hk hout⟩
  unfold moveDown
  simp only [State.core_setCore_same, hJ.length, hunit, hmove, State.updCore_setCore, if_neg (Nat.sub_ne_zero_of_lt hj)]

theorem storingUnits_down (h : DownOperands s c rd ra rb k) (hroom : s.sbRoom c 10 = true) :
    StoringUnits s c (fun t => moveDown t c rd ra rb) [rb] (lenOf ((s.core c).rd rb)) k
      (fun j => min (lenOf ((s.core c).rd rb) - j) ((((s.core c).rd rd).toNat + (lenOf ((s.core c).rd rb) - j - 1)) % 256 + 1))
      (fun j => blocks ((s.core c).rd rd).toNat (lenOf ((s.core c).rd rb) - j)) (MovedDown s c rd ra rb) where
  start := movedDown_start
  strung hJ := hJ.strung
  fits _ _ := Nat.min_le_left _ _
  shrinks j _ hlt := by
    rw [← Nat.sub_sub]
    exact blocks_down rfl hlt
  step hJ hj hk hes := by
    have hfree : (s.core c).sb.length + 10 ≤ 32 := of_decide_eq_true hroom
    exact moveDown_step h hJ hj rfl hk (by omega)

/-- A byte that MOVB writes: one that it wrote before, where the source reaches into the destination from above, else one of memory (R390). -/
theorem getD_movbOut (hle : k ≤ lenOf ((s.core c).rd rb)) {i : Nat} (hi : i < k) : (s.movbOut c rd ra rb k).getD i 0 =
    if ((s.core c).rd rd).toNat < ((s.core c).rd ra).toNat ∧ ((s.core c).rd ra).toNat + i < ((s.core c).rd rd).toNat + k
    then (s.movbOut c rd ra rb k).getD (((s.core c).rd ra).toNat + i - ((s.core c).rd rd).toNat) 0
    else s.byte (((s.core c).rd ra).toNat + (lenOf ((s.core c).rd rb) - k) + i) := by
  unfold State.movbOut
  rw [State.getD_moveOutDown _ _ _ hi, State.seen]
  generalize lenOf ((s.core c).rd rb) = len at *
  generalize ((s.core c).rd rd).toNat = d
  generalize ((s.core c).rd ra).toNat = a
  by_cases hin : d < a ∧ a + i < d + k
  · rw [if_pos hin, if_pos (by omega), ← s.drop_moveOutDown (d + len) (a + len) (show k - 1 - i ≤ k by omega), List.getD_eq_getElem?_getD,
      List.getElem?_drop, ← List.getD_eq_getElem?_getD]
    congr 1
    omega
  · rw [if_neg hin, if_neg (by omega)]
    congr 1
    omega

/-- MOVB, executed whole or for one unit. -/
theorem ends_down (hr : s.ready c = true) (hw : s.wired = true) (hv : Variant.hasDsc s.variant = true) {bad : Bool} (hbad : bad = false)
    (hlen : 0 < lenOf ((s.core c).rd rb)) (hroom : s.sbRoom c 10 = true) {lim : Nat}
    (hlim : (lim = 1 ∧ k = min (lenOf ((s.core c).rd rb)) ((((s.core c).rd rd).toNat + (lenOf ((s.core c).rd rb) - 1)) % 256 + 1))
      ∨ (lim = 0 ∧ lenOf ((s.core c).rd rb) ≤ 2048 ∧ k = lenOf ((s.core c).rd rb)))
    (h : DownOperands s c rd ra rb k) :
    ∃ t, finish (strRun s c bad lim (fun q => lenOf (q.rd rb)) fun t => moveDown t c rd ra rb) = .next t ∧ Leaves s s t c [rb] [] [] 0
      ∧ (t.core c).pc = (if k = lenOf ((s.core c).rd rb) then (s.core c).pc + 4#48 else (s.core c).pc)
      ∧ (t.core c).rd rb = BitVec.ofNat 48 (lenOf ((s.core c).rd rb) - k)
      ∧ ∃ out : List Byte, out.length = k
        ∧ (∀ i < k, out.getD i 0 =
            if ((s.core c).rd rd).toNat < ((s.core c).rd ra).toNat ∧ ((s.core c).rd ra).toNat + i < ((s.core c).rd rd).toNat + k
            then out.getD (((s.core c).rd ra).toNat + i - ((s.core c).rd rd).toNat) 0
            else s.byte (((s.core c).rd ra).toNat + (lenOf ((s.core c).rd rb) - k) + i))
        ∧ ∃ es, (t.core c).sb = (s.core c).sb ++ es ∧ tiles es.reverse (((s.core c).rd rd).toNat + (lenOf ((s.core c).rd rb) - k)) out := by
  obtain ⟨t, es, r, ⟨hnext, hpc, hleaves⟩, ⟨hrd, hsb, -⟩, hJ⟩ := (storingUnits_down h hroom).ends hr hw hv hbad hlen
    (fun hle => by unfold blocks; omega) (lenf := fun q => lenOf (q.rd rb)) (blocks_lt_unitFuel _ _) hlim
  refine ⟨t, hnext, hleaves, hpc, ?_, _, s.length_moveOutDown _ _ k, fun i hi => getD_movbOut h.le hi, es, ?_, ?_⟩
  · rw [hrd, hJ.left (by omega)]
  · rw [hsb, hJ.strung.sb]
  · rw [← Nat.add_sub_assoc h.le]
    exact hJ.tiled

end
end Sys2Proof.Machine
end

section
/-! The statement on the instructions that store (R361, R381 to R383, R386 to R388, R390, R392). -/
namespace Sys2Proof.Machine

/-! ### Legal encodings (R361) -/

theorem badProgress_eq_false_iff {l : List RegNo} : badProgress l = false ↔ (0 : RegNo) ∉ l ∧ l.Nodup := by simp [badProgress]

theorem badProgress_three {rd ra rb : RegNo} : badProgress [rd, ra, rb] = false ↔ Distinct rd ra rb := by
  simp only [badProgress_eq_false_iff, List.mem_cons, List.nodup_cons, List.not_mem_nil, List.nodup_nil, not_or, or_false, not_false_eq_true, and_true]
  exact ⟨fun ⟨⟨hd, ha, hb⟩, ⟨hda, hdb⟩, hab⟩ => ⟨Ne.symm hd, Ne.symm ha, Ne.symm hb, hda, hdb, hab⟩,
    fun ⟨hd, ha, hb, hda, hdb, hab⟩ => ⟨⟨hd.symm, ha.symm, hb.symm⟩, ⟨hda, hdb⟩, hab⟩⟩

theorem badProgress_four {rd ra rb rx : RegNo} :
    badProgress [rd, ra, rb, rx] = false ↔ Distinct rd ra rb ∧ rx ≠ 0 ∧ rx ≠ rd ∧ rx ≠ ra ∧ rx ≠ rb := by
  simp only [badProgress_eq_false_iff, List.mem_cons, List.nodup_cons, List.not_mem_nil, List.nodup_nil, not_or, or_false, not_false_eq_true, and_true]
  exact ⟨fun ⟨⟨hd, ha, hb, hx⟩, ⟨hda, hdb, hdx⟩, ⟨hab, hax⟩, hbx⟩ =>
      ⟨⟨Ne.symm hd, Ne.symm ha, Ne.symm hb, hda, hdb, hab⟩, Ne.symm hx, Ne.symm hdx, Ne.symm hax, Ne.symm hbx⟩,
    fun ⟨⟨hd, ha, hb, hda, hdb, hab⟩, hx, hxd, hxa, hxb⟩ =>
      ⟨⟨hd.symm, ha.symm, hb.symm, hx.symm⟩, ⟨hda, hdb, hxd.symm⟩, ⟨hab, hxa.symm⟩, hxb.symm⟩⟩

section
variable {s : State} {c : CoreId} {rd ra rb rx : RegNo} {lim : Nat} {bad : Bool} {unit : State → State × UnitRes}

/-- A string of length zero accesses nothing (R381). -/
theorem ends_empty (hr : s.ready c = true) (hw : s.wired = true) (hv : Variant.hasDsc s.variant = true) (hbad : bad = false) {lenf : Core → Nat}
    (hunit : unit s = (s, .done)) : ∃ t, Ends s s t (finish (strRun s c bad lim lenf unit)) c ((s.core c).pc + 4#48) [] 0 := by
  obtain ⟨t, hends, -⟩ := ends_string_next (unit := unit) (lim := lim) (lenf := lenf) hr hw hv hbad ((s.core c).kept_refl [] [] [] 0)
    (by rw [State.setCore_core, unitFuel, units, hunit])
  exact ⟨t, hends⟩

theorem moveUp_empty {m : Move} {adv : Bool} (h : lenOf ((s.core c).rd rb) = 0) : moveUp s c rd ra rb m adv = (s, .done) := by
  simp [moveUp, h]

theorem moveDown_empty (h : lenOf ((s.core c).rd rb) = 0) : moveDown s c rd ra rb = (s, .done) := by simp [moveDown, h]

end

theorem stringMovesCopyByteByByte : Claims.StringMovesCopyByteByByte := by
  intro s c rd ra rb rx lim k hr hw hv q d a tab len distinct fresh moved step up
  have hdistinct : distinct → Distinct rd ra rb := fun ⟨hd, ha, hb, hda, hdb, hab⟩ => ⟨hd, ha, hb, hda, hdb, hab⟩
  have hlegal : distinct → (badProgress [rd, ra, rb] || (0 : RegNo) != 0) = false := fun hd => by
    rw [badProgress_three.2 (hdistinct hd)]
    rfl
  have hlegalT : distinct → fresh → badProgress [rd, ra, rb, rx] = false := fun hd hf => badProgress_four.2 ⟨hdistinct hd, hf⟩
  refine ⟨fun hd ht i hi => ?illegal, fun hx ht i hi => ?reserved, fun hd hlen => ⟨fun i hi => ?empty, fun hf => ?emptyT⟩,
    fun hd hlen hroom => ⟨fun hlim hplain => ⟨?fills, fun hsrc => ⟨?movs, fun hf htab => ?movt⟩⟩, fun hlim hdle hale hdst hsrc => ?movb⟩⟩
  case illegal =>
    have hbad : badProgress [rd, ra, rb] = true := by
      rw [← Bool.not_eq_false, badProgress_three]
      exact fun ⟨hrd, hra, hrb, hda, hdb, hab⟩ => hd ⟨hrd, hra, hrb, hda, hdb, hab⟩
    have hbadT : badProgress [rd, ra, rb, rx] = true := by
      rw [← Bool.not_eq_false, badProgress_four]
      exact fun ⟨⟨hrd, hra, hrb, hda, hdb, hab⟩, _⟩ => hd ⟨hrd, hra, hrb, hda, hdb, hab⟩
    simp only [List.mem_cons, List.not_mem_nil, or_false] at hi
    rcases hi with rfl | rfl | rfl | rfl
    · exact raises_dscIllegal hr hv ht (by decide) (by rw [hbad]; rfl)
    · exact raises_dscIllegal hr hv ht (by decide) (by rw [hbad]; rfl)
    · exact raises_dscIllegal hr hv ht (by decide) hbadT
    · exact raises_dscIllegal hr hv ht (by decide) (by rw [hbad]; rfl)
  case reserved =>
    have hbad : (badProgress [rd, ra, rb] || rx != 0) = true := by rw [bne_iff_ne.2 hx, Bool.or_true]
    simp only [List.mem_cons, List.not_mem_nil, or_false] at hi
    rcases hi with rfl | rfl | rfl <;> exact raises_dscIllegal hr hv ht (by decide) hbad
  case empty =>
    simp only [List.mem_cons, List.not_mem_nil, or_false] at hi
    rcases hi with rfl | rfl | rfl
    · exact ends_empty hr hw hv (hlegal hd) (moveUp_empty hlen)
    · exact ends_empty hr hw hv (hlegal hd) (moveDown_empty hlen)
    · exact ends_empty hr hw hv (hlegal hd) (moveUp_empty hlen)
  case emptyT => exact ends_empty hr hw hv (hlegalT hd hf) (moveUp_empty hlen)
  case fills =>
    have hops : UpOperands s c rd ra rb (.fill (a % 256)) false [rd, rb] k := {
      distinct := hdistinct hd
      rd_mem := by simp
      ra_mem := fun h => absurd h Bool.false_ne_true
      rb_mem := by simp
      proper := Nat.mod_lt _ (by decide)
      dst := hplain
      src := fun _ _ _ hx => absurd hx List.not_mem_nil
      within := fun h => absurd h Bool.false_ne_true
      fixed := fun _ => ⟨_, rfl⟩ }
    obtain ⟨t, hnext, hleaves, hpc, hrb, ⟨hrd, out, hout, hbytes, hbuf⟩, -⟩ := ends_up hr hw hv (hlegal hd) hlen hroom hlim hops
      (mOf := fun t => .fill (((t.core c).rd ra).toNat % 256)) fun hJ => by rw [State.core_setCore_same, hJ.src]; rfl
    refine ⟨t, hnext, hleaves, hpc, hrb, hrd, out, hout, fun i hi => ?_, hbuf⟩
    rw [hbytes i hi]
    exact BitVec.eq_of_toNat_eq (by rw [Move.value, BitVec.toNat_ofNat, BitVec.toNat_setWidth, Nat.mod_mod])
  case movs =>
    have hops : UpOperands s c rd ra rb .copy true [rd, ra, rb] k := {
      distinct := hdistinct hd
      rd_mem := by simp
      ra_mem := by simp
      rb_mem := by simp
      proper := trivial
      dst := hplain
      src := fun i hi x hx => by
        rw [List.mem_singleton.1 hx]
        exact State.quietAt_of_quietDram hsrc (Nat.le_add_right _ _) (Nat.add_lt_add_left hi _)
      within := fun _ => State.toNat_add_le_of_plainDram (State.plainDram_of_quietDram hsrc)
      fixed := fun h => absurd h.symm Bool.false_ne_true }
    obtain ⟨t, hnext, hleaves, hpc, hrb, hup, hra⟩ := ends_up hr hw hv (hlegal hd) hlen hroom hlim hops (mOf := fun _ => .copy) fun _ => rfl
    exact ⟨t, hnext, hleaves, hpc, hrb, hup, hra⟩
  case movt =>
    have hops : UpOperands s c rd ra rb (.table (q.rd rx)) true [rd, ra, rb] k := {
      distinct := hdistinct hd
      rd_mem := by simp
      ra_mem := by simp
      rb_mem := by simp
      proper := (State.toNat_add_le_of_plainDram (State.plainDram_of_quietDram htab)).trans (by decide)
      dst := hplain
      src := fun i hi x hx => by
        rcases List.mem_cons.1 hx with rfl | hx
        · exact State.quietAt_of_quietDram hsrc (Nat.le_add_right _ _) (Nat.add_lt_add_left hi _)
        · obtain ⟨b, hb, rfl⟩ := List.mem_map.1 hx
          exact State.quietAt_of_quietDram htab (Nat.le_add_right _ _) (Nat.add_lt_add_left (List.mem_range.1 hb) _)
      within := fun _ => State.toNat_add_le_of_plainDram (State.plainDram_of_quietDram hsrc)
      fixed := fun h => absurd h.symm Bool.false_ne_true }
    have ⟨_, hxd, hxa, hxb⟩ := hf
    obtain ⟨t, hnext, hleaves, hpc, hrb, hup, hra⟩ := ends_up hr hw hv (hlegalT hd hf) hlen hroom hlim hops
      (mOf := fun t => .table ((t.core c).rd rx)) fun hJ => by
        rw [State.core_setCore_same, hJ.strung.kept.w.regs rx (by simp [hxd, hxa, hxb])]
    exact ⟨t, hnext, hleaves, hpc, hrb, hup, hra⟩
  case movb =>
    have hk : k ≤ len := by omega
    exact ends_down hr hw hv (hlegal hd) hlen hroom hlim ⟨hdistinct hd, hk, hdle, hale, hdst, hsrc⟩

end Sys2Proof.Machine
end

section
/-! SCNS, TRTS and CMPS over DRAM (R381, R382, R384 to R388): where a scan stops, and the registers and flags it leaves. -/
namespace Sys2Proof.Machine

/-! ### A unit of a scan (R389) -/

section
variable {s t : State} {c : CoreId} {r : Core} {x n i u v : Nat}

theorem readByte_quiet (hsb : r.sb = (s.core c).sb) (hq : s.QuietAt c x) :
    readByte (s.setCore c r) c ⟨x, x, 1, 0⟩ = (s.setCore c r, .inr (s.byte x).toNat) :=
  readByte_of_supplies hq (.inr ⟨by rw [hsb]; exact hq.apart, rfl⟩)

theorem scanLoop_append {test : State → Nat → State × (Exc ⊕ Option (Nat × Nat))} {l : List Nat} (h : ∀ k ∈ l, test t k = (t, .inr none))
    (l' : List Nat) : scanLoop test (l ++ l') t = scanLoop test l' t := by
  induction l with
  | nil => rfl
  | cons k l ih =>
    obtain ⟨hk, hl⟩ := List.forall_mem_cons.1 h
    rw [List.cons_append, scanLoop, hk]
    exact ih hl

theorem range_eq_append_cons (h : i < n) : ∃ l, List.range n = List.range i ++ i :: l := by
  obtain ⟨m, rfl⟩ := Nat.exists_eq_add_of_lt h
  refine ⟨(List.range m).map fun k => i + (k + 1), ?_⟩
  rw [Nat.add_assoc, List.range_add, List.range_succ_eq_map, List.map_cons, List.map_map]
  rfl

variable {pre : List Use} {use : Nat → List Use} {test : List (Nat × Part) → State → Nat → State × (Exc ⊕ Option (Nat × Nat))}
  {g : Nat → Option (Nat × Nat)}

/-- A unit over DRAM tests its positions in order and changes nothing. -/
theorem scanUnit_pass (hcsw : r.csw = (s.core c).csw) (hplain : ∀ u ∈ pre ++ (List.range n).flatMap use, s.PlainAt c u.va)
    (htest : ∀ ps, InPlace ps → ∀ k < n, test ps (s.setCore c r) k = (s.setCore c r, .inr (g k))) (hnone : ∀ k < n, g k = none) :
    scanUnit (s.setCore c r) c n pre use test = (s.setCore c r, .pass) := by
  obtain ⟨ps, hcheck, hps⟩ := checkUses_plain hcsw hplain
  have hloop := scanLoop_append (test := test ps) (t := s.setCore c r) (l := List.range n)
    (fun k hk => by rw [htest ps hps k (List.mem_range.1 hk), hnone k (List.mem_range.1 hk)]) []
  rw [List.append_nil] at hloop
  simp only [scanUnit, hcheck, hloop]
  rfl

theorem scanUnit_stop (hcsw : r.csw = (s.core c).csw) (hplain : ∀ u ∈ pre ++ (List.range n).flatMap use, s.PlainAt c u.va)
    (htest : ∀ ps, InPlace ps → ∀ k < n, test ps (s.setCore c r) k = (s.setCore c r, .inr (g k))) (hi : i < n) (hnone : ∀ k < i, g k = none)
    (hsome : g i = some (u, v)) : scanUnit (s.setCore c r) c n pre use test = (s.setCore c r, .stop i u v) := by
  obtain ⟨ps, hcheck, hps⟩ := checkUses_plain hcsw hplain
  obtain ⟨l, hrange⟩ := range_eq_append_cons hi
  have hloop := scanLoop_append (test := test ps) (t := s.setCore c r) (l := List.range i)
    (fun k hk => by
      have hk := List.mem_range.1 hk
      rw [htest ps hps k (hk.trans hi), hnone k hk]) (i :: l)
  rw [← hrange, scanLoop, htest ps hps i hi, hsome] at hloop
  simp only [scanUnit, hcheck, hloop]

end

/-! ### SCNS and TRTS -/

section
variable {q r : Core} {w : List RegNo} {es : List SbEntry}

theorem Core.Strung.setFlags (h : q.Strung r w es) (f : Nzcv) : q.Kept (r.setFlags f) w [] [] flagBits :=
  (h.kept.trans (r.kept_setFlags f) (by decide)).of_subset (by simp)

theorem Core.Strung.scanProgress (h : q.Strung r w es) {ra rb : RegNo} (ha : ra ∈ w) (hb : rb ∈ w) (n : Nat) :
    q.Strung (r.scanProgress ra rb n) w es := (h.wr ha _).wr hb _

theorem Core.rd_scanProgress {ra rb : RegNo} (ha : ra ≠ 0) (hb : rb ≠ 0) (hab : ra ≠ rb) (n : Nat) :
    (q.scanProgress ra rb n).rd ra = q.rd ra + BitVec.ofNat 48 n
      ∧ (q.scanProgress ra rb n).rd rb = BitVec.ofNat 48 (lenOf (q.rd rb) - n) :=
  ⟨by rw [Core.scanProgress, Core.rd_wr_other _ hab.symm, Core.rd_wr_self _ ha], by rw [Core.scanProgress, Core.rd_wr_self _ hb]⟩

end

section
variable {s : State} {c : CoreId} {rd ra rb rx : RegNo} {tab j i n : Nat} {r : Core} {f : Byte → Option Nat}
  {hitOf : State → List (Nat × Part) → State → Nat → State × (Exc ⊕ Option Nat)}

/-- Operands of a scan in DRAM: a string, and a table of `tab` bytes that answers f of a byte. -/
structure ScanOperands (s : State) (c : CoreId) (rd ra rb rx : RegNo) (tab : Nat)
    (hitOf : State → List (Nat × Part) → State → Nat → State × (Exc ⊕ Option Nat)) (f : Byte → Option Nat) : Prop where
  distinct : Distinct ra rb rx
  rd_ne_ra : rd ≠ ra
  rd_ne_rb : rd ≠ rb
  rd_ne_rx : rd ≠ rx
  src : s.quietDram c ((s.core c).rd ra) (lenOf ((s.core c).rd rb)) = true
  table : s.quietDram c ((s.core c).rd rx) tab = true
  hit : ∀ r : Core, r.rd rx = (s.core c).rd rx → r.sb = (s.core c).sb → ∀ ps, InPlace ps → ∀ b : Byte,
    hitOf (s.setCore c r) ps (s.setCore c r) b.toNat = (s.setCore c r, .inr (f b))

/-- After j positions of a scan without a stop. -/
structure Scanned (s : State) (c : CoreId) (rd ra rb : RegNo) (j : Nat) (r : Core) : Prop where
  strung : (s.core c).Strung r [rd, ra, rb] []
  src : r.rd ra = (s.core c).rd ra + BitVec.ofNat 48 j
  length : lenOf (r.rd rb) = lenOf ((s.core c).rd rb) - j

/-- How a scan ends that stops at position i, or at the end of its operand. -/
structure ScanEnds (s : State) (c : CoreId) (rd ra rb : RegNo) (f : Byte → Option Nat) (i : Nat) (r : Core) : Prop where
  kept : (s.core c).Kept r [rd, ra, rb] [] [] flagBits
  flags : r.nzcv = ⟨false, decide (i = lenOf ((s.core c).rd rb)), false, false⟩
  found : r.rd rd = written rd (if i = lenOf ((s.core c).rd rb) then 0 else BitVec.ofNat 48 ((f (s.byte (((s.core c).rd ra).toNat + i))).getD 0))
  src : r.rd ra = (s.core c).rd ra + BitVec.ofNat 48 i
  left : r.rd rb = BitVec.ofNat 48 (lenOf ((s.core c).rd rb) - i)

theorem Scanned.advance (h : ScanOperands s c rd ra rb rx tab hitOf f) (hJ : Scanned s c rd ra rb j r) (n : Nat) :
    Scanned s c rd ra rb (j + n) (r.scanProgress ra rb n)
      ∧ (r.scanProgress ra rb n).rd rb = BitVec.ofNat 48 (lenOf ((s.core c).rd rb) - (j + n)) := by
  obtain ⟨hra, hrb⟩ := Core.rd_scanProgress (q := r) h.distinct.rd_ne h.distinct.ra_ne h.distinct.rd_ne_ra n
  have hlenlt := lenOf_lt ((s.core c).rd rb)
  rw [hJ.length, Nat.sub_sub] at hrb
  exact ⟨⟨hJ.strung.scanProgress (by simp) (by simp) n, by rw [hra, hJ.src, add_ofNat_add], by rw [hrb, lenOf_ofNat (by omega)]⟩, hrb⟩

/-- The end of a scan: RD and the flags are written behind the progress registers (R385, R386). -/
theorem Scanned.ends (h : ScanOperands s c rd ra rb rx tab hitOf f) (hJ : Scanned s c rd ra rb j r) (hi : j + n = i) {v : Word} {fl : Nzcv}
    (hv : v = if i = lenOf ((s.core c).rd rb) then 0 else BitVec.ofNat 48 ((f (s.byte (((s.core c).rd ra).toNat + i))).getD 0))
    (hfl : fl = ⟨false, decide (i = lenOf ((s.core c).rd rb)), false, false⟩) :
    ScanEnds s c rd ra rb f i (((r.scanProgress ra rb n).wr rd v).setFlags fl) := by
  subst hi
  obtain ⟨hJ', hrb⟩ := hJ.advance h n
  refine ⟨(hJ'.strung.wr (by simp) v).setFlags fl, by rw [Core.nzcv_setFlags, hfl], by rw [Core.rd_setFlags, Core.rd_wr_same, hv], ?_, ?_⟩
  · rw [Core.rd_setFlags, Core.rd_wr_other _ h.rd_ne_ra, hJ'.src]
  · rw [Core.rd_setFlags, Core.rd_wr_other _ h.rd_ne_rb, hrb]

/-- A position of a scan reads its byte and asks the table. -/
theorem readByte_scanned (h : ScanOperands s c rd ra rb rx tab hitOf f) (hJ : Scanned s c rd ra rb j r) {k : Nat}
    (hk : j + k < lenOf ((s.core c).rd rb)) :
    addrAt (r.rd ra) k = ((s.core c).rd ra).toNat + (j + k) ∧ s.QuietAt c (addrAt (r.rd ra) k)
      ∧ readByte (s.setCore c r) c ⟨addrAt (r.rd ra) k, addrAt (r.rd ra) k, 1, 0⟩
        = (s.setCore c r, .inr (s.byte (((s.core c).rd ra).toNat + (j + k))).toNat) := by
  have hlow := State.toNat_add_le_of_plainDram (State.plainDram_of_quietDram h.src)
  have hsrc : (r.rd ra).toNat = ((s.core c).rd ra).toNat + j := by rw [hJ.src, toNat_add_ofNat (by omega)]
  have haddr : addrAt (r.rd ra) k = ((s.core c).rd ra).toNat + (j + k) := by rw [addrAt_of_lt (by omega), hsrc, Nat.add_assoc]
  have hquiet : s.QuietAt c (((s.core c).rd ra).toNat + (j + k)) := State.quietAt_of_quietDram h.src (by omega) (by omega)
  rw [haddr]
  exact ⟨rfl, hquiet, readByte_quiet (by rw [hJ.strung.sb, List.append_nil]) hquiet⟩

/-- A unit of a scan over DRAM, of which the operand's first i positions do not stop it. -/
theorem findUnit_step (h : ScanOperands s c rd ra rb rx tab hitOf f) (hJ : Scanned s c rd ra rb j r) (hj : j < lenOf ((s.core c).rd rb))
    (hn : n = min (lenOf ((s.core c).rd rb) - j) (256 - (((s.core c).rd ra).toNat + j) % 256)) (hji : j ≤ i) (hi : i ≤ lenOf ((s.core c).rd rb))
    (hnone : ∀ k < i, f (s.byte (((s.core c).rd ra).toNat + k)) = none)
    (hsome : i < lenOf ((s.core c).rd rb) → (f (s.byte (((s.core c).rd ra).toNat + i))).isSome = true) :
    (∃ r', findUnit (s.setCore c r) c rd ra rb rx tab (hitOf (s.setCore c r)) = (s.setCore c r', .done) ∧ ScanEnds s c rd ra rb f i r')
      ∨ ∃ r', findUnit (s.setCore c r) c rd ra rb rx tab (hitOf (s.setCore c r)) = (s.setCore c r', .more) ∧ Scanned s c rd ra rb (j + n) r'
        ∧ j + n ≤ i ∧ n < lenOf ((s.core c).rd rb) - j := by
  have hlow := State.toNat_add_le_of_plainDram (State.plainDram_of_quietDram h.src)
  have htab := State.toNat_add_le_of_plainDram (State.plainDram_of_quietDram h.table)
  have hunit : unitLen (r.rd ra) (lenOf ((s.core c).rd rb) - j) = n := by rw [unitLen, hJ.src, toNat_add_ofNat (by omega), hn]
  have hrx : r.rd rx = (s.core c).rd rx :=
    hJ.strung.kept.w.regs rx (by simp [h.rd_ne_rx.symm, h.distinct.rd_ne_rb.symm, h.distinct.ra_ne_rb.symm])
  have hsb : r.sb = (s.core c).sb := by rw [hJ.strung.sb, List.append_nil]
  have hplain : ∀ u ∈ ((List.range tab).map fun k => (⟨0, addrAt (r.rd rx) k, .read⟩ : Use))
      ++ (List.range n).flatMap (fun k => [(⟨1, addrAt (r.rd ra) k, .read⟩ : Use)]), s.PlainAt c u.va := by
    intro u hu
    rcases List.mem_append.1 hu with hu | hu
    · obtain ⟨k, hk, rfl⟩ := List.mem_map.1 hu
      have hk := List.mem_range.1 hk
      dsimp only
      rw [hrx, addrAt_of_lt (by omega)]
      exact State.plainAt_of_plainDram (State.plainDram_of_quietDram h.table) (by omega)
    · obtain ⟨k, hk, hu⟩ := List.mem_flatMap.1 hu
      have hk := List.mem_range.1 hk
      rw [List.mem_singleton.1 hu]
      exact (readByte_scanned h hJ (by omega)).2.1.plain
  obtain ⟨g, hg⟩ : ∃ g : Nat → Option (Nat × Nat), ∀ k, g k = (f (s.byte (((s.core c).rd ra).toNat + (j + k)))).map fun v => (v, 0) :=
    ⟨_, fun _ => rfl⟩
  have hposition : ∀ ps, InPlace ps → ∀ k < n, readByte (s.setCore c r) c (bytePart ps 1 (addrAt (r.rd ra) k))
      = (s.setCore c r, .inr (s.byte (((s.core c).rd ra).toNat + (j + k))).toNat) := fun ps hps k hk => by
    rw [bytePart_of_inPlace hps]
    exact (readByte_scanned h hJ (by omega)).2.2
  unfold findUnit
  simp only [State.core_setCore_same, hJ.length, hunit, if_neg (Nat.sub_ne_zero_of_lt hj)]
  by_cases hstop : i < j + n
  · obtain ⟨v, hv⟩ := Option.isSome_iff_exists.1 (hsome (by omega))
    rw [scanUnit_stop (g := g) (i := i - j) (u := v) (v := 0) hJ.strung.csw hplain ?test (by omega) ?none ?some]
    case test => exact fun ps hps k hk => by simp only [hposition ps hps k hk, h.hit r hrx hsb ps hps, hg]
    case none => exact fun k hk => by rw [hg, hnone (j + k) (by omega)]; rfl
    case some => rw [hg, Nat.add_sub_cancel' hji, hv]; rfl
    simp only [State.updCore_setCore]
    refine .inl ⟨_, rfl, hJ.ends h (Nat.add_sub_cancel' hji) ?_ ?_⟩
    · rw [if_neg (by omega), hv, Option.getD_some]
    · rw [decide_eq_false (by omega)]
  · rw [scanUnit_pass (g := g) hJ.strung.csw hplain ?test ?none]
    case test => exact fun ps hps k hk => by simp only [hposition ps hps k hk, h.hit r hrx hsb ps hps, hg]
    case none => exact fun k hk => by rw [hg, hnone (j + k) (by omega)]; rfl
    simp only [State.updCore_setCore]
    by_cases hlast : lenOf ((s.core c).rd rb) - j = n
    · simp only [if_pos hlast]
      refine .inl ⟨_, rfl, hJ.ends h (by omega) ?_ ?_⟩
      · rw [if_pos (by omega)]
      · rw [decide_eq_true (by omega)]
    · simp only [if_neg hlast]
      exact .inr ⟨_, rfl, (hJ.advance h n).1, by omega, by omega⟩

/-- A scan whose first i positions do not stop it, and which stops then or is at its end. -/
theorem ends_scan (hr : s.ready c = true) (hw : s.wired = true) (hv : Variant.hasDsc s.variant = true) (hbad : badScan rd ra rb rx = false)
    (hlen : 0 < lenOf ((s.core c).rd rb)) (h : ScanOperands s c rd ra rb rx tab hitOf f) (hi : i ≤ lenOf ((s.core c).rd rb))
    (hnone : ∀ k < i, f (s.byte (((s.core c).rd ra).toNat + k)) = none)
    (hsome : i < lenOf ((s.core c).rd rb) → (f (s.byte (((s.core c).rd ra).toNat + i))).isSome = true) :
    ∃ t r, Ends s s t (finish (strRun s c (badScan rd ra rb rx) 0 (fun q => lenOf (q.rd rb)) fun t => findUnit t c rd ra rb rx tab (hitOf t))) c
      ((s.core c).pc + 4#48) [rd, ra, rb] flagBits ∧ (t.core c).Alike r ∧ ScanEnds s c rd ra rb f i r := by
  have hunits := units_of_invariant (s := s) (c := c) (unit := fun t => findUnit t c rd ra rb rx tab (hitOf t))
    (I := fun n r => ∃ j, Scanned s c rd ra rb j r ∧ j < lenOf ((s.core c).rd rb) ∧ j ≤ i
      ∧ n = blocks (((s.core c).rd ra).toNat + j) (lenOf ((s.core c).rd rb) - j)) (P := ScanEnds s c rd ra rb f i) ?step
    (r := s.core c) ⟨0, ⟨.refl _ _, (BitVec.add_zero _).symm, rfl⟩, hlen, Nat.zero_le i, rfl⟩ (blocks_lt_unitFuel _ _)
  case step =>
    rintro n r ⟨j, hJ, hj, hji, rfl⟩
    rcases findUnit_step h hJ hj rfl hji hi hnone hsome with ⟨r', hunit, hends⟩ | ⟨r', hunit, hJ', hle, hlt⟩
    · exact .inl ⟨r', hunit, hends⟩
    · have hblocks := blocks_up rfl hlt
      rw [Nat.add_assoc, Nat.sub_sub] at hblocks
      exact .inr ⟨r', _, by omega, hunit, hJ'.strung.due.trans (due_of_ready hr), _, hJ', by omega, hle, rfl⟩
  obtain ⟨r, hrun, hends⟩ := hunits
  rw [State.setCore_core] at hrun
  obtain ⟨t, ht, halike⟩ := ends_string_next (lenf := fun q => lenOf (q.rd rb)) hr hw hv hbad hends.kept hrun
  exact ⟨t, r, ht, halike, hends⟩

/-- A scan of a string of length zero (R381, R385). -/
theorem ends_scan_empty (hr : s.ready c = true) (hw : s.wired = true) (hv : Variant.hasDsc s.variant = true) (hbad : badScan rd ra rb rx = false)
    (hlen : lenOf ((s.core c).rd rb) = 0) :
    ∃ t, Ends s s t (finish (strRun s c (badScan rd ra rb rx) 0 (fun q => lenOf (q.rd rb)) fun t => findUnit t c rd ra rb rx tab (hitOf t))) c
      ((s.core c).pc + 4#48) [rd] flagBits ∧ (t.core c).nzcv = ⟨false, true, false, false⟩ ∧ (t.core c).rd rd = 0 := by
  obtain ⟨t, ht, ⟨hrd, -, hnzcv⟩⟩ := ends_string_next (r := ((s.core c).wr rd 0).setFlags ⟨false, true, false, false⟩)
    (unit := fun t => findUnit t c rd ra rb rx tab (hitOf t)) (lim := 0) (lenf := fun q => lenOf (q.rd rb)) hr hw hv hbad
    (((Core.Strung.refl _ [rd]).wr (by simp) 0).setFlags _) (by simp [unitFuel, units, findUnit, hlen, State.updCore])
  refine ⟨t, ht, hnzcv.trans (Core.nzcv_setFlags _ _), ?_⟩
  rw [hrd, Core.rd_setFlags, Core.rd_wr_same, written]
  split <;> rfl

end
end Sys2Proof.Machine
end

section
/-! CMPS (R381, R384, R386, R388): two operands of different lengths, the shorter padded. -/
namespace Sys2Proof.Machine

/-! ### The units of a comparison (R388) -/

/-- The blocks of an operand that is not empty. -/
def blocksOf (a l : Nat) : Nat := if l = 0 then 0 else blocks a l

/-- Units that are enough for a comparison: its leading operand is the first one, then what the second has more. -/
def cmpsUnits (a b l1 l2 : Nat) : Nat := blocksOf a l1 + blocksOf (b + l1) (l2 - l1)

section
variable {a l n : Nat}

theorem blocksOf_zero (a : Nat) : blocksOf a 0 = 0 := rfl

theorem blocksOf_pos (h : 0 < l) : 0 < blocksOf a l := by
  rw [blocksOf, if_neg h.ne', blocks]
  omega

theorem blocksOf_advance_le (h : n ≤ l) : blocksOf (a + n) (l - n) ≤ blocksOf a l := by
  unfold blocksOf blocks
  split <;> split <;> omega

/-- Positions up to the end of a block use it up. -/
theorem blocksOf_block (h : n < l) (hend : n = 256 ∨ (a + n) / 256 ≠ a / 256) :
    blocksOf (a + n) (l - n) < blocksOf a l := by
  rw [blocksOf, if_neg (by omega), blocksOf, if_neg (by omega), blocks, blocks]
  omega

end

theorem cmpsUnits_lt_unitFuel (a b l1 l2 : Nat) : cmpsUnits a b l1 l2 < unitFuel (l1 + l2) := by
  unfold cmpsUnits blocksOf blocks unitFuel
  split <;> split <;> omega

section
variable {a b : Word} {l1 l2 n : Nat}

/-- The block of the leading operand at a position. -/
def leadBlock (a b l1 i : Nat) : Nat := (if i < l1 then a + i else b + i) / 256

/-- Where a unit of a comparison ends: after 256 positions, at the end, or where the leading operand leaves its block. -/
theorem cmpsLen_spec (ha : a.toNat + l1 ≤ 2 ^ 48) (hb : b.toNat + l2 ≤ 2 ^ 48) (hn : cmpsLen a b l1 l2 = n) :
    n ≤ min 256 (max l1 l2) ∧ (n < min 256 (max l1 l2) → leadBlock a.toNat b.toNat l1 n ≠ leadBlock a.toNat b.toNat l1 0) := by
  have hlead : ∀ i < max l1 l2, (if i < l1 then addrAt a i else addrAt b i) / 256 = leadBlock a.toNat b.toNat l1 i := by
    intro i hi
    unfold leadBlock
    split
    · rw [addrAt_of_lt (by omega)]
    · rw [addrAt_of_lt (by omega)]
  subst hn
  unfold cmpsLen
  dsimp only
  cases hfind : (List.range (min 256 (max l1 l2))).find? fun i =>
      (if i < l1 then addrAt a i else addrAt b i) / 256 != (if 0 < l1 then addrAt a 0 else addrAt b 0) / 256 with
  | none => exact ⟨le_refl _, fun hlt => absurd hlt (lt_irrefl _)⟩
  | some i =>
    obtain ⟨hdiff, hmem, -⟩ := List.find?_range_eq_some.1 hfind
    have hi := List.mem_range.1 hmem
    rw [hlead i (by omega), hlead 0 (by omega)] at hdiff
    exact ⟨hi.le, fun _ => bne_iff_ne.1 hdiff⟩

/-- A unit that ends before the operands do uses up a block. -/
theorem cmpsUnits_shrinks (ha : a.toNat + l1 ≤ 2 ^ 48) (hb : b.toNat + l2 ≤ 2 ^ 48) (hn : cmpsLen a b l1 l2 = n) (hlt : n < max l1 l2) :
    cmpsUnits (a.toNat + min n l1) (b.toNat + min n l2) (l1 - n) (l2 - n) < cmpsUnits a.toNat b.toNat l1 l2 := by
  obtain ⟨hle, hend⟩ := cmpsLen_spec ha hb hn
  generalize a.toNat = x at *
  generalize b.toNat = y at *
  have hfull : n = 256 ∨ n < min 256 (max l1 l2) := by omega
  unfold leadBlock at hend
  unfold cmpsUnits
  by_cases hshort : n < l1
  · rw [if_pos hshort, if_pos (show 0 < l1 by omega)] at hend
    have hfirst := blocksOf_block hshort (hfull.imp_right hend)
    have hrest : blocksOf (y + min n l2 + (l1 - n)) (l2 - n - (l1 - n)) = blocksOf (y + l1) (l2 - l1) := by
      by_cases htail : l2 ≤ l1
      · rw [Nat.sub_eq_zero_of_le htail, show l2 - n - (l1 - n) = 0 by omega, blocksOf_zero, blocksOf_zero]
      · rw [show y + min n l2 + (l1 - n) = y + l1 by omega, show l2 - n - (l1 - n) = l2 - l1 by omega]
    rw [Nat.min_eq_left hshort.le]
    omega
  · rw [Nat.sub_eq_zero_of_le (Nat.not_lt.1 hshort), blocksOf_zero, Nat.zero_add, Nat.add_zero, Nat.sub_zero, Nat.min_eq_left (show n ≤ l2 by omega)]
    by_cases hempty : l1 = 0
    · subst hempty
      simp only [Nat.not_lt_zero, if_false] at hend
      exact (blocksOf_block (by omega) (hfull.imp_right hend)).trans_le (Nat.le_add_left _ _)
    · have hfirst := blocksOf_pos (a := x) (Nat.pos_of_ne_zero hempty)
      have hrest := blocksOf_advance_le (a := y + l1) (l := l2 - l1) (n := n - l1) (by omega)
      rw [show y + l1 + (n - l1) = y + n by omega, show l2 - l1 - (n - l1) = l2 - n by omega] at hrest
      omega

end

/-! ### Registers of a comparison (R381, R386) -/

theorem lenOf2_lt (v : Word) : lenOf2 v < 2 ^ 24 := by
  have := v.isLt
  unfold lenOf2
  omega

theorem lens_ofNat {u v : Nat} (hu : u < 2 ^ 24) (hv : v < 2 ^ 24) :
    lenOf (BitVec.ofNat 48 (u + v * 2 ^ 24)) = u ∧ lenOf2 (BitVec.ofNat 48 (u + v * 2 ^ 24)) = v := by
  unfold lenOf lenOf2
  rw [BitVec.toNat_ofNat]
  omega

theorem ofNat_lens (w : Word) : BitVec.ofNat 48 (lenOf w + lenOf2 w * 2 ^ 24) = w := by
  refine BitVec.eq_of_toNat_eq ?_
  have := w.isLt
  unfold lenOf lenOf2
  rw [BitVec.toNat_ofNat]
  omega

section
variable {s : State} {c : CoreId} {rd ra rb rx : RegNo} {i j n : Nat} {r : Core}

/-- Operands of a comparison in DRAM. -/
structure CmpsOperands (s : State) (c : CoreId) (rd ra rb rx : RegNo) : Prop where
  distinct : Distinct rd ra rb
  rx_notMem : rx ∉ [rd, ra, rb]
  fst : lenOf ((s.core c).rd rb) = 0 ∨ s.quietDram c ((s.core c).rd rd) (lenOf ((s.core c).rd rb)) = true
  snd : lenOf2 ((s.core c).rd rb) = 0 ∨ s.quietDram c ((s.core c).rd ra) (lenOf2 ((s.core c).rd rb)) = true

/-- A byte of an operand of a comparison, or the pad byte behind it (R384). -/
def State.padded (s : State) (a len : Nat) (pad : Byte) (i : Nat) : Byte := if i < len then s.byte (a + i) else pad

/-- The first operand's byte at a position of a comparison. -/
def State.cmpsFst (s : State) (c : CoreId) (rd rb rx : RegNo) : Nat → Byte :=
  s.padded ((s.core c).rd rd).toNat (lenOf ((s.core c).rd rb)) (((s.core c).rd rx).setWidth 8)
/-- The second operand's byte at a position. -/
def State.cmpsSnd (s : State) (c : CoreId) (ra rb rx : RegNo) : Nat → Byte :=
  s.padded ((s.core c).rd ra).toNat (lenOf2 ((s.core c).rd rb)) (((s.core c).rd rx).setWidth 8)

/-- After j positions of a comparison. -/
structure Compared (s : State) (c : CoreId) (rd ra rb : RegNo) (j : Nat) (r : Core) : Prop where
  strung : (s.core c).Strung r [rd, ra, rb] []
  fst : r.rd rd = (s.core c).rd rd + BitVec.ofNat 48 (min j (lenOf ((s.core c).rd rb)))
  snd : r.rd ra = (s.core c).rd ra + BitVec.ofNat 48 (min j (lenOf2 ((s.core c).rd rb)))
  left : r.rd rb = BitVec.ofNat 48 (lenOf ((s.core c).rd rb) - min j (lenOf ((s.core c).rd rb))
    + (lenOf2 ((s.core c).rd rb) - min j (lenOf2 ((s.core c).rd rb))) * 2 ^ 24)

theorem compared_start : Compared s c rd ra rb 0 (s.core c) where
  strung := .refl _ _
  fst := by rw [Nat.zero_min]; exact (BitVec.add_zero _).symm
  snd := by rw [Nat.zero_min]; exact (BitVec.add_zero _).symm
  left := by rw [Nat.zero_min, Nat.zero_min, Nat.sub_zero, Nat.sub_zero, ofNat_lens]

theorem Compared.lens (hJ : Compared s c rd ra rb j r) :
    lenOf (r.rd rb) = lenOf ((s.core c).rd rb) - j ∧ lenOf2 (r.rd rb) = lenOf2 ((s.core c).rd rb) - j := by
  have h1 := lenOf_lt ((s.core c).rd rb)
  have h2 := lenOf2_lt ((s.core c).rd rb)
  rw [hJ.left]
  obtain ⟨hfst, hsnd⟩ := lens_ofNat (u := lenOf ((s.core c).rd rb) - min j (lenOf ((s.core c).rd rb)))
    (v := lenOf2 ((s.core c).rd rb) - min j (lenOf2 ((s.core c).rd rb))) (by omega) (by omega)
  rw [hfst, hsnd]
  omega

theorem Compared.advance (h : CmpsOperands s c rd ra rb rx) (hJ : Compared s c rd ra rb j r) (n : Nat) :
    Compared s c rd ra rb (j + n) (r.cmpsProgress rd ra rb n) := by
  obtain ⟨hd, ha, hb, hda, hdb, hab⟩ := h.distinct
  obtain ⟨hl1, hl2⟩ := hJ.lens
  refine ⟨((hJ.strung.wr (by simp) _).wr (by simp) _).wr (by simp) _, ?_, ?_, ?_⟩
  · rw [Core.cmpsProgress, Core.rd_wr_other _ hdb.symm, Core.rd_wr_other _ hda.symm, Core.rd_wr_self _ hd, hJ.fst, add_ofNat_add, hl1]
    congr 2
    omega
  · rw [Core.cmpsProgress, Core.rd_wr_other _ hab.symm, Core.rd_wr_self _ ha, hJ.snd, add_ofNat_add, hl2]
    congr 2
    omega
  · rw [Core.cmpsProgress, Core.rd_wr_self _ hb, hl1, hl2]
    congr 1
    omega

/-! ### A unit -/

/-- Addresses of the next positions. -/
theorem Compared.addrs (h : CmpsOperands s c rd ra rb rx) (hJ : Compared s c rd ra rb j r) :
    ((r.rd rd).toNat = ((s.core c).rd rd).toNat + min j (lenOf ((s.core c).rd rb))
      ∧ (r.rd rd).toNat + (lenOf ((s.core c).rd rb) - j) ≤ 2 ^ 48)
    ∧ ((r.rd ra).toNat = ((s.core c).rd ra).toNat + min j (lenOf2 ((s.core c).rd rb))
      ∧ (r.rd ra).toNat + (lenOf2 ((s.core c).rd rb) - j) ≤ 2 ^ 48) := by
  have h1 := ((s.core c).rd rd).isLt
  have h2 := ((s.core c).rd ra).isLt
  have hlow1 : lenOf ((s.core c).rd rb) = 0 ∨ ((s.core c).rd rd).toNat + lenOf ((s.core c).rd rb) ≤ 0x0200000000 :=
    h.fst.imp_right fun hq => State.toNat_add_le_of_plainDram (State.plainDram_of_quietDram hq)
  have hlow2 : lenOf2 ((s.core c).rd rb) = 0 ∨ ((s.core c).rd ra).toNat + lenOf2 ((s.core c).rd rb) ≤ 0x0200000000 :=
    h.snd.imp_right fun hq => State.toNat_add_le_of_plainDram (State.plainDram_of_quietDram hq)
  have hfst := toNat_add_ofNat (v := (s.core c).rd rd) (n := min j (lenOf ((s.core c).rd rb))) (by omega)
  have hsnd := toNat_add_ofNat (v := (s.core c).rd ra) (n := min j (lenOf2 ((s.core c).rd rb))) (by omega)
  rw [hJ.fst, hJ.snd, hfst, hsnd]
  omega

/-- A unit that does not end a comparison uses up a block. -/
theorem Compared.shrinks (h : CmpsOperands s c rd ra rb rx) (hJ : Compared s c rd ra rb j r) {r' : Core} (hJ' : Compared s c rd ra rb (j + n) r')
    (hn : cmpsLen (r.rd rd) (r.rd ra) (lenOf ((s.core c).rd rb) - j) (lenOf2 ((s.core c).rd rb) - j) = n)
    (hlt : n < max (lenOf ((s.core c).rd rb) - j) (lenOf2 ((s.core c).rd rb) - j)) :
    cmpsUnits (r'.rd rd).toNat (r'.rd ra).toNat (lenOf ((s.core c).rd rb) - (j + n)) (lenOf2 ((s.core c).rd rb) - (j + n))
      < cmpsUnits (r.rd rd).toNat (r.rd ra).toNat (lenOf ((s.core c).rd rb) - j) (lenOf2 ((s.core c).rd rb) - j) := by
  obtain ⟨⟨hd, hdle⟩, ⟨ha, hale⟩⟩ := hJ.addrs h
  obtain ⟨⟨hd', -⟩, ⟨ha', -⟩⟩ := hJ'.addrs h
  have hfewer := cmpsUnits_shrinks hdle hale hn hlt
  rwa [show (r.rd rd).toNat + min n (lenOf ((s.core c).rd rb) - j) = (r'.rd rd).toNat by omega,
    show (r.rd ra).toNat + min n (lenOf2 ((s.core c).rd rb) - j) = (r'.rd ra).toNat by omega, Nat.sub_sub, Nat.sub_sub] at hfewer

/-- A byte that a position compares: of an operand in DRAM, or the pad byte. -/
theorem cmpsByte_eq {a : Word} {k m len opn : Nat} {pad : Byte} (hsb : r.sb = (s.core c).sb) {ps : List (Nat × Part)} (hps : InPlace ps)
    {v : Word} (hv : v.toNat = a.toNat + min m len) (hq : len = 0 ∨ s.quietDram c a len = true) :
    cmpsByte (s.setCore c r) c ps opn v (len - m) pad.toNat k = (s.setCore c r, .inr (s.padded a.toNat len pad (m + k)).toNat) := by
  unfold cmpsByte State.padded
  by_cases hk : k < len - m
  · have hquiet := hq.resolve_left (by omega)
    have hlow := State.toNat_add_le_of_plainDram (State.plainDram_of_quietDram hquiet)
    have haddr : addrAt v k = a.toNat + (m + k) := by
      rw [addrAt_of_lt (by omega)]
      omega
    rw [if_pos hk, if_pos (by omega), bytePart_of_inPlace hps, haddr]
    exact readByte_quiet hsb (State.quietAt_of_quietDram hquiet (by omega) (by omega))
  · rw [if_neg hk, if_neg (by omega)]

theorem plainAt_operand {a v : Word} {k m len : Nat} (hv : v.toNat = a.toNat + min m len) (hk : k < len - m)
    (hq : len = 0 ∨ s.quietDram c a len = true) : s.PlainAt c (addrAt v k) := by
  have hquiet := hq.resolve_left (by omega)
  have hlow := State.toNat_add_le_of_plainDram (State.plainDram_of_quietDram hquiet)
  rw [addrAt_of_lt (by omega)]
  exact State.plainAt_of_plainDram (State.plainDram_of_quietDram hquiet) (by omega)

/-- The flags of a comparison that stops at position i, or at the end of both operands (R384). -/
def State.cmpsFlags (s : State) (c : CoreId) (rd ra rb rx : RegNo) (i : Nat) : Nzcv :=
  let x := (s.cmpsFst c rd rb rx i).toNat
  let y := (s.cmpsSnd c ra rb rx i).toNat
  if i = max (lenOf ((s.core c).rd rb)) (lenOf2 ((s.core c).rd rb)) then ⟨false, true, true, false⟩
  else ⟨decide (x < y), false, decide (y < x), false⟩

/-- A unit of a comparison in DRAM whose first i positions are equal. -/
theorem cmpsUnit_step (h : CmpsOperands s c rd ra rb rx) (hJ : Compared s c rd ra rb j r) (hji : j ≤ i)
    (hi : i ≤ max (lenOf ((s.core c).rd rb)) (lenOf2 ((s.core c).rd rb)))
    (heq : ∀ k < i, s.cmpsFst c rd rb rx k = s.cmpsSnd c ra rb rx k)
    (hne : i < max (lenOf ((s.core c).rd rb)) (lenOf2 ((s.core c).rd rb)) → s.cmpsFst c rd rb rx i ≠ s.cmpsSnd c ra rb rx i)
    (hn : cmpsLen (r.rd rd) (r.rd ra) (lenOf ((s.core c).rd rb) - j) (lenOf2 ((s.core c).rd rb) - j) = n) :
    (∃ r', cmpsUnit (s.setCore c r) c rd ra rb rx = (s.setCore c (r'.setFlags (s.cmpsFlags c rd ra rb rx i)), .done) ∧ Compared s c rd ra rb i r')
      ∨ ∃ r', cmpsUnit (s.setCore c r) c rd ra rb rx = (s.setCore c r', .more) ∧ Compared s c rd ra rb (j + n) r' ∧ j + n ≤ i
        ∧ n < max (lenOf ((s.core c).rd rb) - j) (lenOf2 ((s.core c).rd rb) - j) := by
  obtain ⟨⟨hd, hdle⟩, ⟨ha, hale⟩⟩ := hJ.addrs h
  obtain ⟨hl1, hl2⟩ := hJ.lens
  obtain ⟨hnle, -⟩ := cmpsLen_spec hdle hale hn
  have hrx : r.rd rx = (s.core c).rd rx := hJ.strung.kept.w.regs rx h.rx_notMem
  have hsb : r.sb = (s.core c).sb := by rw [hJ.strung.sb, List.append_nil]
  have hpad : ((s.core c).rd rx).toNat % 256 = (((s.core c).rd rx).setWidth 8).toNat := by rw [BitVec.toNat_setWidth]
  have hplain : ∀ u ∈ ([] : List Use) ++ (List.range n).flatMap (fun k =>
      (if k < lenOf ((s.core c).rd rb) - j then [(⟨1, addrAt (r.rd rd) k, .read⟩ : Use)] else [])
        ++ if k < lenOf2 ((s.core c).rd rb) - j then [(⟨2, addrAt (r.rd ra) k, .read⟩ : Use)] else []), s.PlainAt c u.va := by
    intro u hu
    obtain ⟨k, -, hu⟩ := List.mem_flatMap.1 hu
    rcases List.mem_append.1 hu with hu | hu
    · obtain ⟨hk, hu⟩ := List.mem_ite_nil_right.1 hu
      rw [List.mem_singleton.1 hu]
      exact plainAt_operand hd hk h.fst
    · obtain ⟨hk, hu⟩ := List.mem_ite_nil_right.1 hu
      rw [List.mem_singleton.1 hu]
      exact plainAt_operand ha hk h.snd
  obtain ⟨g, hg⟩ : ∃ g : Nat → Option (Nat × Nat), ∀ k, g k =
      if (s.cmpsFst c rd rb rx (j + k)).toNat = (s.cmpsSnd c ra rb rx (j + k)).toNat then none
      else some ((s.cmpsFst c rd rb rx (j + k)).toNat, (s.cmpsSnd c ra rb rx (j + k)).toNat) := ⟨_, fun _ => rfl⟩
  have hfst : ∀ ps, InPlace ps → ∀ k, cmpsByte (s.setCore c r) c ps 1 (r.rd rd) (lenOf ((s.core c).rd rb) - j)
      (((s.core c).rd rx).setWidth 8).toNat k = (s.setCore c r, .inr (s.cmpsFst c rd rb rx (j + k)).toNat) :=
    fun ps hps k => cmpsByte_eq hsb hps hd h.fst
  have hsnd : ∀ ps, InPlace ps → ∀ k, cmpsByte (s.setCore c r) c ps 2 (r.rd ra) (lenOf2 ((s.core c).rd rb) - j)
      (((s.core c).rd rx).setWidth 8).toNat k = (s.setCore c r, .inr (s.cmpsSnd c ra rb rx (j + k)).toNat) :=
    fun ps hps k => cmpsByte_eq hsb hps ha h.snd
  unfold cmpsUnit
  simp only [State.core_setCore_same, hl1, hl2, hrx, hn, hpad]
  by_cases hstop : i < j + n
  · rw [scanUnit_stop (g := g) (i := i - j) (u := (s.cmpsFst c rd rb rx i).toNat) (v := (s.cmpsSnd c ra rb rx i).toNat) hJ.strung.csw hplain ?test
      (by omega) ?none ?some]
    case test => exact fun ps hps k hk => by simp only [hfst ps hps, hsnd ps hps, hg]
    case none => exact fun k hk => by rw [hg, heq (j + k) (by omega), if_pos rfl]
    case some =>
      rw [hg, Nat.add_sub_cancel' hji, if_neg]
      exact fun heq => hne (by omega) (BitVec.eq_of_toNat_eq heq)
    simp only [State.updCore_setCore]
    refine .inl ⟨r.cmpsProgress rd ra rb (i - j), ?_, by simpa only [Nat.add_sub_cancel' hji] using hJ.advance h (i - j)⟩
    simp only [State.cmpsFlags, if_neg (show i ≠ max (lenOf ((s.core c).rd rb)) (lenOf2 ((s.core c).rd rb)) by omega)]
  · rw [scanUnit_pass (g := g) hJ.strung.csw hplain ?test ?none]
    case test => exact fun ps hps k hk => by simp only [hfst ps hps, hsnd ps hps, hg]
    case none => exact fun k hk => by rw [hg, heq (j + k) (by omega), if_pos rfl]
    simp only [State.updCore_setCore]
    by_cases hlast : max (lenOf ((s.core c).rd rb) - j) (lenOf2 ((s.core c).rd rb) - j) ≤ n
    · have hend : j + n = i := by omega
      simp only [if_pos hlast]
      refine .inl ⟨if n = 0 then r else r.cmpsProgress rd ra rb n, ?_, ?_⟩
      · simp only [State.cmpsFlags, if_pos (show i = max (lenOf ((s.core c).rd rb)) (lenOf2 ((s.core c).rd rb)) by omega)]
      · rw [← hend]
        split
        · next h0 => rwa [h0]
        · exact hJ.advance h n
    · simp only [if_neg hlast]
      exact .inr ⟨_, rfl, hJ.advance h n, by omega, by omega⟩

/-- A comparison whose first i positions are equal, and which stops then or is at its end. -/
theorem ends_cmps (hr : s.ready c = true) (hw : s.wired = true) (hv : Variant.hasDsc s.variant = true) (h : CmpsOperands s c rd ra rb rx)
    (hbad : badProgress [rd, ra, rb, rx] = false) (hi : i ≤ max (lenOf ((s.core c).rd rb)) (lenOf2 ((s.core c).rd rb)))
    (heq : ∀ k < i, s.cmpsFst c rd rb rx k = s.cmpsSnd c ra rb rx k)
    (hne : i < max (lenOf ((s.core c).rd rb)) (lenOf2 ((s.core c).rd rb)) → s.cmpsFst c rd rb rx i ≠ s.cmpsSnd c ra rb rx i) :
    ∃ t r, Ends s s t (exec (.cmps c rd ra rb rx 0) s) c ((s.core c).pc + 4#48) [rd, ra, rb] flagBits
      ∧ (t.core c).Alike (r.setFlags (s.cmpsFlags c rd ra rb rx i)) ∧ Compared s c rd ra rb i r := by
  have hunits := units_of_invariant (s := s) (c := c) (unit := fun t => cmpsUnit t c rd ra rb rx)
    (I := fun n r => ∃ j, Compared s c rd ra rb j r ∧ j ≤ i
      ∧ n = cmpsUnits (r.rd rd).toNat (r.rd ra).toNat (lenOf ((s.core c).rd rb) - j) (lenOf2 ((s.core c).rd rb) - j))
    (P := fun r => ∃ r0, Compared s c rd ra rb i r0 ∧ r = r0.setFlags (s.cmpsFlags c rd ra rb rx i)) ?step
    (r := s.core c) ⟨0, compared_start, Nat.zero_le i, rfl⟩ (cmpsUnits_lt_unitFuel _ _ _ _)
  case step =>
    rintro n r ⟨j, hJ, hji, rfl⟩
    rcases cmpsUnit_step h hJ hji hi heq hne rfl with ⟨r', hunit, hends⟩ | ⟨r', hunit, hJ', hle, hlt⟩
    · exact .inl ⟨_, hunit, r', hends, rfl⟩
    · exact .inr ⟨r', _, hJ.shrinks h hJ' rfl hlt, hunit, hJ'.strung.due.trans (due_of_ready hr), _, hJ', hle, rfl⟩
  obtain ⟨_, hrun, r, hJ, rfl⟩ := hunits
  rw [State.setCore_core] at hrun
  obtain ⟨t, ht, halike⟩ := ends_string_next (lenf := fun q => lenOf (q.rd rb) + lenOf2 (q.rd rb)) hr hw hv hbad (hJ.strung.setFlags _) hrun
  exact ⟨t, r, ht, halike, hJ⟩

end
end Sys2Proof.Machine
end

section
/-! The statement on the instructions that only read (R381, R382, R384 to R387). -/
namespace Sys2Proof.Machine

section
variable {s : State} {c : CoreId} {rd ra rb rx : RegNo} {i tab : Nat} {hit : Byte → Bool} {v : Byte → Byte}
  {hitOf : State → List (Nat × Part) → State → Nat → State × (Exc ⊕ Option Nat)}

theorem badScan_eq_false_iff : badScan rd ra rb rx = false ↔ Distinct ra rb rx ∧ rd ≠ ra ∧ rd ≠ rb ∧ rd ≠ rx := by
  simp only [badScan, Bool.or_eq_false_iff, beq_eq_false_iff_ne, badProgress_three, and_assoc, ne_eq]

/-! ### What the statement says of an instruction that has ended -/

/-- An instruction that has advanced, with flags fl, and whose core satisfies P. -/
def AdvancedWith (s : State) (o : Host.Outcome State Fault Refusal) (c : CoreId) (w : List RegNo) (fl : Nzcv) (P : Core → Prop) : Prop :=
  ∃ t, o = .next t ∧ Advanced s t c ∧ Leaves s s t c w [] [] flagBits ∧ (t.core c).nzcv = fl ∧ P (t.core c)

theorem State.cmpsFlags_end (hi : i = max (lenOf ((s.core c).rd rb)) (lenOf2 ((s.core c).rd rb))) :
    s.cmpsFlags c rd ra rb rx i = ⟨false, true, true, false⟩ := if_pos hi

theorem State.cmpsFlags_stop (hi : i < max (lenOf ((s.core c).rd rb)) (lenOf2 ((s.core c).rd rb))) :
    s.cmpsFlags c rd ra rb rx i = ⟨decide ((s.cmpsFst c rd rb rx i).toNat < (s.cmpsSnd c ra rb rx i).toNat), false,
      decide ((s.cmpsSnd c ra rb rx i).toNat < (s.cmpsFst c rd rb rx i).toNat), false⟩ := if_neg hi.ne

theorem compared_advancedWith (hr : s.ready c = true) (hw : s.wired = true) (hv : Variant.hasDsc s.variant = true) (hd : Distinct rd ra rb)
    (hx : rx ≠ 0 ∧ rx ≠ rd ∧ rx ≠ ra ∧ rx ≠ rb)
    (hfst : lenOf ((s.core c).rd rb) = 0 ∨ s.quietDram c ((s.core c).rd rd) (lenOf ((s.core c).rd rb)) = true)
    (hsnd : lenOf2 ((s.core c).rd rb) = 0 ∨ s.quietDram c ((s.core c).rd ra) (lenOf2 ((s.core c).rd rb)) = true)
    (hi : i ≤ max (lenOf ((s.core c).rd rb)) (lenOf2 ((s.core c).rd rb)))
    (heq : ∀ k < i, s.cmpsFst c rd rb rx k = s.cmpsSnd c ra rb rx k)
    (hne : i < max (lenOf ((s.core c).rd rb)) (lenOf2 ((s.core c).rd rb)) → s.cmpsFst c rd rb rx i ≠ s.cmpsSnd c ra rb rx i) :
    AdvancedWith s (exec (.cmps c rd ra rb rx 0) s) c [rd, ra, rb] (s.cmpsFlags c rd ra rb rx i) fun r =>
      r.rd rd = (s.core c).rd rd + BitVec.ofNat 48 (min i (lenOf ((s.core c).rd rb)))
        ∧ r.rd ra = (s.core c).rd ra + BitVec.ofNat 48 (min i (lenOf2 ((s.core c).rd rb)))
        ∧ r.rd rb = BitVec.ofNat 48 (lenOf ((s.core c).rd rb) - min i (lenOf ((s.core c).rd rb))
          + (lenOf2 ((s.core c).rd rb) - min i (lenOf2 ((s.core c).rd rb))) * 2 ^ 24) := by
  obtain ⟨hx0, hxd, hxa, hxb⟩ := hx
  obtain ⟨t, r, ⟨hnext, hpc, hleaves⟩, ⟨hrd, -, hnzcv⟩, hJ⟩ := ends_cmps hr hw hv ⟨hd, by simp [hxd, hxa, hxb], hfst, hsnd⟩
    (badProgress_four.2 ⟨hd, hx0, hxd, hxa, hxb⟩) hi heq hne
  refine ⟨t, hnext, hpc, hleaves, hnzcv.trans (Core.nzcv_setFlags _ _), ?_⟩
  simp only [hrd, Core.rd_setFlags]
  exact ⟨hJ.fst, hJ.snd, hJ.left⟩

/-- A scan stops at the first byte that is hit, or goes to the end of its operand. -/
theorem scan_advancedWith (hr : s.ready c = true) (hw : s.wired = true) (hv : Variant.hasDsc s.variant = true)
    (h : ScanOperands s c rd ra rb rx tab hitOf fun b => if hit b then some (v b).toNat else none) {o : Host.Outcome State Fault Refusal}
    (ho : o = finish (strRun s c (badScan rd ra rb rx) 0 (fun q => lenOf (q.rd rb)) fun t => findUnit t c rd ra rb rx tab (hitOf t))) :
    (i < lenOf ((s.core c).rd rb) → hit (s.byte (((s.core c).rd ra).toNat + i)) = true →
      (∀ k < i, hit (s.byte (((s.core c).rd ra).toNat + k)) = false) →
      AdvancedWith s o c [rd, ra, rb] ⟨false, false, false, false⟩ fun r =>
        r.rd rd = written rd ((v (s.byte (((s.core c).rd ra).toNat + i))).setWidth 48)
          ∧ r.rd ra = (s.core c).rd ra + BitVec.ofNat 48 i ∧ r.rd rb = BitVec.ofNat 48 (lenOf ((s.core c).rd rb) - i))
    ∧ (0 < lenOf ((s.core c).rd rb) → (∀ k < lenOf ((s.core c).rd rb), hit (s.byte (((s.core c).rd ra).toNat + k)) = false) →
      AdvancedWith s o c [rd, ra, rb] ⟨false, true, false, false⟩ fun r =>
        r.rd rd = 0 ∧ r.rd ra = (s.core c).rd ra + BitVec.ofNat 48 (lenOf ((s.core c).rd rb)) ∧ r.rd rb = 0) := by
  subst ho
  have hbad := badScan_eq_false_iff.2 ⟨h.distinct, h.rd_ne_ra, h.rd_ne_rb, h.rd_ne_rx⟩
  refine ⟨fun hi hhit hmiss => ?_, fun hlen hmiss => ?_⟩
  · obtain ⟨t, r, ⟨hnext, hpc, hleaves⟩, ⟨hrd, -, hnzcv⟩, hends⟩ := ends_scan hr hw hv hbad (Nat.zero_lt_of_lt hi) h hi.le
      (fun k hk => by simp [hmiss k hk]) fun _ => by simp [hhit]
    refine ⟨t, hnext, hpc, hleaves, ?_, ?_⟩
    · rw [hnzcv, hends.flags, decide_eq_false hi.ne]
    · simp only [hrd]
      rw [hends.found, hends.src, hends.left, if_neg hi.ne, if_pos hhit, Option.getD_some, BitVec.ofNat_toNat]
      exact ⟨rfl, rfl, rfl⟩
  · obtain ⟨t, r, ⟨hnext, hpc, hleaves⟩, ⟨hrd, -, hnzcv⟩, hends⟩ := ends_scan hr hw hv hbad hlen h (le_refl _)
      (fun k hk => by simp [hmiss k hk]) fun hlt => absurd hlt (lt_irrefl _)
    refine ⟨t, hnext, hpc, hleaves, ?_, ?_⟩
    · rw [hnzcv, hends.flags, decide_eq_true rfl]
    · simp only [hrd]
      rw [hends.found, hends.src, hends.left, if_pos rfl, Nat.sub_self, written, ite_self]
      exact ⟨rfl, rfl, rfl⟩

end

/-! ### Tables of SCNS and TRTS (R385) -/

section
variable {s : State} {c : CoreId} {rd ra rb rx : RegNo} {r : Core} {ps : List (Nat × Part)} {k tab : Nat}

theorem readByte_table (htab : s.quietDram c ((s.core c).rd rx) tab = true) (hrx : r.rd rx = (s.core c).rd rx) (hsb : r.sb = (s.core c).sb)
    (hps : InPlace ps) (hk : k < tab) : readByte (s.setCore c r) c (bytePart ps 0 (addrAt (r.rd rx) k))
      = (s.setCore c r, .inr (s.byte (((s.core c).rd rx).toNat + k)).toNat) := by
  have hlow := State.toNat_add_le_of_plainDram (State.plainDram_of_quietDram htab)
  rw [bytePart_of_inPlace hps, hrx, addrAt_of_lt (by omega)]
  exact readByte_quiet hsb (State.quietAt_of_quietDram htab (by omega) (by omega))

theorem scanOperands_scns (hd : Distinct ra rb rx) (hne : rd ≠ ra ∧ rd ≠ rb ∧ rd ≠ rx)
    (hsrc : s.quietDram c ((s.core c).rd ra) (lenOf ((s.core c).rd rb)) = true) (htab : s.quietDram c ((s.core c).rd rx) 32 = true) :
    ScanOperands s c rd ra rb rx 32 (fun s ps s' b => match readByte s' c (bytePart ps 0 (addrAt ((s.core c).rd rx) (b / 8))) with
      | (t, .inl e) => (t, .inl e)
      | (t, .inr m) => (t, .inr (if bit m (b % 8) then some b else none)))
      fun b => if (s.byte (((s.core c).rd rx).toNat + b.toNat / 8)).getLsbD (b.toNat % 8) then some b.toNat else none where
  distinct := hd
  rd_ne_ra := hne.1
  rd_ne_rb := hne.2.1
  rd_ne_rx := hne.2.2
  src := hsrc
  table := htab
  hit r hrx hsb ps hps b := by
    simp only [State.core_setCore_same, readByte_table htab hrx hsb hps (k := b.toNat / 8) (by omega)]
    rfl

theorem scanOperands_trts (hd : Distinct ra rb rx) (hne : rd ≠ ra ∧ rd ≠ rb ∧ rd ≠ rx)
    (hsrc : s.quietDram c ((s.core c).rd ra) (lenOf ((s.core c).rd rb)) = true) (htab : s.quietDram c ((s.core c).rd rx) 256 = true) :
    ScanOperands s c rd ra rb rx 256 (fun s ps s' b => match readByte s' c (bytePart ps 0 (addrAt ((s.core c).rd rx) b)) with
      | (t, .inl e) => (t, .inl e)
      | (t, .inr m) => (t, .inr (if m = 0 then none else some m)))
      fun b => if s.byte (((s.core c).rd rx).toNat + b.toNat) != 0 then some (s.byte (((s.core c).rd rx).toNat + b.toNat)).toNat else none where
  distinct := hd
  rd_ne_ra := hne.1
  rd_ne_rb := hne.2.1
  rd_ne_rx := hne.2.2
  src := hsrc
  table := htab
  hit r hrx hsb ps hps b := by
    simp only [State.core_setCore_same, readByte_table htab hrx hsb hps b.isLt, bne_iff_ne, ne_eq, ite_not, BitVec.toNat_eq]
    rfl

end

theorem stringScansStopAtTheFirst : Claims.StringScansStopAtTheFirst := by
  intro s c rd ra rb rx i hr hw hv q a d tab len len2 pad x y apart after cmps bitmap table found
  have hdistinct : apart → Distinct ra rb rx ∧ rd ≠ ra ∧ rd ≠ rb ∧ rd ≠ rx :=
    fun ⟨ha, hb, hx, hab, hax, hbx, hne⟩ => ⟨⟨ha, hb, hx, hab, hax, hbx⟩, hne⟩
  refine ⟨fun hap hd hfst hsnd => ?compare, fun hap hlen j hj => ?empty, fun hap hsrc => ⟨fun htab => ?scns, fun htab => ?trts⟩,
    fun hap ht j hj => ?illegal, fun hd ht => ?zero⟩
  case compare =>
    obtain ⟨⟨ha, hb, hx, hab, hax, hbx⟩, hda, hdb, hdx⟩ := hdistinct hap
    have hcompared := fun i => compared_advancedWith (i := i) hr hw hv ⟨hd, ha, hb, hda, hdb, hab⟩ ⟨hx, hdx.symm, hax.symm, hbx.symm⟩ hfst hsnd
    refine ⟨fun heq => ?_, fun hi hne heq => ?_⟩
    · have hall := hcompared _ (le_refl _) heq fun hlt => absurd hlt (lt_irrefl _)
      rw [State.cmpsFlags_end rfl, Nat.min_eq_right (Nat.le_max_left _ _), Nat.min_eq_right (Nat.le_max_right _ _)] at hall
      exact hall
    · have hfirst := hcompared i hi.le heq fun _ => hne
      rw [State.cmpsFlags_stop hi] at hfirst
      exact hfirst
  case empty =>
    simp only [List.mem_cons, List.not_mem_nil, or_false] at hj
    rcases hj with rfl | rfl
    all_goals
      obtain ⟨t, ⟨hnext, hpc, hleaves⟩, hnzcv, hrd⟩ := ends_scan_empty hr hw hv (badScan_eq_false_iff.2 (hdistinct hap)) hlen
      exact ⟨t, hnext, hpc, hleaves, hnzcv, hrd⟩
  case scns => exact scan_advancedWith hr hw hv (scanOperands_scns (hdistinct hap).1 (hdistinct hap).2 hsrc htab) rfl
  case trts => exact scan_advancedWith hr hw hv (scanOperands_trts (hdistinct hap).1 (hdistinct hap).2 hsrc htab) rfl
  case illegal =>
    have hbad : badScan rd ra rb rx = true := by
      rw [← Bool.not_eq_false, badScan_eq_false_iff]
      exact fun ⟨⟨ha, hb, hx, hab, hax, hbx⟩, hne⟩ => hap ⟨ha, hb, hx, hab, hax, hbx, hne⟩
    have hbadC : badProgress [rd, ra, rb, rx] = true := by
      rw [← Bool.not_eq_false, badProgress_four]
      exact fun ⟨⟨_, ha, hb, hda, hdb, hab⟩, hx, hxd, hxa, hxb⟩ => hap ⟨ha, hb, hx, hab, hxa.symm, hxb.symm, hda, hdb, hxd.symm⟩
    simp only [List.mem_cons, List.not_mem_nil, or_false] at hj
    rcases hj with rfl | rfl | rfl
    · exact raises_dscIllegal hr hv ht (by decide) hbad
    · exact raises_dscIllegal hr hv ht (by decide) hbad
    · exact raises_dscIllegal hr hv ht (by decide) hbadC
  case zero => exact raises_dscIllegal hr hv ht (by decide) (by rfl)

end Sys2Proof.Machine
end

section
/-! An edit writes at most as many bytes as its pattern has (R366, R376). -/
namespace Sys2Proof.Machine

/-! ### Pattern bytes of the elements (R365 to R368) -/

/-- The bytes that an element takes in a pattern; a literal has at least one. -/
def Elem.size : Elem → Nat
  | .flt y => y.length + 1
  | .esc l => l.length + 1
  | .lit l => max 1 l.length
  | _ => 1

/-- The bytes that elements take in a pattern. -/
def elemsSize (l : List Elem) : Nat := (l.map Elem.size).sum

section
variable {x : Elem} {l : List Elem}

theorem elemsSize_cons : elemsSize (x :: l) = x.size + elemsSize l := List.sum_cons

theorem seqLen_pos (b : Byte) : 0 < seqLen b := by
  unfold seqLen
  dsimp only
  split_ifs <;> decide

/-- A symbol or literal is not empty, and what follows it stands behind it. -/
theorem length_takeSeq {bs y r : List Byte} (h : takeSeq bs = some (y, r)) : max 1 y.length + r.length = bs.length := by
  cases bs with
  | nil => cases h
  | cons b bs =>
    have hpos := seqLen_pos b
    rw [takeSeq] at h
    split at h
    · cases h
    · next hlen =>
      obtain ⟨rfl, rfl⟩ := Prod.mk.inj (Option.some.inj h)
      rw [List.length_take, List.length_drop]
      omega

theorem elemsSize_cons_le_succ {n : Nat} (hx : x.size = 1) (h : elemsSize l ≤ n) : elemsSize (x :: l) ≤ n + 1 := by
  rw [elemsSize_cons, hx]
  omega

theorem elemsSize_parsePattern_le (k : Nat) (bs : List Byte) : elemsSize (parsePattern k bs) ≤ bs.length := by
  fun_induction parsePattern k bs with
  | case1 => exact Nat.zero_le _
  | case2 => exact Nat.zero_le _
  | case3 _ _ _ _ ih | case4 _ _ _ _ ih | case5 _ _ _ _ ih | case6 _ _ _ _ ih | case7 _ _ _ _ ih => exact elemsSize_cons_le_succ rfl ih
  | case9 => exact Nat.zero_le _
  | case8 _ _ _ _ _ _ hseq ih | case10 _ _ _ _ _ _ hseq ih =>
    have hlen := length_takeSeq hseq
    rw [elemsSize_cons, Elem.size, List.length_cons]
    omega
  | case11 => exact Nat.zero_le _
  | case12 _ _ _ y r hseq _ _ _ _ _ _ _ ih =>
    have hlen := length_takeSeq hseq
    rw [elemsSize_cons, Elem.size]
    omega
  | case13 => exact Nat.zero_le _

end

/-- The bytes of segments with a SEP behind each but the last. -/
def segsSize : List (List Elem) → Nat
  | [] => 0
  | [g] => elemsSize g
  | g :: gs => elemsSize g + 1 + segsSize gs

theorem segsSize_cons (g : List Elem) {gs : List (List Elem)} (h : gs ≠ []) : segsSize (g :: gs) = elemsSize g + 1 + segsSize gs := by
  cases gs with
  | nil => exact absurd rfl h
  | cons g' gs => rfl

theorem segsSize_cons_cons (x : Elem) (g : List Elem) (gs : List (List Elem)) : segsSize ((x :: g) :: gs) = x.size + segsSize (g :: gs) := by
  cases gs with
  | nil => exact elemsSize_cons
  | cons g' gs => simp only [segsSize, elemsSize_cons, Nat.add_assoc]

theorem segments_ne_nil (l : List Elem) : segments l ≠ [] := by
  unfold segments
  split
  · simp
  · simp
  · split <;> simp

/-- The segments with their SEP elements take the bytes of the pattern's elements (R368). -/
theorem segsSize_segments (l : List Elem) : segsSize (segments l) = elemsSize l := by
  fun_induction segments l with
  | case1 => rfl
  | case2 l ih => rw [segsSize_cons [] (segments_ne_nil l), ih, elemsSize_cons]; rfl
  | case3 e l _ hseg _ => exact absurd hseg (segments_ne_nil l)
  | case4 e l _ g gs hseg ih => rw [segsSize_cons_cons, ← hseg, ih, elemsSize_cons]

/-! ### Output -/

/-- Bytes written and a pending symbol's bytes. -/
def EditSt.weight (e : EditSt) : Nat := e.out.length + (e.sym.map fun x => x.1.length).getD 0

section
variable {e : EditSt} {f : Byte} {x : Elem} {l : List Byte}

theorem EditSt.weight_fill : (e.fill f).weight = e.weight + 1 := by
  simp only [EditSt.fill, EditSt.weight, List.length_append, List.length_singleton, Option.map_map, Function.comp_def]
  omega

theorem EditSt.weight_put : (e.put l).weight = e.weight + l.length := by
  simp only [EditSt.put, EditSt.weight, List.length_append]
  omega

/-- A significant digit writes a byte, and instead of a fill byte the pending symbol. -/
theorem EditSt.weight_digit_le (d : Nat) : (e.digit d).weight ≤ e.weight + 1 := by
  unfold EditSt.digit EditSt.weight
  dsimp only
  split
  · next y i _ hsym =>
    simp only [hsym, List.length_append, List.length_singleton, List.length_take, List.length_drop, Option.map_none, Option.map_some, Option.getD_none,
      Option.getD_some]
    omega
  · simp only [List.length_append, List.length_singleton]
    omega

theorem EditSt.weight_runLit_le (ng : Bool) : (e.runLit f ng l).weight ≤ e.weight + max 1 l.length := by
  unfold EditSt.runLit
  split
  · rw [EditSt.weight_put]
    omega
  · rw [EditSt.weight_fill]
    omega

/-- An element adds at most its bytes of the pattern. -/
theorem EditSt.weight_step_le (dg : Nat → Nat) (ng : Bool) : (e.step f dg ng x).weight ≤ e.weight + x.size := by
  cases x with
  | dig =>
    change (if e.sig || dg e.pos != 0 then e.digit (dg e.pos) else e.fill f).weight ≤ e.weight + 1
    split
    · exact e.weight_digit_le _
    · exact EditSt.weight_fill.le
  | digm => exact e.weight_digit_le _
  | sep => exact Nat.le_add_right _ _
  | neg => exact Nat.le_add_right _ _
  | fin => exact Nat.le_add_right _ _
  | flt y =>
    rw [EditSt.step, Elem.size]
    split
    · rw [EditSt.weight_put]
      omega
    · simp only [EditSt.weight, EditSt.fill, List.length_append, List.length_singleton, Option.map_some, Option.getD_some]
      omega
  | lit l =>
    rw [EditSt.step, Elem.size]
    split
    · exact EditSt.weight_runLit_le ng
    · split
      · rw [EditSt.weight_put]
        omega
      · rw [EditSt.weight_fill]
        omega
  | esc l =>
    rw [EditSt.step, Elem.size]
    split
    · exact (EditSt.weight_runLit_le ng).trans (by omega)
    · rw [EditSt.weight_put]
      omega

theorem EditSt.weight_foldl_le (dg : Nat → Nat) (ng : Bool) (g : List Elem) : (g.foldl (EditSt.step f dg ng) e).weight ≤ e.weight + elemsSize g := by
  induction g generalizing e with
  | nil => exact Nat.le_add_right _ _
  | cons x g ih =>
    have hstep : (e.step f dg ng x).weight ≤ e.weight + x.size := EditSt.weight_step_le dg ng
    rw [List.foldl_cons, elemsSize_cons]
    exact ih.trans (by omega)

end

theorem length_editAll_le (f : Byte) (gs : List (List Elem)) (src : List Byte) (r : EditRes) :
    (editAll f gs src r).out.length ≤ r.out.length + segsSize gs := by
  induction gs generalizing src r with
  | nil => exact Nat.le_add_right _ _
  | cons g gs ih =>
    have hfield : ∀ dg ng, (g.foldl (EditSt.step f dg ng) ⟨r.out, false, false, none, none, 0⟩).out.length ≤ r.out.length + elemsSize g :=
      fun dg ng => (Nat.le_add_right _ _).trans (EditSt.weight_foldl_le dg ng g)
    rw [editAll]
    refine (ih _ _).trans ?_
    cases gs with
    | nil => exact hfield _ _
    | cons g' gs =>
      rw [segsSize_cons g (List.cons_ne_nil g' gs), ← Nat.add_assoc, ← Nat.add_assoc]
      simpa using hfield _ _

/-- The output of an edit is no longer than its pattern (R376). -/
theorem length_editAll_segments_le (f : Byte) (k : Nat) (bs src : List Byte) :
    (editAll f (segments (parsePattern k bs)) src ⟨[], none, false, false⟩).out.length ≤ bs.length := by
  refine (length_editAll_le f _ src _).trans ?_
  rw [segsSize_segments, List.length_nil, Nat.zero_add]
  exact elemsSize_parsePattern_le k bs

/-- An edit has a source field. -/
theorem sum_fieldLen_segments_pos (l : List Elem) : 0 < ((segments l).map fieldLen).sum := by
  cases h : segments l with
  | nil => exact absurd h (segments_ne_nil l)
  | cons g gs =>
    rw [List.map_cons, List.sum_cons, fieldLen]
    omega

end Sys2Proof.Machine
end

section
/-! EDIT and EDITM over DRAM (R361, R364, R368, R370, R376 to R379). -/
namespace Sys2Proof.Machine

section
variable {s : State} {c : CoreId} {rd ra rb rx : RegNo} {m : Bool}

/-! ### What an edit reads and makes -/

/-- Bytes of the pattern (R364). -/
abbrev State.patternLen (s : State) (c : CoreId) (rx : RegNo) : Nat := ((s.core c).rd rx).toNat % 256 + 1

/-- Segments of the pattern (R368). -/
abbrev State.editSegments (s : State) (c : CoreId) (rb rx : RegNo) : List (List Elem) :=
  segments (parsePattern (s.patternLen c rx) (s.bytes ((s.core c).rd rb).toNat (s.patternLen c rx)))

/-- Bytes of the source fields (R368). -/
abbrev State.editSourceLen (s : State) (c : CoreId) (rb rx : RegNo) : Nat := ((s.editSegments c rb rx).map fieldLen).sum

abbrev State.editSource (s : State) (c : CoreId) (ra rb rx : RegNo) : List Byte := s.bytes ((s.core c).rd ra).toNat (s.editSourceLen c rb rx)

abbrev State.editRes (s : State) (c : CoreId) (ra rb rx : RegNo) : EditRes :=
  editAll (BitVec.ofNat 8 (((s.core c).rd rx).toNat / 256)) (s.editSegments c rb rx) (s.editSource c ra rb rx) ⟨[], none, false, false⟩

theorem State.length_editRes_le (s : State) (c : CoreId) (ra rb rx : RegNo) : (s.editRes c ra rb rx).out.length ≤ s.patternLen c rx :=
  (length_editAll_segments_le _ _ _ _).trans_eq (State.bytes_length _ _ _)

theorem State.editSourceLen_pos : 0 < s.editSourceLen c rb rx := sum_fieldLen_segments_pos _

/-- Operands of an edit in DRAM, and room for its output. -/
structure EditOperands (s : State) (c : CoreId) (rd ra rb rx : RegNo) : Prop where
  distinct : Distinct rd ra rx
  pattern : s.quietDram c ((s.core c).rd rb) (s.patternLen c rx) = true
  source : s.quietDram c ((s.core c).rd ra) (s.editSourceLen c rb rx) = true
  output : (s.editRes c ra rb rx).out = [] ∨ s.plainDram c ((s.core c).rd rd) (s.editRes c ra rb rx).out.length = true
  room : s.sbRoom c 2 = true

theorem badEdit_eq_false_iff : badEdit rd ra rx = false ↔ Distinct rd ra rx := by
  simp only [badEdit, Bool.or_eq_false_iff, beq_eq_false_iff_ne, and_assoc]
  exact ⟨fun ⟨hd, ha, hx, hda, hdx, hax⟩ => ⟨hd, ha, hx, hda, hdx, hax⟩,
    fun ⟨hd, ha, hx, hda, hdx, hax⟩ => ⟨hd, ha, hx, hda, hdx, hax⟩⟩

/-! ### Output (R376) -/

/-- Parts of the output. -/
def outputParts (d : Word) : List Byte → List Part
  | [] => []
  | b :: l => dramParts d.toNat (b :: l).length 4096

section
variable {d : Word} {out : List Byte}

theorem checkAll_output (h : out = [] ∨ s.plainDram c d out.length = true) :
    checkAll s c (s.core c).ctx false (if out.isEmpty then [] else storagePieces d out.length .write) = (s, .inr (outputParts d out)) := by
  cases out with
  | nil => rfl
  | cons b l =>
    have hplain := h.resolve_left (List.cons_ne_nil b l)
    rw [outputParts, ← map_dramPart_storagePieces d _ .write]
    exact checkAll_storage hplain (storagePieces_inDram hplain (Nat.succ_pos _))

theorem writeParts_output (h : out = [] ∨ s.plainDram c d out.length = true) (hroom : s.sbRoom c 2 = true) :
    writeParts s c (s.core c).ctx (outputParts d out) out = s.setCore c ((s.core c).queue (storesOf (outputParts d out) out)) := by
  cases out with
  | nil =>
    have hqueue : (s.core c).queue (storesOf (outputParts d []) []) = s.core c := by rw [outputParts, storesOf, Core.queue, List.append_nil]
    rw [hqueue, State.setCore_core, outputParts, writeParts]
  | cons b l => exact writeParts_plainDram (h.resolve_left (List.cons_ne_nil b l)) (Nat.succ_pos _) hroom _

theorem tiles_output (h : out = [] ∨ s.plainDram c d out.length = true) : tiles (storesOf (outputParts d out) out) d.toNat out := by
  cases out with
  | nil => rfl
  | cons b l => exact tiles_storesOf (partsCover_plainDram (h.resolve_left (List.cons_ne_nil b l)) (Nat.succ_pos _) (by decide)).1 rfl

end

/-! ### The run -/

/-- Registers that an edit writes (R377, R378). -/
def editRegs (rd ra rx : RegNo) (m : Bool) : List RegNo := if m then [rd, ra, rx] else [rd, ra]

/-- Where the output ends (R377). -/
def State.editEnd (s : State) (c : CoreId) (rd ra rb rx : RegNo) : Word := (s.core c).rd rd + BitVec.ofNat 48 (s.editRes c ra rb rx).out.length
/-- The mark of EDITM (R378). -/
def State.editMark (s : State) (c : CoreId) (rd ra rb rx : RegNo) : Word :=
  match (s.editRes c ra rb rx).mark with
  | some i => (s.core c).rd rd + BitVec.ofNat 48 i
  | none => s.editEnd c rd ra rb rx

/-- What the core holds after an edit. -/
structure Edited (s : State) (c : CoreId) (rd ra rb rx : RegNo) (m : Bool) (r : Core) : Prop where
  kept : (s.core c).Kept r (editRegs rd ra rx m) [] [] flagBits
  out : r.rd rd = s.editEnd c rd ra rb rx
  src : r.rd ra = (s.core c).rd ra + BitVec.ofNat 48 (s.editSourceLen c rb rx)
  mark : m = true → r.rd rx = s.editMark c rd ra rb rx
  flags : r.nzcv = ⟨(s.editRes c ra rb rx).neg, (s.editRes c ra rb rx).zero, m && (s.editRes c ra rb rx).mark.isSome, false⟩
  sb : ∃ es, r.sb = (s.core c).sb ++ es ∧ tiles es ((s.core c).rd rd).toNat (s.editRes c ra rb rx).out

/-- The core after an edit. -/
def State.editCore (s : State) (c : CoreId) (rd ra rb rx : RegNo) (m : Bool) : Core :=
  let r := s.editRes c ra rb rx
  let q := ((s.core c).queue (storesOf (outputParts ((s.core c).rd rd) r.out) r.out)).wr rd (s.editEnd c rd ra rb rx)
  let q := q.wr ra ((s.core c).rd ra + BitVec.ofNat 48 (s.editSourceLen c rb rx))
  (if m then q.wr rx (s.editMark c rd ra rb rx) else q).setFlags ⟨r.neg, r.zero, m && r.mark.isSome, false⟩

theorem edited_editCore (h : EditOperands s c rd ra rb rx) : Edited s c rd ra rb rx m (s.editCore c rd ra rb rx m) := by
  obtain ⟨hd, ha, hx, hda, hdx, hax⟩ := h.distinct
  have hrd : rd ∈ editRegs rd ra rx m := by cases m <;> simp [editRegs]
  have hra : ra ∈ editRegs rd ra rx m := by cases m <;> simp [editRegs]
  have hstrung := (((Core.Strung.refl (s.core c) _).queue (storesOf (outputParts ((s.core c).rd rd) (s.editRes c ra rb rx).out)
    (s.editRes c ra rb rx).out)).wr hrd (s.editEnd c rd ra rb rx)).wr hra ((s.core c).rd ra + BitVec.ofNat 48 (s.editSourceLen c rb rx))
  cases m with
  | false => exact {
      kept := hstrung.setFlags _
      out := by rw [State.editCore, Core.rd_setFlags, if_neg Bool.false_ne_true, Core.rd_wr_other _ hda.symm, Core.rd_wr_self _ hd]
      src := by rw [State.editCore, Core.rd_setFlags, if_neg Bool.false_ne_true, Core.rd_wr_self _ ha]
      mark := fun hm => absurd hm Bool.false_ne_true
      flags := Core.nzcv_setFlags _ _
      sb := ⟨_, hstrung.sb, tiles_output h.output⟩ }
  | true => exact {
      kept := (hstrung.wr (n := rx) (by simp [editRegs]) _).setFlags _
      out := by
        rw [State.editCore, Core.rd_setFlags, if_pos rfl, Core.rd_wr_other _ hdx.symm, Core.rd_wr_other _ hda.symm, Core.rd_wr_self _ hd]
      src := by rw [State.editCore, Core.rd_setFlags, if_pos rfl, Core.rd_wr_other _ hax.symm, Core.rd_wr_self _ ha]
      mark := fun _ => by rw [State.editCore, Core.rd_setFlags, if_pos rfl, Core.rd_wr_self _ hx]
      flags := Core.nzcv_setFlags _ _
      sb := ⟨_, (hstrung.wr (n := rx) (by simp [editRegs]) (s.editMark c rd ra rb rx)).sb, tiles_output h.output⟩ }

/-- What an edit does after its access checks (R370). -/
def State.editTail (s : State) (c : CoreId) (rd ra rb rx : RegNo) (m : Bool) : State × IRes :=
  match scanFields 0 (s.editSegments c rb rx) (s.editSource c ra rb rx) with
  | some e => (s, .exc (decimalData 1 ((s.core c).rd ra) e))
  | none => (s.setCore c (s.editCore c rd ra rb rx m), .next)

theorem editRun_quiet (h : EditOperands s c rd ra rb rx) :
    ∃ body, editRun s c rd ra rb rx m = run s c 0x13 body ∧ body s = s.editTail c rd ra rb rx m := by
  refine ⟨_, rfl, (illegalWhen_of_legal (badEdit_eq_false_iff.2 h.distinct)).trans ?_⟩
  have hpattern := readSource_quietDram h.pattern (Nat.succ_pos _)
  have hsource := readSource_quietDram h.source State.editSourceLen_pos
  have hcheck := checkAll_output h.output
  have hwrite := writeParts_output h.output h.room
  simp only [hpattern, hsource, hcheck, hwrite, State.updCore_setCore]
  rfl

theorem ends_edit (hr : s.ready c = true) (hw : s.wired = true) (hv : Variant.hasDsc s.variant = true) (h : EditOperands s c rd ra rb rx)
    (hscan : scanFields 0 (s.editSegments c rb rx) (s.editSource c ra rb rx) = none) :
    ∃ t r, Ends s s t (finish (editRun s c rd ra rb rx m)) c ((s.core c).pc + 4#48) (editRegs rd ra rx m) flagBits ∧ (t.core c).Alike r
      ∧ Edited s c rd ra rb rx m r := by
  obtain ⟨body, hrun, hbody⟩ := editRun_quiet (m := m) h
  have hedited : Edited s c rd ra rb rx m (s.editCore c rd ra rb rx m) := edited_editCore h
  rw [State.editTail, hscan] at hbody
  rw [hrun]
  obtain ⟨t, ht, halike⟩ := ends_core_next hr hw (gateKeep_dsc (op := 0x13) hv (by decide)) hedited.kept hbody
  exact ⟨t, _, ht, halike, hedited⟩

/-- An invalid nibble of a source field (R370). -/
theorem raises_edit {e : Nat × Nat} (hr : s.ready c = true) (hv : Variant.hasDsc s.variant = true) (ht : (s.core c).tpend = false)
    (h : EditOperands s c rd ra rb rx) (hscan : scanFields 0 (s.editSegments c rb rx) (s.editSource c ra rb rx) = some e) :
    Raises s (finish (editRun s c rd ra rb rx m)) c 0x13 (decimalData 1 ((s.core c).rd ra) e) := by
  obtain ⟨body, hrun, hbody⟩ := editRun_quiet (m := m) h
  rw [State.editTail, hscan] at hbody
  rw [hrun]
  exact raises_dsc hr hv ht (by decide) rfl hbody

end

theorem editsWriteTheirOutput : Claims.EditsWriteTheirOutput := by
  intro s c rd ra rb rx hr hw hv q x d a lp gs n src r fin done
  refine ⟨fun hbad ht => ?illegal, fun hd ha hx hda hdx hax hpattern hsource hout hroom => ?legal⟩
  case illegal =>
    have hillegal : badEdit rd ra rx = true := by simpa [badEdit, or_assoc] using hbad
    exact ⟨raises_dscIllegal hr hv ht (by decide) hillegal, raises_dscIllegal hr hv ht (by decide) hillegal⟩
  case legal =>
    have hops : EditOperands s c rd ra rb rx := ⟨⟨hd, ha, hx, hda, hdx, hax⟩, hpattern, hsource, hout, hroom⟩
    refine ⟨fun hscan => ⟨s.length_editRes_le c ra rb rx, ?_, ?_⟩, fun cause i hscan ht => ?_⟩
    · obtain ⟨t, e, ⟨hnext, hpc, hleaves⟩, ⟨hrd, hsb, hnzcv⟩, he⟩ := ends_edit (m := false) hr hw hv hops hscan
      refine ⟨t, hnext, ⟨hpc, (hrd rd).trans he.out, (hrd ra).trans he.src, ?_⟩, hnzcv.trans he.flags, hleaves⟩
      rw [Buffered, hsb]
      exact he.sb
    · obtain ⟨t, e, ⟨hnext, hpc, hleaves⟩, ⟨hrd, hsb, hnzcv⟩, he⟩ := ends_edit (m := true) hr hw hv hops hscan
      refine ⟨t, hnext, ⟨hpc, (hrd rd).trans he.out, (hrd ra).trans he.src, ?_⟩, hnzcv.trans he.flags, (hrd rx).trans (he.mark rfl), hleaves⟩
      rw [Buffered, hsb]
      exact he.sb
    · exact ⟨raises_edit (m := false) (e := (cause, i)) hr hv ht hops hscan, raises_edit (m := true) (e := (cause, i)) hr hv ht hops hscan⟩

/-- Settles O57: an edit's output is bounded by its pattern; a string instruction is a run of units, and an invariant over its positions says what every
unit has moved or compared. -/
theorem editsAndStrings : Obligations.EditsAndStrings := ⟨editsWriteTheirOutput, stringMovesCopyByteByByte, stringScansStopAtTheFirst⟩

end Sys2Proof.Machine
end

section
/-! The events due at a boundary (R405, R475, R481, R482, R490, R497). -/
namespace Sys2Proof.Machine

section
variable {s : State} {c : CoreId}

theorem boundary_of_hold_none (hh : (s.core c).hold = none) : boundary s c = s := by rw [boundary, hh]

theorem endHold_of_hold_none (hh : (s.core c).hold = none) (code : Nat) : endHold s c code = s := by
  have hcore : (s.core c).endHold code = s.core c := by simp only [Core.endHold, hh]
  rw [endHold_eq, State.updCore, hcore, State.setCore_core]

/-- With no window open and no trap pending, the first event due is entered at the boundary, by either of the two commands. -/
theorem entries_enter_due (hd : HeadEvent) (hr : s.canRun c = true) (hh : (s.core c).hold = none) {ev : DueEvent} {t : State}
    (hev : s.dueEvent c = some ev) (ht : enterDue s c ev = t) :
    ∀ i ∈ [Instr.exceptionEntry c hd, .interruptEntry c], exec i s = .next t.settle := by
  have hexc : execExceptionEntry c hd s = .next t.settle := by
    simp only [execExceptionEntry, hr, boundary_of_hold_none hh, hev, ht, Bool.not_true, Bool.false_eq_true, if_false, finish]
  have hint : execInterruptEntry c s = .next t.settle := by
    simp only [execInterruptEntry, hr, boundary_of_hold_none hh, hev, ht, Bool.not_true, Bool.false_eq_true, if_false, finish]
  intro i hi
  simp only [List.mem_cons, List.not_mem_nil, or_false] at hi
  rcases hi with rfl | rfl
  exacts [hexc, hint]

/-- With nothing due, EXCEPTION_ENTRY enters what the head instruction raises. -/
theorem exec_exceptionEntry_head (hd : HeadEvent) (hr : s.canRun c = true) (hh : (s.core c).hold = none) (hev : s.dueEvent c = none)
    (hj : (s.core c).jobWait = false) : exec (.exceptionEntry c hd) s = .next (headExc s c hd).settle := by
  show execExceptionEntry c hd s = _
  simp only [execExceptionEntry, hr, boundary_of_hold_none hh, hev, hj, Bool.not_true, Bool.false_eq_true, if_false, finish]

/-- The end of an instruction that raises an exception with no trap pending. -/
theorem conclude_exc (ht : (s.core c).tpend = false) (u : State) (op len : Nat) (e : Exc) :
    conclude s c op len (u, .exc e) = takeException u c (if e.opc.isSome then e else e.ofClass op) (s.core c).pc := by
  simp only [conclude, ht, Bool.false_eq_true, if_false]

/-! ### The first event due (R481) -/

theorem dueEvent_machineCheck {m : McDue} {l : List McDue} (hm : (s.core c).due.mc = m :: l) : s.dueEvent c = some (.machineCheck m) := by
  simp only [State.dueEvent, hm]

theorem dueEvent_of_mc_nil (hm : (s.core c).due.mc = []) :
    s.dueEvent c = if (s.core c).due.devWatchdog then some .devWatchdog else if (s.core c).due.watchdog then some .watchdog
      else if (s.core c).due.hallPStop then some .hallPStop else (s.nextInterrupt c).map .interrupt := by
  simp only [State.dueEvent, hm]

/-! ### What each event enters -/

theorem enterDue_machineCheck (ht : (s.core c).tpend = false) {m : McDue} {l : List McDue} (hm : (s.core c).due.mc = m :: l) :
    enterDue s c (.machineCheck m)
      = takeException (s.updCore c fun r => { r with due := { r.due with mc := l } }) c ⟨0x14, m.cls, m.seg, m.fa, some 0, true⟩ (s.core c).pc := by
  have hdrop : (s.updDue c fun d => { d with mc := d.mc.tail }) = s.updCore c fun r => { r with due := { r.due with mc := l } } := by
    simp only [State.updDue, State.updCore, hm, List.tail_cons]
  simp only [enterDue, ht, Bool.false_eq_true, if_false, hdrop, Exc.toHallL]

theorem enterDue_devWatchdog (ht : (s.core c).tpend = false) :
    enterDue s c .devWatchdog
      = takeException (s.updCore c fun r => { r with due := { r.due with devWatchdog := false } }) c ⟨0x16, 0, 0, none, some 0, true⟩ (s.core c).pc := by
  simp only [enterDue, ht, Bool.false_eq_true, if_false, Exc.toHallL, State.updDue]

theorem enterDue_watchdog (ht : (s.core c).tpend = false) :
    enterDue s c .watchdog
      = takeException (s.updCore c fun r => { r with due := { r.due with watchdog := false } }) c ⟨0x15, 0, 0, none, some 0, true⟩ (s.core c).pc := by
  simp only [enterDue, ht, Bool.false_eq_true, if_false, Exc.toHallL, State.updDue]

/-- The stop of Hall P ends no window where none is open (R482). -/
theorem enterDue_hallPStop (ht : (s.core c).tpend = false) (hh : (s.core c).hold = none) :
    enterDue s c .hallPStop
      = takeException (s.updCore c fun r => { r with due := { r.due with hallPStop := false } }) c ⟨0x12, 2, 0, none, none, true⟩ (s.core c).pc := by
  have hwindow : ((s.updDue c fun d => { d with hallPStop := false }).core c).hold = none := by
    rw [State.updDue, State.core_updCore, if_pos rfl]
    exact hh
  have hstop : enterDue s c .hallPStop = enterStop s c := by simp only [enterDue, ht, Bool.false_eq_true, if_false]
  rw [hstop, enterStop, endHold_of_hold_none hwindow]
  rfl

theorem enterDue_interrupt (ht : (s.core c).tpend = false) (src : Nat) : enterDue s c (.interrupt src) = enterInterrupt s c src := by
  simp only [enterDue, ht, Bool.false_eq_true, if_false]

theorem headExc_unassigned (ht : (s.core c).tpend = false) {op : BitVec 6} (hg : gateKeep s c op.toNat = none) :
    headExc s c (.unassigned op) = takeException s c ((Exc.plain 1 0 0).ofClass op.toNat) (s.core c).pc := by
  rw [headExc, hg, conclude_exc ht]
  rfl

theorem headExc_fetch (ht : (s.core c).tpend = false) {ext : Bool} {u : State} {e : Exc}
    (h : checkAccess s c (s.core c).ctx (if ext then (s.core c).pc + 4#48 else (s.core c).pc).toNat 4 4096 .fetch false = (u, .inl e)) :
    headExc s c (.fetch ext)
      = takeException u c (if e.opc.isSome then e else e.ofClass (e.opc.getD (opAt s c (s.core c).pc))) (s.core c).pc := by
  simp only [headExc, fetchFault, h, conclude_exc ht]

end

/-- Settles O26: `dueEvent` asks for the events in their order, and each clause is what `enterDue`, or with none due `headExc`, enters. -/
theorem eventsAreEnteredInOrder : Obligations.EventsAreEnteredInOrder := by
  intro s c hd hr ht hh q enters drop
  refine ⟨fun m l hm => ?machineCheck, fun hm hdev => ?devWatchdog, fun hm hdev hdog => ?watchdog, fun hm hdev hdog hstop => ?stop,
    fun hdue src hsrc => ?interrupt, fun hnone hjob op hg => ?unassigned, fun hnone hjob u e ext hfetch => ?fetch⟩
  case machineCheck => exact entries_enter_due hd hr hh (dueEvent_machineCheck hm) (enterDue_machineCheck ht hm)
  case devWatchdog =>
    have hev : s.dueEvent c = some .devWatchdog := (dueEvent_of_mc_nil hm).trans (if_pos hdev)
    exact entries_enter_due hd hr hh hev (enterDue_devWatchdog ht)
  case watchdog =>
    have hev : s.dueEvent c = some .watchdog := (dueEvent_of_mc_nil hm).trans (by rw [hdev, hdog]; rfl)
    exact entries_enter_due hd hr hh hev (enterDue_watchdog ht)
  case stop =>
    have hev : s.dueEvent c = some .hallPStop := (dueEvent_of_mc_nil hm).trans (by rw [hdev, hdog, hstop]; rfl)
    exact entries_enter_due hd hr hh hev (enterDue_hallPStop ht hh)
  case interrupt =>
    have hev : s.dueEvent c = some (.interrupt src) := (dueEvent_of_mc_nil (by rw [hdue]; rfl)).trans (by rw [hdue, hsrc]; rfl)
    exact entries_enter_due hd hr hh hev (enterDue_interrupt ht src)
  case unassigned => exact (exec_exceptionEntry_head _ hr hh hnone hjob).trans (by rw [headExc_unassigned ht hg])
  case fetch => exact (exec_exceptionEntry_head _ hr hh hnone hjob).trans (by rw [headExc_fetch ht hfetch])

end Sys2Proof.Machine
end

section
/-! The rounding modes (R267): which of the two neighbours of a number each chooses, and that no other number serves better. -/
namespace Sys2Proof.Machine

/-! ### Signs -/

section
variable {K : Type} [Field K]

/-- A magnitude with its sign. -/
def withSign (neg : Bool) (x : K) : K := if neg then -x else x

@[simp] theorem withSign_false (x : K) : withSign false x = x := rfl
@[simp] theorem withSign_true (x : K) : withSign true x = -x := rfl
theorem withSign_mul (neg : Bool) (x u : K) : withSign neg (x * u) = withSign neg x * u := by cases neg <;> simp
theorem withSign_injective {neg : Bool} {u v : K} : withSign neg u = withSign neg v ↔ u = v := by cases neg <;> simp
theorem withSign_mul_withSign (s t : Bool) (x u : K) : withSign s x * withSign t u = withSign (s != t) (x * u) := by cases s <;> cases t <;> simp

theorem withSign_div_withSign (s t : Bool) (x u : K) : withSign s x / withSign t u = withSign (s != t) (x / u) := by
  cases s
  · cases t
    · rfl
    · exact div_neg x
  · cases t
    · exact neg_div u x
    · exact neg_div_neg_eq x u

variable [LinearOrder K]

@[simp] theorem abs_withSign (neg : Bool) (x : K) : |withSign neg x| = |x| := by cases neg <;> simp

/-! ### The modes -/

/-- A magnitude at a distance `a` above q units and `b` below q + 1 units is rounded up. -/
def upward (mode : Nat) (neg : Bool) (q : Nat) (a b : K) : Prop :=
  match mode with
  | 0 => b < a ∨ (a = b ∧ q % 2 = 1)
  | 1 => False
  | 2 => neg = false ∧ a ≠ 0
  | 3 => neg = true ∧ a ≠ 0
  | _ => b ≤ a

/-- The number v serves x as well as y does; `even` breaks a tie of RNE for v. -/
def serves (mode : Nat) (even : Prop) (x v y : K) : Prop :=
  match mode with
  | 0 => |v - x| ≤ |y - x| ∧ (|v - x| = |y - x| → v = y ∨ even)
  | 1 => |v| ≤ |x| ∧ 0 ≤ v * x ∧ (|y| ≤ |x| → 0 ≤ y * x → |y| ≤ |v|)
  | 2 => x ≤ v ∧ (x ≤ y → v ≤ y)
  | 3 => v ≤ x ∧ (y ≤ x → y ≤ v)
  | _ => |v - x| ≤ |y - x| ∧ (|v - x| = |y - x| → |y| ≤ |v|)

/-- The discarded part r of 2 ^ k tells which way to round by how it compares with nothing and with the half. -/
theorem roundUp_iff {mode q r k : Nat} {neg : Bool} {a b : K} (hzero : r = 0 ↔ a = 0) (habove : 2 ^ k < 2 * r ↔ b < a)
    (hhalf : 2 * r = 2 ^ k ↔ a = b) : roundUp mode neg q r k = true ↔ upward mode neg q a b := by
  match mode with
  | 0 => simp [roundUp, upward, habove, hhalf]
  | 1 => simp [roundUp, upward]
  | 2 => simp [roundUp, upward, hzero]
  | 3 => simp [roundUp, upward, hzero]
  | n + 4 => simp only [roundUp, upward, decide_eq_true_eq, le_iff_lt_or_eq, habove, @eq_comm Nat _ (2 * r), hhalf, @eq_comm K b a]

/-- Nothing of an exact magnitude is rounded up. -/
theorem not_upward_exact (mode : Nat) (neg : Bool) (q : Nat) {b : K} (hb : 0 < b) : ¬ upward mode neg q 0 b := by
  match mode with
  | 0 => simp [upward, hb.not_gt, hb.ne]
  | 1 => exact id
  | 2 => simp [upward]
  | 3 => simp [upward]
  | n + 4 => simpa [upward] using hb

/-- The mode as a magnitude of a negative number sees it. -/
def mirrored (mode : Nat) : Nat :=
  match mode with
  | 2 => 3
  | 3 => 2
  | m => m

/-- The mode as it acts on the magnitude of a number of a sign. -/
def onMagnitude (mode : Nat) (neg : Bool) : Nat := if neg then mirrored mode else mode

theorem upward_onMagnitude {mode q : Nat} {neg : Bool} {a b : K} : upward mode neg q a b ↔ upward (onMagnitude mode neg) false q a b := by
  cases neg
  case false => exact Iff.rfl
  case true =>
    match mode with
    | 0 => exact Iff.rfl
    | 1 => exact Iff.rfl
    | 2 => simp [upward, onMagnitude, mirrored]
    | 3 => simp [upward, onMagnitude, mirrored]
    | n + 4 => exact Iff.rfl

variable [IsStrictOrderedRing K]

theorem serves_neg {mode : Nat} {even : Prop} {x v y : K} (h : serves (mirrored mode) even x v (-y)) : serves mode even (-x) (-v) y := by
  have hdist : ∀ z : K, |-z - -x| = |z - x| := fun z => by rw [neg_sub_neg, abs_sub_comm]
  obtain ⟨z, rfl⟩ : ∃ z, y = -z := ⟨-y, (neg_neg y).symm⟩
  rw [neg_neg] at h
  match mode with
  | 0 => simpa only [serves, mirrored, hdist, neg_inj] using h
  | 1 => simpa only [serves, mirrored, abs_neg, neg_mul_neg] using h
  | 2 => simpa only [serves, mirrored, neg_le_neg_iff] using h
  | 3 => simpa only [serves, mirrored, neg_le_neg_iff] using h
  | n + 4 => simpa only [serves, mirrored, hdist, abs_neg] using h

variable {lo x hi y : K} {mode q : Nat} {neg : Bool} {even : Prop}

theorem serves_withSign {v : K} (h : ∀ z, |z| = |y| → serves (onMagnitude mode neg) even x v z) :
    serves mode even (withSign neg x) (withSign neg v) y := by
  cases neg
  · exact h y rfl
  · exact serves_neg (h (-y) (abs_neg y))

/-- Between neighbours lo and hi, a positive number that is not rounded up is served best by lo. -/
theorem serves_lower (h0 : 0 ≤ lo) (hlo : lo ≤ x) (hhi : x < hi) (hup : ¬ upward mode false q (x - lo) (hi - x)) (he : q % 2 = 0 → even)
    (hy : |y| ≤ lo ∨ hi ≤ |y|) : serves mode even x lo y := by
  have hx : 0 ≤ x := h0.trans hlo
  match mode with
  | 0 => simp only [serves, upward] at *; grind
  | 1 =>
    refine ⟨by rwa [abs_of_nonneg h0, abs_of_nonneg hx], mul_nonneg h0 hx, fun hyx _ => ?_⟩
    rw [abs_of_nonneg hx] at hyx
    rw [abs_of_nonneg h0]
    exact hy.resolve_right (hyx.trans_lt hhi).not_ge
  | 2 => simp only [serves, upward] at *; grind
  | 3 => simp only [serves, upward] at *; grind
  | n + 4 => simp only [serves, upward] at *; grind

/-- One that is rounded up is served best by hi. -/
theorem serves_upper (h0 : 0 ≤ lo) (hlo : lo ≤ x) (hhi : x < hi) (hup : upward mode false q (x - lo) (hi - x)) (he : q % 2 = 1 → even)
    (hy : |y| ≤ lo ∨ hi ≤ |y|) : serves mode even x hi y := by
  match mode with
  | 0 => simp only [serves, upward] at *; grind
  | 1 => exact hup.elim
  | 2 => simp only [serves, upward] at *; grind
  | 3 => exact absurd hup.1 (by decide)
  | n + 4 => simp only [serves, upward] at *; grind

end
end Sys2Proof.Machine
end

section
/-! Encodings of the binary formats: their fields (R249), and the numbers that they stand for. -/
namespace Sys2Proof.Machine

section
variable {f : Fmt} {neg : Bool} {x m b : Nat}

/-! ### Fields -/

theorem ofBool_lt (b : Bool) : ofBool b < 2 := by cases b <;> decide

/-- Assembled from the top: sign, exponent field, fraction field. -/
theorem Fmt.pack_eq : f.pack neg x m = 2 ^ f.frac * (2 ^ f.expo * ofBool neg + x) + m := by
  rw [Fmt.pack, Fmt.width, show 1 + f.expo + f.frac - 1 = f.frac + f.expo by omega, pow_add]
  ring

theorem Fmt.width_eq (f : Fmt) : f.width = f.frac + (f.expo + 1) := by rw [Fmt.width]; omega

theorem Fmt.fracField_pack (hm : m < 2 ^ f.frac) : f.fracField (f.pack neg x m) = m := by
  rw [Fmt.fracField, Fmt.pack_eq, Nat.mul_add_mod, Nat.mod_eq_of_lt hm]

theorem Fmt.pack_div (hm : m < 2 ^ f.frac) : f.pack neg x m / 2 ^ f.frac = 2 ^ f.expo * ofBool neg + x := by
  rw [Fmt.pack_eq, Nat.mul_add_div (by positivity), Nat.div_eq_of_lt hm, add_zero]

theorem Fmt.expField_pack (hx : x < 2 ^ f.expo) (hm : m < 2 ^ f.frac) : f.expField (f.pack neg x m) = x := by
  rw [Fmt.expField, Fmt.pack_div hm, Nat.mul_add_mod, Nat.mod_eq_of_lt hx]

/-- The sign bit is what is left above the exponent field. -/
theorem Fmt.sign_eq (f : Fmt) (b : Nat) : f.sign b = decide (b / 2 ^ f.frac / 2 ^ f.expo % 2 = 1) := by
  rw [Fmt.sign, Nat.testBit_eq_decide_div_mod_eq, Nat.div_div_eq_div_mul, ← pow_add, Fmt.width_eq]
  congr 5

theorem Fmt.sign_pack (hx : x < 2 ^ f.expo) (hm : m < 2 ^ f.frac) : f.sign (f.pack neg x m) = neg := by
  rw [Fmt.sign_eq, Fmt.pack_div hm, Nat.mul_add_div (by positivity), Nat.div_eq_of_lt hx]
  cases neg <;> rfl

theorem Fmt.pack_lt (hx : x < 2 ^ f.expo) (hm : m < 2 ^ f.frac) : f.pack neg x m < 2 ^ f.width := by
  have hs := ofBool_lt neg
  rw [Fmt.pack_eq, Fmt.width_eq, pow_add, pow_succ]
  calc 2 ^ f.frac * (2 ^ f.expo * ofBool neg + x) + m < 2 ^ f.frac * (2 ^ f.expo * ofBool neg + x + 1) := by rw [mul_add_one]; omega
    _ ≤ 2 ^ f.frac * (2 ^ f.expo * 2) := Nat.mul_le_mul_left _ (by nlinarith)

/-- An encoding is assembled from its fields. -/
theorem Fmt.pack_fields (hb : b < 2 ^ f.width) : f.pack (f.sign b) (f.expField b) (f.fracField b) = b := by
  have hs : ofBool (f.sign b) = b / 2 ^ f.frac / 2 ^ f.expo := by
    have hlt : b / 2 ^ f.frac / 2 ^ f.expo < 2 := by
      rw [Nat.div_div_eq_div_mul, ← pow_add]
      apply Nat.div_lt_of_lt_mul
      rwa [← pow_succ, add_assoc, ← Fmt.width_eq]
    rw [Fmt.sign_eq]
    generalize b / 2 ^ f.frac / 2 ^ f.expo = n at hlt
    interval_cases n <;> rfl
  rw [Fmt.pack_eq, hs, Fmt.expField, Fmt.fracField, Nat.div_add_mod, Nat.div_add_mod]

theorem Fmt.fracField_lt (f : Fmt) (b : Nat) : f.fracField b < 2 ^ f.frac := Nat.mod_lt _ (by positivity)
theorem Fmt.expField_lt (f : Fmt) (b : Nat) : f.expField b < 2 ^ f.expo := Nat.mod_lt _ (by positivity)

theorem Fmt.expField_le (f : Fmt) (b : Nat) : f.expField b ≤ f.maxExp := by
  have h := f.expField_lt b
  rw [Fmt.maxExp]
  omega

theorem Fmt.maxExp_lt (f : Fmt) : f.maxExp < 2 ^ f.expo := Nat.sub_lt (by positivity) Nat.one_pos

/-! ### Numbers -/

/-- The significand of a number, with its implied bit, and the exponent of its last place. -/
def Fmt.significand (f : Fmt) (b : Nat) : Nat := if f.expField b = 0 then f.fracField b else f.fracField b + 2 ^ f.frac
def Fmt.exponent (f : Fmt) (b : Nat) : Int := (max 1 (f.expField b) : Int) - f.bias - f.frac

theorem Fmt.significand_lt (f : Fmt) (b : Nat) : f.significand b < 2 ^ (f.frac + 1) := by
  have h := f.fracField_lt b
  rw [Fmt.significand, pow_succ]
  split <;> omega

theorem Fmt.decode_finite (h : f.expField b < f.maxExp) : f.decode b = .fin (f.sign b) (f.significand b) (f.exponent b) := by
  have hne : f.expField b ≠ f.maxExp := h.ne
  by_cases h0 : f.expField b = 0
  · rw [Fmt.decode, Fmt.significand, Fmt.exponent, if_neg hne, if_pos h0, if_pos h0, h0]
    rfl
  · rw [Fmt.decode, Fmt.significand, Fmt.exponent, if_neg hne, if_neg h0, if_neg h0, max_eq_right (by omega)]

theorem Fmt.value_eq (f : Fmt) (b : Nat) : f.value b = withSign (f.sign b) ((f.significand b : ℚ) * 2 ^ f.exponent b) := by
  rw [Fmt.value, Fmt.significand, Fmt.exponent, Nat.cast_ite, Nat.cast_add, Nat.cast_pow, Nat.cast_ofNat]
  cases f.sign b
  · simp only [Bool.false_eq_true, if_false, one_mul, withSign_false]
  · simp only [if_true, neg_mul, one_mul, withSign_true]

theorem cast_signedMag {K : Type} [Field K] (neg : Bool) (m : Nat) : ((signedMag neg m : Int) : K) = withSign neg (m : K) := by
  cases neg <;> simp [signedMag]

/-- An assembled number that is not subnormal. -/
theorem Fmt.value_pack (hx0 : 0 < x) (hx : x < f.maxExp) (hm : m < 2 ^ f.frac) :
    f.value (f.pack neg x m) = withSign neg (((m + 2 ^ f.frac : Nat) : ℚ) * 2 ^ ((x : Int) - f.bias - f.frac)) := by
  have hxlt := hx.trans f.maxExp_lt
  rw [Fmt.value_eq, Fmt.significand, Fmt.exponent, Fmt.sign_pack hxlt hm, Fmt.expField_pack hxlt hm, Fmt.fracField_pack hm, if_neg hx0.ne',
    max_eq_right (by omega)]

end
end Sys2Proof.Machine
end

section
/-! Rounding to a format (R396, R413): the significand's bits kept and discarded, and the neighbours between which they put a number. -/
namespace Sys2Proof.Machine

/-! ### Significant bits -/

theorem two_pow_bitLen_le {m : Nat} (hm : m ≠ 0) : 2 ^ (bitLen m - 1) ≤ m := by
  rw [bitLen, if_neg hm, Nat.add_sub_cancel]
  exact Nat.log2_self_le hm

theorem lt_two_pow_bitLen (m : Nat) : m < 2 ^ bitLen m := by
  by_cases hm : m = 0
  · simp [hm, bitLen]
  · rw [bitLen, if_neg hm]
    exact Nat.lt_log2_self

theorem lt_bitLen {i m : Nat} (h : 2 ^ i ≤ m) : i < bitLen m :=
  (Nat.pow_lt_pow_iff_right (by decide)).1 (h.trans_lt (lt_two_pow_bitLen m))

/-! ### Numbers known up to a few of their last bits -/

section
variable {K : Type} [Field K] [LinearOrder K] {j m k : Nat} {e : Int} {x : K}

/-- m × 2 ^ e stands for x among the multiples of 2 ^ j × 2 ^ e: it lies on the same side of each. -/
def StandsFor (j m : Nat) (e : Int) (x : K) : Prop :=
  ∀ n : Nat, 2 ^ j ∣ n → ((n : K) * 2 ^ e < x ↔ n < m) ∧ (x < n * 2 ^ e ↔ m < n)

theorem StandsFor.eq (h : StandsFor 0 m e x) : x = m * 2 ^ e := by
  obtain ⟨hbelow, habove⟩ := h m (one_dvd m)
  have h1 := mt hbelow.1 (lt_irrefl m)
  have h2 := mt habove.1 (lt_irrefl m)
  exact le_antisymm (not_lt.1 h1) (not_lt.1 h2)

variable [IsStrictOrderedRing K]

theorem standsFor_exact (h : x = m * 2 ^ e) (j : Nat) : StandsFor j m e x := by
  have hpos : (0 : K) < 2 ^ e := zpow_pos two_pos e
  intro n _
  rw [h, mul_lt_mul_iff_left₀ hpos, mul_lt_mul_iff_left₀ hpos, Nat.cast_lt, Nat.cast_lt]
  exact ⟨Iff.rfl, Iff.rfl⟩

/-- The quotient of a with a bit that tells whether it is exact stands for it at half a unit. -/
theorem standsFor_sticky {q : Nat} {a : K} (hle : q ≤ a) (hlt : a < q + 1) :
    StandsFor 1 (q * 2 + if a = q then 0 else 1) e (a * 2 ^ (e + 1)) := by
  have hpos : (0 : K) < 2 ^ e := zpow_pos two_pos e
  rintro _ ⟨n, rfl⟩
  have hnum : ((2 ^ 1 * n : Nat) : K) * 2 ^ e = n * 2 ^ (e + 1) := by
    rw [zpow_add_one₀ two_ne_zero]
    push_cast
    ring
  rw [hnum, mul_lt_mul_iff_left₀ (zpow_pos two_pos _), mul_lt_mul_iff_left₀ (zpow_pos two_pos _)]
  by_cases heq : a = q
  · rw [if_pos heq, heq, Nat.cast_lt, Nat.cast_lt]
    constructor <;> omega
  · have hlt' : (q : K) < a := lt_of_le_of_ne hle (Ne.symm heq)
    rw [if_neg heq]
    constructor
    · refine ⟨fun h => ?_, fun h => lt_of_le_of_lt (Nat.cast_le.2 (by omega)) hlt'⟩
      have : n < q + 1 := by exact_mod_cast h.trans hlt
      omega
    · refine ⟨fun h => ?_, fun h => hlt.trans_le (by exact_mod_cast (show q + 1 ≤ n by omega))⟩
      have : q < n := by exact_mod_cast hlt'.trans h
      omega

/-- Where the number lies among the units of a place above. -/
theorem StandsFor.unit (h : StandsFor j m e x) (hj : j ≤ k) (n : Nat) :
    ((n : K) * 2 ^ (e + k) < x ↔ 2 ^ k * n < m) ∧ (x < n * 2 ^ (e + k) ↔ m < 2 ^ k * n) := by
  have hnum : ((2 ^ k * n : Nat) : K) * 2 ^ e = n * 2 ^ (e + k) := by
    rw [zpow_add₀ two_ne_zero, zpow_natCast]
    push_cast
    ring
  rw [← hnum]
  exact h _ (dvd_mul_of_dvd_left (pow_dvd_pow 2 hj) n)

/-- Where it lies among their halves. -/
theorem StandsFor.half (h : StandsFor j m e x) (hj : j ≤ k) (q : Nat) :
    (((q : K) + 1 / 2) * 2 ^ (e + (k + 1 : Nat)) < x ↔ 2 ^ k * (2 * q + 1) < m)
      ∧ (x < (q + 1 / 2) * 2 ^ (e + (k + 1 : Nat)) ↔ m < 2 ^ k * (2 * q + 1)) := by
  have hmid : (((2 * q + 1 : Nat) : K)) * 2 ^ (e + k) = (q + 1 / 2) * 2 ^ (e + (k + 1 : Nat)) := by
    rw [Nat.cast_succ k, ← add_assoc, zpow_add_one₀ two_ne_zero]
    push_cast
    ring
  rw [← hmid]
  exact h.unit hj (2 * q + 1)

/-- Of the discarded part r of 2 ^ k, whether it is more than the half, or the half. -/
theorem StandsFor.discarded (h : StandsFor j m e x) (hj : j = 0 ∨ j < k) {q r : Nat} (hm : 2 ^ k * q + r = m) (hr : r < 2 ^ k) :
    (2 ^ k < 2 * r ↔ (q + 1 : K) * 2 ^ (e + k) - x < x - q * 2 ^ (e + k))
      ∧ (2 * r = 2 ^ k ↔ x - q * 2 ^ (e + k) = (q + 1 : K) * 2 ^ (e + k) - x) := by
  have hpos : (0 : K) < 2 ^ (e + k) := zpow_pos two_pos _
  match k, hj with
  | 0, hj =>
    obtain rfl : j = 0 := hj.resolve_right (Nat.not_lt_zero j)
    obtain rfl : r = 0 := by simpa using hr
    have hx : x = q * 2 ^ (e + (0 : Nat)) := by simpa [← hm] using h.eq
    have hbelow : x - q * 2 ^ (e + (0 : Nat)) = 0 := sub_eq_zero.2 hx
    have habove : (q + 1 : K) * 2 ^ (e + (0 : Nat)) - x = 2 ^ (e + (0 : Nat)) := by linear_combination -hx
    rw [hbelow, habove]
    exact ⟨by simpa using hpos.le, by simpa using hpos.ne⟩
  | k + 1, hj =>
    obtain ⟨hbelow, habove⟩ := h.half (k := k) (by omega) q
    generalize (2 : K) ^ (e + (k + 1 : Nat)) = u at *
    have hpow : 2 ^ (k + 1) = 2 * 2 ^ k := pow_succ' 2 k
    have hmid : 2 ^ k * (2 * q + 1) = 2 ^ (k + 1) * q + 2 ^ k := by rw [hpow]; ring
    constructor
    · rw [show 2 ^ (k + 1) < 2 * r ↔ 2 ^ k * (2 * q + 1) < m by omega, ← hbelow]
      constructor <;> intro h <;> linarith
    · rw [show 2 * r = 2 ^ (k + 1) ↔ ¬ 2 ^ k * (2 * q + 1) < m ∧ ¬ m < 2 ^ k * (2 * q + 1) by omega, ← hbelow, ← habove, not_lt, not_lt]
      exact ⟨fun ⟨h1, h2⟩ => by linarith, fun h => by constructor <;> linarith⟩

/-- A number between two neighbours, whether it is the lower one, and whether it is rounded up. -/
structure Neighbours (mode : Nat) (neg : Bool) (q : Nat) (up exact : Bool) (lo x hi : K) : Prop where
  le : lo ≤ x
  lt : x < hi
  exact_iff : exact = true ↔ x = lo
  up_iff : up = true ↔ upward mode neg q (x - lo) (hi - x)

/-- The bits kept and the bits discarded name the neighbours. -/
theorem StandsFor.neighbours (mode : Nat) (neg : Bool) (h : StandsFor j m e x) (hj : j = 0 ∨ j < k) :
    Neighbours mode neg (m / 2 ^ k) (roundUp mode neg (m / 2 ^ k) (m % 2 ^ k) k) (m % 2 ^ k == 0)
      (((m / 2 ^ k : Nat) : K) * 2 ^ (e + k)) x ((((m / 2 ^ k : Nat) : K) + 1) * 2 ^ (e + k)) := by
  have hm : 2 ^ k * (m / 2 ^ k) + m % 2 ^ k = m := Nat.div_add_mod m (2 ^ k)
  have hr : m % 2 ^ k < 2 ^ k := Nat.mod_lt _ (by positivity)
  generalize m / 2 ^ k = q at *
  generalize m % 2 ^ k = r at *
  have hunit := h.unit (k := k) (by omega)
  have hle : (q : K) * 2 ^ (e + k) ≤ x := not_lt.1 (mt (hunit q).2.1 (by omega))
  have hlt : x < ((q : K) + 1) * 2 ^ (e + k) := by
    rw [← Nat.cast_succ]
    exact (hunit (q + 1)).2.2 (by rw [mul_add_one]; omega)
  have hexact : r = 0 ↔ x = q * 2 ^ (e + k) := by
    rw [← hle.not_lt_iff_eq', (hunit q).1]
    omega
  obtain ⟨habove, hhalf⟩ := h.discarded hj hm hr
  exact ⟨hle, hlt, beq_iff_eq.trans hexact, roundUp_iff (hexact.trans sub_eq_zero.symm) habove hhalf⟩

end
end Sys2Proof.Machine
end

section
/-! The rounding to a format is correct (R396, R413). -/
namespace Sys2Proof.Machine

/-! ### The steps of `Fmt.round` -/

/-- By how many bits a significand exceeds those of a format, and by how many it falls short of them. -/
def Fmt.excess (f : Fmt) (m : Nat) : Nat := bitLen m - (f.frac + 1)
def Fmt.lack (f : Fmt) (m : Nat) : Nat := f.frac + 1 - bitLen m

/-- The significand with at least the bits of the format, the bits kept of it, those discarded, and the exponent of the last place kept. -/
def Fmt.filled (f : Fmt) (m : Nat) : Nat := m * 2 ^ f.lack m
def Fmt.kept (f : Fmt) (m : Nat) : Nat := f.filled m / 2 ^ f.excess m
def Fmt.discarded (f : Fmt) (m : Nat) : Nat := f.filled m % 2 ^ f.excess m
def Fmt.place (f : Fmt) (m : Nat) (e : Int) : Int := e - f.lack m + f.excess m

/-- The bits kept, rounded. -/
def Fmt.rounded (f : Fmt) (rm : Nat) (neg : Bool) (m : Nat) : Nat :=
  if roundUp rm neg (f.kept m) (f.discarded m) (f.excess m) then f.kept m + 1 else f.kept m

/-- A significand that the rounding has carried into one more bit. -/
def Fmt.carried (f : Fmt) (q : Nat) (e : Int) : Nat × Int := if q = 2 ^ (f.frac + 1) then (q / 2, e + 1) else (q, e)

/-- The result of a significand of as many bits as the format has, and its exponent. -/
def Fmt.store (f : Fmt) (rm : Nat) (neg : Bool) (r : Nat × Int) (lost : Nat) : FRes :=
  if r.2 + f.frac + f.bias ≤ 0 then ⟨f.zero neg, 0, true⟩
  else if (f.maxExp : Int) ≤ r.2 + f.frac + f.bias then ⟨f.overflow rm neg, fOF + fNX, false⟩
  else ⟨f.pack neg (r.2 + f.frac + f.bias).toNat (r.1 - 2 ^ f.frac), if lost = 0 then 0 else fNX, false⟩

variable {f : Fmt} {mode j m q : Nat} {neg exact : Bool} {e : Int}

theorem Fmt.round_eq : f.round mode neg m e = f.store mode neg (f.carried (f.rounded mode neg m) (f.place m e)) (f.discarded m) := rfl

theorem Fmt.kept_bounds (f : Fmt) (hm : m ≠ 0) : 2 ^ f.frac ≤ f.kept m ∧ f.kept m < 2 ^ (f.frac + 1) := by
  have hpos : 0 < bitLen m := Nat.zero_lt_of_lt (lt_bitLen (i := 0) (Nat.one_le_iff_ne_zero.2 hm))
  have hlo := two_pow_bitLen_le hm
  have hhi := lt_two_pow_bitLen m
  rw [Fmt.kept, Nat.le_div_iff_mul_le (by positivity), Nat.div_lt_iff_lt_mul (by positivity), ← pow_add, ← pow_add, Fmt.filled]
  rcases le_total (f.frac + 1) (bitLen m) with hle | hle
  · rw [Fmt.lack, Nat.sub_eq_zero_of_le hle, pow_zero, mul_one, Fmt.excess, show f.frac + (bitLen m - (f.frac + 1)) = bitLen m - 1 by omega,
      show f.frac + 1 + (bitLen m - (f.frac + 1)) = bitLen m by omega]
    exact ⟨hlo, hhi⟩
  · obtain ⟨c, hc⟩ := Nat.exists_eq_add_of_le hle
    have hpow : 2 ^ (f.frac + 1) = 2 ^ bitLen m * 2 ^ c := by rw [hc, pow_add]
    have hpow' : 2 ^ f.frac = 2 ^ (bitLen m - 1) * 2 ^ c := by rw [← pow_add]; congr 1; omega
    rw [Fmt.excess, Nat.sub_eq_zero_of_le hle, Fmt.lack, Nat.add_zero, Nat.add_zero, hpow, hpow', hc, Nat.add_sub_cancel_left]
    exact ⟨Nat.mul_le_mul_right _ hlo, (Nat.mul_lt_mul_right (Nat.two_pow_pos _)).2 hhi⟩

theorem Fmt.rounded_bounds (hm : m ≠ 0) : 2 ^ f.frac ≤ f.rounded mode neg m ∧ f.rounded mode neg m ≤ 2 ^ (f.frac + 1) := by
  obtain ⟨hlo, hhi⟩ := f.kept_bounds hm
  rw [Fmt.rounded]
  split <;> omega

/-- The exponent of the leading bit of a result is that of the bits kept, or one more. -/
theorem Fmt.carried_exponent (f : Fmt) (q : Nat) (e : Int) : e ≤ (f.carried q e).2 ∧ (f.carried q e).2 ≤ e + 1 := by
  rw [Fmt.carried]
  split <;> simp

section
variable {K : Type} [Field K] [LinearOrder K] [IsStrictOrderedRing K] {x : K}

/-- A carry leaves the number, the number of its bits, and an even significand even. -/
theorem Fmt.carried_spec (hf : 0 < f.frac) (hlo : 2 ^ f.frac ≤ q) (hhi : q ≤ 2 ^ (f.frac + 1)) :
    2 ^ f.frac ≤ (f.carried q e).1 ∧ (f.carried q e).1 < 2 ^ (f.frac + 1) ∧ (q % 2 = 0 → (f.carried q e).1 % 2 = 0)
      ∧ ((f.carried q e).1 : K) * 2 ^ (f.carried q e).2 = q * 2 ^ e := by
  rw [Fmt.carried]
  by_cases hq : q = 2 ^ (f.frac + 1)
  · have hhalf : q / 2 = 2 ^ f.frac := by rw [hq, pow_succ, Nat.mul_div_cancel _ two_pos]
    have heven : 2 ^ f.frac % 2 = 0 := by rw [← Nat.succ_pred_eq_of_pos hf, pow_succ, Nat.mul_mod_left]
    rw [if_pos hq]
    refine ⟨hhalf.ge, ?_, fun _ => hhalf ▸ heven, ?_⟩
    · rw [hhalf]
      exact Nat.pow_lt_pow_right (by decide) (Nat.lt_succ_self _)
    · rw [zpow_add_one₀ two_ne_zero, hhalf, hq]
      push_cast
      ring
  · rw [if_neg hq]
    exact ⟨hlo, lt_of_le_of_ne hhi hq, id, rfl⟩

/-- A significand filled up to the bits of the format stands for the same number. -/
theorem StandsFor.filled (h : StandsFor j m e x) (hj : j = 0 ∨ f.frac + 1 + j < bitLen m) : StandsFor j (f.filled m) (e - f.lack m) x := by
  by_cases hle : f.frac + 1 ≤ bitLen m
  · rw [Fmt.filled, Fmt.lack, Nat.sub_eq_zero_of_le hle]
    simpa using h
  · obtain rfl : j = 0 := by omega
    refine standsFor_exact ?_ 0
    rw [h.eq, Fmt.filled, zpow_sub₀ two_ne_zero, zpow_natCast]
    push_cast
    field_simp

/-- The two neighbours of a number that significand and exponent stand for, in units of the last place kept. -/
theorem StandsFor.round_neighbours (f : Fmt) (mode : Nat) (neg : Bool) (h : StandsFor j m e x) (hj : j = 0 ∨ f.frac + 1 + j < bitLen m) :
    Neighbours mode neg (f.kept m) (roundUp mode neg (f.kept m) (f.discarded m) (f.excess m)) (f.discarded m == 0)
      ((f.kept m : K) * 2 ^ f.place m e) x (((f.kept m : K) + 1) * 2 ^ f.place m e) :=
  (h.filled (f := f) hj).neighbours mode neg (k := f.excess m) (by rw [Fmt.excess]; omega)

/-- No number of the format lies strictly between two neighbours. -/
theorem Fmt.value_gap (f : Fmt) (y : Nat) (hq : 2 ^ f.frac ≤ q) (e : Int) :
    |(f.value y : K)| ≤ q * 2 ^ e ∨ ((q : K) + 1) * 2 ^ e ≤ |(f.value y : K)| := by
  have hlt := f.significand_lt y
  have habs : |(f.value y : K)| = f.significand y * 2 ^ f.exponent y := by
    rw [← Rat.cast_abs, Fmt.value_eq, abs_withSign, abs_of_nonneg (by positivity)]
    push_cast
    rfl
  rw [habs]
  generalize f.significand y = n at *
  generalize f.exponent y = d at *
  rcases le_or_gt e d with hle | hgt
  · obtain ⟨i, hi⟩ := Int.le.dest hle
    have hmul : (n : K) * 2 ^ d = (n * 2 ^ i : Nat) * 2 ^ e := by
      rw [← hi, zpow_add₀ two_ne_zero, zpow_natCast]
      push_cast
      ring
    rw [hmul, mul_le_mul_iff_left₀ (zpow_pos two_pos e), mul_le_mul_iff_left₀ (zpow_pos two_pos e), ← Nat.cast_succ, Nat.cast_le, Nat.cast_le]
    omega
  · left
    have hup : (2 : K) ^ d * 2 ≤ 2 ^ e := by
      rw [← zpow_add_one₀ two_ne_zero]
      exact zpow_le_zpow_right₀ one_le_two hgt
    have hn : (n : K) ≤ q * 2 := by
      have : n ≤ q * 2 := by rw [pow_succ] at hlt; omega
      exact_mod_cast this
    calc (n : K) * 2 ^ d ≤ q * 2 * 2 ^ d := by gcongr
      _ = q * (2 ^ d * 2) := by ring
      _ ≤ q * 2 ^ e := by gcongr

/-! ### The result -/

/-- b stands for the number of the format that serves ±x best, and `exact` tells whether it is ±x. -/
structure Fmt.Rounds (f : Fmt) (mode : Nat) (neg : Bool) (x : K) (b : Nat) (exact : Bool) : Prop where
  finite : f.finite b
  normal : f.subnormal b = false
  magnitude : ∃ g : K, 0 < g ∧ (f.value b : K) = withSign neg g
  exact_iff : exact = true ↔ (f.value b : K) = withSign neg x
  serves : ∀ y, serves mode (b % 2 = 0) (withSign neg x) (f.value b : K) (f.value y)

/-- Of two neighbours, the one that the mode chooses serves best. -/
theorem Neighbours.serves {up : Bool} {lo hi y : K} {even : Prop} (h : Neighbours mode neg q up exact lo x hi) (h0 : 0 ≤ lo)
    (he : (if up then q + 1 else q) % 2 = 0 → even) (hy : |y| ≤ lo ∨ hi ≤ |y|) :
    Machine.serves mode even (withSign neg x) (withSign neg (if up then hi else lo)) y := by
  have hup := h.up_iff.trans upward_onMagnitude
  refine serves_withSign fun z hz => ?_
  rw [← hz] at hy
  cases up
  · exact serves_lower h0 h.le h.lt (mt hup.2 (by decide)) he hy
  · exact serves_upper h0 h.le h.lt (hup.1 rfl) (fun hodd => he (by rw [if_pos rfl]; omega)) hy

/-- The neighbour that is chosen is the number itself just when it is exact. -/
theorem Neighbours.exact_iff_chosen {up : Bool} {lo hi : K} (h : Neighbours mode neg q up exact lo x hi) :
    exact = true ↔ (if up then hi else lo) = x := by
  cases up
  · exact h.exact_iff.trans eq_comm
  · have hup := h.up_iff.1 rfl
    have hne : x ≠ lo := fun heq => by
      rw [heq, sub_self] at hup
      exact not_upward_exact mode neg q (sub_pos.2 (heq ▸ h.lt)) hup
    exact ⟨fun he => absurd (h.exact_iff.1 he) hne, fun he => absurd he h.lt.ne'⟩

/-- An encoding keeps the parity of its significand. -/
theorem Fmt.pack_mod_two (hf : 0 < f.frac) {x : Nat} (hq : 2 ^ f.frac ≤ q) : f.pack neg x (q - 2 ^ f.frac) % 2 = q % 2 := by
  obtain ⟨k, hk⟩ : ∃ k, 2 ^ f.frac = 2 * k := ⟨2 ^ (f.frac - 1), by rw [← pow_succ', Nat.sub_add_cancel hf]⟩
  rw [Fmt.pack_eq, hk, mul_assoc, Nat.mul_add_mod]
  omega

/-- A significand of the format's bits whose exponent is in range is encoded as it is. -/
theorem Fmt.value_store (hlo : 2 ^ f.frac ≤ q) (hhi : q < 2 ^ (f.frac + 1)) (hx0 : 0 < e + f.frac + f.bias) (hx : e + f.frac + f.bias < f.maxExp) :
    f.finite (f.pack neg (e + f.frac + f.bias).toNat (q - 2 ^ f.frac))
      ∧ f.subnormal (f.pack neg (e + f.frac + f.bias).toNat (q - 2 ^ f.frac)) = false
      ∧ (f.value (f.pack neg (e + f.frac + f.bias).toNat (q - 2 ^ f.frac)) : K) = withSign neg ((q : K) * 2 ^ e) := by
  obtain ⟨n, hn⟩ := Int.eq_ofNat_of_zero_le hx0.le
  rw [hn, Int.toNat_natCast]
  have hn0 : 0 < n := by omega
  have hnm : n < f.maxExp := by omega
  have hm : q - 2 ^ f.frac < 2 ^ f.frac := by rw [pow_succ] at hhi; omega
  have hexp := f.expField_pack (neg := neg) (hnm.trans f.maxExp_lt) hm
  refine ⟨⟨f.pack_lt (hnm.trans f.maxExp_lt) hm, hexp.trans_lt hnm⟩, ?_, ?_⟩
  · rw [Fmt.subnormal, hexp, beq_eq_false_iff_ne.2 hn0.ne', Bool.false_and]
  · rw [Fmt.value_pack hn0 hnm hm, Nat.sub_add_cancel hlo, ← hn, show e + f.frac + f.bias - f.bias - f.frac = e by ring]
    cases neg <;> simp

/-- A result that is neither subnormal nor an overflow is encoded. -/
theorem Fmt.store_inRange {lost : Nat} (hsub : (f.store mode neg (q, e) lost).sub = false) (hover : (f.store mode neg (q, e) lost).flags &&& 4 = 0) :
    0 < e + f.frac + f.bias ∧ e + f.frac + f.bias < f.maxExp ∧ f.store mode neg (q, e) lost =
      ⟨f.pack neg (e + f.frac + f.bias).toNat (q - 2 ^ f.frac), if lost = 0 then 0 else 1, false⟩ := by
  unfold Fmt.store at *
  by_cases hx0 : e + f.frac + f.bias ≤ 0
  · rw [if_pos hx0] at hsub
    exact absurd (show true = false from hsub) (by decide)
  · by_cases hx : (f.maxExp : Int) ≤ e + f.frac + f.bias
    · rw [if_neg hx0, if_pos hx] at hover
      exact absurd (show 5 &&& 4 = 0 from hover) (by decide)
    · rw [if_neg hx0, if_neg hx]
      exact ⟨not_le.1 hx0, not_le.1 hx, rfl⟩

/-- A result of `Fmt.round` that neither overflows nor is subnormal is correctly rounded, and NX tells whether it is exact. -/
theorem Fmt.round_rounds (hf : 0 < f.frac) (hm : m ≠ 0) (h : StandsFor j m e x) (hj : j = 0 ∨ f.frac + 1 + j < bitLen m)
    (hsub : (f.round mode neg m e).sub = false) (hover : (f.round mode neg m e).flags &&& 4 = 0) :
    f.Rounds mode neg x (f.round mode neg m e).bits (f.discarded m == 0)
      ∧ (f.round mode neg m e).flags = if f.discarded m == 0 then 0 else 1 := by
  have hnear := h.round_neighbours f mode neg hj
  obtain ⟨hklo, -⟩ := f.kept_bounds hm
  obtain ⟨hlo, hhi⟩ := f.rounded_bounds (mode := mode) (neg := neg) hm
  obtain ⟨hclo, hchi, heven, hval⟩ := f.carried_spec (K := K) (e := f.place m e) hf hlo hhi
  rw [Fmt.round_eq] at hsub hover ⊢
  generalize f.carried (f.rounded mode neg m) (f.place m e) = r at *
  obtain ⟨r, d⟩ := r
  obtain ⟨hx0, hx, hstore⟩ := Fmt.store_inRange hsub hover
  obtain ⟨hfin, hnormal, hvalue⟩ := f.value_store (K := K) (neg := neg) hclo hchi hx0 hx
  -- The magnitude of the result is one of the neighbours.
  have hres : (r : K) * 2 ^ d = if roundUp mode neg (f.kept m) (f.discarded m) (f.excess m) then ((f.kept m : K) + 1) * 2 ^ f.place m e
      else f.kept m * 2 ^ f.place m e := by
    rw [hval, Fmt.rounded]
    split <;> push_cast <;> rfl
  rw [hres] at hvalue
  rw [hstore]
  have hk : (0 : K) < f.kept m := by exact_mod_cast (Nat.two_pow_pos _).trans_le hklo
  refine ⟨⟨hfin, hnormal, ⟨_, ?_, hvalue⟩, ?_, fun y => ?_⟩, by simp only [beq_iff_eq]⟩
  · split <;> positivity
  · rw [hvalue, withSign_injective]
    exact hnear.exact_iff_chosen
  · rw [hvalue]
    refine hnear.serves (by positivity) (fun h => ?_) (f.value_gap y hklo _)
    rw [Fmt.pack_mod_two hf hclo]
    exact heven h

theorem Fmt.maxExp_eq (f : Fmt) (h : 0 < f.expo) : f.maxExp = 2 * f.bias + 1 := by
  have hpow : 2 ^ f.expo = 2 * 2 ^ (f.expo - 1) := by rw [← pow_succ', Nat.sub_add_cancel h]
  have := Nat.two_pow_pos (f.expo - 1)
  rw [Fmt.maxExp, Fmt.bias, hpow]
  omega

/-- A number within the normal range neither overflows nor becomes subnormal, when the largest normal exponent is not reached. -/
theorem Fmt.round_inRange (hb : 0 < f.expo) (hm : m ≠ 0) (h : StandsFor j m e x) (hj : j = 0 ∨ f.frac + 1 + j < bitLen m)
    (hlo : (2 : K) ^ (1 - f.bias : Int) ≤ x) (hhi : x < 2 ^ (f.bias : Int)) :
    (f.round mode neg m e).sub = false ∧ (f.round mode neg m e).flags &&& 4 = 0 := by
  have hnear := h.round_neighbours f mode neg hj
  obtain ⟨hklo, hkhi⟩ := f.kept_bounds hm
  obtain ⟨hd0, hd1⟩ := f.carried_exponent (f.rounded mode neg m) (f.place m e)
  have hpos : (0 : K) < 2 ^ f.place m e := zpow_pos two_pos _
  -- The leading bit of the bits kept.
  have hlow : (2 : K) ^ ((f.frac : Int) + f.place m e) ≤ x := by
    rw [zpow_add₀ two_ne_zero, zpow_natCast]
    exact le_trans (by gcongr; exact_mod_cast hklo) hnear.le
  have hhigh : x < (2 : K) ^ (((f.frac + 1 : Nat) : Int) + f.place m e) := by
    rw [zpow_add₀ two_ne_zero, zpow_natCast]
    exact hnear.lt.trans_le (by gcongr; exact_mod_cast hkhi)
  have h1 := (zpow_lt_zpow_iff_right₀ one_lt_two).1 (hlow.trans_lt hhi)
  have h2 := (zpow_lt_zpow_iff_right₀ one_lt_two).1 (hlo.trans_lt hhigh)
  have hmax := f.maxExp_eq hb
  rw [Fmt.round_eq, Fmt.store, if_neg (by omega), if_neg (by omega)]
  refine ⟨rfl, ?_⟩
  show (if f.discarded m = 0 then 0 else 1) &&& 4 = 0
  split <;> rfl

end
end Sys2Proof.Machine
end

section
/-! The sum, the product, the FMA forms and the conversions are rounded once, of the exact result (R396, R413). -/
namespace Sys2Proof.Machine

section
variable {f : Fmt} {mode j : Nat} {v e : Int} {x : ℚ} {z : Bool}

/-! ### Rounding an exact value -/

theorem Fmt.Rounds.roundsTo {neg exact : Bool} {b : Nat} (h : f.Rounds mode neg x b exact) : f.roundsTo mode (withSign neg x) b := by
  refine ⟨h.finite, fun y _ => ?_⟩
  have hserves := h.serves y
  rw [Rat.cast_id, Rat.cast_id] at hserves
  exact hserves

/-- A signed significand that stands for the magnitude of x, to at least one bit more than the format has, is rounded to x. -/
theorem Fmt.correct_roundInt {w : ℚ} (hf : 0 < f.frac) (hx : x = withSign (decide (v < 0)) w) (h0 : v = 0 → x = 0) (h : StandsFor j v.natAbs e w)
    (hj : j = 0 ∨ f.frac + 1 + j < bitLen v.natAbs) : f.correct mode x (f.roundInt mode v e z) := by
  intro hne hsub hover
  have hv : v ≠ 0 := mt h0 hne
  rw [Fmt.roundInt, if_neg hv] at hsub hover ⊢
  obtain ⟨hrounds, hflags⟩ := Fmt.round_rounds hf (Int.natAbs_ne_zero.2 hv) h hj hsub hover
  have hexact := hrounds.exact_iff
  rw [Rat.cast_id, ← hx] at hexact
  refine ⟨hx ▸ hrounds.roundsTo, hrounds.normal, ?_⟩
  rw [hflags]
  exact if_congr hexact rfl rfl

/-- An integer times a power of two is rounded to what it is. -/
theorem Fmt.correct_roundInt_exact (hf : 0 < f.frac) (hx : x = v * 2 ^ e) : f.correct mode x (f.roundInt mode v e z) := by
  have hmag : (v : ℚ) = withSign (decide (v < 0)) (v.natAbs : ℚ) := by
    rw [Nat.cast_natAbs]
    rcases lt_or_ge v 0 with h | h
    · rw [decide_eq_true h, withSign_true, abs_of_neg h]
      push_cast
      ring
    · rw [decide_eq_false (not_lt.2 h), withSign_false, abs_of_nonneg h]
  refine correct_roundInt (j := 0) (w := v.natAbs * 2 ^ e) hf ?_ (fun h => by rw [hx, h]; simp) (standsFor_exact rfl 0) (.inl rfl)
  rw [hx, withSign_mul, ← hmag]

theorem Fmt.correct_ofInteger (hf : 0 < f.frac) (n : Int) : f.correct mode n (f.ofInteger mode n) := Fmt.correct_roundInt_exact hf (by simp)

/-! ### Numbers of the format as operands -/

theorem Fmt.decode_of_finite {b : Nat} (h : f.finite b) :
    ∃ s m d, f.decode b = .fin s m d ∧ f.value b = (signedMag s m : Int) * (2 : ℚ) ^ d := by
  refine ⟨_, _, _, Fmt.decode_finite h.2, ?_⟩
  rw [f.value_eq, withSign_mul, cast_signedMag]

theorem signedMag_not (s : Bool) (m : Nat) : signedMag (!s) m = -signedMag s m := by cases s <;> simp [signedMag]

theorem signedMag_mul (s t : Bool) (m n : Nat) : signedMag (s != t) (m * n) = signedMag s m * signedMag t n := by
  cases s <;> cases t <;> simp [signedMag]

theorem mul_pow_toNat {n d : Int} (h : d ≤ e) (hn : x = n * (2 : ℚ) ^ e) : x = ((n * 2 ^ (e - d).toNat : Int) : ℚ) * 2 ^ d := by
  obtain ⟨i, hi⟩ := Int.le.dest h
  rw [hn, ← hi, add_sub_cancel_left, Int.toNat_natCast, zpow_add₀ two_ne_zero, zpow_natCast]
  push_cast
  ring

variable {s t u : Bool} {m n k : Nat} {d g h : Int} {y w : ℚ}

/-- The sum of two numbers, or with `ng` its negation, is rounded once. -/
theorem Fmt.correct_sumFin (hf : 0 < f.frac) (ng : Bool) (hx : x = signedMag s m * (2 : ℚ) ^ d) (hy : y = signedMag t n * (2 : ℚ) ^ g) :
    f.correct mode (withSign ng (x + y)) (f.sumFin mode ng s m d t n g) := by
  refine Fmt.correct_roundInt_exact hf ?_
  have hsum : x + y = ((signedMag s m * 2 ^ (d - min d g).toNat + signedMag t n * 2 ^ (g - min d g).toNat : Int) : ℚ) * 2 ^ min d g := by
    rw [Int.cast_add, add_mul, ← mul_pow_toNat (min_le_left d g) hx, ← mul_pow_toNat (min_le_right d g) hy]
  cases ng
  · exact hsum
  · rw [withSign_true, hsum, ← neg_mul, ← Int.cast_neg]
    rfl

theorem Fmt.correct_add (hf : 0 < f.frac) (hx : x = signedMag s m * (2 : ℚ) ^ d) (hy : y = signedMag t n * (2 : ℚ) ^ g) :
    f.correct mode (x + y) (f.add mode (.fin s m d) (.fin t n g)) := Fmt.correct_sumFin hf false hx hy

theorem neg_eq_signedMag_not (hx : x = signedMag s m * (2 : ℚ) ^ d) : -x = signedMag (!s) m * (2 : ℚ) ^ d := by
  rw [hx, signedMag_not, Int.cast_neg, neg_mul]

theorem Fmt.correct_sub (hf : 0 < f.frac) (hx : x = signedMag s m * (2 : ℚ) ^ d) (hy : y = signedMag t n * (2 : ℚ) ^ g) :
    f.correct mode (x - y) (f.sub mode (.fin s m d) (.fin t n g)) := by
  rw [sub_eq_add_neg]
  exact Fmt.correct_sumFin hf false hx (neg_eq_signedMag_not hy)

theorem mul_eq_signedMag (hx : x = signedMag s m * (2 : ℚ) ^ d) (hy : y = signedMag t n * (2 : ℚ) ^ g) :
    x * y = signedMag (s != t) (m * n) * (2 : ℚ) ^ (d + g) := by
  rw [hx, hy, signedMag_mul, zpow_add₀ two_ne_zero, Int.cast_mul]
  ring

theorem Fmt.correct_mul (hf : 0 < f.frac) (hx : x = signedMag s m * (2 : ℚ) ^ d) (hy : y = signedMag t n * (2 : ℚ) ^ g) :
    f.correct mode (x * y) (f.mul mode (.fin s m d) (.fin t n g)) := Fmt.correct_roundInt_exact hf (mul_eq_signedMag hx hy)

theorem withSign_eq_signedMag (b : Bool) (hx : x = signedMag s m * (2 : ℚ) ^ d) : withSign b x = signedMag (b != s) m * (2 : ℚ) ^ d := by
  cases b
  · rw [Bool.false_bne]
    exact hx
  · rw [Bool.true_bne]
    exact neg_eq_signedMag_not hx

/-- A number with its sign changed or not. -/
theorem ite_negate_fin (b : Bool) : (if b then FVal.negate (.fin s m d) else .fin s m d) = .fin (b != s) m d := by
  cases b
  · rw [Bool.false_bne]
    rfl
  · rw [Bool.true_bne]
    rfl

/-- The FMA forms: product and addend with their signs, the sum negated with `ng`. -/
theorem Fmt.correct_fma (hf : 0 < f.frac) (np nc ng : Bool) (hx : x = signedMag s m * (2 : ℚ) ^ d) (hy : y = signedMag t n * (2 : ℚ) ^ g)
    (hw : w = signedMag u k * (2 : ℚ) ^ h) :
    f.correct mode (withSign ng (withSign np (x * y) + withSign nc w)) (f.fma mode np nc ng (.fin s m d) (.fin t n g) (.fin u k h)) := by
  have hsum : f.fma mode np nc ng (.fin s m d) (.fin t n g) (.fin u k h)
      = f.sumFin mode ng (np != (s != t)) (m * n) (d + g) (nc != u) k h := by
    show f.addVal mode ng (if np then FVal.negate (.fin (s != t) (m * n) (d + g)) else .fin (s != t) (m * n) (d + g))
      (if nc then FVal.negate (.fin u k h) else .fin u k h) = _
    rw [ite_negate_fin, ite_negate_fin]
    rfl
  rw [hsum]
  exact Fmt.correct_sumFin hf ng (withSign_eq_signedMag np (mul_eq_signedMag hx hy)) (withSign_eq_signedMag nc hw)

theorem Fmt.correct_convert {o : Fmt} (ho : 0 < o.frac) (hx : x = signedMag s m * (2 : ℚ) ^ d) :
    o.correct mode x (f.convert o mode (.fin s m d)) := Fmt.correct_roundInt_exact ho hx

end
end Sys2Proof.Machine
end

section
/-! The quotient and the square root are rounded of one more bit that tells whether what is discarded is zero (R396). -/
namespace Sys2Proof.Machine

section
variable {f : Fmt} {mode : Nat} {s t : Bool} {m n : Nat} {d g : Int} {x y : ℚ}

/-! ### The quotient -/

theorem natAbs_signedMag (s : Bool) (m : Nat) : (signedMag s m).natAbs = m := by cases s <;> simp [signedMag]

theorem signedMag_neg_iff (s : Bool) (hm : m ≠ 0) : decide (signedMag s m < 0) = s := by
  cases s <;> simp [signedMag, Nat.pos_of_ne_zero hm]

theorem signedMag_ne_zero (hm : m ≠ 0) : signedMag s m ≠ 0 := by cases s <;> simpa [signedMag] using hm

/-- A significand shifted up by the bits of a divisor and b more has b bits above the place of the quotient. -/
theorem two_pow_le_quotient (b : Nat) (hm : m ≠ 0) (hn : n ≠ 0) : 2 ^ b ≤ m * 2 ^ (b + bitLen n) / n := by
  rw [Nat.le_div_iff_mul_le (Nat.pos_of_ne_zero hn), pow_add]
  calc 2 ^ b * n ≤ 2 ^ b * 2 ^ bitLen n := Nat.mul_le_mul_left _ (lt_two_pow_bitLen n).le
    _ ≤ m * (2 ^ b * 2 ^ bitLen n) := Nat.le_mul_of_pos_left _ (Nat.pos_of_ne_zero hm)

/-- A natural quotient, and a remainder of zero, as the rational one tells them. -/
theorem div_le_lt (a : Nat) (hn : n ≠ 0) :
    ((a / n : Nat) : ℚ) ≤ a / n ∧ (a / n : ℚ) < (a / n : Nat) + 1 ∧ (a % n = 0 ↔ (a / n : ℚ) = (a / n : Nat)) := by
  have hpos : (0 : ℚ) < n := by exact_mod_cast Nat.pos_of_ne_zero hn
  have hdiv : n * (a / n) + a % n = a := Nat.div_add_mod a n
  have hmod : a % n < n := Nat.mod_lt _ (Nat.pos_of_ne_zero hn)
  generalize a / n = q at *
  rw [le_div_iff₀ hpos, div_lt_iff₀ hpos, div_eq_iff hpos.ne', ← Nat.cast_succ]
  norm_cast
  rw [mul_comm q n, Nat.succ_mul, mul_comm q n]
  omega

theorem Fmt.correct_divFin (hf : 0 < f.frac) (hm : m ≠ 0) (hn : n ≠ 0) :
    f.correct mode (withSign s ((m / n : ℚ) * 2 ^ (d - g))) (f.divFin mode s m d n g) := by
  obtain ⟨hle, hlt, hexact⟩ := div_le_lt (m * 2 ^ (f.frac + 4 + bitLen n)) hn
  have hbits := two_pow_le_quotient (f.frac + 4) hm hn
  have hstands := standsFor_sticky (e := d - g - (f.frac + 4 + bitLen n : Nat) - 1) hle hlt
  rw [Fmt.divFin]
  simp only [hexact]
  generalize hw : f.frac + 4 + bitLen n = w at *
  generalize m * 2 ^ w / n = q at *
  have hval : ((m * 2 ^ w : Nat) / n : ℚ) * 2 ^ (d - g - w - 1 + 1) = (m / n : ℚ) * 2 ^ (d - g) := by
    rw [sub_add_cancel, zpow_sub₀ two_ne_zero _ (w : Int), zpow_natCast]
    push_cast
    field_simp
  rw [hval] at hstands
  have hbig : 2 ^ (f.frac + 4) ≤ q * 2 + if ((m * 2 ^ w : Nat) / n : ℚ) = q then 0 else 1 := hbits.trans (by omega)
  generalize (q * 2 + if ((m * 2 ^ w : Nat) / n : ℚ) = q then 0 else 1) = r at *
  have hr : r ≠ 0 := ((Nat.two_pow_pos _).trans_le hbig).ne'
  refine Fmt.correct_roundInt (j := 1) hf (by rw [signedMag_neg_iff s hr]) (fun h => absurd h (signedMag_ne_zero hr)) ?_ (.inr ?_)
  · rwa [natAbs_signedMag]
  · rw [natAbs_signedMag]
    have := lt_bitLen hbig
    omega

theorem Fmt.correct_div (hf : 0 < f.frac) (hx : x = signedMag s m * (2 : ℚ) ^ d) (hy : y = signedMag t n * (2 : ℚ) ^ g) (hy0 : y ≠ 0) :
    f.correct mode (x / y) (f.div mode (.fin s m d) (.fin t n g)) := by
  intro hne
  have hm : m ≠ 0 := by
    rintro rfl
    exact hne (by rw [hx]; cases s <;> simp [signedMag])
  have hn : n ≠ 0 := by
    rintro rfl
    exact hy0 (by rw [hy]; cases t <;> simp [signedMag])
  have hdiv : f.div mode (.fin s m d) (.fin t n g) = f.divFin mode (s != t) m d n g := if_neg hn
  have hval : x / y = withSign (s != t) ((m / n : ℚ) * 2 ^ (d - g)) := by
    rw [hx, hy, cast_signedMag, cast_signedMag, ← withSign_mul, ← withSign_mul, withSign_div_withSign, zpow_sub₀ two_ne_zero]
    field_simp
  rw [hdiv]
  rw [hval] at hne ⊢
  exact Fmt.correct_divFin hf hm hn hne

/-! ### The square root -/

/-- Bit by bit, the largest number whose square does not exceed m. -/
theorem isqrt_spec (k r m : Nat) (hle : r * r ≤ m) (hlt : m < (r + 2 ^ k) * (r + 2 ^ k)) :
    isqrt k r m * isqrt k r m ≤ m ∧ m < (isqrt k r m + 1) * (isqrt k r m + 1) := by
  induction k generalizing r with
  | zero => exact ⟨hle, hlt⟩
  | succ k ih =>
    rw [isqrt]
    split
    case isTrue h => exact ih _ h (by rwa [pow_succ, mul_two, ← add_assoc] at hlt)
    case isFalse h => exact ih _ hle (not_le.1 h)

theorem isqrt_eq_sqrt (m : Nat) : isqrt (bitLen m / 2 + 1) 0 m = Nat.sqrt m := by
  have hm : m < (0 + 2 ^ (bitLen m / 2 + 1)) * (0 + 2 ^ (bitLen m / 2 + 1)) := by
    rw [zero_add, ← pow_add]
    exact (lt_two_pow_bitLen m).trans_le (Nat.pow_le_pow_right two_pos (by omega))
  obtain ⟨hle, hlt⟩ := isqrt_spec _ 0 m (Nat.zero_le m) hm
  exact Nat.eq_sqrt.2 ⟨hle, hlt⟩

/-- A significand and an even exponent of the same number, the significand of at least twice the bits of the format. -/
def Fmt.evened (f : Fmt) (m : Nat) (d : Int) : Nat × Int :=
  if d % 2 = 0 then (m * 2 ^ (2 * f.frac + 8), d - (2 * f.frac + 8 : Nat)) else (m * 2 ^ (2 * f.frac + 8 + 1), d - (2 * f.frac + 8 : Nat) - 1)

theorem Fmt.sqrt_eq (hm : m ≠ 0) : f.sqrt mode (.fin false m d) =
    f.round mode false (Nat.sqrt (f.evened m d).1 * 2 + if Nat.sqrt (f.evened m d).1 * Nat.sqrt (f.evened m d).1 = (f.evened m d).1 then 0 else 1)
      ((f.evened m d).2 / 2 - 1) := by
  rw [← isqrt_eq_sqrt]
  exact if_neg hm

theorem Fmt.evened_spec (f : Fmt) (hm : m ≠ 0) (d : Int) :
    2 ^ (2 * (f.frac + 4)) ≤ (f.evened m d).1 ∧ ∃ h, (f.evened m d).2 = 2 * h ∧ (m : ℝ) * 2 ^ d = (f.evened m d).1 * (2 ^ h * 2 ^ h) := by
  have hbig : ∀ i, 2 * (f.frac + 4) ≤ i → 2 ^ (2 * (f.frac + 4)) ≤ m * 2 ^ i := fun i hi =>
    (Nat.pow_le_pow_right two_pos hi).trans (Nat.le_mul_of_pos_left _ (Nat.pos_of_ne_zero hm))
  have hval : ∀ (i : Nat) (h : Int), d - i = 2 * h → (m : ℝ) * 2 ^ d = (m * 2 ^ i : Nat) * (2 ^ h * 2 ^ h) := fun i h hi => by
    rw [← zpow_add₀ two_ne_zero, ← two_mul, ← hi, zpow_sub₀ two_ne_zero, zpow_natCast]
    push_cast
    field_simp
  rw [Fmt.evened]
  split
  case isTrue hd => exact ⟨hbig _ (by omega), (d - (2 * f.frac + 8 : Nat)) / 2, by omega, hval _ _ (by omega)⟩
  case isFalse hd => exact ⟨hbig _ (by omega), (d - (2 * f.frac + 8 : Nat) - 1) / 2, by omega, hval _ _ (by omega)⟩

/-- What is rounded stands for the real square root. -/
theorem Fmt.sqrt_standsFor (f : Fmt) (hm : m ≠ 0) (d : Int) : ∃ r e, f.sqrt mode (.fin false m d) = f.round mode false r e ∧ r ≠ 0
    ∧ StandsFor 1 r e √((m : ℝ) * 2 ^ d) ∧ f.frac + 1 + 1 < bitLen r := by
  obtain ⟨hbig, h, hexp, hval⟩ := f.evened_spec hm d
  have hroot : √((m : ℝ) * 2 ^ d) = √((f.evened m d).1 : ℝ) * 2 ^ (h - 1 + 1) := by
    rw [hval, Real.sqrt_mul (Nat.cast_nonneg _), Real.sqrt_mul_self (zpow_pos two_pos h).le, sub_add_cancel]
  refine ⟨_, _, Fmt.sqrt_eq hm, ?_⟩
  rw [hroot, hexp, Int.mul_ediv_cancel_left _ two_ne_zero]
  generalize (f.evened m d).1 = a at *
  have hsqrt : 2 ^ (f.frac + 4) ≤ Nat.sqrt a := by rw [Nat.le_sqrt', ← pow_mul, mul_comm]; exact hbig
  have hle : (Nat.sqrt a : ℝ) ≤ √(a : ℝ) := Real.nat_sqrt_le_real_sqrt
  have hlt : √(a : ℝ) < Nat.sqrt a + 1 := Real.real_sqrt_lt_nat_sqrt_succ
  have hexact : Nat.sqrt a * Nat.sqrt a = a ↔ √(a : ℝ) = Nat.sqrt a := by
    rw [Real.sqrt_eq_iff_mul_self_eq (Nat.cast_nonneg _) (Nat.cast_nonneg _)]
    norm_cast
    exact eq_comm
  simp only [hexact]
  have hlen : 2 ^ (f.frac + 4) ≤ Nat.sqrt a * 2 + if √(a : ℝ) = Nat.sqrt a then 0 else 1 := hsqrt.trans (by omega)
  refine ⟨((Nat.two_pow_pos _).trans_le hlen).ne', standsFor_sticky hle hlt, ?_⟩
  have := lt_bitLen hlen
  omega

/-- The number v serves the root of x as well as y does, said of the squares (R396). -/
def servesRoot (mode : Nat) (x v y : ℚ) : Prop :=
  match mode with
  | 1 | 3 => v * v ≤ x ∧ (y * y ≤ x → y ≤ v)
  | 2 => x ≤ v * v ∧ (x ≤ y * y → v ≤ y)
  | _ => (v < y → 4 * x ≤ (v + y) * (v + y)) ∧ (y < v → (v + y) * (v + y) ≤ 4 * x)

theorem servesRoot_of_serves {even : Prop} {v : ℚ} (hx : 0 < x) (hv : 0 < v) (hy : 0 ≤ y) (h : serves mode even √(x : ℝ) (v : ℝ) (y : ℝ)) :
    servesRoot mode x v y := by
  have hle : ∀ {u : ℚ}, 0 ≤ u → ((u : ℝ) ≤ √(x : ℝ) ↔ u * u ≤ x) := fun hu => by
    rw [Real.le_sqrt (by exact_mod_cast hu) (by exact_mod_cast hx.le), sq]
    norm_cast
  have hge : ∀ {u : ℚ}, 0 ≤ u → (√(x : ℝ) ≤ u ↔ x ≤ u * u) := fun hu => by
    rw [Real.sqrt_le_left (by exact_mod_cast hu), sq]
    norm_cast
  -- The root is not beyond the middle of v and y.
  have hmiddle : |(v : ℝ) - √(x : ℝ)| ≤ |(y : ℝ) - √(x : ℝ)| →
      (v < y → 4 * x ≤ (v + y) * (v + y)) ∧ (y < v → (v + y) * (v + y) ≤ 4 * x) := fun hdist => by
    have hmid : (0 : ℚ) ≤ (v + y) / 2 := by positivity
    constructor
    · intro hlt
      have hlt' : (v : ℝ) < y := by exact_mod_cast hlt
      have hroot : √(x : ℝ) ≤ ((v + y) / 2 : ℚ) := by
        push_cast
        grind
      linarith [(hge hmid).1 hroot]
    · intro hlt
      have hlt' : (y : ℝ) < v := by exact_mod_cast hlt
      have hroot : (((v + y) / 2 : ℚ) : ℝ) ≤ √(x : ℝ) := by
        push_cast
        grind
      linarith [(hle hmid).1 hroot]
  match mode with
  | 0 => exact hmiddle h.1
  | 1 =>
    obtain ⟨h1, -, h2⟩ := h
    have hroot : (0 : ℝ) ≤ √(x : ℝ) := Real.sqrt_nonneg _
    have hv' : (0 : ℝ) ≤ v := by exact_mod_cast hv.le
    have hy' : (0 : ℝ) ≤ y := by exact_mod_cast hy
    rw [abs_of_nonneg hroot, abs_of_nonneg hv'] at h1 h2
    rw [abs_of_nonneg hy'] at h2
    refine ⟨(hle hv.le).1 h1, fun hyx => ?_⟩
    exact_mod_cast h2 ((hle hy).2 hyx) (mul_nonneg hy' hroot)
  | 2 => exact ⟨(hge hv.le).1 h.1, fun hxy => by exact_mod_cast h.2 ((hge hy).2 hxy)⟩
  | 3 => exact ⟨(hle hv.le).1 h.1, fun hyx => by exact_mod_cast h.2 ((hle hy).2 hyx)⟩
  | n + 4 => exact hmiddle h.1

/-- A number that is not subnormal is at least the smallest normal one, and below twice the largest power of two. -/
theorem Fmt.value_bounds {b : Nat} (hfin : f.finite b) (hnormal : f.subnormal b = false) (hpos : 0 < f.value b) (hexpo : 0 < f.expo) :
    (2 : ℚ) ^ (1 - f.bias : Int) ≤ f.value b ∧ f.value b < 2 ^ (f.bias + 1 : Int) := by
  have hsign : f.sign b = false := by
    by_contra hs
    rw [f.value_eq, Bool.eq_true_of_not_eq_false hs, withSign_true] at hpos
    exact absurd hpos (not_lt.2 (neg_nonpos.2 (by positivity)))
  rw [f.value_eq, hsign, withSign_false] at hpos ⊢
  have hx : f.expField b ≠ 0 := fun h0 => by
    have hm : f.significand b = 0 := by
      rw [Fmt.subnormal, h0] at hnormal
      rw [Fmt.significand, if_pos h0]
      simpa using hnormal
    rw [hm] at hpos
    simp at hpos
  have hlo : 2 ^ f.frac ≤ f.significand b := by
    rw [Fmt.significand, if_neg hx]
    exact Nat.le_add_left _ _
  have hexp : (f.expField b : Int) ≤ 2 * f.bias := by
    have hmax := f.maxExp_eq hexpo
    have := hfin.2
    omega
  rw [Fmt.exponent, max_eq_right (by omega)]
  constructor
  · calc (2 : ℚ) ^ (1 - f.bias : Int) ≤ 2 ^ ((f.frac : Int) + ((f.expField b : Int) - f.bias - f.frac)) :=
          zpow_le_zpow_right₀ one_le_two (by omega)
      _ = (2 ^ f.frac : Nat) * 2 ^ ((f.expField b : Int) - f.bias - f.frac) := by
          rw [zpow_add₀ two_ne_zero, zpow_natCast]
          push_cast
          rfl
      _ ≤ f.significand b * 2 ^ ((f.expField b : Int) - f.bias - f.frac) := by gcongr
  · calc (f.significand b : ℚ) * 2 ^ ((f.expField b : Int) - f.bias - f.frac)
        < (2 ^ (f.frac + 1) : Nat) * 2 ^ ((f.expField b : Int) - f.bias - f.frac) := by gcongr; exact f.significand_lt b
      _ = 2 ^ (((f.frac + 1 : Nat) : Int) + ((f.expField b : Int) - f.bias - f.frac)) := by
          rw [zpow_add₀ two_ne_zero, zpow_natCast]
          push_cast
          rfl
      _ ≤ 2 ^ (f.bias + 1 : Int) := zpow_le_zpow_right₀ one_le_two (by omega)

/-- The root of a positive number that is not subnormal lies within the normal range. -/
theorem sqrt_inRange {b : Nat} (hb : 0 < b) (hlo : (2 : ℚ) ^ (1 - b : Int) ≤ x) (hhi : x < 2 ^ (b + 1 : Int)) :
    (2 : ℝ) ^ (1 - b : Int) ≤ √(x : ℝ) ∧ √(x : ℝ) < 2 ^ (b : Int) := by
  have hcast : ∀ i : Int, (2 : ℝ) ^ i = ((2 ^ i : ℚ) : ℝ) := fun i => by push_cast; rfl
  have hlo' : (2 : ℝ) ^ (1 - b : Int) ≤ x := by rw [hcast]; exact Rat.cast_le.2 hlo
  have hhi' : (x : ℝ) < 2 ^ (b + 1 : Int) := by rw [hcast]; exact Rat.cast_lt.2 hhi
  constructor
  · refine Real.le_sqrt_of_sq_le (le_trans ?_ hlo')
    rw [← zpow_natCast, ← zpow_mul]
    exact zpow_le_zpow_right₀ one_le_two (by push_cast; omega)
  · rw [Real.sqrt_lt' (zpow_pos two_pos _), ← zpow_natCast, ← zpow_mul]
    exact hhi'.trans_le (zpow_le_zpow_right₀ one_le_two (by push_cast; omega))

theorem Fmt.bias_pos (h : 2 ≤ f.expo) : 0 < f.bias := by
  have := Nat.pow_le_pow_right two_pos (show 1 ≤ f.expo - 1 by omega)
  rw [Fmt.bias]
  omega

/-- The square root of a positive number is correctly rounded, and exact just when its square is the number. -/
theorem Fmt.sqrt_rounds {b : Nat} (hf : 0 < f.frac) (he : 2 ≤ f.expo) (hfin : f.finite b) (hnormal : f.subnormal b = false) (hpos : 0 < f.value b) :
    (f.sqrt mode (f.decode b)).sub = false ∧ f.finite (f.sqrt mode (f.decode b)).bits ∧ 0 < f.value (f.sqrt mode (f.decode b)).bits
      ∧ (f.sqrt mode (f.decode b)).flags =
        (if f.value (f.sqrt mode (f.decode b)).bits * f.value (f.sqrt mode (f.decode b)).bits = f.value b then 0 else 1)
      ∧ ∀ y, serves mode ((f.sqrt mode (f.decode b)).bits % 2 = 0) √(f.value b : ℝ) (f.value (f.sqrt mode (f.decode b)).bits : ℝ) (f.value y : ℝ) := by
  obtain ⟨s, m, d, hdecode, hvalue⟩ := Fmt.decode_of_finite hfin
  have hm : m ≠ 0 := by
    rintro rfl
    rw [hvalue] at hpos
    cases s <;> simp [signedMag] at hpos
  have hs : s = false := by
    by_contra hs
    rw [hvalue, Bool.eq_true_of_not_eq_false hs, cast_signedMag, withSign_true, neg_mul] at hpos
    exact absurd hpos (not_lt.2 (neg_nonpos.2 (by positivity)))
  subst hs
  have hreal : (m : ℝ) * 2 ^ d = (f.value b : ℝ) := by
    rw [hvalue, cast_signedMag]
    push_cast [withSign_false]
    rfl
  obtain ⟨r, e, hround, hr, hstands, hbits⟩ := f.sqrt_standsFor (mode := mode) hm d
  rw [hreal] at hstands
  obtain ⟨hlo, hhi⟩ := Fmt.value_bounds hfin hnormal hpos (by omega)
  obtain ⟨hrlo, hrhi⟩ := sqrt_inRange (Fmt.bias_pos he) hlo hhi
  obtain ⟨hsub, hover⟩ := Fmt.round_inRange (neg := false) (mode := mode) (by omega) hr hstands (.inr hbits) hrlo hrhi
  obtain ⟨hrounds, hflags⟩ := Fmt.round_rounds hf hr hstands (.inr hbits) hsub hover
  obtain ⟨v, hv, hg⟩ := hrounds.magnitude
  rw [withSign_false] at hg
  have hg0 : 0 < f.value (f.round mode false r e).bits := by exact_mod_cast hg ▸ hv
  have hexact := hrounds.exact_iff
  rw [withSign_false, eq_comm (b := √(f.value b : ℝ)), Real.sqrt_eq_iff_mul_self_eq (by exact_mod_cast hpos.le) (by exact_mod_cast hg0.le)] at hexact
  rw [hdecode, hround]
  refine ⟨hsub, hrounds.finite, hg0, ?_, fun y => hrounds.serves y⟩
  rw [hflags]
  refine if_congr (hexact.trans ?_) rfl rfl
  norm_cast
  exact eq_comm

end
end Sys2Proof.Machine
end

section
/-! Conversion to a word (R398), and the statement on rounding. -/
namespace Sys2Proof.Machine

section
variable {mode q m : Nat} {neg u up exact : Bool} {e i : Int} {x : ℚ}

/-- RNE takes the nearest integer, of two the even one. -/
theorem integral_nearest {n : Int} (h : |x - n| < 1 / 2 ∨ (|x - n| = 1 / 2 ∧ n % 2 = 0)) : integral 0 x = n := by
  rcases le_or_gt (n : ℚ) x with hle | hlt
  · rw [abs_of_nonneg (sub_nonneg.2 hle)] at h
    have hfloor : ⌊x⌋ = n := Int.floor_eq_iff.2 ⟨hle, by rcases h with h | h <;> linarith⟩
    simp only [integral, hfloor, if_pos h]
  · rw [abs_of_neg (sub_neg.2 hlt)] at h
    have hfloor : ⌊x⌋ = n - 1 := Int.floor_eq_iff.2 ⟨by push_cast; rcases h with h | h <;> linarith, by push_cast; linarith⟩
    have hup : ¬ (x - (n - 1 : Int) < 1 / 2 ∨ x - (n - 1 : Int) = 1 / 2 ∧ (n - 1) % 2 = 0) := by
      push_cast
      rintro (h' | ⟨h', hodd⟩)
      · rcases h with h | h <;> linarith
      · rcases h with h | h
        · linarith
        · omega
    simp only [integral, hfloor, if_neg hup]
    ring

/-- By the other modes the integer of a negative number is that of its magnitude, as the mode acts on it. -/
theorem integral_neg (hx : 0 ≤ x) (hmode : mode ≠ 0) : integral mode (-x) = -integral (mirrored mode) x := by
  match mode with
  | 1 =>
    simp only [integral, mirrored, if_pos hx, Int.ceil_neg]
    split
    case isTrue h =>
      obtain rfl : x = 0 := by linarith
      simp
    case isFalse h => rfl
  | 2 => exact Int.ceil_neg
  | 3 => exact Int.floor_neg
  | n + 4 =>
    simp only [integral, mirrored, if_pos hx, ← Int.ceil_neg, neg_add']
    split
    case isTrue h =>
      obtain rfl : x = 0 := by linarith
      norm_num
    case isFalse h => rfl

/-- A magnitude between an integer and the next is rounded to one of the two. -/
theorem integral_of_between (hle : (q : ℚ) ≤ x) (hlt : x < q + 1) (hup : up = true ↔ upward mode false q (x - q) (q + 1 - x)) (hmode : mode ≠ 0) :
    integral mode x = if up then q + 1 else q := by
  have hfloor : ⌊x⌋ = q := Int.floor_eq_iff.2 ⟨by exact_mod_cast hle, by exact_mod_cast hlt⟩
  have hx : 0 ≤ x := (Nat.cast_nonneg q).trans hle
  match mode with
  | 1 =>
    have hdown : up = false := by simpa [upward] using hup
    simp only [integral, if_pos hx, hfloor, hdown, Bool.false_eq_true, if_false]
  | 2 =>
    have habove : up = true ↔ x ≠ q := by simpa [upward, sub_eq_zero] using hup
    simp only [integral, Int.ceil_eq_iff]
    split
    case isTrue h => exact ⟨by push_cast; linarith [lt_of_le_of_ne hle (habove.1 h).symm], by push_cast; exact hlt.le⟩
    case isFalse h => 
      have heq : x = q := not_not.1 (mt habove.2 h)
      exact ⟨by push_cast; linarith, by push_cast; exact heq.le⟩
  | 3 =>
    have hdown : up = false := by simpa [upward] using hup
    simp only [integral, hfloor, hdown, Bool.false_eq_true, if_false]
  | n + 4 =>
    simp only [integral, if_pos hx, Int.floor_eq_iff]
    simp only [upward] at hup
    split
    case isTrue h =>
      have := hup.1 h
      constructor <;> push_cast <;> linarith
    case isFalse h =>
      have := not_le.1 (mt hup.2 h)
      constructor <;> push_cast <;> linarith

theorem signedMag_emod_two (s : Bool) (m : Nat) : signedMag s m % 2 = 0 ↔ m % 2 = 0 := by cases s <;> simp [signedMag] <;> omega

theorem onMagnitude_ne_zero (h : mode ≠ 0) (neg : Bool) : onMagnitude mode neg ≠ 0 := by
  cases neg
  case false => exact h
  case true =>
    match mode with
    | 1 => decide
    | 2 => decide
    | 3 => decide
    | n + 4 => exact Nat.succ_ne_zero _

theorem cast_signedMag_up (s up : Bool) (q : Nat) :
    ((signedMag s (if up then q + 1 else q) : Int) : ℚ) = withSign s (if up then (q : ℚ) + 1 else q) := by
  rw [cast_signedMag]
  cases up <;> simp

theorem integral_of_neighbours (h : Neighbours mode neg q up exact (q : ℚ) x (q + 1)) :
    integral mode (withSign neg x) = signedMag neg (if up then q + 1 else q) := by
  have hle := h.le
  have hlt := h.lt
  by_cases hmode : mode = 0
  · subst hmode
    apply integral_nearest
    have hup := h.up_iff
    have hdist : withSign neg x - withSign neg (if up then (q : ℚ) + 1 else q) = withSign neg (x - if up then (q : ℚ) + 1 else q) := by
      cases neg <;> simp; ring
    rw [cast_signedMag_up, hdist, abs_withSign, signedMag_emod_two]
    simp only [upward] at hup
    cases up
    · rw [if_neg (by decide), if_neg (by decide), abs_of_nonneg (by linarith)]
      grind
    · rw [if_pos rfl, if_pos rfl, abs_of_neg (by linarith)]
      grind
  · have hmag := integral_of_between hle hlt (h.up_iff.trans upward_onMagnitude) (onMagnitude_ne_zero hmode neg)
    cases neg
    · exact hmag.trans (by cases up <;> simp [signedMag])
    · rw [withSign_true, integral_neg ((Nat.cast_nonneg q).trans hle) hmode]
      exact (congrArg _ hmag).trans (by cases up <;> simp [signedMag])

/-- A finite value rounded to an integer: the neighbours of its magnitude. -/
theorem roundToInt_spec (mode : Nat) (s : Bool) (m : Nat) (e : Int) : ∃ q up exact,
    Neighbours mode s q up exact (q : ℚ) ((m : ℚ) * (2 : ℚ) ^ e) (q + 1) ∧ roundToInt mode s m e = (signedMag s (if up then q + 1 else q), exact) := by
  by_cases he : 0 ≤ e
  · obtain ⟨k, rfl⟩ := Int.eq_ofNat_of_zero_le he
    refine ⟨m * 2 ^ k, false, true, ?_, ?_⟩
    · have hx : (m : ℚ) * 2 ^ (k : Int) = (m * 2 ^ k : Nat) := by push_cast; rfl
      rw [hx]
      refine ⟨le_rfl, lt_add_one _, by simp, ?_⟩
      rw [sub_self, add_sub_cancel_left]
      exact iff_of_false (by decide) (not_upward_exact mode s _ one_pos)
    · rw [roundToInt, if_pos he, Int.toNat_natCast, if_neg (by decide)]
  · obtain ⟨k, hk⟩ := Int.eq_ofNat_of_zero_le (show 0 ≤ -e by omega)
    obtain rfl : e = -(k : Int) := by omega
    have hnear := (standsFor_exact (K := ℚ) (m := m) (e := -(k : Int)) rfl 0).neighbours (k := k) mode s (.inl rfl)
    rw [neg_add_cancel, zpow_zero, mul_one, mul_one] at hnear
    refine ⟨_, _, _, hnear, ?_⟩
    rw [roundToInt, if_neg he, neg_neg, Int.toNat_natCast]

/-- A conversion to a word limits the integer, and tells whether it did, or was not exact (R398). -/
theorem toInteger_fin {s : Bool} (hx : x = signedMag s m * (2 : ℚ) ^ e) :
    toInteger mode u (.fin s m e) =
      ((BitVec.ofInt 48 (max (if u then 0 else -(2 ^ 47)) (min (if u then 2 ^ 48 - 1 else 2 ^ 47 - 1) (integral mode x)))).toNat,
        if integral mode x < (if u then 0 else -(2 ^ 47)) ∨ (if u then 2 ^ 48 - 1 else 2 ^ 47 - 1) < integral mode x then 16
        else if (integral mode x : ℚ) = x then 0 else 1) := by
  obtain ⟨q, up, exact, hnear, hround⟩ := roundToInt_spec mode s m e
  have hxs : x = withSign s ((m : ℚ) * 2 ^ e) := by rw [hx, cast_signedMag, withSign_mul]
  have hint := integral_of_neighbours hnear
  rw [← hxs] at hint
  have hexact : exact = true ↔ (integral mode x : ℚ) = x := by
    rw [hnear.exact_iff_chosen, hint, hxs, cast_signedMag, withSign_injective]
    cases up <;> simp
  have hword : ∀ j : Int, ofInt 48 j = (BitVec.ofInt 48 j).toNat := fun j => (BitVec.toNat_ofInt j).symm
  have hlohi : (if u then (0 : Int) else -(2 ^ 47)) ≤ if u then 2 ^ 48 - 1 else 2 ^ 47 - 1 := by cases u <;> decide
  simp only [toInteger, hround, ← hint, hword]
  generalize (if u then (0 : Int) else -(2 ^ 47)) = lo at *
  generalize (if u then (2 ^ 48 - 1 : Int) else 2 ^ 47 - 1) = hi at *
  generalize integral mode x = i at *
  by_cases hhi : hi < i
  · rw [if_pos hhi, if_pos (.inr hhi), min_eq_left hhi.le, max_eq_right hlohi]
    rfl
  · rw [if_neg hhi, min_eq_right (not_lt.1 hhi)]
    by_cases hlo : i < lo
    · rw [if_pos hlo, if_pos (.inl hlo), max_eq_left hlo.le]
      rfl
    · rw [if_neg hlo, if_neg (not_or.2 ⟨hlo, hhi⟩), max_eq_right (not_lt.1 hlo)]
      exact congrArg _ (if_congr hexact rfl rfl)

end

theorem fmtOf_ok (p : Bool) : 0 < (fmtOf p).frac ∧ 2 ≤ (fmtOf p).expo := by cases p <;> decide

theorem fpResultsAreCorrectlyRounded : Claims.FpResultsAreCorrectlyRounded := by
  intro p u mode a b d n _ t o v x plain
  obtain ⟨hf, he⟩ := fmtOf_ok p
  refine ⟨Fmt.correct_ofInteger hf n, fun ⟨hafin, hanorm⟩ => ?_⟩
  obtain ⟨sa, ma, ea, hda, hva⟩ := Fmt.decode_of_finite hafin
  refine ⟨?convert, ?sqrt, ?word, fun ⟨hbfin, _⟩ => ?two⟩
  case convert =>
    simp only [v, hda]
    exact Fmt.correct_convert (fmtOf_ok !p).1 hva
  case sqrt =>
    intro hpos
    obtain ⟨hsub, hfin, hg, hflags, hserves⟩ := Fmt.sqrt_rounds (mode := mode) hf he hafin hanorm hpos
    exact ⟨hsub, hfin, hg, hflags, fun y _ hy => servesRoot_of_serves hpos hg hy (hserves y)⟩
  case word =>
    simp only [v, hda]
    exact toInteger_fin hva
  case two =>
    obtain ⟨sb, mb, eb, hdb, hvb⟩ := Fmt.decode_of_finite hbfin
    simp only [v, hda, hdb]
    refine ⟨Fmt.correct_add hf hva hvb, Fmt.correct_sub hf hva hvb, Fmt.correct_mul hf hva hvb, fun hb0 => Fmt.correct_div hf hva hvb hb0,
      fun ⟨hdfin, _⟩ => ?_⟩
    obtain ⟨sd, md, ed, hdd, hvd⟩ := Fmt.decode_of_finite hdfin
    simp only [hdd]
    have hfma := fun np nc ng => Fmt.correct_fma (mode := mode) hf np nc ng hva hvb hvd
    exact ⟨hfma false false false, by rw [sub_eq_add_neg]; exact hfma false true false, hfma false false true, hfma true false false⟩

end Sys2Proof.Machine
end

section
/-! NaNs and invalid operations (R403, R417 to R419). -/
namespace Sys2Proof.Machine

section
variable {f : Fmt} {b : Nat}

/-! ### What an encoding reads as -/

/-- The three kinds of encodings, with what each reads as. -/
inductive Fmt.Reads (f : Fmt) (b : Nat) : FVal → Prop
  | nan (hnan : f.isNan b = true) : f.Reads b (.nan (f.sign b) (f.fracField b))
  | inf (hnan : f.isNan b = false) (hinf : f.isInf b = true) (hzero : f.isZero b = false) : f.Reads b (.inf (f.sign b))
  | fin (m : Nat) (d : Int) (hnan : f.isNan b = false) (hinf : f.isInf b = false) (hzero : f.isZero b = true ↔ m = 0) (hfin : f.expField b < f.maxExp) :
    f.Reads b (.fin (f.sign b) m d)

theorem Fmt.reads (he : 0 < f.expo) (b : Nat) : f.Reads b (f.decode b) := by
  have hmax : 0 < f.maxExp := by rw [f.maxExp_eq he]; omega
  have hexp := f.expField_le b
  by_cases htop : f.expField b = f.maxExp
  · have hdecode : f.decode b = if f.fracField b = 0 then .inf (f.sign b) else .nan (f.sign b) (f.fracField b) := if_pos htop
    rw [hdecode]
    split
    case isTrue h0 => exact .inf (by simp [Fmt.isNan, h0]) (by simp [Fmt.isInf, htop, h0]) (by simp [Fmt.isZero, htop, hmax.ne'])
    case isFalse h0 => exact .nan (by simp [Fmt.isNan, htop, h0])
  · rw [Fmt.decode_finite (lt_of_le_of_ne hexp htop)]
    refine .fin _ _ (by simp [Fmt.isNan, htop]) (by simp [Fmt.isInf, htop]) ?_ (lt_of_le_of_ne hexp htop)
    rw [Fmt.significand, Fmt.isZero]
    split
    case isTrue h0 => simp [h0]
    case isFalse h0 => simp [h0]

/-- A NaN with its quiet bit set is its encoding with that bit set. -/
theorem Fmt.quiet_eq (hf : 0 < f.frac) (hb : b < 2 ^ f.width) (hnan : f.isNan b = true) :
    f.quiet (f.sign b) (f.fracField b) = b ||| 2 ^ (f.frac - 1) := by
  have hexp : f.expField b = f.maxExp := by
    rw [Fmt.isNan, Bool.and_eq_true, beq_iff_eq] at hnan
    exact hnan.1
  have hlt : 2 ^ (f.frac - 1) < 2 ^ f.frac := Nat.pow_lt_pow_right (by decide) (by omega)
  have hm := f.fracField_lt b
  obtain ⟨n, hn⟩ : ∃ n, b = 2 ^ f.frac * n + f.fracField b := ⟨b / 2 ^ f.frac, (Nat.div_add_mod b _).symm⟩
  have hpack : ∀ m < 2 ^ f.frac, f.pack (f.sign b) f.maxExp m = 2 ^ f.frac * n + m := fun m _ => by
    have hb' := f.pack_fields hb
    rw [hexp, Fmt.pack_eq] at hb'
    rw [Fmt.pack_eq]
    omega
  rw [Fmt.quiet, hpack _ (Nat.or_lt_two_pow hm hlt)]
  conv_rhs => rw [hn]
  rw [Nat.two_pow_add_eq_or_of_lt hm, Nat.two_pow_add_eq_or_of_lt (Nat.or_lt_two_pow hm hlt), Nat.or_assoc]

theorem Fmt.signalling_eq (hf : 0 < f.frac) (hnan : f.isNan b = true) : f.signalling (f.fracField b) = f.isSignalling b := by
  rw [Fmt.isSignalling, hnan, Bool.true_and, Fmt.signalling, Fmt.fracField, Nat.testBit_mod_two_pow, decide_eq_true (by omega), Bool.true_and]

/-- The first NaN of the inputs, and whether any is signalling (R417). -/
theorem Fmt.nanOf_map_decode (hf : 0 < f.frac) (he : 0 < f.expo) (l : List Nat) (hl : ∀ b ∈ l, b < 2 ^ f.width) :
    f.nanOf (l.map f.decode) = ((l.find? f.isNan).map (· ||| 2 ^ (f.frac - 1)), l.any f.isSignalling) := by
  induction l with
  | nil => rfl
  | cons b l ih =>
    have ih := ih fun c hc => hl c (List.mem_cons_of_mem b hc)
    have hreads := f.reads he b
    rw [List.map_cons, List.find?_cons, List.any_cons]
    generalize hdecode : f.decode b = v at hreads
    cases hreads with
    | nan hnan => rw [Fmt.nanOf, ih, hnan, f.quiet_eq hf (hl b List.mem_cons_self) hnan, f.signalling_eq hf hnan]; rfl
    | inf hnan _ _ =>
      rw [hnan, Fmt.isSignalling, hnan, Bool.false_and, Bool.false_or, ← ih]
      rfl
    | fin m d hnan _ _ _ =>
      rw [hnan, Fmt.isSignalling, hnan, Bool.false_and, Bool.false_or, ← ih]
      rfl

/-- With a NaN among its inputs, an operation's result is the first of them, quieted. -/
theorem Fmt.withNans_of_find (hf : 0 < f.frac) (he : 0 < f.expo) {l : List Nat} (hl : ∀ b ∈ l, b < 2 ^ f.width) (hb : l.find? f.isNan = some b)
    (r : FRes) : f.withNans (l.map f.decode) r = ⟨b ||| 2 ^ (f.frac - 1), if l.any f.isSignalling then 16 else 0, false⟩ := by
  rw [Fmt.withNans, f.nanOf_map_decode hf he l hl, hb]
  rfl

/-- Without one, it is the operation's own. -/
theorem Fmt.withNans_of_none (hf : 0 < f.frac) (he : 0 < f.expo) {l : List Nat} (hl : ∀ b ∈ l, b < 2 ^ f.width) (hn : l.find? f.isNan = none)
    (r : FRes) : f.withNans (l.map f.decode) r = r := by
  rw [Fmt.withNans, f.nanOf_map_decode hf he l hl, hn]
  rfl

end
end Sys2Proof.Machine
end

section
/-! The statement on NaNs and invalid operations (R403, R417 to R419). -/
namespace Sys2Proof.Machine

section
variable {f : Fmt} {mode a b d : Nat} {np nc ng : Bool}

theorem find_isNan_pair (h : f.isNan a = true ∨ f.isNan b = true) : [a, b].find? f.isNan = some (if f.isNan a then a else b) := by
  cases ha : f.isNan a
  · rw [ha] at h
    simp [ha, h.resolve_left (by decide)]
  · simp [ha]

theorem find_isNan_triple (h : f.isNan a = true ∨ f.isNan b = true ∨ f.isNan d = true) :
    [a, b, d].find? f.isNan = some (if f.isNan a then a else if f.isNan b then b else d) := by
  cases ha : f.isNan a
  · rw [ha] at h
    simpa [ha] using find_isNan_pair (h.resolve_left (by decide))
  · simp [ha]

/-! ### Encodings of one kind -/

theorem Fmt.isNan_of_isInf (h : f.isInf b = true) : f.isNan b = false := by
  rw [Fmt.isInf, Bool.and_eq_true, beq_iff_eq, beq_iff_eq] at h
  simp [Fmt.isNan, h.2]

theorem Fmt.isNan_of_isZero (h : f.isZero b = true) : f.isNan b = false := by
  rw [Fmt.isZero, Bool.and_eq_true, beq_iff_eq, beq_iff_eq] at h
  simp [Fmt.isNan, h.2]

theorem Fmt.decode_of_isInf (he : 0 < f.expo) (h : f.isInf b = true) : f.decode b = .inf (f.sign b) := by
  have hreads := f.reads he b
  generalize f.decode b = v at hreads
  cases hreads with
  | nan hnan => exact absurd (hnan.symm.trans (Fmt.isNan_of_isInf h)) (by decide)
  | inf => rfl
  | fin m d _ hinf => exact absurd (h.symm.trans hinf) (by decide)

theorem Fmt.decode_of_isZero (he : 0 < f.expo) (h : f.isZero b = true) : ∃ d, f.decode b = .fin (f.sign b) 0 d := by
  have hreads := f.reads he b
  generalize f.decode b = v at hreads
  cases hreads with
  | nan hnan => exact absurd (hnan.symm.trans (Fmt.isNan_of_isZero h)) (by decide)
  | inf _ _ hzero => exact absurd (h.symm.trans hzero) (by decide)
  | fin m d _ _ hzero =>
    obtain rfl := hzero.1 h
    exact ⟨d, rfl⟩

/-- A product of zero and an infinity has no value (R418). -/
def Fmt.mixed (f : Fmt) (a b : Nat) : Prop := (f.isZero a = true ∧ f.isInf b = true) ∨ (f.isInf a = true ∧ f.isZero b = true)

theorem Fmt.mulVal_of_mixed (he : 0 < f.expo) (h : f.mixed a b) : mulVal (f.decode a) (f.decode b) = none := by
  rcases h with ⟨hz, hi⟩ | ⟨hi, hz⟩
  all_goals
    obtain ⟨k, hk⟩ := Fmt.decode_of_isZero he hz
    rw [hk, Fmt.decode_of_isInf he hi]
    rfl

theorem Fmt.isNan_of_mixed (h : f.mixed a b) : f.isNan a = false ∧ f.isNan b = false := by
  rcases h with ⟨hz, hi⟩ | ⟨hi, hz⟩
  · exact ⟨Fmt.isNan_of_isZero hz, Fmt.isNan_of_isInf hi⟩
  · exact ⟨Fmt.isNan_of_isInf hi, Fmt.isNan_of_isZero hz⟩

theorem Fmt.mulVal_of_not_mixed (he : 0 < f.expo) (ha : f.isNan a = false) (hb : f.isNan b = false) (h : ¬ f.mixed a b) :
    ∃ w, mulVal (f.decode a) (f.decode b) = some w := by
  have hra := f.reads he a
  have hrb := f.reads he b
  generalize f.decode a = v at *
  generalize f.decode b = w at *
  cases hra with
  | nan hnan => exact absurd (hnan.symm.trans ha) (by decide)
  | inf _ hia hza =>
    cases hrb with
    | nan hnan => exact absurd (hnan.symm.trans hb) (by decide)
    | inf => exact ⟨_, rfl⟩
    | fin n _ _ _ hzb => exact ⟨_, if_neg fun h0 => h (.inr ⟨hia, hzb.2 h0⟩)⟩
  | fin m _ _ _ hza =>
    cases hrb with
    | nan hnan => exact absurd (hnan.symm.trans hb) (by decide)
    | inf _ hib _ => exact ⟨_, if_neg fun h0 => h (.inl ⟨hza.2 h0, hib⟩)⟩
    | fin => exact ⟨_, rfl⟩

/-! ### The FMA forms (R417, R419) -/

/-- With a NaN among the factors, or one as the addend of a product that has a value, the first NaN. -/
theorem Fmt.fma_eq_withNans (hf : 0 < f.frac) (he : 0 < f.expo) (hl : ∀ x ∈ [a, b], x < 2 ^ f.width)
    (h : f.isNan a = true ∨ f.isNan b = true ∨ ¬ f.mixed a b) :
    ∃ r, f.fma mode np nc ng (f.decode a) (f.decode b) (f.decode d) = f.withNans ([a, b, d].map f.decode) r := by
  have hnan := f.nanOf_map_decode hf he [a, b] hl
  rw [List.map_cons, List.map_cons, List.map_nil] at hnan
  unfold Fmt.fma
  by_cases hab : f.isNan a = true ∨ f.isNan b = true
  · rw [hnan, find_isNan_pair hab]
    exact ⟨_, rfl⟩
  · rw [not_or, Bool.not_eq_true, Bool.not_eq_true] at hab
    obtain ⟨w, hw⟩ := Fmt.mulVal_of_not_mixed he hab.1 hab.2 (by simpa [hab.1, hab.2] using h)
    rw [hnan, hw, List.find?_cons, hab.1, List.find?_cons, hab.2]
    exact ⟨_, rfl⟩

/-- A product without a value: what the addend gives. -/
theorem Fmt.fma_of_mixed (hf : 0 < f.frac) (he : 0 < f.expo) (hl : ∀ x ∈ [a, b], x < 2 ^ f.width) (h : f.mixed a b) (c : FVal) :
    f.fma mode np nc ng (f.decode a) (f.decode b) c =
      match c with
      | .nan s m => ⟨f.quiet s m, if f.signalling m then fNV else 0, false⟩
      | _ => f.invalid := by
  obtain ⟨ha, hb⟩ := Fmt.isNan_of_mixed h
  have hnan := f.nanOf_map_decode hf he [a, b] hl
  rw [List.map_cons, List.map_cons, List.map_nil, List.find?_cons, ha, List.find?_cons, hb] at hnan
  unfold Fmt.fma
  rw [hnan, Fmt.mulVal_of_mixed he h]
  rfl

/-- A quiet NaN is its own quieted form. -/
theorem or_quietBit (hnan : f.isNan b = true) (hq : f.isSignalling b ≠ true) : b ||| 2 ^ (f.frac - 1) = b := by
  have hbit : b.testBit (f.frac - 1) = true := by simpa [Fmt.isSignalling, hnan] using hq
  apply Nat.eq_of_testBit_eq
  intro i
  rw [Nat.testBit_or, Nat.testBit_two_pow]
  by_cases hi : f.frac - 1 = i
  · simp [← hi, hbit]
  · simp [hi]

end

theorem Fmt.invalid_fmtOf (p : Bool) : (fmtOf p).invalid = ⟨if p then 0x7FC00000 else 0x7FF8000000000000, 16, false⟩ := by cases p <;> decide

theorem fpNansAndInvalidOperations : Claims.FpNansAndInvalidOperations := by
  intro p mode a b d _ t v nan sig quiet nv mixed ha hb hd
  obtain ⟨hf, he2⟩ := fmtOf_ok p
  have he : 0 < (fmtOf p).expo := by omega
  have hnv : t.invalid = nv := Fmt.invalid_fmtOf p
  have hone : ∀ x ∈ [a], x < 2 ^ t.width := by simpa using ha
  have htwo : ∀ x ∈ [a, b], x < 2 ^ t.width := by simpa using ⟨ha, hb⟩
  have hthree : ∀ x ∈ [a, b, d], x < 2 ^ t.width := by simpa using ⟨ha, hb, hd⟩
  -- An operation of two operands of which none is a NaN.
  have hpair : t.isNan a = false → t.isNan b = false → ∀ r, t.withNans [v a, v b] r = r := fun hna hnb r =>
    Fmt.withNans_of_none hf he htwo (by rw [List.find?_cons, hna, List.find?_cons, hnb]; rfl) r
  have hinf : ∀ {y}, t.isInf y = true → v y = .inf (t.sign y) := Fmt.decode_of_isInf he
  refine ⟨fun op hop hnan => ?nan, fun hnan => ?sqrtNan, fun np nc ng => ⟨fun hnan => ?fmaNan, fun hm hd => ?fmaInvalid, fun hm hnd hq => ?fmaQuiet⟩,
    fun hia hib => ⟨?divInf, fun hs => ?addInf, fun hs => ?subInf⟩, fun hm => ?mul, fun hza hzb => ?divZero, fun hnan hz hs => ?sqrtNeg,
    fun hfin hza hzb => ?byZero⟩
  case nan =>
    have hresult := Fmt.withNans_of_find hf he htwo (find_isNan_pair hnan)
    rw [List.any_cons, List.any_cons, List.any_nil, Bool.or_false] at hresult
    simp only [List.mem_cons, List.not_mem_nil, or_false] at hop
    rcases hop with rfl | rfl | rfl | rfl <;> exact hresult _
  case sqrtNan =>
    have hresult := Fmt.withNans_of_find hf he hone (b := a) (by rw [List.find?_cons, show t.isNan a = true from hnan]) (t.sqrtVal mode (v a))
    rwa [List.any_cons, List.any_nil, Bool.or_false] at hresult
  case fmaNan =>
    obtain ⟨r, hr⟩ := Fmt.fma_eq_withNans (mode := mode) (np := np) (nc := nc) (ng := ng) (d := d) hf he htwo
      (hnan.imp_right fun h => h.imp_right And.right)
    have hresult := Fmt.withNans_of_find hf he hthree (find_isNan_triple (hnan.imp_right fun h => h.imp_right And.left)) r
    rw [List.any_cons, List.any_cons, List.any_cons, List.any_nil, Bool.or_false, ← Bool.or_assoc] at hresult
    exact hr.trans hresult
  case fmaInvalid =>
    rw [Fmt.fma_of_mixed hf he htwo hm, ← hnv]
    have hreads := t.reads he d
    generalize hdecode : v d = w
    rw [show t.decode d = w from hdecode] at hreads
    cases hreads with
    | nan hnan => exact absurd hnan hd
    | inf => rfl
    | fin => rfl
  case fmaQuiet =>
    rw [Fmt.fma_of_mixed hf he htwo hm]
    have hreads := t.reads he d
    generalize hdecode : v d = w
    rw [show t.decode d = w from hdecode] at hreads
    cases hreads with
    | nan hnan =>
      show (⟨t.quiet _ _, if t.signalling _ then fNV else 0, false⟩ : FRes) = _
      rw [Fmt.quiet_eq hf hd hnan, Fmt.signalling_eq hf hnan, or_quietBit hnan hq, if_neg hq]
    | inf h => exact absurd (hnd.symm.trans h) (by decide)
    | fin _ _ h => exact absurd (hnd.symm.trans h) (by decide)
  case divInf =>
    rw [← hnv, Fmt.div, hpair (Fmt.isNan_of_isInf hia) (Fmt.isNan_of_isInf hib), hinf hia, hinf hib]
    rfl
  case addInf =>
    rw [← hnv, Fmt.add, hpair (Fmt.isNan_of_isInf hia) (Fmt.isNan_of_isInf hib), hinf hia, hinf hib]
    exact if_neg hs
  case subInf =>
    rw [← hnv, Fmt.sub, hpair (Fmt.isNan_of_isInf hia) (Fmt.isNan_of_isInf hib), hinf hia, hinf hib]
    exact if_neg (by rw [show t.sign a = t.sign b from hs]; cases t.sign b <;> decide)
  case mul =>
    obtain ⟨hna, hnb⟩ := Fmt.isNan_of_mixed hm
    rw [← hnv, Fmt.mul, hpair hna hnb]
    show (match mulVal (t.decode a) (t.decode b) with | some v => t.roundVal mode v | none => t.invalid) = _
    rw [Fmt.mulVal_of_mixed he hm]
  case divZero =>
    obtain ⟨ka, hda⟩ := Fmt.decode_of_isZero he hza
    obtain ⟨kb, hdb⟩ := Fmt.decode_of_isZero he hzb
    rw [← hnv, Fmt.div, hpair (Fmt.isNan_of_isZero hza) (Fmt.isNan_of_isZero hzb), show v a = _ from hda, show v b = _ from hdb]
    rfl
  case sqrtNeg =>
    have hnan' : t.isNan a = false := Bool.eq_false_iff.2 hnan
    have hself : t.withNans [v a] (t.sqrtVal mode (v a)) = t.sqrtVal mode (v a) :=
      Fmt.withNans_of_none hf he hone (by rw [List.find?_cons, hnan']; rfl) _
    rw [← hnv, Fmt.sqrt, hself]
    have hreads := t.reads he a
    generalize hdecode : v a = w
    rw [show t.decode a = w from hdecode] at hreads
    cases hreads with
    | nan h => exact absurd h hnan
    | inf => exact if_pos hs
    | fin m k _ _ hzero => exact (if_neg fun h0 => absurd (hz.symm.trans (hzero.2 h0)) (by decide)).trans (if_pos hs)
  case byZero =>
    obtain ⟨kb, hdb⟩ := Fmt.decode_of_isZero he hzb
    have hda := Fmt.decode_finite hfin.2
    have hreads := t.reads he a
    rw [hda] at hreads
    cases hreads with
    | fin _ _ hna _ hzero =>
      rw [Fmt.div, hpair hna (Fmt.isNan_of_isZero hzb), show v a = _ from hda, show v b = _ from hdb]
      show (if t.significand a = 0 then t.invalid else ⟨t.infinity (t.sign a != t.sign b), fDZ, false⟩) = _
      exact if_neg fun h0 => absurd (hza.symm.trans (hzero.2 h0)) (by decide)

end Sys2Proof.Machine
end

section
/-! Floating-point status: the flags an instruction raises, the trap they make pending, and the end of an instruction that raises them (R402 to R407). -/
namespace Sys2Proof.Machine

/-! ### Fields of FCSW -/

/-- FCSW with a field set, bit by bit. -/
theorem Core.getLsbD_setFcsw (q : Core) {hi : Nat} (lo x i : Nat) (h : hi < 48) :
    (q.setFcsw hi lo x).fcsw.getLsbD i = if lo ≤ i ∧ i < lo + (hi + 1 - lo) then x.testBit (i - lo) else q.fcsw.getLsbD i :=
  getLsbD_cswSet q.fcsw hi lo x i h

/-- Setting a bit of FCSW. -/
theorem Core.fcsw_setFcsw_one (q : Core) {i : Nat} (hi : i < 48) : (q.setFcsw i i 1).fcsw = q.fcsw ||| BitVec.twoPow 48 i := by
  apply BitVec.eq_of_getLsbD_eq
  intro j hj
  rw [q.getLsbD_setFcsw i 1 j hi, BitVec.getLsbD_or, BitVec.getLsbD_twoPow]
  by_cases h : i = j
  · subst h
    simp [hi]
  · rw [if_neg (by omega)]
    simp [h]

theorem Core.setFcsw_one (q : Core) {i : Nat} (hi : i < 48) : q.setFcsw i i 1 = { q with fcsw := q.fcsw ||| BitVec.twoPow 48 i } := by
  rw [← q.fcsw_setFcsw_one hi, Core.setFcsw]

/-- Clearing one. -/
theorem Core.fcsw_setFcsw_zero (q : Core) {i : Nat} (hi : i < 48) : (q.setFcsw i i 0).fcsw = q.fcsw &&& ~~~BitVec.twoPow 48 i := by
  apply BitVec.eq_of_getLsbD_eq
  intro j hj
  rw [q.getLsbD_setFcsw i 0 j hi, BitVec.getLsbD_and, BitVec.getLsbD_not, BitVec.getLsbD_twoPow]
  by_cases h : i = j
  · subst h
    simp [hi]
  · rw [if_neg (by omega)]
    simp [h, hj]

theorem Core.setFcsw_zero (q : Core) {i : Nat} (hi : i < 48) : q.setFcsw i i 0 = { q with fcsw := q.fcsw &&& ~~~BitVec.twoPow 48 i } := by
  rw [← q.fcsw_setFcsw_zero hi, Core.setFcsw]

/-- The flags fill bits [4:0]. -/
theorem testBit_flags {fl i : Nat} (hfl : fl < 32) (h : fl.testBit i = true) : i < 5 := by
  by_contra hi
  rw [Nat.testBit_lt_two_pow (lt_of_lt_of_le hfl (Nat.pow_le_pow_right (n := 2) (i := 5) (by decide) (by omega)))] at h
  exact absurd h (by decide)

/-- The sticky flags take in the flags raised. -/
theorem Core.fcsw_setFcsw_flags (q : Core) {fl : Nat} (hfl : fl < 32) : (q.setFcsw 4 0 (q.fcsw.toNat % 32 ||| fl)).fcsw = q.fcsw ||| BitVec.ofNat 48 fl := by
  apply BitVec.eq_of_getLsbD_eq
  intro i hi
  rw [q.getLsbD_setFcsw 0 _ i (by decide), BitVec.getLsbD_or, BitVec.getLsbD_ofNat, Nat.testBit_or, show (32 : Nat) = 2 ^ 5 by rfl, Nat.testBit_mod_two_pow]
  by_cases h : i < 5
  · rw [if_pos (by omega)]
    simp [h, hi, BitVec.getLsbD]
  · have hbit : fl.testBit i = false := Bool.eq_false_iff.2 fun h' => h (testBit_flags hfl h')
    rw [if_neg (by omega)]
    simp [hbit]

/-- Flags and TPEND are wired. -/
theorem getLsbD_fcswBits_status : ∀ i < 48, i < 5 ∨ i = 21 → fcswBits.getLsbD i = true := by decide

/-- The bits of FCSW beside flags and TPEND. -/
theorem getLsbD_status : ∀ i < 48, (0x20001F#48).getLsbD i = decide (i < 5 ∨ i = 21) := by decide

/-! ### Flags raised -/

section
variable (q : Core) (op : Nat) {fl : Nat}

/-- The raised flags whose traps are enabled. -/
def Core.trapped (q : Core) (fl : Nat) : Nat := fl &&& bitsOf q.fcsw.toNat 12 8

/-- r is q but for FCSW, FTA and what goes with them. -/
def Core.StatusOnly (q r : Core) : Prop := ∃ x y a n, r = { q with fcsw := x, fta := y, ftaOp := a, fpNew := n }

theorem Core.statusOnly_setFcsw (hi lo x : Nat) : q.StatusOnly (q.setFcsw hi lo x) := ⟨_, _, _, _, rfl⟩

theorem Core.raiseFlags_eq (fl : Nat) : q.raiseFlags op fl =
    let r := q.setFcsw 4 0 (q.fcsw.toNat % 32 ||| fl)
    if q.trapped fl = 0 then r
    else if q.tpend then { r with fta := q.fta ||| 2#48, fpNew := q.fpNew ||| q.trapped fl }
    else { r.setFcsw 21 21 1 with fta := (q.pc &&& pcBits) ||| 1#48, ftaOp := op, fpNew := q.trapped fl } := rfl

theorem Core.statusOnly_raiseFlags (fl : Nat) : q.StatusOnly (q.raiseFlags op fl) := by
  rw [Core.raiseFlags_eq]
  dsimp only
  generalize hr : q.setFcsw 4 0 (q.fcsw.toNat % 32 ||| fl) = r
  have hst : q.StatusOnly r := hr ▸ q.statusOnly_setFcsw 4 0 _
  split
  · exact hst
  · split
    · obtain ⟨x, y, a, n, rfl⟩ := hst
      exact ⟨_, _, _, _, rfl⟩
    · obtain ⟨x, y, a, n, rfl⟩ := hst
      obtain ⟨x', y', a', n', h⟩ := Core.statusOnly_setFcsw { q with fcsw := x, fta := y, ftaOp := a, fpNew := n } 21 21 1
      rw [h]
      exact ⟨_, _, _, _, rfl⟩

/-- FCSW after flags are raised, bit by bit: the flags, and TPEND when one of them traps. -/
theorem Core.getLsbD_raiseFlags (hfl : fl < 32) {i : Nat} (hi : i < 48) :
    (q.raiseFlags op fl).fcsw.getLsbD i = (q.fcsw.getLsbD i || fl.testBit i || (decide (i = 21) && q.trapped fl != 0)) := by
  have hflags : (q.setFcsw 4 0 (q.fcsw.toNat % 32 ||| fl)).fcsw.getLsbD i = (q.fcsw.getLsbD i || fl.testBit i) := by
    rw [q.fcsw_setFcsw_flags hfl, BitVec.getLsbD_or, BitVec.getLsbD_ofNat, decide_eq_true hi, Bool.true_and]
  rw [Core.raiseFlags_eq]
  dsimp only
  split
  case isTrue hz => rw [hflags, hz]; simp
  case isFalse hz =>
    split
    case isTrue ht =>
      rw [hflags]
      by_cases h : i = 21
      · subst h
        rw [show q.fcsw.getLsbD 21 = true from ht]
        rfl
      · simp [h]
    case isFalse ht =>
      rw [Core.fcsw_setFcsw_one _ (by decide), BitVec.getLsbD_or, hflags, BitVec.getLsbD_twoPow]
      simp only [bne_iff_ne.2 hz, eq_comm, show (21 : Nat) < 48 by decide, decide_true, Bool.true_and, Bool.and_true]

theorem Core.fta_raiseFlags (fl : Nat) : (q.raiseFlags op fl).fta
    = if q.trapped fl = 0 then q.fta else if q.tpend then q.fta ||| 2#48 else (q.pc &&& pcBits) ||| 1#48 := by
  rw [Core.raiseFlags_eq]
  dsimp only
  split
  · rfl
  · split <;> rfl

theorem Core.fpNew_raiseFlags (fl : Nat) : (q.raiseFlags op fl).fpNew
    = if q.trapped fl = 0 then q.fpNew else if q.tpend then q.fpNew ||| q.trapped fl else q.trapped fl := by
  rw [Core.raiseFlags_eq]
  dsimp only
  split
  · rfl
  · split <;> rfl

end

/-! ### The end of an instruction that may change the status -/

section
variable {s : State} {c : CoreId} {op : Nat} {body : State → State × IRes} {f : Core → Core} {g : Core} {w fl : List RegNo} {m : Word}

/-- An instruction completes that changes its core as `g` does, and the status beside. -/
theorem fpFrame_run (hr : s.ready c = true) (hw : s.wired = true) (hg : gateKeep s c op = none) (hk : (s.core c).Kept g w fl [] m)
    (hst : g.StatusOnly (f (s.core c))) (hb : body s = (s.updCore c f, .next)) :
    FpFrame s (s.updCore c fun q => (f q).retire q.hold.isSome (q.pc + 4#48)).settle (finish (run s c op body)) c w fl m := by
  obtain ⟨hkw, hkf, hkd, hkc, -, hks⟩ := hk
  have hrest := othersKept_updCore (c := c) hw fun q => (f q).retire q.hold.isSome (q.pc + 4#48)
  obtain ⟨x, y, a, n', hst⟩ := hst
  refine ⟨congrArg finish (runBody_next hr hg f body hb), advanced_end hw f _, ⟨fun n hn => ?_, fun h k hne => ?_⟩,
    fun n hn => ?_, fun n hn => ?_, ⟨?_, ?_⟩, ?_, hrest.2, hrest.1⟩
  · rw [rd_settle, State.core_updCore, if_pos rfl, Core.rd_retire, hst]
    exact hkw.regs n hn
  · rw [spOf_settle, State.core_updCore, if_pos rfl, Core.spOf_retire, hst]
    exact hkw.pointers h k hne
  · rw [f_settle, State.core_updCore, if_pos rfl, Core.f_retire, hst]
    exact hkf n hn
  · rw [da_settle, State.core_updCore, if_pos rfl, Core.da_retire, hst]
    exact hkd n hn
  · rw [crL_settle, State.core_updCore, if_pos rfl, Core.crL_retire, hst]
    exact hkc.1
  · rw [crP_settle, State.core_updCore, if_pos rfl, Core.crP_retire, hst]
    exact hkc.2
  · refine Core.cswKept_settle (wired_csw (State.wired_core hw c)) hks ?_
    rw [csw_settle, State.core_updCore, if_pos rfl, Core.csw_retire, hst]

/-- Its status after a body that raises flags. -/
theorem raised_run {fl : Nat} (hw : s.wired = true) (hfl : fl < 32) (hfp : (s.core c).FpKept g) (hpc : g.pc = (s.core c).pc)
    (hnew : g.fpNew = (s.core c).fpNew) (hf : f (s.core c) = g.raiseFlags op fl) :
    Raised s (s.updCore c fun q => (f q).retire q.hold.isSome (q.pc + 4#48)).settle c fl := by
  have hwc := State.wired_core hw c
  obtain ⟨hfcsw, hfta⟩ := hfp
  have htrapped : g.trapped fl = fl &&& bitsOf (s.core c).fcsw.toNat 12 8 := by rw [Core.trapped, hfcsw]
  have htpend : g.tpend = (s.core c).tpend := by rw [Core.tpend, hfcsw]; rfl
  have hcore : (s.updCore c fun q => (f q).retire q.hold.isSome (q.pc + 4#48)).core c
      = (g.raiseFlags op fl).retire (s.core c).hold.isSome ((s.core c).pc + 4#48) := by rw [State.core_updCore, if_pos rfl, hf]
  have hbit : ∀ i < 48, ((s.updCore c fun q => (f q).retire q.hold.isSome (q.pc + 4#48)).settle.core c).fcsw.getLsbD i
      = ((s.core c).fcsw.getLsbD i || fl.testBit i || (decide (i = 21) && (fl &&& bitsOf (s.core c).fcsw.toNat 12 8) != 0)) := fun i hi => by
    rw [fcsw_settle, hcore, Core.fcsw_retire, BitVec.getLsbD_and, g.getLsbD_raiseFlags op hfl hi, hfcsw, htrapped]
    refine Bool.and_eq_left_iff_imp.2 fun h => ?_
    rw [Bool.or_eq_true, Bool.or_eq_true, Bool.and_eq_true, decide_eq_true_iff] at h
    rcases h with (h | h) | h
    · have hwired := congrArg (·.getLsbD i) (wired_fcsw hwc)
      simpa [h] using hwired
    · exact getLsbD_fcswBits_status i hi (.inl (testBit_flags hfl h))
    · exact getLsbD_fcswBits_status i hi (.inr h.1)
  rw [Raised]
  refine ⟨?flags, ?rest, ?pend, fun hen => ⟨?_, ?_⟩, fun hen => ⟨?_, ?_⟩⟩
  case flags =>
    apply Nat.eq_of_testBit_eq
    intro i
    rw [Nat.testBit_or, testBit_bitsOf, testBit_bitsOf]
    by_cases h : i < 5
    · have := hbit i (by omega)
      simp only [BitVec.getLsbD] at this
      simp [h, this, show i ≠ 21 by omega]
    · have hfl' : fl.testBit i = false := Bool.eq_false_iff.2 fun h' => h (testBit_flags hfl h')
      simp [h, hfl']
  case rest =>
    apply BitVec.eq_of_getLsbD_eq
    intro i hi
    rw [BitVec.getLsbD_and, BitVec.getLsbD_and, hbit i hi]
    rw [BitVec.getLsbD_not, decide_eq_true hi, Bool.true_and, getLsbD_status i hi]
    by_cases h : i < 5 ∨ i = 21
    · simp [h]
    · rw [not_or] at h
      have hfl' : fl.testBit i = false := Bool.eq_false_iff.2 fun h' => h.1 (testBit_flags hfl h')
      simp [h, hfl']
  case pend =>
    have hfl' : fl.testBit 21 = false := Bool.eq_false_iff.2 fun h => absurd (testBit_flags hfl h) (by decide)
    rw [Core.tpend, hbit 21 (by decide), hfl', Bool.or_false, decide_eq_true rfl, Bool.true_and]
    rfl
  · rw [fta_settle, hcore, Core.fta_retire, Core.fta_raiseFlags, htrapped, if_pos hen, hfta]
  · rw [fpNew_settle, hcore, Core.fpNew_retire, Core.fpNew_raiseFlags, htrapped, if_pos hen, hnew]
  · rw [fta_settle, hcore, Core.fta_retire, Core.fta_raiseFlags, htrapped, if_neg hen, htpend, hfta, hpc, (and_pcBits_iff _).2 (wired_pc hwc)]
  · rw [fpNew_settle, hcore, Core.fpNew_retire, Core.fpNew_raiseFlags, htrapped, if_neg hen, htpend, hnew]

end
end Sys2Proof.Machine
end

section
/-! The subnormal modes and the instructions that round (R395, R402 to R404, R413 to R415). -/
namespace Sys2Proof.Machine

/-! ### Every result raises flags of FCSW[4:0] -/

section
variable (f g : Fmt) (rm : Nat)

theorem lt_32_ite (p : Prop) [Decidable p] {x y : Nat} (hx : x < 32) (hy : y < 32) : (if p then x else y) < 32 := by
  split
  · exact hx
  · exact hy

theorem flags_ite (p : Prop) [Decidable p] {r r' : FRes} (hr : r.flags < 32) (hr' : r'.flags < 32) : (if p then r else r').flags < 32 := by
  split
  · exact hr
  · exact hr'

theorem flags_exactly (b : Nat) : (exactly b).flags < 32 := Nat.zero_lt_succ 31

theorem Fmt.flags_invalid : f.invalid.flags < 32 := (by decide : fNV < 32)

theorem Fmt.flags_round (neg : Bool) (m : Nat) (e : Int) : (f.round rm neg m e).flags < 32 := by
  rw [Fmt.round_eq, Fmt.store]
  exact flags_ite _ (by decide : 0 < 32) (flags_ite _ (by decide : fOF + fNX < 32) (lt_32_ite _ (by decide) (by decide)))

theorem Fmt.flags_roundInt (v e : Int) (z : Bool) : (f.roundInt rm v e z).flags < 32 :=
  flags_ite _ (by decide : 0 < 32) (f.flags_round rm _ _ _)

theorem Fmt.flags_withNans (l : List FVal) {r : FRes} (h : r.flags < 32) : (f.withNans l r).flags < 32 := by
  rw [Fmt.withNans]
  split
  · exact lt_32_ite _ (by decide) (by decide)
  · exact h

theorem Fmt.flags_addVal (ng : Bool) (a b : FVal) : (f.addVal rm ng a b).flags < 32 := by
  unfold Fmt.addVal
  split
  · exact flags_ite _ (flags_exactly _) f.flags_invalid
  · exact flags_exactly _
  · exact flags_exactly _
  · exact f.flags_roundInt _ _ _ _
  · exact f.flags_invalid

theorem Fmt.flags_roundVal (v : FVal) : (f.roundVal rm v).flags < 32 := by
  cases v with
  | nan => exact flags_exactly _
  | inf => exact flags_exactly _
  | fin => exact f.flags_roundInt _ _ _ _

theorem Fmt.flags_divVal (a b : FVal) : (f.divVal rm a b).flags < 32 := by
  unfold Fmt.divVal
  split
  · exact f.flags_invalid
  · exact flags_exactly _
  · exact flags_exactly _
  · exact flags_ite _ (flags_ite _ f.flags_invalid (by decide : fDZ < 32)) (f.flags_roundInt _ _ _ _)
  · exact f.flags_invalid

theorem Fmt.flags_sqrtVal (a : FVal) : (f.sqrtVal rm a).flags < 32 := by
  cases a with
  | nan => exact f.flags_invalid
  | inf => exact flags_ite _ f.flags_invalid (flags_exactly _)
  | fin => exact flags_ite _ (flags_exactly _) (flags_ite _ f.flags_invalid (f.flags_round _ _ _ _))

theorem Fmt.flags_add (a b : FVal) : (f.add rm a b).flags < 32 := f.flags_withNans _ (f.flags_addVal _ _ _ _)

theorem Fmt.flags_sub (a b : FVal) : (f.sub rm a b).flags < 32 := f.flags_withNans _ (f.flags_addVal _ _ _ _)

theorem Fmt.flags_mul (a b : FVal) : (f.mul rm a b).flags < 32 := by
  apply f.flags_withNans
  cases mulVal a b with
  | none => exact f.flags_invalid
  | some v => exact f.flags_roundVal _ v

theorem Fmt.flags_div (a b : FVal) : (f.div rm a b).flags < 32 := f.flags_withNans _ (f.flags_divVal _ _ _)

theorem Fmt.flags_sqrt (a : FVal) : (f.sqrt rm a).flags < 32 := f.flags_withNans _ (f.flags_sqrtVal _ _)

theorem Fmt.flags_fma (np nc ng : Bool) (a b d : FVal) : (f.fma rm np nc ng a b d).flags < 32 := by
  unfold Fmt.fma
  split
  · split
    · exact lt_32_ite _ (by decide) (by decide)
    · exact f.flags_invalid
  · apply f.flags_withNans
    split
    · exact f.flags_addVal _ _ _ _
    · exact f.flags_invalid

theorem Fmt.flags_convert (a : FVal) : (f.convert g rm a).flags < 32 := by
  cases a with
  | nan => exact lt_32_ite _ (by decide) (by decide)
  | inf => exact g.flags_roundVal _ _
  | fin => exact g.flags_roundVal _ _

theorem flags_toInteger (u : Bool) (a : FVal) : (toInteger rm u a).2 < 32 := by
  cases a with
  | nan => exact (by decide : fNV < 32)
  | inf => exact (by decide : fNV < 32)
  | fin s m e =>
    simp only [toInteger, apply_ite Prod.snd]
    exact lt_32_ite _ (by decide) (lt_32_ite _ (by decide) (lt_32_ite _ (by decide) (by decide)))

end

/-! ### The subnormal inputs of an instruction (R414, R480) -/

/-- Which of the inputs are subnormal, the first as bit 0. -/
def tinyBits : List (Fmt × Nat) → Nat
  | [] => 0
  | e :: l => 2 * tinyBits l + ofBool (e.1.subnormal e.2)

theorem subInfo_eq (l : List (Fmt × Nat)) : subInfo l = 2 * tinyBits l := by
  have hsum : ∀ (l : List (Fmt × Nat)) (k : Nat), (((List.range' k l.length).zip l).map fun e => if e.2.1.subnormal e.2.2 then 2 ^ (e.1 + 1) else 0).sum
      = 2 ^ (k + 1) * tinyBits l := by
    intro l
    induction l with
    | nil => exact fun k => rfl
    | cons e l ih =>
      intro k
      rw [List.length_cons, List.range'_succ, List.zip_cons_cons, List.map_cons, List.sum_cons, ih, tinyBits]
      cases e.1.subnormal e.2
      · simp [ofBool, pow_succ]; ring
      · simp [ofBool, pow_succ]; ring
  rw [subInfo, List.range_eq_range', hsum, pow_one]

theorem testBit_tinyBits (l : List (Fmt × Nat)) (i : Nat) : (tinyBits l).testBit i = l[i]?.any fun e => e.1.subnormal e.2 := by
  induction l generalizing i with
  | nil => simp [tinyBits]
  | cons e l ih =>
    cases i with
    | zero => cases h : e.1.subnormal e.2 <;> simp [tinyBits, ofBool, h]
    | succ i =>
      rw [tinyBits, Nat.testBit_succ, List.getElem?_cons_succ, ← ih]
      congr 1
      have := ofBool_lt (e.1.subnormal e.2)
      omega

theorem tinyBits_eq_zero_iff (l : List (Fmt × Nat)) : tinyBits l = 0 ↔ (l.any fun e => e.1.subnormal e.2) = false := by
  induction l with
  | nil => simp [tinyBits]
  | cons e l ih => cases h : e.1.subnormal e.2 <;> simp [tinyBits, ofBool, h, ih]

end Sys2Proof.Machine
end

section
/-! The floating-point instructions that round: their results, flags and the subnormal modes (R395, R402 to R404, R413 to R415). -/
namespace Sys2Proof.Machine

/-! ### Registers -/

theorem Core.f_wrF (q : Core) (r : RegNo) (v : Nat) : (q.wrF r v).f[r] = BitVec.ofNat 64 v := Vector.getElem_set_self _

theorem Core.kept_wrF (q : Core) (r : RegNo) (v : Nat) : q.Kept (q.wrF r v) [] [r] [] 0 := by
  refine ⟨⟨fun _ _ => rfl, fun _ _ _ => rfl⟩, fun n hn => ?_, fun _ _ => rfl, ⟨rfl, rfl⟩, ⟨rfl, rfl⟩, rfl⟩
  exact Vector.getElem_set_ne r.isLt n.isLt fun h => hn (by rw [Fin.ext h]; exact List.mem_singleton_self n)

/-- What a result's write leaves beside the registers. -/
structure Core.Put (q r : Core) (w f : List RegNo) : Prop where
  kept : q.Kept r w f [] 0
  pc : r.pc = q.pc
  fpNew : r.fpNew = q.fpNew

theorem Core.put_wrF (q : Core) (r : RegNo) (v : Nat) : q.Put (q.wrF r v) [] [r] := ⟨q.kept_wrF r v, rfl, rfl⟩

theorem Core.put_wr (q : Core) (r : RegNo) (v : Word) : q.Put (q.wr r v) [r] [] := by
  refine ⟨q.kept_wr r v, Core.pc_wr _ _ _, ?_⟩
  unfold Core.wr
  split
  · rfl
  · split
    · rfl
    · rfl

/-! ### An instruction under the subnormal rules -/

section
variable {s : State} {c : CoreId} {op : Nat} {body : State → State × IRes} {w fl : List RegNo} {ins : List (Fmt × Nat)} {F : List FVal → FRes}
  {put : Core → Nat → Core} {P : State → Prop} {r : FRes}

/-- Some input is subnormal. -/
def tinyIn (ins : List (Fmt × Nat)) : Bool := ins.any fun e => e.1.subnormal e.2

theorem arith_eq (hr : r = F (ins.map fun e => e.1.input e.2)) : arith s c op ins F put =
    if (s.core c).flush = false ∧ tinyIn ins = true then subnormalExc s c (2 * tinyBits ins)
    else if (s.core c).flush = false ∧ r.sub = true then subnormalExc s c 1
    else (s.updCore c fun q => (put q r.bits).raiseFlags op (r.flags ||| if tinyIn ins || r.sub then 3 else 0), .next) := by
  have htiny : (subInfo ins != 0) = tinyIn ins := by
    have h0 := tinyBits_eq_zero_iff ins
    rw [subInfo_eq]
    cases h : tinyIn ins
    · simp [h0.2 h]
    · have : tinyBits ins ≠ 0 := fun h' => absurd (h.symm.trans (h0.1 h')) (by decide)
      simp [this]
  subst hr
  unfold arith
  simp only [htiny, Bool.and_eq_true, Bool.not_eq_true']
  rw [subInfo_eq]
  rfl

theorem fpResult_run (hr : s.ready c = true) (hw : s.wired = true) (hg : gateKeep s c op = none)
    (hput : (s.core c).Put (put (s.core c) r.bits) w fl) (hF : r = F (ins.map fun e => e.1.input e.2)) (hflags : r.flags < 32)
    (hP : ∀ t, (t.core c).f = (put (s.core c) r.bits).f → (∀ n, (t.core c).rd n = (put (s.core c) r.bits).rd n) → P t)
    (hb : body s = arith s c op ins F put) : FpResult s (finish (run s c op body)) c op ins w fl r P := by
  rw [arith_eq hF] at hb
  refine ⟨fun h => ?completes, fun hflush htiny ht => ?traps⟩
  case completes =>
    have hno : ¬ ((s.core c).flush = false ∧ tinyIn ins = true) ∧ ¬ ((s.core c).flush = false ∧ r.sub = true) := by
      rcases h with h | ⟨h1, h2⟩
      · have hflush : (s.core c).flush = true := h
        simp [hflush]
      · have h1 : tinyIn ins = false := h1
        simp [h1, h2]
    rw [if_neg hno.1, if_neg hno.2] at hb
    have hst := (put (s.core c) r.bits).statusOnly_raiseFlags op (r.flags ||| if tinyIn ins || r.sub then 3 else 0)
    have hlt : (r.flags ||| if tinyIn ins || r.sub then 3 else 0) < 32 := Nat.or_lt_two_pow (n := 5) hflags (lt_32_ite _ (by decide) (by decide))
    refine ⟨_, fpFrame_run hr hw hg hput.kept hst hb, raised_run hw hlt hput.kept.fp hput.pc hput.fpNew rfl, hP _ ?_ fun n => ?_⟩
    all_goals obtain ⟨x, y, a, n', hst⟩ := hst
    · rw [f_settle, State.core_updCore, if_pos rfl, Core.f_retire, hst]
    · rw [rd_settle, State.core_updCore, if_pos rfl, Core.rd_retire, hst]
      rfl
  case traps =>
    have hflush : (s.core c).flush = false := hflush
    obtain ⟨info, hinfo, hfirst, hrest⟩ : ∃ info, body s = subnormalExc s c info ∧ info.testBit 0 = !tinyIn ins
        ∧ ∀ i, info.testBit (i + 1) = (ins[i]?.any fun e => e.1.subnormal e.2) := by
      by_cases hin : tinyIn ins = true
      · rw [if_pos ⟨hflush, hin⟩] at hb
        refine ⟨_, hb, by simp [hin], fun i => ?_⟩
        rw [← testBit_tinyBits, Nat.testBit_succ, Nat.mul_div_cancel_left _ (by decide)]
      · have hsub : r.sub = true := htiny.resolve_left hin
        rw [if_neg fun h => hin h.2, if_pos ⟨hflush, hsub⟩] at hb
        rw [Bool.not_eq_true] at hin
        refine ⟨_, hb, by rw [hin]; rfl, fun i => ?_⟩
        rw [← testBit_tinyBits, (tinyBits_eq_zero_iff ins).2 hin, Nat.testBit_succ]
    have hsn : (fun q : Core => q.setFcsw 5 5 1) = fun q => { q with fcsw := q.fcsw ||| 0x20#48 } := funext fun q => by
      rw [q.setFcsw_one (by decide), show BitVec.twoPow 48 5 = 0x20#48 by decide]
    rw [subnormalExc, hsn] at hinfo
    refine ⟨info, ?_, hfirst, hrest⟩
    have hraises := run_raises hr hg ht _ hinfo
    exact hraises

end
end Sys2Proof.Machine
end

section
/-! The instructions of classes 0x18 to 0x1A that round, and the whole statement on floating-point arithmetic (R395, R396, R402 to R404, R413 to R419). -/
namespace Sys2Proof.Machine

section
variable {s : State} {c : CoreId} {op : Nat} {fd rd : RegNo} {bad : Bool} {ins : List (Fmt × Nat)} {F : List FVal → FRes}
  {G : State → State × IRes} {r : FRes} {rm : BitVec 3}

theorem badRm_of_ne (h5 : rm ≠ 5) (h6 : rm ≠ 6) : badRm rm = false := by
  rw [badRm, beq_eq_false_iff_ne.2 h5, beq_eq_false_iff_ne.2 h6]
  rfl

theorem badRm_of_eq (h : rm = 5 ∨ rm = 6) : badRm rm = true := by
  rcases h with rfl | rfl
  · rfl
  · rfl

/-- A legal encoding whose result goes to a floating-point register. -/
theorem fpResult_wrF (hr : s.ready c = true) (hw : s.wired = true) (hg : gateKeep s c op = none) (hbad : bad = false)
    (hF : r = F (ins.map fun e => e.1.input e.2)) (hflags : r.flags < 32) (hb : G s = arith s c op ins F fun q v => q.wrF fd v) :
    FpResult s (finish (run s c op fun s => illegalWhen bad s (G s))) c op ins [] [fd] r fun t => (t.core c).f[fd] = BitVec.ofNat 64 r.bits :=
  fpResult_run hr hw hg (Core.put_wrF _ _ _) hF hflags (fun _ hf _ => (congrArg (·[fd]) hf).trans (Core.f_wrF _ _ _))
    ((illegalWhen_of_legal hbad).trans hb)

/-- One whose result goes to a general register. -/
theorem fpResult_wr (hr : s.ready c = true) (hw : s.wired = true) (hg : gateKeep s c op = none) (hbad : bad = false)
    (hF : r = F (ins.map fun e => e.1.input e.2)) (hflags : r.flags < 32) (hb : G s = arith s c op ins F fun q v => q.wr rd (BitVec.ofNat 48 v)) :
    FpResult s (finish (run s c op fun s => illegalWhen bad s (G s))) c op ins [rd] [] r fun t => (t.core c).rd rd = written rd (BitVec.ofNat 48 r.bits) :=
  fpResult_run hr hw hg (Core.put_wr _ _ _) hF hflags (fun _ _ hrd => (hrd rd).trans (Core.rd_wr_same _ _ _)) ((illegalWhen_of_legal hbad).trans hb)

end

theorem fpArithmeticFollowsTheFormats : Claims.FpArithmeticFollowsTheFormats := by
  intro s c fd fa fb fc rd p u rm hr hw hv q t o mode x v two put three int word
  have h18 : gateKeep s c 0x18 = none := gateKeep_dsc hv (by decide)
  have h19 : gateKeep s c 0x19 = none := gateKeep_dsc hv (by decide)
  have h1A : gateKeep s c 0x1A = none := gateKeep_dsc hv (by decide)
  refine ⟨fun h5 h6 => ?results, fun ht m4 m3 => ?illegal⟩
  case results =>
    have hrm := badRm_of_ne h5 h6
    have hlegal : (badRm rm || (0 : BitVec 4) != 0) = false := by rw [hrm]; rfl
    have hthree : ∀ i np nc ng, exec i s = finish (fpFma s c fd fa fb fc p rm np nc ng) → three i np nc ng := fun i np nc ng hi => by
      show FpResult _ _ _ _ _ _ _ _ _
      rw [hi]
      exact fpResult_wrF hr hw h19 hrm rfl (t.flags_fma _ _ _ _ _ _ _) rfl
    refine ⟨?add, ?sub, ?mul, ?div, ?sqrt, hthree _ _ _ _ rfl, hthree _ _ _ _ rfl, hthree _ _ _ _ rfl, hthree _ _ _ _ rfl,
      fun hp => ?cvt, ?fromWord, ?toWord⟩
    case add => exact fpResult_wrF hr hw h18 hlegal rfl (t.flags_add _ _ _) rfl
    case sub => exact fpResult_wrF hr hw h18 hlegal rfl (t.flags_sub _ _ _) rfl
    case mul => exact fpResult_wrF hr hw h18 hlegal rfl (t.flags_mul _ _ _) rfl
    case div => exact fpResult_wrF hr hw h18 hlegal rfl (t.flags_div _ _ _) rfl
    case sqrt => exact fpResult_wrF hr hw h18 (by rw [hrm]; rfl) rfl (t.flags_sqrt _ _) rfl
    case cvt =>
      refine fpResult_wrF hr hw h1A ?_ rfl (o.flags_convert _ _ _) rfl
      rw [hrm]
      rcases hp with rfl | rfl
      · rfl
      · cases p <;> rfl
    case fromWord => exact fpResult_wrF hr hw h1A (by rw [hrm]; rfl) rfl (t.flags_roundInt _ _ _ _) rfl
    case toWord => exact fpResult_wr hr hw h1A (by rw [hrm]; rfl) rfl (flags_toInteger _ _ _) rfl
  case illegal =>
    have hmode : rm = 5 ∨ rm = 6 → ∀ b, (badRm rm || b) = true := fun h b => by rw [badRm_of_eq h]; rfl
    refine ⟨fun hbad i hi => ?arithmetic, fun hfb => ?sqrt, fun hbad i hi => ?fma, fun hbad => ?cvt, fun hbad i hi => ?word⟩
    case arithmetic =>
      have hillegal : (badRm rm || m4 != 0) = true := by
        rw [← or_assoc] at hbad
        rcases hbad with h | h
        · exact hmode h _
        · rw [bne_iff_ne.2 h, Bool.or_true]
      simp only [List.mem_cons, List.not_mem_nil, or_false] at hi
      rcases hi with rfl | rfl | rfl | rfl | rfl
      · exact raises_dscIllegal hr hv ht (by decide) hillegal
      · exact raises_dscIllegal hr hv ht (by decide) hillegal
      · exact raises_dscIllegal hr hv ht (by decide) hillegal
      · exact raises_dscIllegal hr hv ht (by decide) hillegal
      · exact raises_dscIllegal hr hv ht (by decide) (by rw [hillegal]; rfl)
    case sqrt => exact raises_dscIllegal hr hv ht (by decide) (by rw [bne_iff_ne.2 hfb, Bool.or_true])
    case fma =>
      simp only [List.mem_cons, List.not_mem_nil, or_false] at hi
      rcases hi with rfl | rfl | rfl | rfl
      all_goals exact raises_dscIllegal hr hv ht (by decide) (badRm_of_eq hbad)
    case cvt =>
      refine raises_dscIllegal hr hv ht (by decide) ?_
      rw [← or_assoc] at hbad
      rcases hbad with h | h | h | ⟨h0, h⟩
      · rw [Bool.or_assoc, Bool.or_assoc, hmode h]
      · rw [bne_iff_ne.2 h, Bool.or_true, Bool.true_or]
      · rw [bne_iff_ne.2 h, Bool.or_true, Bool.true_or, Bool.true_or]
      · rw [h0, bne_iff_ne.2 h, Bool.not_false, Bool.true_and, Bool.or_true]
    case word =>
      have hillegal : (badRm rm || m3 != 0 || fb != 0) = true := by
        rw [← or_assoc] at hbad
        rcases hbad with h | h | h
        · rw [Bool.or_assoc, hmode h]
        · rw [bne_iff_ne.2 h, Bool.or_true]
        · rw [bne_iff_ne.2 h, Bool.or_true, Bool.true_or]
      simp only [List.mem_cons, List.not_mem_nil, or_false] at hi
      rcases hi with rfl | rfl
      all_goals exact raises_dscIllegal hr hv ht (by decide) hillegal

/-- Settles O58: the instructions follow their format's operations, these are rounded correctly, and the NaN rules hold. -/
theorem floatingPointArithmetic : Obligations.FloatingPointArithmetic :=
  ⟨fpArithmeticFollowsTheFormats, fpResultsAreCorrectlyRounded, fpNansAndInvalidOperations⟩

end Sys2Proof.Machine
end

section
/-! Floating-point loads, stores and moves (R251, R300, R401). -/
namespace Sys2Proof.Machine

/-! ### The address -/

/-- The displacement: IMM16 with its three low bits cleared. -/
theorem toNat_and_fpMask (i : BitVec 16) : (i &&& 0xFFF8#16).toNat = i.toNat / 8 * 8 := by
  have h : i &&& 0xFFF8#16 = (i >>> 3) <<< 3 := by
    apply BitVec.eq_of_getLsbD_eq
    intro j hj
    interval_cases j <;> simp
  have := i.isLt
  rw [h, BitVec.toNat_shiftLeft, BitVec.toNat_ushiftRight, Nat.shiftLeft_eq, Nat.shiftRight_eq_div_pow]
  omega

theorem eaFp_eq (base : Word) (i : BitVec 16) : eaFp base i = base + BitVec.ofInt 48 (i.toInt - i.toInt % 8) := by
  have hi := i.isLt
  have hm := toNat_and_fpMask i
  have hint : (i &&& 0xFFF8#16).toInt = i.toInt - i.toInt % 8 := by
    rw [BitVec.toInt_eq_toNat_cond, BitVec.toInt_eq_toNat_cond, hm]
    split <;> split <;> omega
  rw [eaFp, sext16, BitVec.signExtend, hint]

/-! ### How they end -/

section
variable {s u : State} {c : CoreId} {op n info : Nat} {body : State → State × IRes} {f : Core → Core} {w fl : List RegNo} {d : List (Fin 8)} {m : Word}
  {fd ra : RegNo} {i : BitVec 16} {va : Word} {e : Exc} {l : List Byte}

/-- An instruction with accesses that then changes its core alone. -/
theorem leaves_next (hr : s.ready c = true) (hw : s.wired = true) (hg : gateKeep s c op = none) (ha : Accessed s u)
    (hk : (u.core c).Kept (f (u.core c)) w fl d m) (hb : body s = (u.updCore c f, .next)) :
    let t := (u.updCore c fun q => (f q).retire q.hold.isSome (q.pc + 4#48)).settle
    finish (run s c op body) = .next t ∧ Advanced s t c ∧ Leaves s u t c w fl d m :=
  ⟨congrArg finish (run_next hr hg ha f hb), advanced_access hw ha f _, leaves_end hw ha f w fl d m _ _ hk.w hk.f hk.da hk.cr hk.fp hk.csw⟩

/-- One that writes a floating-point register. -/
theorem leaves_wrF (hr : s.ready c = true) (hw : s.wired = true) (hg : gateKeep s c op = none) (ha : Accessed s u) {v : Core → Nat}
    (hb : body s = (u.updCore c fun q => q.wrF fd (v q), .next)) :
    ∃ t, finish (run s c op body) = .next t ∧ (t.core c).f[fd] = BitVec.ofNat 64 (v (u.core c)) ∧ Advanced s t c ∧ Leaves s u t c [] [fd] [] 0 := by
  obtain ⟨hnext, hpc, hleaves⟩ := leaves_next hr hw hg ha ((u.core c).kept_wrF fd (v (u.core c))) hb
  refine ⟨_, hnext, ?_, hpc, hleaves⟩
  rw [f_settle, State.core_updCore, if_pos rfl, Core.f_retire]
  exact Core.f_wrF _ _ _

theorem fpLoad_misaligned (hr : s.ready c = true) (hg : gateKeep s c 0x1B = none) (hva : eaFp ((s.core c).rd ra) i = va) (hmis : va.toNat % n ≠ 0)
    (ht : (s.core c).tpend = false) : Raises s (finish (fpLoad s c fd ra i n info)) c 0x1B (Exc.at 3 0 info va.toNat) := by
  subst hva
  exact run_exc hr hg ht _ rfl _ (if_pos hmis)

theorem fpLoad_refused (hr : s.ready c = true) (hg : gateKeep s c 0x1B = none) (hva : eaFp ((s.core c).rd ra) i = va) (hal : va.toNat % n = 0)
    (hl : loadMem s c va n 4096 = (u, .inl e)) (ht : (s.core c).tpend = false) : RaisesAt s u (finish (fpLoad s c fd ra i n info)) c 0x1B e := by
  subst hva
  exact run_raises hr hg ht e ((if_neg (not_not_intro hal)).trans (by rw [hl]))

theorem fpLoad_loads (hr : s.ready c = true) (hw : s.wired = true) (hg : gateKeep s c 0x1B = none) (hva : eaFp ((s.core c).rd ra) i = va)
    (hal : va.toNat % n = 0) (hl : loadMem s c va n 4096 = (u, .inr l)) :
    ∃ t, finish (fpLoad s c fd ra i n info) = .next t ∧ (t.core c).f[fd] = BitVec.ofNat 64 (ofLe l) ∧ Advanced s t c ∧ Leaves s u t c [] [fd] [] 0 := by
  subst hva
  have hacc := accessed_loadMem s c (eaFp ((s.core c).rd ra) i) n 4096
  rw [hl] at hacc
  exact leaves_wrF (v := fun _ => ofLe l) hr hw hg hacc ((if_neg (not_not_intro hal)).trans (by rw [hl]))

theorem fpStore_misaligned (hr : s.ready c = true) (hg : gateKeep s c 0x1B = none) (hva : eaFp ((s.core c).rd ra) i = va) (hmis : va.toNat % n ≠ 0)
    (ht : (s.core c).tpend = false) : Raises s (finish (fpStore s c fd ra i n info)) c 0x1B (Exc.at 3 0 info va.toNat) := by
  subst hva
  exact run_exc hr hg ht _ rfl _ (if_pos hmis)

theorem fpStore_refused (hr : s.ready c = true) (hg : gateKeep s c 0x1B = none) (hva : eaFp ((s.core c).rd ra) i = va) (hal : va.toNat % n = 0)
    (hs : storeMem s c va 4096 (leBytes n (s.core c).f[fd].toNat) = (u, some e)) (ht : (s.core c).tpend = false) :
    RaisesAt s u (finish (fpStore s c fd ra i n info)) c 0x1B e := by
  subst hva
  have hs : storeMem s c (eaFp ((s.core c).rd ra) i) 4096 (leBytes n (s.core c).f[fd.val].toNat) = (u, some e) := hs
  exact run_raises hr hg ht e ((if_neg (not_not_intro hal)).trans (by rw [hs]))

/-- A store whose bytes are taken, by a core still free to retire it. -/
theorem fpStore_stores (hr : s.ready c = true) (hw : s.wired = true) (hg : gateKeep s c 0x1B = none) (hva : eaFp ((s.core c).rd ra) i = va)
    (hal : va.toNat % n = 0) (hs : storeMem s c va 4096 (leBytes n (s.core c).f[fd].toNat) = (u, none))
    (hfree : (u.pwr.fabricUp && u.coreFree c.val) = true) (hwu : u.wired = true) :
    ∃ t, finish (fpStore s c fd ra i n info) = .next t ∧ Advanced s t c ∧ Leaves u u t c [] [] [] 0 := by
  subst hva
  have hs : storeMem s c (eaFp ((s.core c).rd ra) i) 4096 (leBytes n (s.core c).f[fd.val].toNat) = (u, none) := hs
  have hrun : fpStore s c fd ra i n info = u.updCore c fun q => q.retire (s.core c).hold.isSome ((s.core c).pc + 4#48) := by
    rw [fpStore, run_ready hr hg]
    dsimp only
    rw [if_neg (not_not_intro hal), hs]
    exact if_pos hfree
  refine ⟨_, congrArg finish hrun, ?_, leaves_retired hwu _ _⟩
  rw [Advanced, pc_settle, State.core_updCore, if_pos rfl, Core.pc_retire]
  exact pc_add_four (wired_pc (State.wired_core hw c))

/-- One that changes nothing but what accesses may. -/
theorem fpStore_ends (hr : s.ready c = true) (hw : s.wired = true) (hg : gateKeep s c 0x1B = none) (hva : eaFp ((s.core c).rd ra) i = va)
    (hal : va.toNat % n = 0) (hacc : Accessed s u) (hs : storeMem s c va 4096 (leBytes n (s.core c).f[fd].toNat) = (u, none)) :
    Ends s u (u.updCore c fun q => q.retire q.hold.isSome (q.pc + 4#48)).settle (finish (fpStore s c fd ra i n info)) c ((s.core c).pc + 4#48) [] 0 := by
  subst hva
  have hs : storeMem s c (eaFp ((s.core c).rd ra) i) 4096 (leBytes n (s.core c).f[fd.val].toNat) = (u, none) := hs
  exact ends_same hr hw hg hacc ((if_neg (not_not_intro hal)).trans (by rw [hs]))

/-- A store to plain DRAM waits in the buffer. -/
theorem fpStore_dram (hr : s.ready c = true) (hw : s.wired = true) (hg : gateKeep s c 0x1B = none) (hva : eaFp ((s.core c).rd ra) i = va) (hn : 0 < n)
    (hal : va.toNat % n = 0) (hp : s.plainDram c va n = true) (hroom : s.sbRoom c 2 = true) :
    ∃ t, finish (fpStore s c fd ra i n info) = .next t ∧ Advanced s t c ∧ Leaves s s t c [] [] [] 0
      ∧ Buffered s t c va.toNat (leBytes n (s.core c).f[fd].toNat) := by
  have hl := leBytes_length n (s.core c).f[fd].toNat
  obtain ⟨hcover, -⟩ := partsCover_plainDram hp hn (show 0 < 4096 by decide)
  obtain ⟨hnext, hpc, hleaves⟩ := fpStore_ends (info := info) hr hw hg hva hal (accessed_updCore s c _ fun _ => rfl)
    (storeMem_room hp hn (by decide) hl (of_decide_eq_true hroom))
  refine ⟨_, hnext, hpc, { hleaves with rest := (restKept_updCore s c _).trans hleaves.rest }, _, ?_, tiles_storesOf hcover hl⟩
  rw [sb_settle, State.core_updCore, if_pos rfl, Core.sb_retire, State.core_updCore, if_pos rfl]

end

theorem fpLoadsStoresAndMoves : Claims.FpLoadsStoresAndMoves := by
  intro s c fd ra rd fa i m hr hw hv q va loads stores toW toF low
  have hg : gateKeep s c 0x1B = none := gateKeep_dsc hv (by decide)
  have hva : eaFp (q.rd ra) i = va := eaFp_eq _ _
  have hloads : ∀ j n info, 0 < n → exec j s = finish (fpLoad s c fd ra i n info) → loads j n info := fun j n info hn hj => by
    refine ⟨fun hmis ht => ?_, fun hal => ⟨fun u r hl => ?_, fun hq => ?_⟩⟩
    all_goals rw [hj]
    · exact fpLoad_misaligned hr hg hva hmis ht
    · cases r with
      | inl e => exact fpLoad_refused hr hg hva hal hl
      | inr l => exact fpLoad_loads hr hw hg hva hal hl
    · exact fpLoad_loads hr hw hg hva hal (loadMem_quietDram hq hn (by decide))
  have hstores : ∀ j n info, 0 < n → exec j s = finish (fpStore s c fd ra i n info) → stores j n info := fun j n info hn hj => by
    refine ⟨fun hmis ht => ?_, fun hal => ⟨fun u r hs => ?_, fun hp hroom => ?_⟩⟩
    all_goals rw [hj]
    · exact fpStore_misaligned hr hg hva hmis ht
    · cases r with
      | some e => exact fpStore_refused hr hg hva hal hs
      | none =>
        intro hfree hwu
        exact fpStore_stores hr hw hg hva hal hs hfree hwu
    · exact fpStore_dram hr hw hg hva hn hal hp hroom
  have htoW : ∀ j (v : Core → Nat), exec j s = finish (fpMove s c false fun q => q.wr rd (BitVec.ofNat 48 (v q))) → toW j (v q) := fun j v hj => by
    refine ⟨_, hj ▸ ends_next (u := s) hr hw hg (.refl s) _ [rd] 0 (Core.kept_wr _ _ _) rfl, ?_⟩
    rw [rd_settle, State.core_updCore, if_pos rfl, Core.rd_retire, Core.rd_wr_same]
  have htoF : ∀ j (v : Core → Nat), exec j s = finish (fpMove s c false fun q => q.wrF fd (v q)) → toF j (v q) := fun j v hj => by
    obtain ⟨t, hnext, hf, hpc, hleaves⟩ := leaves_wrF (v := v) (body := fun s => illegalWhen false s (s.updCore c fun q => q.wrF fd (v q), .next))
      hr hw hg (.refl s) rfl
    exact ⟨t, hj.trans hnext, hpc, hleaves, hf⟩
  refine ⟨hloads _ 4 4 (by decide) rfl, hloads _ 8 5 (by decide) rfl, hstores _ 4 4 (by decide) rfl, hstores _ 8 5 (by decide) rfl,
    htoW _ (fun q => q.f[fa].toNat % 2 ^ 32) rfl, htoW _ (fun q => q.f[fa].toNat / 2 ^ 32) rfl, htoF _ (fun q => (q.rd ra).toNat % 2 ^ 32) rfl,
    htoF _ (fun q => q.f[fd].toNat % 2 ^ 32 + (q.rd ra).toNat % 2 ^ 32 * 2 ^ 32) rfl, fun hm ht j hj => ?_⟩
  have hillegal : (m != 0) = true := bne_iff_ne.2 hm
  simp only [List.mem_cons, List.not_mem_nil, or_false] at hj
  rcases hj with rfl | rfl | rfl | rfl
  all_goals exact raises_dscIllegal hr hv ht (by decide) hillegal

end Sys2Proof.Machine
end

section
/-! FCSW and FTA: moves, FBAR, and the delivery of a pending trap (R401, R404, R405, R407, R409, R411, R412). -/
namespace Sys2Proof.Machine

section
variable {s : State} {c : CoreId} {op : Nat} {body : State → State × IRes}

/-- A pending trap is delivered at the boundaries of R405. -/
theorem runBar_of_tpend (hr : s.ready c = true) (hg : gateKeep s c op = none) (ht : (s.core c).tpend = true) : runBar s c op body = deliverTrap s c := by
  simp only [runBar, runWith, State.ready_canRun hr, State.ready_jobWait hr, State.ready_boundary hr, State.ready_dueEvent hr, hg, ht, Bool.not_true,
    Bool.not_false, Bool.and_self, Bool.or_self, Bool.false_and, Bool.false_eq_true, if_false, if_true]

theorem deliverTrap_eq (s : State) (c : CoreId) : deliverTrap s c =
    takeException (s.updCore c fun q => { q with fcsw := q.fcsw &&& ~~~0x200000#48, fpNew := 0 }) c
      ⟨0x0C, 0, (s.core c).fpNew, none, some (s.core c).ftaOp, false⟩ (s.core c).pc := by
  have hclear : (fun q : Core => { q.setFcsw 21 21 0 with fpNew := 0 }) = fun q => { q with fcsw := q.fcsw &&& ~~~0x200000#48, fpNew := 0 } :=
    funext fun q => by rw [q.setFcsw_zero (by decide), show BitVec.twoPow 48 21 = 0x200000#48 by decide]
  rw [deliverTrap, hclear]

end

/-- RM cleared. -/
theorem cswSet_rm_zero (v : Word) : cswSet v 18 16 0 = v &&& ~~~0x70000#48 := by
  have hmask : ∀ i < 48, (0x70000#48).getLsbD i = decide (16 ≤ i ∧ i < 19) := by decide
  apply BitVec.eq_of_getLsbD_eq
  intro i hi
  rw [getLsbD_cswSet _ _ _ _ _ (by decide), BitVec.getLsbD_and, BitVec.getLsbD_not, hmask i hi]
  by_cases h : 16 ≤ i ∧ i < 19
  · simp [h]
  · simp [h, hi]

/-- What WRFCSW writes, without a trap pending. -/
theorem Core.fcsw_moveFcsw {q : Core} (ht : q.tpend = false) (v : Word) :
    (q.moveFcsw v).fcsw &&& fcswBits = (if 4 < bitsOf v.toNat 18 16 then v &&& ~~~0x70000#48 else v) &&& 0x171F3F#48 := by
  have hpend : q.fcsw &&& 0x200000#48 = 0#48 := by
    have hmask : ∀ i < 48, (0x200000#48).getLsbD i = decide (i = 21) := by decide
    apply BitVec.eq_of_getLsbD_eq
    intro i hi
    rw [BitVec.getLsbD_and, hmask i hi]
    by_cases h : i = 21
    · subst h
      rw [show q.fcsw.getLsbD 21 = false from ht]
      rfl
    · simp [h]
  rw [Core.moveFcsw, cswSet_rm_zero]
  dsimp only
  rw [hpend, BitVec.zero_or, BitVec.and_assoc, show 0x171F3F#48 &&& fcswBits = 0x171F3F#48 by decide]

theorem Core.statusOnly_moveFcsw (q : Core) (v : Word) : q.StatusOnly (q.moveFcsw v) := ⟨_, _, _, _, rfl⟩

theorem fpStatusIsMovedAndTrapsDelivered : Claims.FpStatusIsMovedAndTrapsDelivered := by
  intro s c r m10 m15 hr hw hv q v w u
  have hg : gateKeep s c 0x1B = none := gateKeep_dsc hv (by decide)
  refine ⟨?rdfta, fun ht => ⟨?rdfcsw, ?wrfcsw, ?fbar, fun hm i hi => ?moveIllegal, fun hm => ?barIllegal⟩, fun ht i hi => ?delivered⟩
  case rdfta =>
    refine ⟨_, ends_next (u := s) hr hw hg (.refl s) (fun q => q.wr r q.fta) [r] 0 (Core.kept_wr _ _ _) rfl, ?_⟩
    rw [rd_settle, State.core_updCore, if_pos rfl, Core.rd_retire, Core.rd_wr_same]
  case rdfcsw =>
    have hends := ends_next (u := s) (body := fun s => illegalWhen false s (s.updCore c fun q => q.wr r q.fcsw, .next)) hr hw hg (.refl s) _ [r] 0
      (Core.kept_wr _ _ _) rfl
    rw [← runWith_run hr hg true false (.inr ht)] at hends
    refine ⟨_, hends, ?_⟩
    rw [rd_settle, State.core_updCore, if_pos rfl, Core.rd_retire, Core.rd_wr_same]
  case wrfcsw =>
    have hends := fpFrame_run (f := fun q => q.moveFcsw (q.rd r)) (body := fun s => illegalWhen false s (s.updCore c fun q => q.moveFcsw (q.rd r), .next))
      hr hw hg ((s.core c).kept_refl [] [] [] 0) ((s.core c).statusOnly_moveFcsw _) rfl
    rw [← runWith_run hr hg true false (.inr ht)] at hends
    refine ⟨_, hends, ?_, ?_⟩
    · rw [fcsw_settle, State.core_updCore, if_pos rfl, Core.fcsw_retire]
      exact Core.fcsw_moveFcsw ht v
    · rw [fta_settle, State.core_updCore, if_pos rfl, Core.fta_retire]
      rfl
  case fbar =>
    have hends := ends_next (u := s) (body := fun s => illegalWhen false s (s.updCore c id, .next)) hr hw hg (.refl s) id [] 0 (Core.kept_refl _ _ _ _ _) rfl
    rw [← runWith_run hr hg true false (.inr ht)] at hends
    exact ⟨_, hends⟩
  case moveIllegal =>
    have hillegal : (m10 != 0) = true := bne_iff_ne.2 hm
    have hbar : ∀ G : State → State × IRes,
        Raises s (finish (runBar s c 0x1B fun s => illegalWhen (m10 != 0) s (G s))) c 0x1B (Exc.plain 1 0 0) := fun G => by
      rw [runBar, runWith_run hr hg true false (.inr ht)]
      exact raises_dscIllegal hr hv ht (by decide) hillegal
    simp only [List.mem_cons, List.not_mem_nil, or_false] at hi
    rcases hi with rfl | rfl | rfl
    · exact hbar _
    · exact hbar _
    · exact raises_dscIllegal hr hv ht (by decide) hillegal
  case barIllegal =>
    show Raises s (finish (runBar s c 0x1B _)) c 0x1B _
    rw [runBar, runWith_run hr hg true false (.inr ht)]
    exact raises_dscIllegal hr hv ht (by decide) (bne_iff_ne.2 hm)
  case delivered =>
    have hbar : ∀ j body, exec j s = finish (runBar s c 0x1B body) →
        exec j s = .next (takeException u c ⟨0x0C, 0, q.fpNew, none, some q.ftaOp, false⟩ q.pc).settle :=
      fun j body hj => by rw [hj, runBar_of_tpend hr hg ht, deliverTrap_eq]; rfl
    simp only [List.mem_cons, List.not_mem_nil, or_false] at hi
    rcases hi with rfl | rfl | rfl
    all_goals exact hbar _ _ rfl
end Sys2Proof.Machine
end

section
/-! FCMP orders numbers as the keys of their encodings (R399). -/
namespace Sys2Proof.Machine

/-! ### Signed magnitudes -/

theorem relOf_of_lt {x y : Int} (h : x < y) : relOf x y = .lt := if_pos h

theorem relOf_of_gt {x y : Int} (h : y < x) : relOf x y = .gt := (if_neg h.not_gt).trans (if_neg h.ne')

theorem relOf_self (x : Int) : relOf x x = .eq := (if_neg (lt_irrefl x)).trans (if_pos rfl)

theorem signedMag_bounds (s : Bool) (p : Nat) : -(p : Int) ≤ signedMag s p ∧ signedMag s p ≤ p := by
  cases s
  · exact ⟨by rw [signedMag]; omega, le_rfl⟩
  · exact ⟨le_rfl, by rw [signedMag]; omega⟩

section
variable {p q : Nat}

/-- Signed magnitudes compare as the sign of the larger says. -/
theorem relOf_signedMag_of_gt (s t : Bool) (h : q < p) : relOf (signedMag s p) (signedMag t q) = if s then .lt else .gt := by
  obtain ⟨hlo, hhi⟩ := signedMag_bounds t q
  cases s
  · exact relOf_of_gt (show signedMag t q < (p : Int) by omega)
  · exact relOf_of_lt (show -(p : Int) < signedMag t q by omega)

theorem relOf_signedMag_of_lt (s t : Bool) (h : p < q) : relOf (signedMag s p) (signedMag t q) = if t then .gt else .lt := by
  obtain ⟨hlo, hhi⟩ := signedMag_bounds s p
  cases t
  · exact relOf_of_lt (show signedMag s p < (q : Int) by omega)
  · exact relOf_of_gt (show -(q : Int) < signedMag s p by omega)

/-- Those of one magnitude differ by their signs, but for zero. -/
theorem relOf_signedMag_self (s t : Bool) (p : Nat) :
    relOf (signedMag s p) (signedMag t p) = if p = 0 ∨ s = t then .eq else if s then .lt else .gt := by
  rcases Nat.eq_zero_or_pos p with rfl | hp
  · rw [if_pos (.inl rfl)]
    cases s
    · cases t <;> rfl
    · cases t <;> rfl
  · by_cases hst : s = t
    · rw [hst, relOf_self, if_pos (.inr rfl)]
    · rw [if_neg (not_or.2 ⟨hp.ne', hst⟩)]
      cases s
      · obtain rfl : t = true := by simpa using hst
        exact relOf_of_gt (show -(p : Int) < p by omega)
      · obtain rfl : t = false := by simpa using hst
        exact relOf_of_lt (show -(p : Int) < p by omega)

/-- Magnitudes in the same order compare in the same way under any signs. -/
theorem relOf_signedMag_congr (s t : Bool) {p' q' : Nat} (hlt : p < q ↔ p' < q') (hgt : q < p ↔ q' < p') (hzero : p = 0 ↔ p' = 0) :
    relOf (signedMag s p) (signedMag t q) = relOf (signedMag s p') (signedMag t q') := by
  rcases lt_trichotomy p q with h | h | h
  · rw [relOf_signedMag_of_lt s t h, relOf_signedMag_of_lt s t (hlt.1 h)]
  · obtain rfl : p' = q' := by omega
    subst h
    simp only [relOf_signedMag_self, hzero]
  · rw [relOf_signedMag_of_gt s t h, relOf_signedMag_of_gt s t (hgt.1 h)]

end

theorem flags_relOf (x y : Int) : (relOf x y).flags = ⟨decide (x < y), decide (x = y), decide (y ≤ x), false⟩ := by
  rw [relOf]
  rcases lt_trichotomy x y with h | h | h
  · simp [h, h.ne, not_le.2 h, FRel.flags]
  · simp [h, FRel.flags]
  · simp [h.le, h.ne', not_lt.2 h.le, FRel.flags]

section
variable {f : Fmt} {a b : Nat}

/-! ### Encodings without their sign -/

def Fmt.magnitude (f : Fmt) (b : Nat) : Nat := b % 2 ^ (f.width - 1)

theorem Fmt.key_eq : f.key b = signedMag (f.sign b) (f.magnitude b) := rfl

theorem Fmt.magnitude_eq (f : Fmt) (b : Nat) : f.magnitude b = 2 ^ f.frac * f.expField b + f.fracField b := by
  rw [Fmt.magnitude, Fmt.width_eq, show f.frac + (f.expo + 1) - 1 = f.frac + f.expo by omega, pow_add, Nat.mod_mul, add_comm]
  rfl

theorem Fmt.magnitude_lt (h : f.expField b < f.maxExp) : f.magnitude b < 2 ^ f.frac * f.maxExp := by
  have hm := f.fracField_lt b
  rw [Fmt.magnitude_eq]
  calc 2 ^ f.frac * f.expField b + f.fracField b < 2 ^ f.frac * (f.expField b + 1) := by rw [mul_add_one]; omega
    _ ≤ 2 ^ f.frac * f.maxExp := Nat.mul_le_mul_left _ h

theorem Fmt.magnitude_of_isInf (h : f.isInf b = true) : f.magnitude b = 2 ^ f.frac * f.maxExp := by
  rw [Fmt.isInf, Bool.and_eq_true, beq_iff_eq, beq_iff_eq] at h
  rw [Fmt.magnitude_eq, h.1, h.2, add_zero]

/-- A number's magnitude in units of the smallest subnormal. -/
def Fmt.units (f : Fmt) (b : Nat) : Nat := f.significand b * 2 ^ (max 1 (f.expField b) - 1)

theorem Fmt.units_lt (f : Fmt) (b : Nat) : f.units b < 2 ^ f.frac * 2 ^ f.expField b := by
  have hm := f.fracField_lt b
  rw [Fmt.units, Fmt.significand]
  split
  case isTrue h0 => simpa [h0] using hm
  case isFalse h0 =>
    rw [max_eq_right (by omega), show f.expField b = f.expField b - 1 + 1 by omega, pow_succ', ← mul_assoc, Nat.add_sub_cancel]
    exact Nat.mul_lt_mul_of_pos_right (by omega) (by positivity)

theorem Fmt.le_units (h : f.expField b ≠ 0) : 2 ^ f.frac * 2 ^ (f.expField b - 1) ≤ f.units b := by
  rw [Fmt.units, Fmt.significand, if_neg h, max_eq_right (by omega)]
  exact Nat.mul_le_mul_right _ (by omega)

theorem Fmt.units_lt_units (h : f.magnitude a < f.magnitude b) : f.units a < f.units b := by
  have ha := f.fracField_lt a
  have hb := f.fracField_lt b
  rw [Fmt.magnitude_eq, Fmt.magnitude_eq] at h
  rcases lt_trichotomy (f.expField a) (f.expField b) with hlt | heq | hgt
  · calc f.units a < 2 ^ f.frac * 2 ^ f.expField a := f.units_lt a
      _ ≤ 2 ^ f.frac * 2 ^ (f.expField b - 1) := Nat.mul_le_mul_left _ (Nat.pow_le_pow_right (by decide) (by omega))
      _ ≤ f.units b := Fmt.le_units (by omega)
  · rw [heq, Nat.add_lt_add_iff_left] at h
    rw [Fmt.units, Fmt.units, Fmt.significand, Fmt.significand, heq]
    refine Nat.mul_lt_mul_of_pos_right ?_ (by positivity)
    split <;> omega
  · have := Nat.mul_le_mul_left (2 ^ f.frac) hgt
    rw [Nat.succ_eq_add_one, mul_add_one] at this
    omega

theorem Fmt.units_eq_units (h : f.magnitude a = f.magnitude b) : f.units a = f.units b := by
  have ha : f.expField a = f.magnitude a / 2 ^ f.frac := by
    rw [Fmt.magnitude_eq, Nat.mul_add_div (by positivity), Nat.div_eq_of_lt (f.fracField_lt a), add_zero]
  have hb : f.expField b = f.magnitude b / 2 ^ f.frac := by
    rw [Fmt.magnitude_eq, Nat.mul_add_div (by positivity), Nat.div_eq_of_lt (f.fracField_lt b), add_zero]
  have hexp : f.expField a = f.expField b := by rw [ha, hb, h]
  have hfrac : f.fracField a = f.fracField b := by
    rw [Fmt.magnitude_eq, Fmt.magnitude_eq, hexp] at h
    exact Nat.add_left_cancel h
  rw [Fmt.units, Fmt.units, Fmt.significand, Fmt.significand, hexp, hfrac]

theorem Fmt.units_lt_units_iff : f.units a < f.units b ↔ f.magnitude a < f.magnitude b := by
  rcases lt_trichotomy (f.magnitude a) (f.magnitude b) with h | h | h
  · exact iff_of_true (Fmt.units_lt_units h) h
  · exact iff_of_false (Fmt.units_eq_units h).not_lt h.not_lt
  · exact iff_of_false (Fmt.units_lt_units h).not_gt h.not_gt

theorem Fmt.units_eq_zero_iff : f.units b = 0 ↔ f.magnitude b = 0 := by
  have hpow : 0 < 2 ^ f.frac := by positivity
  rw [Fmt.units, Fmt.magnitude_eq, Nat.mul_eq_zero, or_iff_left (by positivity), Fmt.significand]
  split
  case isTrue h0 => rw [h0, mul_zero, zero_add]
  case isFalse h0 =>
    have := Nat.mul_pos hpow (Nat.pos_of_ne_zero h0)
    omega

/-! ### The relation of two values -/

/-- Two numbers compare as their signed units do. -/
theorem Fmt.relVal_finite (ha : f.expField a < f.maxExp) (hb : f.expField b < f.maxExp) :
    relVal (f.decode a) (f.decode b) = relOf (f.key a) (f.key b) := by
  rw [Fmt.decode_finite ha, Fmt.decode_finite hb, relVal]
  obtain ⟨i, hi⟩ : ∃ i, max 1 (f.expField a) - 1 = i := ⟨_, rfl⟩
  obtain ⟨j, hj⟩ : ∃ j, max 1 (f.expField b) - 1 = j := ⟨_, rfl⟩
  have hea : (f.exponent a - min (f.exponent a) (f.exponent b)).toNat = i - min i j := by rw [Fmt.exponent, Fmt.exponent]; omega
  have heb : (f.exponent b - min (f.exponent a) (f.exponent b)).toNat = j - min i j := by rw [Fmt.exponent, Fmt.exponent]; omega
  have hscale : ∀ (t : Bool) (m k : Nat), signedMag t m * 2 ^ k = signedMag t (m * 2 ^ k) := fun t m k => by
    cases t
    · simp [signedMag]
    · simp [signedMag]
  have hua : f.significand a * 2 ^ (i - min i j) * 2 ^ min i j = f.units a := by
    rw [Fmt.units, hi, mul_assoc, ← pow_add, Nat.sub_add_cancel (min_le_left i j)]
  have hub : f.significand b * 2 ^ (j - min i j) * 2 ^ min i j = f.units b := by
    rw [Fmt.units, hj, mul_assoc, ← pow_add, Nat.sub_add_cancel (min_le_right i j)]
  have hpow : 0 < 2 ^ min i j := by positivity
  rw [hea, heb, hscale, hscale, Fmt.key_eq, Fmt.key_eq]
  refine relOf_signedMag_congr _ _ ?_ ?_ ?_
  · rw [← Fmt.units_lt_units_iff, ← hua, ← hub, Nat.mul_lt_mul_right hpow]
  · rw [← Fmt.units_lt_units_iff, ← hua, ← hub, Nat.mul_lt_mul_right hpow]
  · rw [← Fmt.units_eq_zero_iff, ← hua, Nat.mul_eq_zero (m := 2 ^ min i j), or_iff_left hpow.ne']

theorem Fmt.relVal_decode (he : 0 < f.expo) (ha : f.isNan a = false) (hb : f.isNan b = false) :
    relVal (f.decode a) (f.decode b) = relOf (f.key a) (f.key b) := by
  have hmax : f.maxExp ≠ 0 := by rw [f.maxExp_eq he]; omega
  have hinf : 2 ^ f.frac * f.maxExp ≠ 0 := Nat.mul_ne_zero (by positivity) hmax
  have hkind : ∀ {x}, f.isNan x = false → f.isInf x = true ∨ f.expField x < f.maxExp := fun {x} hx => by
    have hreads := f.reads he x
    generalize f.decode x = v at hreads
    cases hreads with
    | nan hnan => exact absurd (hnan.symm.trans hx) (by decide)
    | inf _ hinf => exact .inl hinf
    | fin _ _ _ _ _ hfin => exact .inr hfin
  rcases hkind ha with hia | hfa
  · rcases hkind hb with hib | hfb
    · rw [Fmt.decode_of_isInf he hia, Fmt.decode_of_isInf he hib, Fmt.key_eq, Fmt.key_eq, Fmt.magnitude_of_isInf hia, Fmt.magnitude_of_isInf hib,
        relOf_signedMag_self, relVal]
      simp only [hinf, false_or]
    · rw [Fmt.decode_of_isInf he hia, Fmt.decode_finite hfb, Fmt.key_eq, Fmt.key_eq, Fmt.magnitude_of_isInf hia,
        relOf_signedMag_of_gt _ _ (Fmt.magnitude_lt hfb)]
      rfl
  · rcases hkind hb with hib | hfb
    · rw [Fmt.decode_of_isInf he hib, Fmt.decode_finite hfa, Fmt.key_eq, Fmt.key_eq, Fmt.magnitude_of_isInf hib,
        relOf_signedMag_of_lt _ _ (Fmt.magnitude_lt hfa)]
      rfl
    · exact Fmt.relVal_finite hfa hfb

/-- A comparison's flags (R399). -/
theorem Fmt.flags_relVal_decode (he : 0 < f.expo) : (relVal (f.decode a) (f.decode b)).flags =
    if f.isNan a || f.isNan b then ⟨false, false, false, true⟩
    else ⟨decide (f.key a < f.key b), decide (f.key a = f.key b), decide (f.key b ≤ f.key a), false⟩ := by
  have hnan : ∀ {x}, f.isNan x = true → ∃ s m, f.decode x = .nan s m := fun {x} hx => by
    have hreads := f.reads he x
    generalize f.decode x = v at hreads
    cases hreads with
    | nan => exact ⟨_, _, rfl⟩
    | inf h => exact absurd (hx.symm.trans h) (by decide)
    | fin _ _ h => exact absurd (hx.symm.trans h) (by decide)
  cases hna : f.isNan a
  · cases hnb : f.isNan b
    · rw [Fmt.relVal_decode he hna hnb, flags_relOf]
      rfl
    · obtain ⟨s, m, hdb⟩ := hnan hnb
      rw [hdb]
      cases f.decode a <;> rfl
  · obtain ⟨s, m, hda⟩ := hnan hna
    rw [hda]
    rfl

/-- NV for a signalling NaN, or with `s` for any. -/
theorem Fmt.cmpFlags_decode (hf : 0 < f.frac) (he : 0 < f.expo) (ha : a < 2 ^ f.width) (hb : b < 2 ^ f.width) (s : Bool) :
    f.cmpFlags s (f.decode a) (f.decode b) = if (s && (f.isNan a || f.isNan b)) || f.isSignalling a || f.isSignalling b then 16 else 0 := by
  have hnanOf := f.nanOf_map_decode hf he [a, b] (by simpa using ⟨ha, hb⟩)
  rw [List.map_cons, List.map_cons, List.map_nil, List.any_cons, List.any_cons, List.any_nil, Bool.or_false] at hnanOf
  unfold Fmt.cmpFlags
  rw [hnanOf]
  by_cases h : f.isNan a = true ∨ f.isNan b = true
  · rw [find_isNan_pair h, Bool.or_eq_true_iff.2 h, Bool.and_true, Bool.or_assoc]
    rfl
  · rw [not_or, Bool.not_eq_true, Bool.not_eq_true] at h
    simp [Fmt.isSignalling, h.1, h.2]

end
end Sys2Proof.Machine
end

section
/-! Comparisons, classes and sign operations, and the whole statement on moves and status (R395, R397, R399, R400, R416). -/
namespace Sys2Proof.Machine

/-! ### The sign bit replaced (R397) -/

section
variable {a b i : Nat}

theorem testBit_withBit (v : Bool) (j : Nat) : (withBit a i v).testBit j = if j = i then v else a.testBit j := by
  rw [withBit, testBit_putBits]
  by_cases h : j = i
  · subst h
    rw [if_pos (by omega), if_pos rfl, Nat.sub_self]
    cases v <;> rfl
  · rw [if_neg (by omega), if_neg h]

theorem withBit_self : withBit a i (a.testBit i) = a := by
  apply Nat.eq_of_testBit_eq
  intro j
  rw [testBit_withBit]
  split
  case isTrue h => rw [h]
  case isFalse => rfl

theorem withBit_not : withBit a i (!a.testBit i) = a ^^^ 2 ^ i := by
  apply Nat.eq_of_testBit_eq
  intro j
  rw [testBit_withBit, Nat.testBit_xor, Nat.testBit_two_pow]
  split
  case isTrue h => simp [h]
  case isFalse h => simp [Ne.symm h]

/-- The top bit of a number replaced by that of another. -/
theorem withBit_top (ha : a < 2 ^ (i + 1)) (v : Bool) : withBit a i v = a % 2 ^ i + ofBool v * 2 ^ i := by
  apply Nat.eq_of_testBit_eq
  intro j
  rw [testBit_withBit, add_comm, mul_comm, Nat.testBit_two_pow_mul_add _ (Nat.mod_lt _ (by positivity)), Nat.testBit_mod_two_pow]
  rcases lt_trichotomy j i with h | rfl | h
  · simp [h, h.ne]
  · cases v <;> simp [ofBool]
  · have hhigh : a.testBit j = false := Nat.testBit_lt_two_pow (lt_of_lt_of_le ha (Nat.pow_le_pow_right (by decide) h))
    have hpow : 2 ^ 1 ≤ 2 ^ (j - i) := Nat.pow_le_pow_right (by decide) (by omega)
    have hv : (ofBool v).testBit (j - i) = false := Nat.testBit_lt_two_pow ((ofBool_lt v).trans_le hpow)
    simp [h.ne', not_lt.2 h.le, hhigh, hv]

theorem ofBool_testBit_top (hb : b < 2 ^ (i + 1)) : ofBool (b.testBit i) = b / 2 ^ i := by
  have hlt : b / 2 ^ i < 2 := Nat.div_lt_of_lt_mul (by rwa [← pow_succ])
  rw [Nat.testBit_eq_decide_div_mod_eq]
  generalize b / 2 ^ i = n at hlt
  interval_cases n <;> rfl

end

/-! ### The class mask (R400) -/

section
variable {f : Fmt} {b : Nat}

/-- The bit that FCLASS sets. -/
def Fmt.classBit (f : Fmt) (b : Nat) : Nat :=
  if f.isNan b then (if f.isSignalling b then 8 else 9)
  else if f.sign b then (if f.isInf b then 0 else if f.isZero b then 3 else if f.subnormal b then 2 else 1)
  else if f.isInf b then 7 else if f.isZero b then 4 else if f.subnormal b then 5 else 6

theorem Fmt.classOf_eq (hf : 0 < f.frac) (he : 0 < f.expo) : f.classOf b = 2 ^ f.classBit b := by
  have hreads := f.reads he b
  rw [Fmt.classOf, Fmt.classBit]
  generalize f.decode b = v at hreads
  cases hreads with
  | nan hnan =>
    dsimp only
    rw [Fmt.signalling_eq hf hnan, hnan]
    cases f.isSignalling b <;> rfl
  | inf hnan hinf =>
    dsimp only
    rw [hnan, hinf]
    cases f.sign b <;> rfl
  | fin m d hnan hinf hzero =>
    dsimp only
    rw [hnan, hinf]
    by_cases h0 : m = 0
    · rw [if_pos h0, hzero.2 h0]
      cases f.sign b <;> rfl
    · rw [if_neg h0, Bool.eq_false_iff.2 (mt hzero.1 h0)]
      cases f.sign b
      · cases f.subnormal b <;> rfl
      · cases f.subnormal b <;> rfl

end

/-! ### The end of a comparison -/

/-- An instruction that sets N, Z, C and V and raises flags. -/
theorem fpFlags_run {s : State} {c : CoreId} {op fl : Nat} {body : State → State × IRes} {x : Nzcv} (hr : s.ready c = true) (hw : s.wired = true)
    (hg : gateKeep s c op = none) (hfl : fl < 32) (hb : body s = (s.updCore c fun q => (q.setFlags x).raiseFlags op fl, .next)) :
    ∃ t, FpFrame s t (finish (run s c op body)) c [] [] flagBits ∧ Raised s t c fl ∧ (t.core c).nzcv = x := by
  have hst := ((s.core c).setFlags x).statusOnly_raiseFlags op fl
  refine ⟨_, fpFrame_run hr hw hg ((s.core c).kept_setFlags x) hst hb, raised_run (g := (s.core c).setFlags x) hw hfl ⟨rfl, rfl⟩ rfl rfl rfl, ?_⟩
  obtain ⟨y, z, n, k, hst⟩ := hst
  rw [nzcv_settle, State.core_updCore, if_pos rfl, Core.nzcv_retire, hst]
  exact (s.core c).nzcv_setFlags x

/-! ### The statements -/

theorem fpComparesAndMovesSigns : Claims.FpComparesAndMovesSigns := by
  intro s c fd fa fb rd p sg hr hw hv q t a b nan top cls signed
  obtain ⟨hf, he2⟩ := fmtOf_ok p
  have he : 0 < t.expo := by
    show 0 < (fmtOf p).expo
    omega
  have hg : gateKeep s c 0x1A = none := gateKeep_dsc hv (by decide)
  have hwidth : t.width = t.width - 1 + 1 := by rw [Fmt.width]; omega
  have ha : a < 2 ^ t.width := Nat.mod_lt _ (by positivity)
  have hb : b < 2 ^ t.width := Nat.mod_lt _ (by positivity)
  have hsign : ∀ i (g : Core → Fmt → Bool → Bool) r, exec i s = finish (fpSign s c fd fa p 0 0 g) →
      withBit a (t.width - 1) (g q t (t.sign a)) = r → signed i r := fun i g r hi hr' => by
    obtain ⟨u, hnext, hfd, hpc, hleaves⟩ := leaves_wrF (u := s) (op := 0x1A) (fd := fd)
      (v := fun q => withBit (q.rdF t fa) (t.width - 1) (g q t (t.sign (q.rdF t fa))))
      (body := fun s => illegalWhen false s (s.updCore c fun q => q.wrF fd (withBit (q.rdF t fa) (t.width - 1) (g q t (t.sign (q.rdF t fa)))), .next))
      hr hw hg (.refl s) rfl
    exact ⟨u, hleaves, hi.trans hnext, hpc, by rw [hfd, ← hr']; rfl⟩
  refine ⟨?cmp, ?cls, hsign _ (fun _ _ b => b) _ rfl withBit_self, hsign _ (fun _ _ b => !b) _ rfl withBit_not,
    hsign _ (fun _ _ _ => false) _ rfl ?abs, hsign _ (fun q t _ => t.sign (q.rdF t fb)) _ rfl ?copy, fun ht rm m3 m4 m2 => ?illegal⟩
  case cmp =>
    have hflags := Fmt.cmpFlags_decode hf he ha hb sg
    have hlt : t.cmpFlags sg (t.decode a) (t.decode b) < 32 := by
      rw [hflags]
      exact lt_32_ite _ (by decide) (by decide)
    have hends : ∃ u, FpFrame s u (exec (.fcmp c 0 fa fb p sg 0 0) s) c [] [] flagBits ∧ Raised s u c (t.cmpFlags sg (t.decode a) (t.decode b))
        ∧ (u.core c).nzcv = (relVal (t.decode a) (t.decode b)).flags := fpFlags_run hr hw hg hlt rfl
    obtain ⟨u, hframe, hraised, hnzcv⟩ := hends
    exact ⟨u, hframe, (congrArg (Raised s u c) hflags).mp hraised, hnzcv.trans (Fmt.flags_relVal_decode he)⟩
  case cls =>
    have hcls : t.classOf a = 2 ^ cls := Fmt.classOf_eq hf he
    refine ⟨_, ends_next (u := s) hr hw hg (.refl s) (fun q => q.wr rd (BitVec.ofNat 48 (t.classOf (q.rdF t fa)))) [rd] 0 (Core.kept_wr _ _ _) rfl, ?_⟩
    rw [rd_settle, State.core_updCore, if_pos rfl, Core.rd_retire, Core.rd_wr_same, ← hcls]
    rfl
  case abs =>
    rw [withBit_top (by rwa [← hwidth])]
    show a % top + 0 * top = a % top
    rw [zero_mul, add_zero]
  case copy =>
    rw [withBit_top (by rwa [← hwidth])]
    show a % top + ofBool (t.sign b) * top = a % top + b / top * top
    rw [show ofBool (t.sign b) = b / top from ofBool_testBit_top (by rwa [← hwidth])]
  case illegal =>
    refine ⟨fun hbad => ?_, fun hbad => ?_, fun hbad i hi => ?_⟩
    · exact raises_dscIllegal hr hv ht (by decide) (by rwa [Bool.or_eq_true, Bool.or_eq_true, bne_iff_ne, bne_iff_ne, bne_iff_ne, or_assoc])
    · exact raises_dscIllegal hr hv ht (by decide) (by rwa [Bool.or_eq_true, Bool.or_eq_true, bne_iff_ne, bne_iff_ne, bne_iff_ne, or_assoc])
    · have hillegal : (rm != 0 || m2 != 0) = true := by rwa [Bool.or_eq_true, bne_iff_ne, bne_iff_ne]
      simp only [List.mem_cons, List.not_mem_nil, or_false] at hi
      rcases hi with rfl | rfl | rfl | rfl
      all_goals exact raises_dscIllegal hr hv ht (by decide) hillegal

/-- Settles O59: numbers compare as their encodings' magnitudes and signs do, loads and stores end as their accesses do, and a pending trap is
delivered at the moves of FCSW and at FBAR. -/
theorem floatingPointMovesAndStatus : Obligations.FloatingPointMovesAndStatus :=
  ⟨fpComparesAndMovesSigns, fpLoadsStoresAndMoves, fpStatusIsMovedAndTrapsDelivered⟩

end Sys2Proof.Machine
end
